-- ==== Sys2Proof/Word.lean ====
section
/-! DEFINITION. The word type of the machine (02 R78: every value a move carries has 64 bits), bytes, and the
placing of bytes in a number (00 R3: little-endian, bit 0 least significant). -/

namespace Sys2Proof

/-- The 64-bit value that a move carries. -/
abbrev Word := BitVec 64

/-- One byte of memory. -/
abbrev Byte := BitVec 8

end Sys2Proof
end

