-- ==== Sys2Proof/Syntax.lean ====
section
/-! DEFINITION. The instruction language: ports, moves, words (spec 02) and the ONE inductive `Instr`, a
constructor for each row of the operation table. A row with an encoding is the 32-bit word whose one move
triggers that operation; a row without one is a step of an engine or of the world outside (spec 95). -/

namespace Sys2Proof

/-- The operations of the control unit, in trigger-code order (02 R99; 04 R138). -/
inductive CtlOp where
  | jmp | bra | call | ret | jtab | bre | sbwait | drain | yield | wait | done | trap | rett | setrm | setxb
  | setovh | watch | unwatch | brk
  deriving DecidableEq, Repr

/-- The operations of the control unit by their place in trigger-code order. -/
def CtlOp.all : List CtlOp :=
  [.jmp, .bra, .call, .ret, .jtab, .bre, .sbwait, .drain, .yield, .wait, .done, .trap, .rett, .setrm, .setxb,
   .setovh, .watch, .unwatch, .brk]

/-- The operations of an integer unit, in trigger-code order (02 R99; 04 R144). -/
inductive IaOp where
  | add | sub | and | or | xor | andn | shl | shr | sar | rol | min | max | minu | maxu | eq | ne | lt | ltu
  | le | leu | sext | zext | clz | ctz | popc | bswap | adds | subs | bfx | pass
  deriving DecidableEq, Repr

/-- The operations of an integer unit by their place in trigger-code order. -/
def IaOp.all : List IaOp :=
  [.add, .sub, .and, .or, .xor, .andn, .shl, .shr, .sar, .rol, .min, .max, .minu, .maxu, .eq, .ne, .lt, .ltu,
   .le, .leu, .sext, .zext, .clz, .ctz, .popc, .bswap, .adds, .subs, .bfx, .pass]

/-- The operations of the multiplier/divider, in trigger-code order (02 R99; 04 R145). -/
inductive ImOp where
  | mul | mulh | mulhu | mad | div | divu | rem | remu
  deriving DecidableEq, Repr

/-- The operations of the multiplier/divider by their place in trigger-code order. -/
def ImOp.all : List ImOp :=
  [.mul, .mulh, .mulhu, .mad, .div, .divu, .rem, .remu]

/-- The operations of the scalar float unit, in trigger-code order (02 R99; 06 R205). -/
inductive FsOp where
  | fadd | fsub | fmul | fma | fmin | fmax | fdiv | fsqrt | feq | flt | fle | fcvti | fcvtf | fclass | fexp2
  | flog2 | frcp | frsq | fsigm
  deriving DecidableEq, Repr

/-- The operations of the scalar float unit by their place in trigger-code order. -/
def FsOp.all : List FsOp :=
  [.fadd, .fsub, .fmul, .fma, .fmin, .fmax, .fdiv, .fsqrt, .feq, .flt, .fle, .fcvti, .fcvtf, .fclass, .fexp2,
   .flog2, .frcp, .frsq, .fsigm]

/-- The operations of the local load/store unit, in trigger-code order (02 R99; 05 R180, R182). -/
inductive LsOp where
  | ldb | ldbu | ldh | ldhu | ldw | ldwu | ldd | stb | sth | stw | std | ldf | stf
  deriving DecidableEq, Repr

/-- The operations of the local load/store unit by their place in trigger-code order. -/
def LsOp.all : List LsOp :=
  [.ldb, .ldbu, .ldh, .ldhu, .ldw, .ldwu, .ldd, .stb, .sth, .stw, .std, .ldf, .stf]

/-- The operations of a stream walker, in trigger-code order (02 R99; 05 R190 to R194). -/
inductive SwOp where
  | bind | feeda | feedb | skip | rewind | stop
  deriving DecidableEq, Repr

/-- The operations of a stream walker by their place in trigger-code order. -/
def SwOp.all : List SwOp :=
  [.bind, .feeda, .feedb, .skip, .rewind, .stop]

/-- The operations of the time unit, in trigger-code order (02 R99; 10 R382). -/
inductive TmOp where
  | arm | cancel
  deriving DecidableEq, Repr

/-- The operations of the time unit by their place in trigger-code order. -/
def TmOp.all : List TmOp :=
  [.arm, .cancel]

/-- The operations of the weir interface, in trigger-code order (02 R99; 10 R379). -/
inductive WrOp where
  | arm | arrive | query | disarm
  deriving DecidableEq, Repr

/-- The operations of the weir interface by their place in trigger-code order. -/
def WrOp.all : List WrOp :=
  [.arm, .arrive, .query, .disarm]

/-- The operations of the vector engine, in trigger-code order (02 R99; 06 R213 to R224). -/
inductive VxOp where
  | vadd | vsub | vmul | vfma | vfms | vfnma | vmin | vmax | vabs | vneg | vdiv | vsqrt | vrcp | vrsq | vexp2
  | vlog2 | vsigm | viadd | visub | vimul | vimin | vimax | viminu | vimaxu | vand | vor | vxor | vshl | vshr
  | vsar | vfeq | vflt | vfle | vieq | vilt | mlog | vcvt | vpack | vunpack | vmov | vsel | vbcast | vidx
  | vperm | vslide | vext | vins | vfsum | vfrmax | vfrmin | visum | vld | vst | vldx | vstx
  deriving DecidableEq, Repr

/-- The operations of the vector engine by their place in trigger-code order. -/
def VxOp.all : List VxOp :=
  [.vadd, .vsub, .vmul, .vfma, .vfms, .vfnma, .vmin, .vmax, .vabs, .vneg, .vdiv, .vsqrt, .vrcp, .vrsq,
   .vexp2, .vlog2, .vsigm, .viadd, .visub, .vimul, .vimin, .vimax, .viminu, .vimaxu, .vand, .vor, .vxor,
   .vshl, .vshr, .vsar, .vfeq, .vflt, .vfle, .vieq, .vilt, .mlog, .vcvt, .vpack, .vunpack, .vmov, .vsel,
   .vbcast, .vidx, .vperm, .vslide, .vext, .vins, .vfsum, .vfrmax, .vfrmin, .visum, .vld, .vst, .vldx, .vstx]

/-- The operations of the matrix engine, in trigger-code order (02 R99; 07 R237). -/
inductive MxOp where
  | cfg | mma | mmaz | zero | ldscale | rdacc | wracc | ffl | stat
  deriving DecidableEq, Repr

/-- The operations of the matrix engine by their place in trigger-code order. -/
def MxOp.all : List MxOp :=
  [.cfg, .mma, .mmaz, .zero, .ldscale, .rdacc, .wracc, .ffl, .stat]

/-- The operations of the handover interface, in trigger-code order (02 R99; 08 R266). -/
inductive CapOp where
  | send | recv | split | join | drop | cut | fuse | alloc | free | info | narrow | sub | unsub | mcast
  | bindmb | closemb | peek
  deriving DecidableEq, Repr

/-- The operations of the handover interface by their place in trigger-code order. -/
def CapOp.all : List CapOp :=
  [.send, .recv, .split, .join, .drop, .cut, .fuse, .alloc, .free, .info, .narrow, .sub, .unsub, .mcast,
   .bindmb, .closemb, .peek]

/-- The operations of the copy engine, in trigger-code order (02 R99; 09 R306). -/
inductive CpOp where
  | copy | copys | fill | gath | sig | stat
  deriving DecidableEq, Repr

/-- The operations of the copy engine by their place in trigger-code order. -/
def CpOp.all : List CpOp :=
  [.copy, .copys, .fill, .gath, .sig, .stat]

/-- The operations of the remote memory unit, in trigger-code order (02 R99; 09 R324). -/
inductive RmOp where
  | rld | rst | racc | rfop | batch | unbatch
  deriving DecidableEq, Repr

/-- The operations of the remote memory unit by their place in trigger-code order. -/
def RmOp.all : List RmOp :=
  [.rld, .rst, .racc, .rfop, .batch, .unbatch]

/-- The operations of the scheduler interface, in trigger-code order (02 R99; 10 R367). -/
inductive SqOp where
  | launch | task | dec | call | fillf | spawn | tickets | gang
  deriving DecidableEq, Repr

/-- The operations of the scheduler interface by their place in trigger-code order. -/
def SqOp.all : List SqOp :=
  [.launch, .task, .dec, .call, .fillf, .spawn, .tickets, .gang]

/-- The operations of the trace unit, in trigger-code order (02 R99; 11 R421). -/
inductive TrOp where
  | relaunch | mark | slot | unslot | info
  deriving DecidableEq, Repr

/-- The operations of the trace unit by their place in trigger-code order. -/
def TrOp.all : List TrOp :=
  [.relaunch, .mark, .slot, .unslot, .info]

/-- What a trigger target starts: the operation, with the unit where there are several (02 R98, R99). -/
inductive Op where
  | ctl (o : CtlOp)
  | ia (u : BitVec 1) (o : IaOp)
  | im (o : ImOp)
  | fs (o : FsOp)
  | ls (o : LsOp)
  | sw (n : BitVec 2) (o : SwOp)
  | tm (o : TmOp)
  | wr (o : WrOp)
  | vx (o : VxOp)
  | mx (o : MxOp)
  | cap (o : CapOp)
  | cp (o : CpOp)
  | rm (o : RmOp)
  | sq (o : SqOp)
  | tr (o : TrOp)
  deriving DecidableEq, Repr

/-- An operand or capability-select latch (02 R98). -/
inductive Latch where
  | ctlO | ia0O | ia1O | imO | imP | fsO | fsP | lsK | lsO | swK (n : BitVec 2) | tmO | wrO | vxO | mxO
  | capK | capO | cpK | cpO | rmK | rmO | sqO | trK | trO
  deriving DecidableEq, Repr

/-- A move's target (02 R98). A reserved code stays in the word: the word faults with 0x02 when it issues. -/
inductive Target where
  | g (r : BitVec 6)
  | q (r : BitVec 3)
  | latch (l : Latch)
  | trig (op : Op)
  | reserved (c : BitVec 11)
  deriving DecidableEq, Repr

/-- A result port that an origin reads (02 R100). -/
inductive Port where
  | ia0R | ia1R | imR | imH | fsR | fsX | lsR | tmR | wrR | vxR | mxR | capR | cpR | rmR | sqR | trR
  deriving DecidableEq, Repr

/-- A move's origin (02 R77, R100). A reserved code stays in the word: the word faults with 0x03. -/
inductive Origin where
  | g (r : BitVec 6)
  | q (r : BitVec 3)
  | sb (r : BitVec 3)
  | lit | pc | dt | wid | cid | rmode | xb | lnk | epc | cause
  | port (p : Port)
  | swR (n : BitVec 2)
  | swE (n : BitVec 2)
  | imm (v : BitVec 10)
  | reserved (c : BitVec 10)
  deriving DecidableEq, Repr

/-- A move (02 R76): guard, origin, target, scoreboard field. -/
structure Move where
  guard : BitVec 4
  org : Origin
  tgt : Target
  sb : BitVec 4
  deriving DecidableEq, Repr

/-- The long move of a BI word (02 R73): a 42-bit immediate in place of the origin. -/
structure LongMove where
  guard : BitVec 4
  imm : BitVec 42
  tgt : Target
  sb : BitVec 4
  deriving DecidableEq, Repr

/-- A Sarzel word that is not one of the single-trigger 32-bit words of the table (02 R70 to R74). Words that
break an encoding rule are words too: they fault with 0x01 when they issue. -/
inductive SWord where
  /-- L = 0b00 with a move that is no trigger. -/
  | one (m : Move)
  /-- L = 0b10: one move and a literal. -/
  | oneLit (m : Move) (lit : Word)
  /-- Form B3 (R72); the literal when L = 0b11. -/
  | b3 (m1 m2 m3 : Move) (ls : BitVec 2) (lit : Option Word)
  /-- Form BI (R73): long move, ordinary move, bit 95; the literal when L = 0b11. -/
  | bi (l : LongMove) (m : Move) (top : BitVec 1) (lit : Option Word)
  /-- Forms 0b10 and 0b11, illegal (R72): the form's low bit and bits 95:4. -/
  | bad (form : BitVec 1) (rest : BitVec 92) (lit : Option Word)
  deriving DecidableEq, Repr

/-- The operand fields of a single-trigger word: everything but its target (02 R76). -/
structure Arg where
  guard : BitVec 4
  org : Origin
  sb : BitVec 4
  deriving DecidableEq, Repr

/-- What the error code of a memory finds in an access (01 R52, R65): an input from the world. -/
inductive Ecc where
  | clean | corrected | uncorrectable
  deriving DecidableEq, Repr

/-- What a step of an engine, or of the world outside, is about: plain data that stands beside the event's name in
the list of what happens next. Each event says which fields it reads; the others are ignored. -/
structure Focus where
  /-- a compute core, by its 11-bit number (00 R7) -/
  core : Nat := 0
  /-- a detached operation of that core, by its sequence number (02 R93) -/
  seq : BitVec 16 := 0
  /-- a walker, a timed slot, a lane, a host slot or another small index -/
  n : Nat := 0
  /-- a cluster, die * 16 + cluster (00 R7); 128 stands for the hub's engine -/
  cluster : Nat := 0
  /-- a compute die -/
  die : Nat := 0
  /-- a link (12 R431) -/
  link : BitVec 6 := 0
  /-- a partition (01 R21) -/
  part : BitVec 4 := 0
  /-- a service or kernel core, by its sluice index (01 R37) -/
  sluice : Nat := 0
  /-- a device physical address or a byte offset -/
  addr : Nat := 0
  /-- a value written -/
  data : Word := 0
  /-- what a memory's error code finds in the access -/
  ecc : Ecc := .clean
  /-- the granule of the access in which it finds it -/
  gran : Nat := 0
  /-- the beats of a flit slot as each lane of a link has received them, by lane; none for a bad beat (12 R432, R435) -/
  beats : List (List (Option (BitVec 64))) := []
  /-- bytes that come from outside: a command record, a host access, a firmware image, a request -/
  bytes : List Byte := []
  deriving DecidableEq, Repr

/-- The operations and events of the table, one constructor for each row: first the words, then the steps that no
word encodes, whose subject stands in the state (`Focus`). -/
inductive Instr where
  /-- A Sarzel word issues: its encoding is checked, stalls are resolved, origins and guards are read, and each
  enabled move is performed (R85). -/
  | wordIssue (w : SWord)
  /-- A move with guard 0b1000 does nothing and occupies no bus (R76). -/
  | nop (s : BitVec 4) (o t : BitVec 11)
  /-- Jump to the target after the delay word (R139). -/
  | ctlJmp (m : Arg)
  /-- Branch by a signed displacement after the delay word (R139). -/
  | ctlBra (m : Arg)
  /-- Write lnk and transfer to the target after the delay word (R139). -/
  | ctlCall (m : Arg)
  /-- Transfer to the address in lnk after the delay word (R139). -/
  | ctlRet (m : Arg)
  /-- Transfer through a table of code offsets when the index is in range (R140). -/
  | ctlJtab (m : Arg)
  /-- Branch when a walker's end flag for the given dimension is set (R141). -/
  | ctlBre (m : Arg)
  /-- Hold the next word until a scoreboard counter is at or below a bound (R142). -/
  | ctlSbwait (m : Arg)
  /-- Hold the next word until every earlier fixed-latency operation has finished (R142). -/
  | ctlDrain (m : Arg)
  /-- Suspend after the delay word and re-enter the queue (R150). -/
  | ctlYield (m : Arg)
  /-- Suspend after the delay word and park on a future, barrier or mailbox (R150). -/
  | ctlWait (m : Arg)
  /-- Retire after the delay word, closing mailboxes and arriving at the weir barrier (R150). -/
  | ctlDone (m : Arg)
  /-- Take a local trap (codes 0 to 15) or stop (codes 16 to 255) after the delay word (R152). -/
  | ctlTrap (m : Arg)
  /-- Return from a local-trap handler, restoring the shadow after the delay word (R156). -/
  | ctlRett (m : Arg)
  /-- Set RMODE and SAT from the next word (R143). -/
  | ctlSetrm (m : Arg)
  /-- Set the execute-only boundary from the next word (R143). -/
  | ctlSetxb (m : Arg)
  /-- Set the overlay handler offset (R143). -/
  | ctlSetovh (m : Arg)
  /-- Arm a watch slot over a range of a buffer (R169). -/
  | ctlWatch (m : Arg)
  /-- Disarm a watch slot (R170). -/
  | ctlUnwatch (m : Arg)
  /-- Take local trap 0x0B after the delay word (R152). -/
  | ctlBrk (m : Arg)
  /-- Integer add, latency 1 (R144). -/
  | iaAdd (u : BitVec 1) (m : Arg)
  /-- Integer subtract (R144). -/
  | iaSub (u : BitVec 1) (m : Arg)
  /-- Bitwise AND (R144). -/
  | iaAnd (u : BitVec 1) (m : Arg)
  /-- Bitwise OR (R144). -/
  | iaOr (u : BitVec 1) (m : Arg)
  /-- Bitwise XOR (R144). -/
  | iaXor (u : BitVec 1) (m : Arg)
  /-- o AND NOT t (R144). -/
  | iaAndn (u : BitVec 1) (m : Arg)
  /-- Shift left (R144). -/
  | iaShl (u : BitVec 1) (m : Arg)
  /-- Logical shift right (R144). -/
  | iaShr (u : BitVec 1) (m : Arg)
  /-- Arithmetic shift right (R144). -/
  | iaSar (u : BitVec 1) (m : Arg)
  /-- Rotate left (R144). -/
  | iaRol (u : BitVec 1) (m : Arg)
  /-- Signed minimum (R144). -/
  | iaMin (u : BitVec 1) (m : Arg)
  /-- Signed maximum (R144). -/
  | iaMax (u : BitVec 1) (m : Arg)
  /-- Unsigned minimum (R144). -/
  | iaMinu (u : BitVec 1) (m : Arg)
  /-- Unsigned maximum (R144). -/
  | iaMaxu (u : BitVec 1) (m : Arg)
  /-- Compare equal (R144). -/
  | iaEq (u : BitVec 1) (m : Arg)
  /-- Compare not equal (R144). -/
  | iaNe (u : BitVec 1) (m : Arg)
  /-- Signed less than (R144). -/
  | iaLt (u : BitVec 1) (m : Arg)
  /-- Unsigned less than (R144). -/
  | iaLtu (u : BitVec 1) (m : Arg)
  /-- Signed less or equal (R144). -/
  | iaLe (u : BitVec 1) (m : Arg)
  /-- Unsigned less or equal (R144). -/
  | iaLeu (u : BitVec 1) (m : Arg)
  /-- Sign-extend t from the width in the latch (R144). -/
  | iaSext (u : BitVec 1) (m : Arg)
  /-- Zero-extend t from the width in the latch (R144). -/
  | iaZext (u : BitVec 1) (m : Arg)
  /-- Count leading zeros (R144). -/
  | iaClz (u : BitVec 1) (m : Arg)
  /-- Count trailing zeros (R144). -/
  | iaCtz (u : BitVec 1) (m : Arg)
  /-- Population count (R144). -/
  | iaPopc (u : BitVec 1) (m : Arg)
  /-- Reverse the bytes of t (R144). -/
  | iaBswap (u : BitVec 1) (m : Arg)
  /-- Saturating signed add (R144). -/
  | iaAdds (u : BitVec 1) (m : Arg)
  /-- Saturating signed subtract (R144). -/
  | iaSubs (u : BitVec 1) (m : Arg)
  /-- Extract a bit field of o (R144). -/
  | iaBfx (u : BitVec 1) (m : Arg)
  /-- Deliver t unchanged (R144). -/
  | iaPass (u : BitVec 1) (m : Arg)
  /-- Signed multiply, low and high halves, latency 3 (R145). -/
  | imMul (m : Arg)
  /-- Signed multiply, high half in im.r (R145). -/
  | imMulh (m : Arg)
  /-- Unsigned multiply, high half in im.r (R145). -/
  | imMulhu (m : Arg)
  /-- Multiply and add im.p (R145). -/
  | imMad (m : Arg)
  /-- Signed divide, unpipelined, latency 20 (R145). -/
  | imDiv (m : Arg)
  /-- Unsigned divide (R145). -/
  | imDivu (m : Arg)
  /-- Signed remainder (R145). -/
  | imRem (m : Arg)
  /-- Unsigned remainder (R145). -/
  | imRemu (m : Arg)
  /-- FP32 add, latency 4 (R205). -/
  | fsFadd (m : Arg)
  /-- FP32 subtract (R205). -/
  | fsFsub (m : Arg)
  /-- FP32 multiply (R205). -/
  | fsFmul (m : Arg)
  /-- FP32 fused multiply-add (R205). -/
  | fsFma (m : Arg)
  /-- FP32 minimum (R205). -/
  | fsFmin (m : Arg)
  /-- FP32 maximum (R205). -/
  | fsFmax (m : Arg)
  /-- FP32 divide, unpipelined, latency 12 (R205). -/
  | fsFdiv (m : Arg)
  /-- FP32 square root, unpipelined (R205). -/
  | fsFsqrt (m : Arg)
  /-- FP32 compare equal (R205). -/
  | fsFeq (m : Arg)
  /-- FP32 compare less (R205). -/
  | fsFlt (m : Arg)
  /-- FP32 compare less or equal (R205). -/
  | fsFle (m : Arg)
  /-- FP32 to INT32 or INT64 (R206). -/
  | fsFcvti (m : Arg)
  /-- INT32 or INT64 to FP32 (R206). -/
  | fsFcvtf (m : Arg)
  /-- Classify an FP32 value (R206). -/
  | fsFclass (m : Arg)
  /-- FP32 2^t, latency 8 (R205). -/
  | fsFexp2 (m : Arg)
  /-- FP32 log2 (R205). -/
  | fsFlog2 (m : Arg)
  /-- FP32 reciprocal (R205). -/
  | fsFrcp (m : Arg)
  /-- FP32 reciprocal square root (R205). -/
  | fsFrsq (m : Arg)
  /-- FP32 sigmoid (R205). -/
  | fsFsigm (m : Arg)
  /-- Load a signed byte from the scratchpad, latency 4 (R180). -/
  | lsLdb (m : Arg)
  /-- Load an unsigned byte (R180). -/
  | lsLdbu (m : Arg)
  /-- Load a signed halfword (R180). -/
  | lsLdh (m : Arg)
  /-- Load an unsigned halfword (R180). -/
  | lsLdhu (m : Arg)
  /-- Load a signed word (R180). -/
  | lsLdw (m : Arg)
  /-- Load an unsigned word (R180). -/
  | lsLdwu (m : Arg)
  /-- Load a doubleword (R180). -/
  | lsLdd (m : Arg)
  /-- Store a byte (R180). -/
  | lsStb (m : Arg)
  /-- Store a halfword (R180). -/
  | lsSth (m : Arg)
  /-- Store a word (R180). -/
  | lsStw (m : Arg)
  /-- Store a doubleword (R180). -/
  | lsStd (m : Arg)
  /-- Load one element of a bank by position, converting to FP32 (R182). -/
  | lsLdf (m : Arg)
  /-- Store an FP32 value into one element of a bank, converting (R182). -/
  | lsStf (m : Arg)
  /-- ls.t.ldd with bit 63 set reads a bank format register (R183). -/
  | bankFormatRead (m : Arg)
  /-- ls.t.std with bit 63 set writes a bank format register (R183). -/
  | bankFormatWrite (m : Arg)
  /-- Bind a stream walker to a descriptor (R190). -/
  | swBind (n : BitVec 2) (m : Arg)
  /-- Stream walker elements into the A operand FIFO (R194). -/
  | swFeeda (n : BitVec 2) (m : Arg)
  /-- Stream walker elements into the B operand FIFO (R194). -/
  | swFeedb (n : BitVec 2) (m : Arg)
  /-- Advance a walker past elements without reading them (R193). -/
  | swSkip (n : BitVec 2) (m : Arg)
  /-- Reset a walker's inner indices up to a dimension (R193). -/
  | swRewind (n : BitVec 2) (m : Arg)
  /-- End a feed and unbind the walker (R193). -/
  | swStop (n : BitVec 2) (m : Arg)
  /-- Arm a timed-move slot with a move and a device time (R382). -/
  | tmAt (m : Arg)
  /-- Disarm one or all timed-move slots (R382). -/
  | tmCancel (m : Arg)
  /-- Arm a barrier of the own cluster (R379). -/
  | wrArm (m : Arg)
  /-- Send arrivals to a barrier (R379). -/
  | wrArrive (m : Arg)
  /-- Read a barrier's state block (R379). -/
  | wrQuery (m : Arg)
  /-- Disarm a barrier of the own cluster (R379). -/
  | wrDisarm (m : Arg)
  /-- Vector FP32 add (R213). -/
  | vxVadd (m : Arg)
  /-- Vector FP32 subtract (R213). -/
  | vxVsub (m : Arg)
  /-- Vector FP32 multiply (R213). -/
  | vxVmul (m : Arg)
  /-- Vector fused multiply-add (R213). -/
  | vxVfma (m : Arg)
  /-- Vector fused multiply-subtract (R213). -/
  | vxVfms (m : Arg)
  /-- Vector negated fused multiply-add (R213). -/
  | vxVfnma (m : Arg)
  /-- Vector FP32 minimum (R213). -/
  | vxVmin (m : Arg)
  /-- Vector FP32 maximum (R213). -/
  | vxVmax (m : Arg)
  /-- Vector absolute value (R213). -/
  | vxVabs (m : Arg)
  /-- Vector negate (R213). -/
  | vxVneg (m : Arg)
  /-- Vector divide, latency 10 (R213). -/
  | vxVdiv (m : Arg)
  /-- Vector square root (R213). -/
  | vxVsqrt (m : Arg)
  /-- Vector reciprocal (R213). -/
  | vxVrcp (m : Arg)
  /-- Vector reciprocal square root (R213). -/
  | vxVrsq (m : Arg)
  /-- Vector 2^x (R213). -/
  | vxVexp2 (m : Arg)
  /-- Vector log2 (R213). -/
  | vxVlog2 (m : Arg)
  /-- Vector sigmoid (R213). -/
  | vxVsigm (m : Arg)
  /-- Vector integer add (R214). -/
  | vxViadd (m : Arg)
  /-- Vector integer subtract (R214). -/
  | vxVisub (m : Arg)
  /-- Vector integer multiply (R214). -/
  | vxVimul (m : Arg)
  /-- Vector signed minimum (R214). -/
  | vxVimin (m : Arg)
  /-- Vector signed maximum (R214). -/
  | vxVimax (m : Arg)
  /-- Vector unsigned minimum (R214). -/
  | vxViminu (m : Arg)
  /-- Vector unsigned maximum (R214). -/
  | vxVimaxu (m : Arg)
  /-- Vector AND (R214). -/
  | vxVand (m : Arg)
  /-- Vector OR (R214). -/
  | vxVor (m : Arg)
  /-- Vector XOR (R214). -/
  | vxVxor (m : Arg)
  /-- Vector shift left (R214). -/
  | vxVshl (m : Arg)
  /-- Vector logical shift right (R214). -/
  | vxVshr (m : Arg)
  /-- Vector arithmetic shift right (R214). -/
  | vxVsar (m : Arg)
  /-- Vector FP32 compare equal into a mask (R215). -/
  | vxVfeq (m : Arg)
  /-- Vector FP32 compare less into a mask (R215). -/
  | vxVflt (m : Arg)
  /-- Vector FP32 compare less or equal into a mask (R215). -/
  | vxVfle (m : Arg)
  /-- Vector integer compare equal into a mask (R215). -/
  | vxVieq (m : Arg)
  /-- Vector signed compare less into a mask (R215). -/
  | vxVilt (m : Arg)
  /-- Combine two masks under a truth table and deliver the count (R215). -/
  | vxMlog (m : Arg)
  /-- Convert each lane between formats (R216). -/
  | vxVcvt (m : Arg)
  /-- Narrow 128 lanes into one block of a register, choosing MX scales (R217). -/
  | vxVpack (m : Arg)
  /-- Widen one block of a register into 128 lanes (R218). -/
  | vxVunpack (m : Arg)
  /-- Vector move (R219). -/
  | vxVmov (m : Arg)
  /-- Select lanes by mask (R219). -/
  | vxVsel (m : Arg)
  /-- Broadcast a scalar or a lane (R219). -/
  | vxVbcast (m : Arg)
  /-- Write an arithmetic index sequence (R219). -/
  | vxVidx (m : Arg)
  /-- Permute lanes by index (R219). -/
  | vxVperm (m : Arg)
  /-- Slide lanes across two registers (R219). -/
  | vxVslide (m : Arg)
  /-- Extract one lane to vx.r (R219). -/
  | vxVext (m : Arg)
  /-- Insert a scalar into one lane (R219). -/
  | vxVins (m : Arg)
  /-- Tree sum of the lanes (R220). -/
  | vxVfsum (m : Arg)
  /-- Tree maximum of the lanes (R220). -/
  | vxVfrmax (m : Arg)
  /-- Tree minimum of the lanes (R220). -/
  | vxVfrmin (m : Arg)
  /-- Exact integer sum of the lanes (R220). -/
  | vxVisum (m : Arg)
  /-- Load a vector register from a footprint, converting (R221). -/
  | vxVld (m : Arg)
  /-- Store a vector register to a footprint, converting (R221). -/
  | vxVst (m : Arg)
  /-- Gather elements of a local buffer into a vector register (R224). -/
  | vxVldx (m : Arg)
  /-- Scatter a vector register into a local buffer (R224). -/
  | vxVstx (m : Arg)
  /-- Queue a matrix engine configuration (R238). -/
  | mxCfg (m : Arg)
  /-- Accumulate A·B into a tile (R239). -/
  | mxMma (m : Arg)
  /-- Zero a tile, then accumulate A·B (R239). -/
  | mxMmaz (m : Arg)
  /-- Zero a tile (R241). -/
  | mxZero (m : Arg)
  /-- Copy bytes from a local buffer into scale memory columns (R242). -/
  | mxLdscale (m : Arg)
  /-- Read two accumulator rows into a vector register, converting (R243). -/
  | mxRdacc (m : Arg)
  /-- Write a vector register raw into two accumulator rows (R244). -/
  | mxWracc (m : Arg)
  /-- Discard the bytes held in one or both FIFOs (R245). -/
  | mxFfl (m : Arg)
  /-- Deliver the matrix engine status (R246). -/
  | mxStat (m : Arg)
  /-- Move a capability and a message word to a mailbox (R279). -/
  | capSend (m : Arg)
  /-- Remove the oldest message of a mailbox (R291). -/
  | capRecv (m : Arg)
  /-- Lend read fractions or accumulate grants, or divide a held count (R272). -/
  | capSplit (m : Arg)
  /-- Return or merge a fraction or grant (R273). -/
  | capJoin (m : Arg)
  /-- Give up a capability (R274). -/
  | capDrop (m : Arg)
  /-- Split a whole buffer at an offset (R277). -/
  | capCut (m : Arg)
  /-- Join two contiguous whole buffers (R278). -/
  | capFuse (m : Arg)
  /-- Create a buffer in a pool (R268). -/
  | capAlloc (m : Arg)
  /-- Return a buffer's storage and clear its descriptor (R269). -/
  | capFree (m : Arg)
  /-- Deliver one word of a register's visible properties (R270). -/
  | capInfo (m : Arg)
  /-- Reduce the rights of a capability register (R271). -/
  | capNarrow (m : Arg)
  /-- Subscribe a mailbox to a source's multicast tag (R294). -/
  | capSub (m : Arg)
  /-- Remove a multicast subscription (R294). -/
  | capUnsub (m : Arg)
  /-- Send a read fraction to every subscriber of a tag (R295). -/
  | capMcast (m : Arg)
  /-- Bind a mailbox to the issuing continuation (R288). -/
  | capBindmb (m : Arg)
  /-- Unbind a mailbox held by the issuing continuation (R289). -/
  | capClosemb (m : Arg)
  /-- Report the head of a mailbox without removing it (R292). -/
  | capPeek (m : Arg)
  /-- Copy a range of a source buffer into a destination, converting (R309). -/
  | cpCopy (m : Arg)
  /-- Copy a whole buffer, then send the destination capability (R311). -/
  | cpCopys (m : Arg)
  /-- Fill a destination range with a repeated pattern (R312). -/
  | cpFill (m : Arg)
  /-- Gather rows of a source by an index list (R313). -/
  | cpGath (m : Arg)
  /-- Arm completion signals for the next copy-like operation (R314). -/
  | cpSig (m : Arg)
  /-- Deliver the copy engine status (R320). -/
  | cpStat (m : Arg)
  /-- Load 32 to 128 raw bytes into g or v registers (R327). -/
  | rmRld (m : Arg)
  /-- Store 32 to 128 raw bytes from g or v registers (R327). -/
  | rmRst (m : Arg)
  /-- Send an accumulate packet (R328). -/
  | rmRacc (m : Arg)
  /-- Send a fetch-and-op packet that returns the old value (R328). -/
  | rmRfop (m : Arg)
  /-- Open a batch (owner) or enter batch mode (grant holder) (R332). -/
  | rmBatch (m : Arg)
  /-- Send a close marker (holder) or close the batch (owner) (R333). -/
  | rmUnbatch (m : Arg)
  /-- Instantiate a launch from a template (R368). -/
  | sqLaunch (m : Arg)
  /-- Create a single-continuation task (R369). -/
  | sqTask (m : Arg)
  /-- Decrement a TCB's predecessor counter (R370). -/
  | sqDec (m : Arg)
  /-- Allocate a future and create a service-call TCB (R371). -/
  | sqCall (m : Arg)
  /-- Fill a future (R370). -/
  | sqFillf (m : Arg)
  /-- Create a continuation in the issuing launch's cluster group (R372). -/
  | sqSpawn (m : Arg)
  /-- Set a queue's partition, enable and tickets (R373). -/
  | sqTickets (m : Arg)
  /-- Post a gang switch (R387). -/
  | sqGang (m : Arg)
  /-- Re-execute the blocks of a trace whose ranges meet dirty tiles (R417). -/
  | trRelaunch (m : Arg)
  /-- Mark tiles of a buffer explicitly (R425). -/
  | trMark (m : Arg)
  /-- Try to re-attach a degraded traced slot (R423). -/
  | trSlot (m : Arg)
  /-- Give up one or all watch slots of a trace (R424). -/
  | trUnslot (m : Arg)
  /-- Deliver a word of a trace header (R426). -/
  | trInfo (m : Arg)
  /-- A fixed-latency operation delivers its result to its unit's result port at the end of program cycle c+L−1,
  ORing its flags and decrementing its scoreboard counter (R87). -/
  | resultDelivery
  /-- A Local-path access is performed when its latency has elapsed (R56). -/
  | localPathPerform
  /-- The word held by ctl.t.sbwait issues in the first cycle at whose start the counter is at or below the
  bound (R142). -/
  | sbwaitRelease
  /-- The word held by ctl.t.drain issues once every earlier fixed-latency operation has delivered or been
  discarded (R142). -/
  | drainRelease
  /-- A detached operation completes when all its accesses are performed and its result has reached the core;
  its ring entry and scoreboard counter are updated (R56). -/
  | detachedCompletion
  /-- A recorded late fault of the resident continuation stops it at the first word boundary, saving any owed
  transfer or effect (R159). -/
  | lateFaultTaken
  /-- A local trap is entered at a word boundary: the pipelines freeze into the shadow, epc and cause are
  written, and the handler starts (R154). -/
  | localTrapEntry
  /-- The core stops the continuation: it freezes its stages, waits for core-state detached operations, writes
  the frame and record, and posts a fault record (R160). -/
  | stop
  /-- A detached operation still incomplete 2^16 cycles into a stop is marked pending-retry and its result
  discarded (R160). -/
  | pendingRetryMark
  /-- After the delay word of yield, wait or done the core waits for core-state operations, cancels timed moves,
  clears watchpoints, writes the record and takes other work (R150). -/
  | suspension
  /-- A core takes up a new continuation: it zeroes state, loads XB, OVH and bank formats, loads resident code,
  creates LOCAL buffers and places capabilities (R349). -/
  | continuationStart
  /-- A core takes up a resumed stopped continuation, restores its whole frame, re-issues pending-retry entries
  and issues at the frame PC (R386). -/
  | frameRestore
  /-- An armed time-unit slot whose time has passed is performed on a free bus as a move (R383). -/
  | timedMove
  /-- Four cycles after a bind or rewind the descriptor contents are checked and the walker may become bad
  (R190). -/
  | walkerContentsCheck
  /-- A walker's next element becomes ready and a stalled reading word may issue (R191). -/
  | walkerElementReady
  /-- A feed moves one walker element into its FIFO once the FIFO has room (R194). -/
  | feedElement
  /-- The matrix engine starts carrying out the next queued command in trigger order (R235). -/
  | mxCommandCarryOut
  /-- Once a whole accumulation group is present in both FIFOs, the engine applies it to every tile element and
  removes its k-vectors (R239). -/
  | mxGroupApply
  /-- An mma waiting 2^20 cycles for a group ends with late fault 0x26 (R240). -/
  | mxFifoStall
  /-- A handover operation proceeds once every earlier access of the same core to the buffer has been performed
  and its dirty filters are flushed (R280). -/
  | drain
  /-- A handover engine acquires a descriptor's lock and makes one change to it (R260). -/
  | descriptorChange
  /-- Before the host receives a capability, BISnpInv snoops are issued for every line and their responses
  awaited (R472). -/
  | backInvalidate
  /-- A snoop unanswered after BISTALL µs writes a BI_STALL event record (R472). -/
  | biStall
  /-- A handover copies a buffer's bytes, with their poison, into the receiving placement or the HBM pool
  (R282). -/
  | handoverCopy
  /-- A message reaches the receiving engine and is queued in the mailbox once room exists (R290). -/
  | messageArrival
  /-- A subscription join packet travels towards the source, setting subscription bitmaps at each router (R294).
  -/
  | joinPacket
  /-- A prune packet removes subscription state along the route (R294). -/
  | prunePacket
  /-- An mcast packet is replicated along the subscription bitmaps to each subscribing port (R295). -/
  | multicastPacket
  /-- When a continuation stops, every away part of its register windows is recalled to the core (R300). -/
  | windowRecall
  /-- A copy's first source read fixes its formats and checks sizes, overlaps and banks (R309). -/
  | copyStart
  /-- A piece of at most 128 bytes of a copy-like operation is read and written on the Copy path (R310). -/
  | copyPiece
  /-- After its writes are performed an operation writes its token, raises counter and weir decrements, then
  decrements its scoreboard (R315). -/
  | completionSignals
  /-- A read of the last written HOST granule completes, so the writes count as performed (R317). -/
  | hostFlushRead
  /-- An applying unit updates an element with an accumulate or fetch-and-op packet as one indivisible step
  (R329). -/
  | accumulateApply
  /-- A batch packet arriving at an open batch is held at the applying unit (R334). -/
  | batchPacketHold
  /-- A close marker reaches the applying unit and counts towards CLOSES (R333). -/
  | closeMarker
  /-- The host core's port performs the access at the head of its queue in a free bank cycle (R178). -/
  | portAccess
  /-- The cluster crossbar performs one access of at most 128 bytes per bank per cycle (R199). -/
  | crossbarAccess
  /-- A request is served at a last-level-cache slice, filling, writing back or allocating sectors (R339). -/
  | llcAccess
  /-- A page-table walk reads one level per access and ends in a translation or late fault 0x21 (R42). -/
  | translationWalk
  /-- A write of XLAT_INVAL with SCOPE 0b00 starts invalidation of a partition's entries covering XLAT_IVA
  (R46). -/
  | xlatInvalPage
  /-- A write of XLAT_INVAL with SCOPE 0b01 starts invalidation of all entries of a partition (R46). -/
  | xlatInvalPartition
  /-- A write of XLAT_INVAL with SCOPE 0b10 starts invalidation of all entries (R46). -/
  | xlatInvalAll
  /-- An invalidation finishes once matching entries are removed and matching walks restarted; BUSY clears
  (R47). -/
  | invalidationFinish
  /-- A raw physical access of a service or kernel core is checked against its sluice windows and performed or
  refused (R38). -/
  | rawAccess
  /-- A cluster with an idle core and an empty ready list is given the next eligible unit by stride scheduling
  (R358). -/
  | askForWork
  /-- A decrement reaches a TCB and may make it ready, or is reported with 0x31 (R353). -/
  | tcbDecrement
  /-- A TCB finishes, decrementing successors, filling its future and freeing or keeping it (R354). -/
  | tcbFinish
  /-- A fill sets a future's value and readies its waiters (R362). -/
  | futureFill
  /-- An arrival reaches a barrier and lowers its count, firing it or reporting over-arrival (R377). -/
  | weirArrival
  /-- A copy signal lowers a barrier's byte count, firing it or reporting over-arrival (R377). -/
  | weirByteDecrement
  /-- A write of a stopped record's address to RESUME queues the continuation for its core (R386). -/
  | resume
  /-- At device time TG every covered core stops issue at a word boundary and freezes (R388). -/
  | gangSwitchTg
  /-- At TG + WIN or when OUT's operations complete, the window closes and remaining packets fall out (R388). -/
  | gangWindowClose
  /-- A fall-out buffer writes its packet records to the spill area as room allows (R390). -/
  | fallOutSpill
  /-- A core's live banks and frame state are saved as a core image (R392). -/
  | coreImageSave
  /-- IN's SRAM saves, core images, re-injected packets and pending-retry operations are restored, then issue
  resumes (R394). -/
  | gangRestore
  /-- At the home slice a relaunch is checked, CUR flips, blocks are selected and the relaunch TCB is created
  (R417). -/
  | snapshotPoint
  /-- A core's recorder flushes its ranges to the cluster's merger (R409). -/
  | recorderFlush
  /-- When a block's last continuation retires its record is reduced and written with COMPLETE set (R411). -/
  | blockClose
  /-- A mark reaches the trace's home slice and sets tile bits in the bank CUR names (R415). -/
  | dirtyMark
  /-- A received flit is accepted or discarded by beat, CRC, SEQ and tag checks (R438). -/
  | flitReceive
  /-- A transmitter receiving a NAK resends every held flit from ACK at the next flit boundary (R439). -/
  | nak
  /-- No ACK advance for 2 µs makes the transmitter resend from the oldest flit (R439). -/
  | replayTimeout
  /-- The whole link is retrained after repeated resends or by request (R444). -/
  | linkRetrain
  /-- A receiver detects loss of light on a lane, removes it and sends LANEDOWN (R442). -/
  | lossOfLight
  /-- A transmitter accepting LANEDOWN removes the lanes, restripes and resends from NEXT (R442). -/
  | lanedown
  /-- A transmitter accepting LANEOUT sends a STRIPE naming the new active set (R443). -/
  | laneout
  /-- A transmitter accepting LANEUP hands the lane back with a STRIPE flit (R444). -/
  | laneup
  /-- A receiver accepting a STRIPE switches to the new active lane set (R443). -/
  | stripe
  /-- A FEATURE control flit at training is stored in LK_PFEAT (R455). -/
  | feature
  /-- Every 10 µs TIMESYNC flits are exchanged and the time base rate adjusted toward the master (R451). -/
  | timesync
  /-- A quiesced link whose replay buffer and streams are empty reaches QUIESCED when the peer answers (R454).
  -/
  | quiesced
  /-- A lane whose corrected bits in a window exceed THRESH is withdrawn by LANEOUT (R443). -/
  | laneWithdrawal
  /-- After PRBS31 training a lane's verification count decides LANEUP, another attempt or LANE_FAILED (R444).
  -/
  | laneTrainingCheck
  /-- A stream open packet announces a remote stream of data flits (R437). -/
  | streamOpen
  /-- A KIND 0x2 flit writes 256 bytes at its stream offset (R437). -/
  | streamData
  /-- The home sends stream done once every byte of the stream is performed (R437). -/
  | streamDone
  /-- A link goes DOWN; held operations end with late fault 0x20, reason 4, and its key is zeroised (R456). -/
  | linkDown
  /-- A link with EN set trains, exchanges FEATURE and comes up (R448). -/
  | linkTraining
  /-- Writing 1 to LK_CTL.RETRAIN retrains the whole link (R448). -/
  | lkRetrain
  /-- Writing 1 to LK_CTL.ZERO, or changing PART, zeroises the link's key (R460). -/
  | lkZero
  /-- Setting LK_CTL.QUIESCE stops new packet flits on the link (R454). -/
  | lkQuiesce
  /-- Writing 1 to KL_GO starts the ECDH, KEK derivation and key unwrap (R458). -/
  | klGo
  /-- The unwrapped key is installed in each named link once its replay buffer is empty, or FAILED is set
  (R461). -/
  | keyInstall
  /-- A host command record with OPCODE NOP completes at once (R466). -/
  | hostNop
  /-- A host LAUNCH command instantiates a launch from host slots (R466). -/
  | hostLaunch
  /-- A host RELAUNCH command relaunches a trace (R466). -/
  | hostRelaunch
  /-- A host SEND command sends a host slot's capability to a mailbox (R466). -/
  | hostSend
  /-- A host DROP command drops a host slot's capability (R466). -/
  | hostDrop
  /-- A host APBIND command binds a tracked aperture window to a host slot's HBM buffer (R470). -/
  | apbind
  /-- A host APUNBIND command clears an aperture entry (R466). -/
  | apunbind
  /-- A host MARK command marks tiles as tr.t.mark does (R466). -/
  | hostMark
  /-- A host DEC command decrements a TCB's counter (R466). -/
  | hostDec
  /-- A host FILLF command fills a future (R466). -/
  | hostFillf
  /-- A command's completion record is written after all its work's writes are performed (R467). -/
  | completionRecord
  /-- A host access through a tracked aperture is checked and performed through the last-level cache, or refused
  (R470). -/
  | apertureAccess
  /-- A host access through the raw aperture reaches device physical memory unchecked while RAWEN is set (R471).
  -/
  | rawApertureAccess
  /-- A service or kernel core executes one RV64 instruction in program order (R474). -/
  | serviceCoreInstruction
  /-- An SD to the port page performs a move to a unit target (R478). -/
  | portPageStore
  /-- An LD from the port page reads a unit origin (R478). -/
  | portPageLoad
  /-- An LD of PDRAIN waits until no port operation is outstanding (R479). -/
  | pdrain
  /-- An LD of PSVC takes the oldest ready service-call TCB (R479). -/
  | psvc
  /-- A store to PPIN sets or clears PIN of a slot's buffer (R479). -/
  | ppin
  /-- A store to PORPH moves a partition's oldest orphan into a slot (R479). -/
  | porph
  /-- Writing RUN zeroes a service or kernel core and starts it at RPC (R477). -/
  | run
  /-- Writing HALT halts the core at the next instruction boundary (R477). -/
  | halt
  /-- A kernel core's raw write to a sluice configuration space takes effect, or sets PERR for PART with a
  continuation resident (R303). -/
  | sluiceConfigWrite
  /-- A write of HUB_ACCEPT0 to 3 sets accepted feature bits while LOCK is clear (R481). -/
  | hubAcceptWrite
  /-- Writing 1 to SEC_CTL.LOCK sets it until reset (R480). -/
  | lock
  /-- A write of SEC_CFG starts the check of a signed configuration block (R482). -/
  | secCfg
  /-- The signature check of a configuration block ends; the pairs are applied and OK set, or BAD set (R482). -/
  | configurationBlockCheck
  /-- A write to a register with no behaviour of its own stores its RW fields and clears W1C bits (R5). -/
  | registerWrite
  /-- Reset starts the boot ROM: identity key, CXL training and DOE (R482). -/
  | deviceReset
  /-- The firmware read from flash is signature-checked; the ROM configures kernel sluices and runs K0, or
  FAILED is set (R482). -/
  | firmwareVerify
  /-- K0 not setting LOCK within 10 s makes bring-up FAILED with FAIL 0x03 (R482). -/
  | kernelStartTimeout
  /-- An SPDM 1.3 request over DOE is answered with measurements signed by the identity key (R483). -/
  | spdmRequest
  /-- A supply sag stretches a cluster's clock within two cycles until the supply recovers (R484). -/
  | clockStretch
  /-- At 105 °C a cluster's clock runs at half rate and THERM is set (R485). -/
  | thermalThrottle
  /-- At 95 °C the cluster's clock and THERM return (R485). -/
  | thermalRecover
  /-- Light returns on a receive lane that was lost, and the lane is retrained in the background (R444). -/
  | lightReturn
  /-- When the supply of a cluster has recovered from a sag, the droop detector releases the stretched clock
  (R484). -/
  | supplyRecovered
  /-- A receiving lane's window of 2^26 bits ends and its corrected-bit count CORR starts a new window (R443).
  -/
  | corrWindowEnd
  deriving DecidableEq, Repr

end Sys2Proof
end

