-- ==== Sys2Proof/Decode.lean ====
section
/-! DEFINITION. From bytes to instructions and back (spec 02): the byte order, the maps of target and origin
codes (R98 to R100), the words (R70 to R74), the decoder, total on any bytes, and after it the encoder. -/

namespace Sys2Proof

/-! ### Bytes, bit fields and extension (00 R3; 02 R107) -/

/-- The number that bytes hold, the first byte least significant (00 R3). -/
def leNat : List Byte → Nat
  | [] => 0
  | b :: bs => b.toNat + 256 * leNat bs

/-- The `n` low bytes of a number, least significant first (00 R3). -/
def leBytes : Nat → Nat → List Byte
  | 0, _ => []
  | n + 1, x => BitVec.ofNat 8 x :: leBytes n (x / 256)

/-- Field(x, hi, lo): bits `lo .. lo + w - 1` of `x`, right-aligned (02 R107). -/
def fieldN (x lo w : Nat) : Nat := x / 2 ^ lo % 2 ^ w

/-- Field(x, lo+w-1, lo) of a 64-bit value as a `w`-bit vector (02 R107). -/
def field (x : Word) (lo w : Nat) : BitVec w := BitVec.extractLsb' lo w x

/-- SignExt(x, n) for the `n` low bits of a number, as a 64-bit value (02 R107). -/
def signExt (n x : Nat) : Word := (BitVec.ofNat n x).signExtend 64

/-! ### Target codes (02 R98, R99) -/

/-- The operation at place `n` of a unit's list of triggers, or the reserved code `c`. -/
def trigAt {α : Type} (all : List α) (n : Nat) (mk : α → Op) (c : BitVec 11) : Target :=
  match all[n]? with
  | some o => .trig (mk o)
  | none => .reserved c

/-- A stream walker's eight codes: capability select, six triggers, one reserved (02 R98). -/
def swTarget (n : BitVec 2) (j : Nat) (c : BitVec 11) : Target :=
  if j = 0 then .latch (.swK n) else trigAt SwOp.all (j - 1) (.sw n) c

/-- The target that an 11-bit target code names (02 R98, R99). -/
def Target.ofCode (c : BitVec 11) : Target :=
  let n := c.toNat
  if n < 0x040 then .g (c.setWidth 6)
  else if n < 0x048 then .q (c.setWidth 3)
  else if n < 0x060 then .reserved c
  else if n = 0x060 then .latch .ctlO
  else if n < 0x080 then trigAt CtlOp.all (n - 0x061) .ctl c
  else if n = 0x080 then .latch .ia0O
  else if n < 0x0A0 then trigAt IaOp.all (n - 0x081) (.ia 0) c
  else if n = 0x0A0 then .latch .ia1O
  else if n < 0x0C0 then trigAt IaOp.all (n - 0x0A1) (.ia 1) c
  else if n = 0x0C0 then .latch .imO
  else if n = 0x0C1 then .latch .imP
  else if n < 0x0E0 then trigAt ImOp.all (n - 0x0C2) .im c
  else if n = 0x0E0 then .latch .fsO
  else if n = 0x0E1 then .latch .fsP
  else if n < 0x100 then trigAt FsOp.all (n - 0x0E2) .fs c
  else if n = 0x100 then .latch .lsK
  else if n = 0x101 then .latch .lsO
  else if n < 0x120 then trigAt LsOp.all (n - 0x102) .ls c
  else if n < 0x140 then swTarget (BitVec.ofNat 2 ((n - 0x120) / 8)) ((n - 0x120) % 8) c
  else if n = 0x140 then .latch .tmO
  else if n < 0x160 then trigAt TmOp.all (n - 0x141) .tm c
  else if n = 0x160 then .latch .wrO
  else if n < 0x180 then trigAt WrOp.all (n - 0x161) .wr c
  else if n = 0x180 then .latch .vxO
  else if n < 0x1C0 then trigAt VxOp.all (n - 0x181) .vx c
  else if n = 0x1C0 then .latch .mxO
  else if n < 0x1E0 then trigAt MxOp.all (n - 0x1C1) .mx c
  else if n = 0x1E0 then .latch .capK
  else if n = 0x1E1 then .latch .capO
  else if n < 0x200 then trigAt CapOp.all (n - 0x1E2) .cap c
  else if n = 0x200 then .latch .cpK
  else if n = 0x201 then .latch .cpO
  else if n < 0x220 then trigAt CpOp.all (n - 0x202) .cp c
  else if n = 0x220 then .latch .rmK
  else if n = 0x221 then .latch .rmO
  else if n < 0x240 then trigAt RmOp.all (n - 0x222) .rm c
  else if n = 0x240 then .latch .sqO
  else if n < 0x260 then trigAt SqOp.all (n - 0x241) .sq c
  else if n = 0x260 then .latch .trK
  else if n = 0x261 then .latch .trO
  else if n < 0x280 then trigAt TrOp.all (n - 0x262) .tr c
  else .reserved c

/-- The trigger code of an operation (02 R99): a unit's triggers stand in the order of its list. -/
def Op.code : Op → Nat
  | .ctl o => 0x061 + o.ctorIdx
  | .ia u o => 0x081 + 0x20 * u.toNat + o.ctorIdx
  | .im o => 0x0C2 + o.ctorIdx
  | .fs o => 0x0E2 + o.ctorIdx
  | .ls o => 0x102 + o.ctorIdx
  | .sw n o => 0x121 + 8 * n.toNat + o.ctorIdx
  | .tm o => 0x141 + o.ctorIdx
  | .wr o => 0x161 + o.ctorIdx
  | .vx o => 0x181 + o.ctorIdx
  | .mx o => 0x1C1 + o.ctorIdx
  | .cap o => 0x1E2 + o.ctorIdx
  | .cp o => 0x202 + o.ctorIdx
  | .rm o => 0x222 + o.ctorIdx
  | .sq o => 0x241 + o.ctorIdx
  | .tr o => 0x262 + o.ctorIdx

/-- The target code of an operand or capability-select latch (02 R98). -/
def Latch.code : Latch → Nat
  | .ctlO => 0x060 | .ia0O => 0x080 | .ia1O => 0x0A0 | .imO => 0x0C0 | .imP => 0x0C1 | .fsO => 0x0E0
  | .fsP => 0x0E1 | .lsK => 0x100 | .lsO => 0x101 | .swK n => 0x120 + 8 * n.toNat | .tmO => 0x140
  | .wrO => 0x160 | .vxO => 0x180 | .mxO => 0x1C0 | .capK => 0x1E0 | .capO => 0x1E1 | .cpK => 0x200
  | .cpO => 0x201 | .rmK => 0x220 | .rmO => 0x221 | .sqO => 0x240 | .trK => 0x260 | .trO => 0x261

/-- The 11-bit code of a target (02 R98). -/
def Target.code : Target → BitVec 11
  | .g r => r.setWidth 11
  | .q r => BitVec.ofNat 11 (0x040 + r.toNat)
  | .latch l => BitVec.ofNat 11 l.code
  | .trig op => BitVec.ofNat 11 op.code
  | .reserved c => c

/-! ### Origin codes (02 R77, R100) -/

/-- The origin that the low 10 bits of an origin field name when its bit 10 is 0 (02 R100). -/
def Origin.ofCode (c : BitVec 10) : Origin :=
  let n := c.toNat
  if n < 0x040 then .g (c.setWidth 6)
  else if n < 0x048 then .q (c.setWidth 3)
  else if n < 0x050 then .sb (c.setWidth 3)
  else if n = 0x050 then .lit
  else if n = 0x051 then .pc
  else if n = 0x052 then .dt
  else if n = 0x053 then .wid
  else if n = 0x054 then .cid
  else if n = 0x055 then .rmode
  else if n = 0x056 then .xb
  else if n = 0x057 then .lnk
  else if n = 0x058 then .epc
  else if n = 0x059 then .cause
  else if n = 0x080 then .port .ia0R
  else if n = 0x0A0 then .port .ia1R
  else if n = 0x0C0 then .port .imR
  else if n = 0x0C1 then .port .imH
  else if n = 0x0E0 then .port .fsR
  else if n = 0x0E1 then .port .fsX
  else if n = 0x100 then .port .lsR
  else if n = 0x120 then .swR 0
  else if n = 0x128 then .swR 1
  else if n = 0x130 then .swR 2
  else if n = 0x138 then .swR 3
  else if n = 0x121 then .swE 0
  else if n = 0x129 then .swE 1
  else if n = 0x131 then .swE 2
  else if n = 0x139 then .swE 3
  else if n = 0x140 then .port .tmR
  else if n = 0x160 then .port .wrR
  else if n = 0x180 then .port .vxR
  else if n = 0x1C0 then .port .mxR
  else if n = 0x1E0 then .port .capR
  else if n = 0x200 then .port .cpR
  else if n = 0x220 then .port .rmR
  else if n = 0x240 then .port .sqR
  else if n = 0x260 then .port .trR
  else .reserved c

/-- The origin code of a result port (02 R100). -/
def Port.code : Port → Nat
  | .ia0R => 0x080 | .ia1R => 0x0A0 | .imR => 0x0C0 | .imH => 0x0C1 | .fsR => 0x0E0 | .fsX => 0x0E1
  | .lsR => 0x100 | .tmR => 0x140 | .wrR => 0x160 | .vxR => 0x180 | .mxR => 0x1C0 | .capR => 0x1E0
  | .cpR => 0x200 | .rmR => 0x220 | .sqR => 0x240 | .trR => 0x260

/-- The origin of an 11-bit origin field: bit 10 set makes the rest a signed immediate (02 R77). -/
def Origin.ofField (f : BitVec 11) : Origin :=
  if f.toNat < 0x400 then .ofCode (f.setWidth 10) else .imm (f.setWidth 10)

/-- The 11-bit origin field of an origin (02 R77, R100). -/
def Origin.field : Origin → BitVec 11
  | .g r => r.setWidth 11
  | .q r => BitVec.ofNat 11 (0x040 + r.toNat)
  | .sb r => BitVec.ofNat 11 (0x048 + r.toNat)
  | .lit => 0x050 | .pc => 0x051 | .dt => 0x052 | .wid => 0x053 | .cid => 0x054 | .rmode => 0x055
  | .xb => 0x056 | .lnk => 0x057 | .epc => 0x058 | .cause => 0x059
  | .port p => BitVec.ofNat 11 p.code
  | .swR n => BitVec.ofNat 11 (0x120 + 8 * n.toNat)
  | .swE n => BitVec.ofNat 11 (0x121 + 8 * n.toNat)
  | .imm v => BitVec.ofNat 11 (0x400 + v.toNat)
  | .reserved c => c.setWidth 11

/-- A negative immediate, the one origin whose value shows bit 63 set in the word itself (02 R77). -/
def Origin.isNegImm : Origin → Bool
  | .imm v => v.msb
  | _ => false

/-! ### Moves (02 R76) -/

/-- A move from its 30 bits (02 R76). -/
def Move.ofBits (x : BitVec 30) : Move where
  guard := x.extractLsb' 0 4
  tgt := .ofCode (x.extractLsb' 4 11)
  org := .ofField (x.extractLsb' 15 11)
  sb := x.extractLsb' 26 4

/-- The 30 bits of a move (02 R76). -/
def Move.bits (m : Move) : BitVec 30 := m.sb ++ m.org.field ++ m.tgt.code ++ m.guard

/-- A move with guard 0b1000 is a NOP (02 R76). -/
def Move.isNop (m : Move) : Bool := m.guard == 0b1000#4

/-- The operand fields of a move that triggers. -/
def Move.arg (m : Move) : Arg := ⟨m.guard, m.org, m.sb⟩

/-- The 72 bits of a long move: scoreboard, target and guard around the immediate (02 R73). -/
def LongMove.ofBits (x : BitVec 61) : LongMove where
  guard := x.extractLsb' 0 4
  tgt := .ofCode (x.extractLsb' 4 11)
  sb := x.extractLsb' 15 4
  imm := x.extractLsb' 19 42

/-- The 61 bits of a long move (02 R73). -/
def LongMove.bits (m : LongMove) : BitVec 61 := m.imm ++ m.sb ++ m.tgt.code ++ m.guard

/-! ### Rows of the table (02 R99) -/

/-- The table row of a word whose one move triggers `op` (02 R99). A bank-format access is a row of its own:
`ls.t.ldd` or `ls.t.std` with bit 63 of the trigger value set, which a word shows when its origin is a
negative immediate (05 R183). -/
def Op.instr (op : Op) (m : Arg) : Instr :=
  match op with
  | .ctl .jmp => .ctlJmp m
  | .ctl .bra => .ctlBra m
  | .ctl .call => .ctlCall m
  | .ctl .ret => .ctlRet m
  | .ctl .jtab => .ctlJtab m
  | .ctl .bre => .ctlBre m
  | .ctl .sbwait => .ctlSbwait m
  | .ctl .drain => .ctlDrain m
  | .ctl .yield => .ctlYield m
  | .ctl .wait => .ctlWait m
  | .ctl .done => .ctlDone m
  | .ctl .trap => .ctlTrap m
  | .ctl .rett => .ctlRett m
  | .ctl .setrm => .ctlSetrm m
  | .ctl .setxb => .ctlSetxb m
  | .ctl .setovh => .ctlSetovh m
  | .ctl .watch => .ctlWatch m
  | .ctl .unwatch => .ctlUnwatch m
  | .ctl .brk => .ctlBrk m
  | .ia u .add => .iaAdd u m
  | .ia u .sub => .iaSub u m
  | .ia u .and => .iaAnd u m
  | .ia u .or => .iaOr u m
  | .ia u .xor => .iaXor u m
  | .ia u .andn => .iaAndn u m
  | .ia u .shl => .iaShl u m
  | .ia u .shr => .iaShr u m
  | .ia u .sar => .iaSar u m
  | .ia u .rol => .iaRol u m
  | .ia u .min => .iaMin u m
  | .ia u .max => .iaMax u m
  | .ia u .minu => .iaMinu u m
  | .ia u .maxu => .iaMaxu u m
  | .ia u .eq => .iaEq u m
  | .ia u .ne => .iaNe u m
  | .ia u .lt => .iaLt u m
  | .ia u .ltu => .iaLtu u m
  | .ia u .le => .iaLe u m
  | .ia u .leu => .iaLeu u m
  | .ia u .sext => .iaSext u m
  | .ia u .zext => .iaZext u m
  | .ia u .clz => .iaClz u m
  | .ia u .ctz => .iaCtz u m
  | .ia u .popc => .iaPopc u m
  | .ia u .bswap => .iaBswap u m
  | .ia u .adds => .iaAdds u m
  | .ia u .subs => .iaSubs u m
  | .ia u .bfx => .iaBfx u m
  | .ia u .pass => .iaPass u m
  | .im .mul => .imMul m
  | .im .mulh => .imMulh m
  | .im .mulhu => .imMulhu m
  | .im .mad => .imMad m
  | .im .div => .imDiv m
  | .im .divu => .imDivu m
  | .im .rem => .imRem m
  | .im .remu => .imRemu m
  | .fs .fadd => .fsFadd m
  | .fs .fsub => .fsFsub m
  | .fs .fmul => .fsFmul m
  | .fs .fma => .fsFma m
  | .fs .fmin => .fsFmin m
  | .fs .fmax => .fsFmax m
  | .fs .fdiv => .fsFdiv m
  | .fs .fsqrt => .fsFsqrt m
  | .fs .feq => .fsFeq m
  | .fs .flt => .fsFlt m
  | .fs .fle => .fsFle m
  | .fs .fcvti => .fsFcvti m
  | .fs .fcvtf => .fsFcvtf m
  | .fs .fclass => .fsFclass m
  | .fs .fexp2 => .fsFexp2 m
  | .fs .flog2 => .fsFlog2 m
  | .fs .frcp => .fsFrcp m
  | .fs .frsq => .fsFrsq m
  | .fs .fsigm => .fsFsigm m
  | .ls .ldb => .lsLdb m
  | .ls .ldbu => .lsLdbu m
  | .ls .ldh => .lsLdh m
  | .ls .ldhu => .lsLdhu m
  | .ls .ldw => .lsLdw m
  | .ls .ldwu => .lsLdwu m
  | .ls .ldd => if m.org.isNegImm then .bankFormatRead m else .lsLdd m
  | .ls .stb => .lsStb m
  | .ls .sth => .lsSth m
  | .ls .stw => .lsStw m
  | .ls .std => if m.org.isNegImm then .bankFormatWrite m else .lsStd m
  | .ls .ldf => .lsLdf m
  | .ls .stf => .lsStf m
  | .sw n .bind => .swBind n m
  | .sw n .feeda => .swFeeda n m
  | .sw n .feedb => .swFeedb n m
  | .sw n .skip => .swSkip n m
  | .sw n .rewind => .swRewind n m
  | .sw n .stop => .swStop n m
  | .tm .arm => .tmAt m
  | .tm .cancel => .tmCancel m
  | .wr .arm => .wrArm m
  | .wr .arrive => .wrArrive m
  | .wr .query => .wrQuery m
  | .wr .disarm => .wrDisarm m
  | .vx .vadd => .vxVadd m
  | .vx .vsub => .vxVsub m
  | .vx .vmul => .vxVmul m
  | .vx .vfma => .vxVfma m
  | .vx .vfms => .vxVfms m
  | .vx .vfnma => .vxVfnma m
  | .vx .vmin => .vxVmin m
  | .vx .vmax => .vxVmax m
  | .vx .vabs => .vxVabs m
  | .vx .vneg => .vxVneg m
  | .vx .vdiv => .vxVdiv m
  | .vx .vsqrt => .vxVsqrt m
  | .vx .vrcp => .vxVrcp m
  | .vx .vrsq => .vxVrsq m
  | .vx .vexp2 => .vxVexp2 m
  | .vx .vlog2 => .vxVlog2 m
  | .vx .vsigm => .vxVsigm m
  | .vx .viadd => .vxViadd m
  | .vx .visub => .vxVisub m
  | .vx .vimul => .vxVimul m
  | .vx .vimin => .vxVimin m
  | .vx .vimax => .vxVimax m
  | .vx .viminu => .vxViminu m
  | .vx .vimaxu => .vxVimaxu m
  | .vx .vand => .vxVand m
  | .vx .vor => .vxVor m
  | .vx .vxor => .vxVxor m
  | .vx .vshl => .vxVshl m
  | .vx .vshr => .vxVshr m
  | .vx .vsar => .vxVsar m
  | .vx .vfeq => .vxVfeq m
  | .vx .vflt => .vxVflt m
  | .vx .vfle => .vxVfle m
  | .vx .vieq => .vxVieq m
  | .vx .vilt => .vxVilt m
  | .vx .mlog => .vxMlog m
  | .vx .vcvt => .vxVcvt m
  | .vx .vpack => .vxVpack m
  | .vx .vunpack => .vxVunpack m
  | .vx .vmov => .vxVmov m
  | .vx .vsel => .vxVsel m
  | .vx .vbcast => .vxVbcast m
  | .vx .vidx => .vxVidx m
  | .vx .vperm => .vxVperm m
  | .vx .vslide => .vxVslide m
  | .vx .vext => .vxVext m
  | .vx .vins => .vxVins m
  | .vx .vfsum => .vxVfsum m
  | .vx .vfrmax => .vxVfrmax m
  | .vx .vfrmin => .vxVfrmin m
  | .vx .visum => .vxVisum m
  | .vx .vld => .vxVld m
  | .vx .vst => .vxVst m
  | .vx .vldx => .vxVldx m
  | .vx .vstx => .vxVstx m
  | .mx .cfg => .mxCfg m
  | .mx .mma => .mxMma m
  | .mx .mmaz => .mxMmaz m
  | .mx .zero => .mxZero m
  | .mx .ldscale => .mxLdscale m
  | .mx .rdacc => .mxRdacc m
  | .mx .wracc => .mxWracc m
  | .mx .ffl => .mxFfl m
  | .mx .stat => .mxStat m
  | .cap .send => .capSend m
  | .cap .recv => .capRecv m
  | .cap .split => .capSplit m
  | .cap .join => .capJoin m
  | .cap .drop => .capDrop m
  | .cap .cut => .capCut m
  | .cap .fuse => .capFuse m
  | .cap .alloc => .capAlloc m
  | .cap .free => .capFree m
  | .cap .info => .capInfo m
  | .cap .narrow => .capNarrow m
  | .cap .sub => .capSub m
  | .cap .unsub => .capUnsub m
  | .cap .mcast => .capMcast m
  | .cap .bindmb => .capBindmb m
  | .cap .closemb => .capClosemb m
  | .cap .peek => .capPeek m
  | .cp .copy => .cpCopy m
  | .cp .copys => .cpCopys m
  | .cp .fill => .cpFill m
  | .cp .gath => .cpGath m
  | .cp .sig => .cpSig m
  | .cp .stat => .cpStat m
  | .rm .rld => .rmRld m
  | .rm .rst => .rmRst m
  | .rm .racc => .rmRacc m
  | .rm .rfop => .rmRfop m
  | .rm .batch => .rmBatch m
  | .rm .unbatch => .rmUnbatch m
  | .sq .launch => .sqLaunch m
  | .sq .task => .sqTask m
  | .sq .dec => .sqDec m
  | .sq .call => .sqCall m
  | .sq .fillf => .sqFillf m
  | .sq .spawn => .sqSpawn m
  | .sq .tickets => .sqTickets m
  | .sq .gang => .sqGang m
  | .tr .relaunch => .trRelaunch m
  | .tr .mark => .trMark m
  | .tr .slot => .trSlot m
  | .tr .unslot => .trUnslot m
  | .tr .info => .trInfo m

/-- The trigger and the operand fields of a row that has an encoding of its own (02 R99); `none` for the
canonical NOP, for a general word and for a step that no word encodes. -/
def Instr.trigger? (i : Instr) : Option (Op × Arg) :=
  match i with
  | .ctlJmp m => some (.ctl .jmp, m)
  | .ctlBra m => some (.ctl .bra, m)
  | .ctlCall m => some (.ctl .call, m)
  | .ctlRet m => some (.ctl .ret, m)
  | .ctlJtab m => some (.ctl .jtab, m)
  | .ctlBre m => some (.ctl .bre, m)
  | .ctlSbwait m => some (.ctl .sbwait, m)
  | .ctlDrain m => some (.ctl .drain, m)
  | .ctlYield m => some (.ctl .yield, m)
  | .ctlWait m => some (.ctl .wait, m)
  | .ctlDone m => some (.ctl .done, m)
  | .ctlTrap m => some (.ctl .trap, m)
  | .ctlRett m => some (.ctl .rett, m)
  | .ctlSetrm m => some (.ctl .setrm, m)
  | .ctlSetxb m => some (.ctl .setxb, m)
  | .ctlSetovh m => some (.ctl .setovh, m)
  | .ctlWatch m => some (.ctl .watch, m)
  | .ctlUnwatch m => some (.ctl .unwatch, m)
  | .ctlBrk m => some (.ctl .brk, m)
  | .iaAdd u m => some (.ia u .add, m)
  | .iaSub u m => some (.ia u .sub, m)
  | .iaAnd u m => some (.ia u .and, m)
  | .iaOr u m => some (.ia u .or, m)
  | .iaXor u m => some (.ia u .xor, m)
  | .iaAndn u m => some (.ia u .andn, m)
  | .iaShl u m => some (.ia u .shl, m)
  | .iaShr u m => some (.ia u .shr, m)
  | .iaSar u m => some (.ia u .sar, m)
  | .iaRol u m => some (.ia u .rol, m)
  | .iaMin u m => some (.ia u .min, m)
  | .iaMax u m => some (.ia u .max, m)
  | .iaMinu u m => some (.ia u .minu, m)
  | .iaMaxu u m => some (.ia u .maxu, m)
  | .iaEq u m => some (.ia u .eq, m)
  | .iaNe u m => some (.ia u .ne, m)
  | .iaLt u m => some (.ia u .lt, m)
  | .iaLtu u m => some (.ia u .ltu, m)
  | .iaLe u m => some (.ia u .le, m)
  | .iaLeu u m => some (.ia u .leu, m)
  | .iaSext u m => some (.ia u .sext, m)
  | .iaZext u m => some (.ia u .zext, m)
  | .iaClz u m => some (.ia u .clz, m)
  | .iaCtz u m => some (.ia u .ctz, m)
  | .iaPopc u m => some (.ia u .popc, m)
  | .iaBswap u m => some (.ia u .bswap, m)
  | .iaAdds u m => some (.ia u .adds, m)
  | .iaSubs u m => some (.ia u .subs, m)
  | .iaBfx u m => some (.ia u .bfx, m)
  | .iaPass u m => some (.ia u .pass, m)
  | .imMul m => some (.im .mul, m)
  | .imMulh m => some (.im .mulh, m)
  | .imMulhu m => some (.im .mulhu, m)
  | .imMad m => some (.im .mad, m)
  | .imDiv m => some (.im .div, m)
  | .imDivu m => some (.im .divu, m)
  | .imRem m => some (.im .rem, m)
  | .imRemu m => some (.im .remu, m)
  | .fsFadd m => some (.fs .fadd, m)
  | .fsFsub m => some (.fs .fsub, m)
  | .fsFmul m => some (.fs .fmul, m)
  | .fsFma m => some (.fs .fma, m)
  | .fsFmin m => some (.fs .fmin, m)
  | .fsFmax m => some (.fs .fmax, m)
  | .fsFdiv m => some (.fs .fdiv, m)
  | .fsFsqrt m => some (.fs .fsqrt, m)
  | .fsFeq m => some (.fs .feq, m)
  | .fsFlt m => some (.fs .flt, m)
  | .fsFle m => some (.fs .fle, m)
  | .fsFcvti m => some (.fs .fcvti, m)
  | .fsFcvtf m => some (.fs .fcvtf, m)
  | .fsFclass m => some (.fs .fclass, m)
  | .fsFexp2 m => some (.fs .fexp2, m)
  | .fsFlog2 m => some (.fs .flog2, m)
  | .fsFrcp m => some (.fs .frcp, m)
  | .fsFrsq m => some (.fs .frsq, m)
  | .fsFsigm m => some (.fs .fsigm, m)
  | .lsLdb m => some (.ls .ldb, m)
  | .lsLdbu m => some (.ls .ldbu, m)
  | .lsLdh m => some (.ls .ldh, m)
  | .lsLdhu m => some (.ls .ldhu, m)
  | .lsLdw m => some (.ls .ldw, m)
  | .lsLdwu m => some (.ls .ldwu, m)
  | .lsLdd m => some (.ls .ldd, m)
  | .bankFormatRead m => some (.ls .ldd, m)
  | .lsStb m => some (.ls .stb, m)
  | .lsSth m => some (.ls .sth, m)
  | .lsStw m => some (.ls .stw, m)
  | .lsStd m => some (.ls .std, m)
  | .bankFormatWrite m => some (.ls .std, m)
  | .lsLdf m => some (.ls .ldf, m)
  | .lsStf m => some (.ls .stf, m)
  | .swBind n m => some (.sw n .bind, m)
  | .swFeeda n m => some (.sw n .feeda, m)
  | .swFeedb n m => some (.sw n .feedb, m)
  | .swSkip n m => some (.sw n .skip, m)
  | .swRewind n m => some (.sw n .rewind, m)
  | .swStop n m => some (.sw n .stop, m)
  | .tmAt m => some (.tm .arm, m)
  | .tmCancel m => some (.tm .cancel, m)
  | .wrArm m => some (.wr .arm, m)
  | .wrArrive m => some (.wr .arrive, m)
  | .wrQuery m => some (.wr .query, m)
  | .wrDisarm m => some (.wr .disarm, m)
  | .vxVadd m => some (.vx .vadd, m)
  | .vxVsub m => some (.vx .vsub, m)
  | .vxVmul m => some (.vx .vmul, m)
  | .vxVfma m => some (.vx .vfma, m)
  | .vxVfms m => some (.vx .vfms, m)
  | .vxVfnma m => some (.vx .vfnma, m)
  | .vxVmin m => some (.vx .vmin, m)
  | .vxVmax m => some (.vx .vmax, m)
  | .vxVabs m => some (.vx .vabs, m)
  | .vxVneg m => some (.vx .vneg, m)
  | .vxVdiv m => some (.vx .vdiv, m)
  | .vxVsqrt m => some (.vx .vsqrt, m)
  | .vxVrcp m => some (.vx .vrcp, m)
  | .vxVrsq m => some (.vx .vrsq, m)
  | .vxVexp2 m => some (.vx .vexp2, m)
  | .vxVlog2 m => some (.vx .vlog2, m)
  | .vxVsigm m => some (.vx .vsigm, m)
  | .vxViadd m => some (.vx .viadd, m)
  | .vxVisub m => some (.vx .visub, m)
  | .vxVimul m => some (.vx .vimul, m)
  | .vxVimin m => some (.vx .vimin, m)
  | .vxVimax m => some (.vx .vimax, m)
  | .vxViminu m => some (.vx .viminu, m)
  | .vxVimaxu m => some (.vx .vimaxu, m)
  | .vxVand m => some (.vx .vand, m)
  | .vxVor m => some (.vx .vor, m)
  | .vxVxor m => some (.vx .vxor, m)
  | .vxVshl m => some (.vx .vshl, m)
  | .vxVshr m => some (.vx .vshr, m)
  | .vxVsar m => some (.vx .vsar, m)
  | .vxVfeq m => some (.vx .vfeq, m)
  | .vxVflt m => some (.vx .vflt, m)
  | .vxVfle m => some (.vx .vfle, m)
  | .vxVieq m => some (.vx .vieq, m)
  | .vxVilt m => some (.vx .vilt, m)
  | .vxMlog m => some (.vx .mlog, m)
  | .vxVcvt m => some (.vx .vcvt, m)
  | .vxVpack m => some (.vx .vpack, m)
  | .vxVunpack m => some (.vx .vunpack, m)
  | .vxVmov m => some (.vx .vmov, m)
  | .vxVsel m => some (.vx .vsel, m)
  | .vxVbcast m => some (.vx .vbcast, m)
  | .vxVidx m => some (.vx .vidx, m)
  | .vxVperm m => some (.vx .vperm, m)
  | .vxVslide m => some (.vx .vslide, m)
  | .vxVext m => some (.vx .vext, m)
  | .vxVins m => some (.vx .vins, m)
  | .vxVfsum m => some (.vx .vfsum, m)
  | .vxVfrmax m => some (.vx .vfrmax, m)
  | .vxVfrmin m => some (.vx .vfrmin, m)
  | .vxVisum m => some (.vx .visum, m)
  | .vxVld m => some (.vx .vld, m)
  | .vxVst m => some (.vx .vst, m)
  | .vxVldx m => some (.vx .vldx, m)
  | .vxVstx m => some (.vx .vstx, m)
  | .mxCfg m => some (.mx .cfg, m)
  | .mxMma m => some (.mx .mma, m)
  | .mxMmaz m => some (.mx .mmaz, m)
  | .mxZero m => some (.mx .zero, m)
  | .mxLdscale m => some (.mx .ldscale, m)
  | .mxRdacc m => some (.mx .rdacc, m)
  | .mxWracc m => some (.mx .wracc, m)
  | .mxFfl m => some (.mx .ffl, m)
  | .mxStat m => some (.mx .stat, m)
  | .capSend m => some (.cap .send, m)
  | .capRecv m => some (.cap .recv, m)
  | .capSplit m => some (.cap .split, m)
  | .capJoin m => some (.cap .join, m)
  | .capDrop m => some (.cap .drop, m)
  | .capCut m => some (.cap .cut, m)
  | .capFuse m => some (.cap .fuse, m)
  | .capAlloc m => some (.cap .alloc, m)
  | .capFree m => some (.cap .free, m)
  | .capInfo m => some (.cap .info, m)
  | .capNarrow m => some (.cap .narrow, m)
  | .capSub m => some (.cap .sub, m)
  | .capUnsub m => some (.cap .unsub, m)
  | .capMcast m => some (.cap .mcast, m)
  | .capBindmb m => some (.cap .bindmb, m)
  | .capClosemb m => some (.cap .closemb, m)
  | .capPeek m => some (.cap .peek, m)
  | .cpCopy m => some (.cp .copy, m)
  | .cpCopys m => some (.cp .copys, m)
  | .cpFill m => some (.cp .fill, m)
  | .cpGath m => some (.cp .gath, m)
  | .cpSig m => some (.cp .sig, m)
  | .cpStat m => some (.cp .stat, m)
  | .rmRld m => some (.rm .rld, m)
  | .rmRst m => some (.rm .rst, m)
  | .rmRacc m => some (.rm .racc, m)
  | .rmRfop m => some (.rm .rfop, m)
  | .rmBatch m => some (.rm .batch, m)
  | .rmUnbatch m => some (.rm .unbatch, m)
  | .sqLaunch m => some (.sq .launch, m)
  | .sqTask m => some (.sq .task, m)
  | .sqDec m => some (.sq .dec, m)
  | .sqCall m => some (.sq .call, m)
  | .sqFillf m => some (.sq .fillf, m)
  | .sqSpawn m => some (.sq .spawn, m)
  | .sqTickets m => some (.sq .tickets, m)
  | .sqGang m => some (.sq .gang, m)
  | .trRelaunch m => some (.tr .relaunch, m)
  | .trMark m => some (.tr .mark, m)
  | .trSlot m => some (.tr .slot, m)
  | .trUnslot m => some (.tr .unslot, m)
  | .trInfo m => some (.tr .info, m)
  | _ => none

/-! ### The decoder (02 R70 to R74) -/

/-- Why bytes are no word. -/
inductive DecodeError where
  /-- The word's length field asks for more bytes than there are (02 R70). -/
  | truncated
  deriving DecidableEq, Repr

/-- The length in bytes of a word whose first byte is `b` (02 R70). -/
def wordLen (b : Byte) : Nat :=
  match fieldN b.toNat 0 2 with
  | 0 => 4
  | 1 => 12
  | 2 => 12
  | _ => 20

/-- The instruction of a 32-bit word (02 R71, R76). -/
def decodeShort (x : BitVec 32) : Instr :=
  let r := x.extractLsb' 2 30
  let m := Move.ofBits r
  if m.isNop then .nop (r.extractLsb' 26 4) (r.extractLsb' 15 11) (r.extractLsb' 4 11)
  else match m.tgt with
    | .trig op => op.instr m.arg
    | _ => .wordIssue (.one m)

/-- The word of a 96-bit form, with its literal when it has one (02 R72, R73). -/
def decodeForm (x : BitVec 96) (lit : Option Word) : SWord :=
  match (x.extractLsb' 2 2).toNat with
  | 0 => .b3 (.ofBits (x.extractLsb' 4 30)) (.ofBits (x.extractLsb' 34 30)) (.ofBits (x.extractLsb' 64 30))
      (x.extractLsb' 94 2) lit
  | 1 => .bi (.ofBits (x.extractLsb' 4 61)) (.ofBits (x.extractLsb' 65 30)) (x.extractLsb' 95 1) lit
  | _ => .bad (x.extractLsb' 2 1) (x.extractLsb' 4 92) lit

/-- The 64-bit literal that follows the first `n` bytes (02 R70). -/
def litAt (bs : List Byte) (n : Nat) : Word := BitVec.ofNat 64 (leNat ((bs.drop n).take 8))

/-- The instruction of a word given whole, by its length field (02 R70). -/
def decodeWord (bs : List Byte) : Instr :=
  let x := leNat bs
  match x % 4 with
  | 0 => decodeShort (BitVec.ofNat 32 x)
  | 1 => .wordIssue (decodeForm (BitVec.ofNat 96 x) none)
  | 2 => .wordIssue (.oneLit (.ofBits ((BitVec.ofNat 32 x).extractLsb' 2 30)) (litAt bs 4))
  | _ => .wordIssue (decodeForm (BitVec.ofNat 96 x) (some (litAt bs 12)))

/-- The instruction at the head of a list of bytes and the bytes after it, or why there is none (02 R70). -/
def decode (bs : List Byte) : Except DecodeError (Instr × List Byte) :=
  match bs with
  | [] => .error .truncated
  | b :: _ =>
    let n := wordLen b
    if (bs.take n).length = n then .ok (decodeWord (bs.take n), bs.drop n) else .error .truncated

/-- The instruction that the decoder reads from `nbits` bits `w` of the operation table's numbering, every bit
above them zero. -/
def decodeTableWord (nbits w : Nat) : Option Instr :=
  match decode (leBytes 20 (w % 2 ^ nbits)) with
  | .ok (i, _) => some i
  | .error _ => none

/-! ### The encoder -/

/-- The 32 bits of a word of one move with length field `l` (02 R71). -/
def shortBits (m : BitVec 30) (l : BitVec 2) : BitVec 32 := m ++ l

/-- The bytes of a general word (02 R70 to R73). -/
def SWord.encode : SWord → List Byte
  | .one m => leBytes 4 (shortBits m.bits 0b00).toNat
  | .oneLit m lit => leBytes 4 (shortBits m.bits 0b10).toNat ++ leBytes 8 lit.toNat
  | .b3 m1 m2 m3 ls lit => withLit (ls ++ m3.bits ++ m2.bits ++ m1.bits ++ 0b00#2) lit
  | .bi l m top lit => withLit (top ++ m.bits ++ l.bits ++ 0b01#2) lit
  | .bad f rest lit => withLit (rest ++ (1#1 ++ f)) lit
where
  /-- A form's 94 bits above its length field, with the literal when it has one. -/
  withLit (x : BitVec 94) (lit : Option Word) : List Byte :=
    match lit with
    | none => leBytes 12 (x ++ 0b01#2).toNat
    | some v => leBytes 12 (x ++ 0b11#2).toNat ++ leBytes 8 v.toNat

/-- The bytes of an instruction; none for a step that no word encodes (02 R70 to R76). -/
def encode (i : Instr) : List Byte :=
  match i with
  | .wordIssue w => w.encode
  | .nop s o t => leBytes 4 (shortBits (s ++ o ++ t ++ 0b1000#4) 0b00).toNat
  | i =>
    match i.trigger? with
    | some (op, m) => leBytes 4 (shortBits (Move.bits ⟨m.guard, m.org, .trig op, m.sb⟩) 0b00).toNat
    | none => []

end Sys2Proof
end

