-- ==== Sys2Proof/Machine/Formats.lean ====
section
/-! DEFINITION. Number formats and the one rounding function (spec 03). A finite value of every format is a
natural number times a power of two, so exact values and exact sums and products are kept as such; a value that is
no such number (a quotient, a root, a logarithm) is kept as one that lies in the same place between the values any
format can round to. -/

namespace Sys2Proof.Machine

/-- A number format (03 R108). -/
inductive Fmt where
  | bytes | int8 | int32 | int64 | fp32 | bf16 | fp16 | e4m3 | e5m2 | d8
  | mxe4m3 | mxe5m2 | mxe3m2 | mxe2m3 | mxe2m1 | e8m0
  deriving DecidableEq, Repr

/-- The formats in the order of their codes (03 R108). -/
def Fmt.all : List Fmt :=
  [.bytes, .int8, .int32, .int64, .fp32, .bf16, .fp16, .e4m3, .e5m2, .d8,
   .mxe4m3, .mxe5m2, .mxe3m2, .mxe2m3, .mxe2m1, .e8m0]

/-- The format of a 4-bit code (03 R108). -/
def Fmt.ofCode (c : BitVec 4) : Fmt := Fmt.all.getD c.toNat .bytes

/-- The 4-bit code of a format (03 R108). -/
def Fmt.code (f : Fmt) : BitVec 4 := BitVec.ofNat 4 f.ctorIdx

/-- The element size in bits (03 R108). -/
def Fmt.size : Fmt → Nat
  | .bytes => 8 | .int8 => 8 | .int32 => 32 | .int64 => 64 | .fp32 => 32 | .bf16 => 16 | .fp16 => 16
  | .e4m3 => 8 | .e5m2 => 8 | .d8 => 8 | .mxe4m3 => 8 | .mxe5m2 => 8 | .mxe3m2 => 6 | .mxe2m3 => 6
  | .mxe2m1 => 4 | .e8m0 => 8

/-- An MX format, whose elements have scales (03 R118). -/
def Fmt.isMx : Fmt → Bool
  | .mxe4m3 | .mxe5m2 | .mxe3m2 | .mxe2m3 | .mxe2m1 => true
  | _ => false

/-- A binary floating-point format (03 R111). -/
structure BinFmt where
  /-- width of the exponent field -/
  w : Nat
  /-- width of the fraction field -/
  m : Nat
  /-- exponent bias -/
  bias : Nat
  /-- encoding of the largest finite value, sign 0 -/
  maxEnc : Nat
  /-- the format has infinities -/
  hasInf : Bool
  /-- the canonical NaN, where there is one -/
  nan : Option Nat
  deriving DecidableEq, Repr

/-- The binary format of a format's values; for an MX format, of its elements (03 R111, R118). -/
def Fmt.bin? : Fmt → Option BinFmt
  | .fp32 => some ⟨8, 23, 127, 0x7F7FFFFF, true, some 0x7FC00000⟩
  | .bf16 => some ⟨8, 7, 127, 0x7F7F, true, some 0x7FC0⟩
  | .fp16 => some ⟨5, 10, 15, 0x7BFF, true, some 0x7E00⟩
  | .e4m3 => some ⟨4, 3, 7, 0x7E, false, some 0x7F⟩
  | .mxe4m3 => some ⟨4, 3, 7, 0x7E, false, some 0x7F⟩
  | .e5m2 => some ⟨5, 2, 15, 0x7B, true, some 0x7E⟩
  | .mxe5m2 => some ⟨5, 2, 15, 0x7B, true, some 0x7E⟩
  | .mxe3m2 => some ⟨3, 2, 3, 0x1F, false, none⟩
  | .mxe2m3 => some ⟨2, 3, 1, 0x1F, false, none⟩
  | .mxe2m1 => some ⟨2, 1, 1, 0x7, false, none⟩
  | _ => none

/-- The width in bits of a signed integer format (03 R110). -/
def Fmt.int? : Fmt → Option Nat
  | .int8 => some 8
  | .int32 => some 32
  | .int64 => some 64
  | _ => none

/-! ### Values -/

/-- A value: NaN (signalling or quiet), an infinity, or (-1)^neg * m * 2^e. A zero keeps its sign. -/
inductive Num where
  | nan (signalling : Bool)
  | inf (neg : Bool)
  | fin (neg : Bool) (m : Nat) (e : Int)
  deriving DecidableEq, Repr

/-- An integer as a value. -/
def Num.ofInt (x : Int) : Num := .fin (decide (x < 0)) x.natAbs 0

/-- The value is NaN. -/
def Num.isNan : Num → Bool
  | .nan _ => true
  | _ => false

/-- The value is a signalling NaN (03 R113). -/
def Num.isSnan : Num → Bool
  | .nan s => s
  | _ => false

/-- The value is a zero. -/
def Num.isZero : Num → Bool
  | .fin _ 0 _ => true
  | _ => false

/-- The value with the sign reversed. -/
def Num.neg : Num → Num
  | .nan s => .nan s
  | .inf n => .inf (!n)
  | .fin n m e => .fin (!n) m e

/-- The sign of a value, of a zero too. -/
def Num.sign : Num → Bool
  | .nan _ => false
  | .inf n => n
  | .fin n _ _ => n

/-- The value times a power of two. -/
def Num.scale (k : Int) : Num → Num
  | .fin n m e => .fin n m (e + k)
  | x => x

/-- A signed integer `x` such that the finite value is `x * 2^e`, for an `e` no larger than its own. -/
def Num.atExp (e : Int) : Num → Int
  | .fin n m f => let v : Int := (m * 2 ^ (f - e).toNat : Nat); if n then -v else v
  | _ => 0

/-- The exponent of a finite value's unit. -/
def Num.exp : Num → Int
  | .fin _ _ e => e
  | _ => 0

/-- The exact order of two values that are no NaN; both zeros are equal. -/
def Num.le (x y : Num) : Bool :=
  match x, y with
  | .inf n, .inf n' => n || !n'
  | .inf n, _ => n
  | _, .inf n => !n
  | x, y => let e := min x.exp y.exp; decide (x.atExp e ≤ y.atExp e)

/-- floor(log2 |x|) of a finite non-zero value. -/
def Num.log2 : Num → Int
  | .fin _ m e => (Nat.log2 m : Int) + e
  | _ => 0

/-- The value that stands for (-1)^neg * (n / d) * 2^e: exact when it is a multiple of 2^(e-k), and otherwise halfway
between two neighbouring multiples, where every rounding of a coarser grid finds it as it would find the
quotient. -/
def Num.ratio (neg : Bool) (n d : Nat) (e : Int) (k : Nat) : Num :=
  let q := n * 2 ^ k / d
  if n * 2 ^ k % d = 0 then .fin neg q (e - k) else .fin neg (2 * q + 1) (e - k - 1)

/-! ### Flags (03 R128) -/

/-- The five exception flags: NX bit 0, UF bit 1, OF bit 2, DZ bit 3, NV bit 4 (03 R128). -/
abbrev Flags := BitVec 5

/-- No flag. -/
def Flags.none : Flags := 0
/-- Inexact. -/
def Flags.nx : Flags := 0b00001
/-- Underflow. -/
def Flags.uf : Flags := 0b00010
/-- Overflow. -/
def Flags.of : Flags := 0b00100
/-- Divide by zero. -/
def Flags.dz : Flags := 0b01000
/-- Invalid. -/
def Flags.nv : Flags := 0b10000

/-- The flag when the condition holds. -/
def Flags.when (b : Bool) (f : Flags) : Flags := if b then f else 0

/-- An encoding and the flags that its rounding raised. -/
structure Rounded where
  bits : Nat
  flags : Flags
  deriving DecidableEq, Repr

/-! ### Rounding modes (03 R122, R124) -/

/-- The step from a magnitude to an integer number of units: `n` whole units, and the rest `r` of `2 * half`
parts of one unit, rounded in `mode` for a value of the given sign (03 R122). -/
def roundUnits (mode : BitVec 3) (neg : Bool) (n r half : Nat) : Nat :=
  if r = 0 then n
  else match mode.toNat with
    | 0 => if r < half then n else if half < r then n + 1 else n + n % 2
    | 1 => n
    | 2 => if neg then n + 1 else n
    | 3 => if neg then n else n + 1
    | 4 => if r < half then n else n + 1
    | _ => if n % 2 = 1 then n else n + 1

/-- The magnitude m * 2^e in units of 2^q: the whole units, the rest, and half a unit in parts of the rest. -/
def unitsOf (m : Nat) (e q : Int) : Nat × Nat × Nat :=
  if q ≤ e then (m * 2 ^ (e - q).toNat, 0, 1)
  else let k := (q - e).toNat; (m / 2 ^ k, m % 2 ^ k, 2 ^ (k - 1))

/-- A sign bit before `n` bits. -/
def withSign (neg : Bool) (n bits : Nat) : Nat := if neg then 2 ^ n + bits else bits

/-- A magnitude past the largest finite value (03 R123). `top` is the encoding of the largest finite value, `inf`
what stands for infinity, `n` the place of the sign bit. -/
def overflowBits (mode : BitVec 3) (sat neg : Bool) (top inf : Nat) : Nat :=
  if sat then top
  else match mode.toNat with
    | 0 => inf
    | 4 => inf
    | 2 => if neg then inf else top
    | 3 => if neg then top else inf
    | _ => top

/-- An encoding of a binary format with its sign; a NaN has sign 0 (03 R113). -/
def BinFmt.signed (f : BinFmt) (neg : Bool) (bits : Nat) : Nat :=
  if some bits = f.nan then bits else withSign neg (f.w + f.m) bits

/-- What a binary format has for infinity: its infinity, else the canonical NaN of E4M3, else its largest finite
value (03 R122, R123). -/
def BinFmt.infBits (f : BinFmt) : Nat :=
  if f.hasInf then (2 ^ f.w - 1) * 2 ^ f.m else f.nan.getD f.maxEnc

/-- Round into a binary floating-point format (03 R122, R123, R128). -/
def roundBin (f : BinFmt) (x : Num) (mode : BitVec 3) (sat : Bool) : Rounded :=
  match x with
  | .nan s => match f.nan with
    | some c => ⟨c, Flags.when s Flags.nv⟩
    | none => ⟨0, Flags.nv⟩
  | .inf neg => ⟨f.signed neg (if sat then f.maxEnc else f.infBits), 0⟩
  | .fin neg m e =>
    if m = 0 then ⟨withSign neg (f.w + f.m) 0, 0⟩
    else
      let top : Int := (Nat.log2 m : Int) + e
      let q : Int := max top (1 - f.bias) - f.m
      let (n, r, half) := unitsOf m e q
      let u := roundUnits mode neg n r half
      let bits := (q + f.m + f.bias - 1).toNat * 2 ^ f.m + u
      if f.maxEnc < bits then
        ⟨f.signed neg (overflowBits mode sat neg f.maxEnc f.infBits), Flags.of ||| Flags.nx⟩
      else ⟨withSign neg (f.w + f.m) bits,
        Flags.when (r ≠ 0) Flags.nx ||| Flags.when (decide (r ≠ 0) && decide (bits < 2 ^ f.m)) Flags.uf⟩

/-- Round into an integer of `n` bits from a float or an infinity or NaN (03 R127). -/
def roundInt (n : Nat) (x : Num) (mode : BitVec 3) : Int × Flags :=
  let lo : Int := -(2 ^ (n - 1) : Nat)
  let hi : Int := (2 ^ (n - 1) : Nat) - 1
  match x with
  | .nan _ => (0, Flags.nv)
  | .inf neg => (if neg then lo else hi, Flags.nv)
  | .fin neg m e =>
    let (k, r, half) := unitsOf m e 0
    let u : Int := roundUnits mode neg k r half
    let v : Int := if neg then -u else u
    if v < lo then (lo, Flags.nv ||| Flags.nx)
    else if hi < v then (hi, Flags.nv ||| Flags.nx)
    else (v, Flags.when (r ≠ 0) Flags.nx)

/-- An integer source into an integer of `n` bits: clamped when SAT is 1, else reduced modulo 2^n; no flag
(03 R127). -/
def intToInt (n : Nat) (x : Int) (sat : Bool) : Int :=
  let lo : Int := -(2 ^ (n - 1) : Nat)
  let hi : Int := (2 ^ (n - 1) : Nat) - 1
  if sat then max lo (min hi x) else (BitVec.ofInt n x).toInt

/-! ### D8 (03 R114 to R116) -/

/-- The decades of D8 in rising order: marker place t, the E bits, and the decimal exponent (03 R114). -/
def d8Decades : List (Nat × Nat × Int) :=
  [(5, 0, -10), (4, 0, -9), (4, 1, -8), (3, 0, -7), (3, 1, -6), (2, 0, -5), (2, 1, -4), (1, 0, -3), (1, 1, -2),
   (0, 0, -1), (0, 1, 0), (1, 2, 1), (1, 3, 2), (2, 2, 3), (2, 3, 4), (3, 2, 5), (3, 3, 6), (4, 2, 7), (4, 3, 8),
   (5, 1, 9)]

/-- The width f of F for a marker at place t (03 R114). -/
def d8Width (t : Nat) : Nat := if t = 0 then 5 else 4 - min t 4

/-- The body with marker place t, E bits `hi` and F bits `f` (03 R114). -/
def d8Body (t hi f : Nat) : Nat := hi * 2 ^ (if t = 0 then 6 else if t = 5 then 6 else 5) + f * 2 ^ (t + 1) + 2 ^ t

/-- Decimal magnitude (1 + 9 F / 2^f) * 10^e as the FP32 value nearest to it, ties to even (03 R114, R115). -/
def d8Fp32 (f : Nat) (w : Nat) (e : Int) : Nat :=
  let n := (2 ^ w + 9 * f) * 10 ^ e.toNat
  let d := 2 ^ w * 10 ^ (-e).toNat
  match Fmt.fp32.bin? with
  | some b => (roundBin b (Num.ratio false n d 0 120) 0 false).bits
  | none => 0

/-- The magnitudes of D8 above zero in rank order: the body and the FP32 encoding of its value (03 R115, R116). -/
def d8Ranked : List (Nat × Nat) :=
  d8Decades.flatMap (fun (t, hi, e) =>
    (List.range (2 ^ d8Width t)).map (fun f => (d8Body t hi f, d8Fp32 f (d8Width t) e)))

/-- A binary format's encoding as a value (03 R112, R113). -/
def decodeBin (f : BinFmt) (bits : Nat) : Num :=
  let s := fieldN bits (f.w + f.m) 1 = 1
  let mag := fieldN bits 0 (f.w + f.m)
  let e := mag / 2 ^ f.m
  let fr := mag % 2 ^ f.m
  if f.hasInf ∧ e = 2 ^ f.w - 1 then
    if fr = 0 then .inf s else .nan (decide (fr < 2 ^ (f.m - 1)) && decide (5 ≤ f.m))
  else if !f.hasInf ∧ some mag = f.nan then .nan false
  else if e = 0 then .fin s fr (1 - f.bias - f.m)
  else .fin s (2 ^ f.m + fr) (e - f.bias - f.m)

/-- An FP32 encoding as a value (03 R112). -/
def decodeFp32 (bits : Nat) : Num :=
  match Fmt.fp32.bin? with
  | some b => decodeBin b bits
  | none => .nan false

/-- A D8 code as a value: the FP32 value of its magnitude (03 R114, R115). -/
def decodeD8 (c : Nat) : Num :=
  let neg := fieldN c 7 1 = 1
  let body := c % 128
  if c % 256 = 0 then .fin false 0 0
  else if body = 0 then .nan false
  else if body = 0x40 then .inf neg
  else match d8Ranked.find? (fun e => e.1 = body) with
    | some (_, b) => if neg then (decodeFp32 b).neg else decodeFp32 b
    | none => .nan false

/-- Round into D8, over the FP32 values of its magnitudes and the virtual 10^10 above them (03 R116, R122,
R123). -/
def roundD8 (x : Num) (mode : BitVec 3) (sat : Bool) : Rounded :=
  match x with
  | .nan s => ⟨0x80, Flags.when s Flags.nv⟩
  | .inf neg => ⟨withSign neg 7 (if sat then 0x60 else 0x40), 0⟩
  | .fin neg m e =>
    if m = 0 then ⟨0, 0⟩
    else
      let mag : Num := .fin false m e
      let v : List (Nat × Num) := ((0, .fin false 0 0) :: d8Ranked.map (fun p => (p.1, decodeFp32 p.2))) ++
        [(0, decodeFp32 (d8Fp32 0 0 10))]
      let low := (v.zipIdx.filter (fun p => p.1.2.le mag)).getLastD ((0, .fin false 0 0), 0)
      let up : Num := ((v[low.2 + 1]?).getD low.1).2
      let g := min mag.exp (min low.1.2.exp up.exp)
      let r := (mag.atExp g - low.1.2.atExp g).toNat
      let gap := (up.atExp g - low.1.2.atExp g).toNat
      let rank := roundUnits mode neg low.2 (2 * r) gap
      if 126 < rank then
        ⟨withSign neg 7 (overflowBits mode sat neg 0x60 0x40), Flags.of ||| Flags.nx⟩
      else
        let body := (v.getD rank (0, .fin false 0 0)).1
        ⟨if body = 0 then 0 else withSign neg 7 body,
          Flags.when (r ≠ 0) Flags.nx ||| Flags.when (decide (r ≠ 0) && decide (rank = 0)) Flags.uf⟩

/-! ### E8M0 (03 R117) -/

/-- Round a magnitude into E8M0 (03 R117). The value above 2^127 is read as 2^128 (log 20). -/
def roundE8m0 (x : Num) (mode : BitVec 3) (sat : Bool) : Rounded :=
  match x with
  | .nan s => ⟨0xFF, Flags.when s Flags.nv⟩
  | .inf neg => ⟨if sat then 0xFE else 0xFF, Flags.when neg Flags.nv⟩
  | .fin neg m e =>
    if m = 0 then ⟨0, Flags.nx⟩
    else
      let nv := Flags.when neg Flags.nv
      let k : Int := (Nat.log2 m : Int) + e
      if k < -127 then ⟨0, nv ||| Flags.nx⟩
      else
        let r := m - 2 ^ Nat.log2 m
        let code := roundUnits mode false (k + 127).toNat (2 * r) (2 ^ Nat.log2 m)
        if 254 < code ∨ 127 < k then ⟨if sat then 0xFE else 0xFF, nv ||| Flags.of ||| Flags.nx⟩
        else ⟨code, nv ||| Flags.when (r ≠ 0) Flags.nx⟩

/-- An E8M0 code as a value (03 R117). -/
def decodeE8m0 (c : Nat) : Num := if c % 256 = 0xFF then .nan false else .fin false 1 (c % 256 - 127 : Int)

/-! ### Decode and Round (03 R112, R118, R122) -/

/-- Decode(fmt, bits); an MX format is decoded as its bare element (03 R112, R115, R117, R118). -/
def Fmt.decode (f : Fmt) (bits : Nat) : Num :=
  match f.bin? with
  | some b => decodeBin b bits
  | none => match f.int? with
    | some n => Num.ofInt (BitVec.ofNat n bits).toInt
    | none => match f with
      | .d8 => decodeD8 bits
      | .e8m0 => decodeE8m0 bits
      | _ => Num.ofInt (bits % 256 : Nat)

/-- Round(fmt, x, mode, sat) of a value that is not an integer source; BYTES is never rounded into, and SAT has no
effect on FP32 (03 R122, R126). -/
def Fmt.round (f : Fmt) (x : Num) (mode : BitVec 3) (sat : Bool) : Rounded :=
  match f.bin? with
  | some b => roundBin b x mode (sat && f != .fp32)
  | none => match f.int? with
    | some n => let (v, fl) := roundInt n x mode; ⟨(BitVec.ofInt n v).toNat, fl⟩
    | none => match f with
      | .d8 => roundD8 x mode sat
      | .e8m0 => roundE8m0 x mode sat
      | _ => ⟨0, 0⟩

/-- An MX element's value: the element times its group's scale; scale 0xFF makes it NaN (03 R118). -/
def mxValue (x : Num) (scale : Nat) : Num :=
  if scale % 256 = 0xFF then .nan false else x.scale (scale % 256 - 127 : Int)

/-- A value divided by its destination group's scale; 0xFF counts as 127 (03 R121). -/
def mxQuotient (x : Num) (scale : Nat) : Num :=
  x.scale (127 - (if scale % 256 = 0xFF then 127 else scale % 256) : Int)

/-- The source value of a conversion from format `f`: whether it is an integer source, for R127 (03 R127). -/
def Fmt.isInt (f : Fmt) : Bool := f.int?.isSome

/-- Convert the value of an element of format `src` into the bits of format `dst` (03 R121 rule 3, R127). -/
def convertNum (src dst : Fmt) (x : Num) (mode : BitVec 3) (sat : Bool) : Rounded :=
  match dst.int? with
  | some n =>
    if src.isInt then ⟨(BitVec.ofInt n (intToInt n (x.atExp (min x.exp 0)) sat)).toNat, 0⟩ else dst.round x mode sat
  | none => dst.round x mode sat

/-- Convert element bits between formats; scales of 2^(s-127) apply to MX elements (03 R121). -/
def convertBits (src dst : Fmt) (srcScale dstScale : Nat) (bits : Nat) (mode : BitVec 3) (sat : Bool) : Rounded :=
  if src = dst ∨ src = .bytes ∨ dst = .bytes then ⟨bits, 0⟩
  else
    let x := if src.isMx then mxValue (src.decode bits) srcScale else src.decode bits
    convertNum src dst (if dst.isMx then mxQuotient x dstScale else x) mode sat

/-! ### MX scales (03 R130) -/

/-- The exponent of an element format's largest normal (03 R130). -/
def mxEmax : Fmt → Int
  | .mxe4m3 => 8 | .mxe5m2 => 15 | .mxe3m2 => 4 | .mxe2m3 => 2 | _ => 2

/-- The larger of two magnitudes. -/
def maxMag (x y : Num) : Num :=
  match x, y with
  | .fin _ m e, .fin _ m' e' => if (Num.fin false m e).le (.fin false m' e') then .fin false m' e' else .fin false m e
  | x, _ => x

/-- ScaleOf(elemfmt, v): the E8M0 scale of a group of exact values (03 R130). -/
def scaleOf (f : Fmt) (v : List Num) : Nat :=
  if v.any (fun x => match x with | .fin _ _ _ => false | _ => true) then 0xFF
  else
    let x := v.foldl maxMag (.fin false 0 0)
    if x.isZero then 127
    else (min (max (x.log2 - mxEmax f) (-127)) 127 + 127).toNat

end Sys2Proof.Machine
end

