-- ==== Sys2Proof/Machine/Float.lean ====
section
/-! DEFINITION. The FP32 functions that the scalar float unit and the vector engine share (06 R201 to R203). Each
takes encodings and gives an encoding with its flags; the exact result is rounded once. -/

namespace Sys2Proof.Machine

/-- The canonical FP32 NaN (03 R111). -/
def fpNan : Nat := 0x7FC00000

/-- An FP32 infinity. -/
def fpInf (neg : Bool) : Nat := withSign neg 31 0x7F800000

/-- Round into FP32; SAT has no effect on an FP32 result (06 R201). -/
def roundFp32 (x : Num) (mode : BitVec 3) : Rounded := Fmt.fp32.round x mode false

/-- The canonical NaN, with NV when an operand was signalling (06 R202). -/
def nanOf (xs : List Num) : Rounded := ⟨fpNan, Flags.when (xs.any Num.isSnan) Flags.nv⟩

/-- The invalid result: the canonical NaN with NV (06 R202). -/
def invalid : Rounded := ⟨fpNan, Flags.nv⟩

/-- The exact sum of two finite values, with the sign of an exact zero sum (06 R202). -/
def addFin (mode : BitVec 3) (x y : Num) : Num :=
  let e := min x.exp y.exp
  let s := x.atExp e + y.atExp e
  if s = 0 then .fin (if x.isZero && y.isZero && x.sign == y.sign then x.sign else decide (mode = 2)) 0 0
  else .fin (decide (s < 0)) s.natAbs e

/-- The sum of two values that are no NaN; `none` for opposite infinities (06 R202). -/
def addNum? (mode : BitVec 3) (x y : Num) : Option Num :=
  match x, y with
  | .inf n, .inf n' => if n = n' then some x else none
  | .inf _, _ => some x
  | _, .inf _ => some y
  | _, _ => some (addFin mode x y)

/-- The product of two values that are no NaN; `none` for 0 times an infinity (06 R202). -/
def mulNum? (x y : Num) : Option Num :=
  let s := x.sign != y.sign
  match x, y with
  | .fin _ m e, .fin _ m' e' => some (.fin s (m * m') (e + e'))
  | _, _ => if x.isZero || y.isZero then none else some (.inf s)

/-- ADD(a, b) of values (06 R202). -/
def fpAddNum (mode : BitVec 3) (x y : Num) : Rounded :=
  if x.isNan || y.isNan then nanOf [x, y]
  else match addNum? mode x y with
    | none => invalid
    | some v => roundFp32 v mode

/-- ADD(a, b) (06 R202). -/
def fpAdd (mode : BitVec 3) (a b : Nat) : Rounded := fpAddNum mode (decodeFp32 a) (decodeFp32 b)

/-- SUB(a, b) (06 R202). -/
def fpSub (mode : BitVec 3) (a b : Nat) : Rounded := fpAddNum mode (decodeFp32 a) (decodeFp32 b).neg

/-- MUL(a, b) (06 R202). -/
def fpMul (mode : BitVec 3) (a b : Nat) : Rounded :=
  let x := decodeFp32 a
  let y := decodeFp32 b
  if x.isNan || y.isNan then nanOf [x, y]
  else match mulNum? x y with
    | none => invalid
    | some v => roundFp32 v mode

/-- FMA of values: x * y + z, rounded once; 0 times an infinity is invalid even when z is a quiet NaN
(06 R202). -/
def fpFmaNum (mode : BitVec 3) (x y z : Num) : Rounded :=
  if x.isNan || y.isNan then nanOf [x, y, z]
  else match mulNum? x y with
    | none => invalid
    | some p => if z.isNan then nanOf [z]
      else match addNum? mode p z with
        | none => invalid
        | some v => roundFp32 v mode

/-- FMA(a, b, c) (06 R202). -/
def fpFma (mode : BitVec 3) (a b c : Nat) : Rounded := fpFmaNum mode (decodeFp32 a) (decodeFp32 b) (decodeFp32 c)

/-- FMS(a, b, c) (06 R202). -/
def fpFms (mode : BitVec 3) (a b c : Nat) : Rounded :=
  fpFmaNum mode (decodeFp32 a) (decodeFp32 b) (decodeFp32 c).neg

/-- FNMA(a, b, c) (06 R202). -/
def fpFnma (mode : BitVec 3) (a b c : Nat) : Rounded :=
  fpFmaNum mode (decodeFp32 a).neg (decodeFp32 b) (decodeFp32 c)

/-- Whether a comes before b in the order of MIN and MAX, where -0 < +0 (06 R202). -/
def fpBefore (x y : Num) : Bool := if x.isZero && y.isZero then x.sign && !y.sign else x.le y && !y.le x

/-- MIN or MAX: the operand that `first` picks (06 R202). -/
def fpPick (takeMin : Bool) (a b : Nat) : Rounded :=
  let x := decodeFp32 a
  let y := decodeFp32 b
  let fl := Flags.when (x.isSnan || y.isSnan) Flags.nv
  if x.isNan && y.isNan then ⟨fpNan, fl⟩
  else if x.isNan then ⟨b % 2 ^ 32, fl⟩
  else if y.isNan then ⟨a % 2 ^ 32, fl⟩
  else ⟨(if takeMin then (if fpBefore y x then b else a) else (if fpBefore x y then b else a)) % 2 ^ 32, 0⟩

/-- MIN(a, b) (06 R202). -/
def fpMin (a b : Nat) : Rounded := fpPick true a b

/-- MAX(a, b) (06 R202). -/
def fpMax (a b : Nat) : Rounded := fpPick false a b

/-- ABS(a) (06 R202). -/
def fpAbs (a : Nat) : Rounded :=
  let x := decodeFp32 a
  if x.isNan then nanOf [x] else ⟨a % 2 ^ 31, 0⟩

/-- NEG(a) (06 R202). -/
def fpNeg (a : Nat) : Rounded :=
  let x := decodeFp32 a
  if x.isNan then nanOf [x] else ⟨withSign (!x.sign) 31 (a % 2 ^ 31), 0⟩

/-- DIV(a, b) of values (06 R202). -/
def fpDivNum (mode : BitVec 3) (x y : Num) : Rounded :=
  let s := x.sign != y.sign
  if x.isNan || y.isNan then nanOf [x, y]
  else match x, y with
    | .inf _, .inf _ => invalid
    | .inf _, _ => ⟨fpInf s, 0⟩
    | _, .inf _ => ⟨withSign s 31 0, 0⟩
    | .fin _ m e, .fin _ m' e' =>
      if m' = 0 then (if m = 0 then invalid else ⟨fpInf s, Flags.dz⟩)
      else if m = 0 then ⟨withSign s 31 0, 0⟩
      else roundFp32 (Num.ratio s m m' (e - e') 64) mode
    | _, _ => invalid

/-- DIV(a, b) (06 R202). -/
def fpDiv (mode : BitVec 3) (a b : Nat) : Rounded := fpDivNum mode (decodeFp32 a) (decodeFp32 b)

/-- RCP(a) (06 R202). -/
def fpRcp (mode : BitVec 3) (a : Nat) : Rounded := fpDivNum mode (.fin false 1 0) (decodeFp32 a)

/-- The integer square root, by its bits from the place `k` down. -/
def isqrtFrom (n : Nat) : Nat → Nat → Nat
  | 0, r => r
  | k + 1, r => let s := r + 2 ^ k; isqrtFrom n k (if s * s ≤ n then s else r)

/-- The integer square root. -/
def isqrt (n : Nat) : Nat := isqrtFrom n (Nat.log2 n / 2 + 1) 0

/-- SQRT(a) (06 R202). The root of +0 is +0 in every mode (log 110). -/
def fpSqrt (mode : BitVec 3) (a : Nat) : Rounded :=
  match decodeFp32 a with
  | .nan s => nanOf [.nan s]
  | .inf neg => if neg then invalid else ⟨fpInf false, 0⟩
  | .fin neg m e =>
    if m = 0 then ⟨withSign neg 31 0, 0⟩
    else if neg then invalid
    else
      let (m, e) := if e % 2 = 0 then (m, e) else (2 * m, e - 1)
      let q := isqrt (m * 2 ^ 80)
      if q * q = m * 2 ^ 80 then roundFp32 (.fin false q (e / 2 - 40)) mode
      else roundFp32 (.fin false (2 * q + 1) (e / 2 - 41)) mode

/-- RSQ(a) (06 R202). -/
def fpRsq (mode : BitVec 3) (a : Nat) : Rounded :=
  match decodeFp32 a with
  | .nan s => nanOf [.nan s]
  | .inf neg => if neg then invalid else ⟨0, 0⟩
  | .fin neg m e =>
    if m = 0 then ⟨fpInf neg, Flags.dz⟩
    else if neg then invalid
    else
      let (m, e) := if e % 2 = 0 then (m, e) else (2 * m, e - 1)
      let q := isqrt (2 ^ 160 / m)
      if q * q * m = 2 ^ 160 then roundFp32 (.fin false q (-(e / 2) - 80)) mode
      else roundFp32 (.fin false (2 * q + 1) (-(e / 2) - 81)) mode

/-! ### Functions that no power of two gives: fixed-point numbers of 400 fraction bits (log 21) -/

/-- The number of fraction bits of the fixed-point numbers below. -/
def fxBits : Nat := 400

/-- The product of two fixed-point numbers, cut. -/
def fxMul (x y : Nat) : Nat := x * y / 2 ^ fxBits

/-- Terms of the exponential series from place `k` on: their sum, `t` the term at `k`. -/
def expSum (x : Nat) : Nat → Nat → Nat → Nat
  | 0, _, _ => 0
  | fuel + 1, k, t => t + expSum x fuel (k + 1) (fxMul t x / (k + 1))

/-- e^x for a fixed-point x below 1. -/
def fxExp (x : Nat) : Nat := expSum x 120 0 (2 ^ fxBits)

/-- Terms z^(2k+1)/(2k+1) from place `k` on: their sum, `p` the power and `zz` the square of z. -/
def atanhSum (zz : Nat) : Nat → Nat → Nat → Nat
  | 0, _, _ => 0
  | fuel + 1, k, p => p / (2 * k + 1) + atanhSum zz fuel (k + 1) (fxMul p zz)

/-- ln x for a rational n/d from 1 to 2: twice the area tangent of (n-d)/(n+d). -/
def fxLn (n d : Nat) : Nat :=
  let z := (n - d) * 2 ^ fxBits / (n + d)
  2 * atanhSum (fxMul z z) 140 0 z

/-- ln 2. -/
def fxLn2 : Nat := fxLn 2 1

/-- A fixed-point magnitude as a value that lies between the multiples of 2^(e-300) around it. -/
def fxNum (neg : Bool) (x : Nat) (e : Int) : Num := .fin neg (2 * (x / 2 ^ (fxBits - 300)) + 1) (e - 301)

/-- EXP2(a) (06 R202). -/
def fpExp2 (mode : BitVec 3) (a : Nat) : Rounded :=
  match decodeFp32 a with
  | .nan s => nanOf [.nan s]
  | .inf neg => if neg then ⟨0, 0⟩ else ⟨fpInf false, 0⟩
  | .fin neg m e =>
    if m = 0 then ⟨0x3F800000, 0⟩
    else if 9 ≤ (Nat.log2 m : Int) + e then roundFp32 (.fin false 1 (if neg then -400 else 400)) mode
    else
      let x := (Num.fin neg m e).atExp (-(fxBits : Int))
      let n := x / (2 ^ fxBits : Nat)
      let f := (x % (2 ^ fxBits : Nat)).toNat
      if f = 0 then roundFp32 (.fin false 1 n) mode
      else roundFp32 (fxNum false (fxExp (fxMul f fxLn2)) n) mode

/-- LOG2(a) (06 R202). An exact zero is +0 in every mode, as IEEE 754-2019 has it (log 110). -/
def fpLog2 (mode : BitVec 3) (a : Nat) : Rounded :=
  match decodeFp32 a with
  | .nan s => nanOf [.nan s]
  | .inf neg => if neg then invalid else ⟨fpInf false, 0⟩
  | .fin neg m e =>
    if m = 0 then ⟨fpInf true, Flags.dz⟩
    else if neg then invalid
    else
      let k := Nat.log2 m
      let n := (k : Int) + e
      if m = 2 ^ k then roundFp32 (Num.ofInt n) mode
      else
        let v : Int := n * (2 ^ fxBits : Nat) + (fxLn m (2 ^ k) * 2 ^ fxBits / fxLn2 : Nat)
        roundFp32 (fxNum (decide (v < 0)) v.natAbs 0) mode

/-- SIGM(a) (06 R202). -/
def fpSigm (mode : BitVec 3) (a : Nat) : Rounded :=
  match decodeFp32 a with
  | .nan s => nanOf [.nan s]
  | .inf neg => if neg then ⟨0, 0⟩ else ⟨0x3F800000, 0⟩
  | .fin neg m e =>
    if m = 0 then ⟨0x3F000000, 0⟩
    else if 7 ≤ (Nat.log2 m : Int) + e then
      roundFp32 (if neg then .fin false 1 (-180) else .fin false (2 ^ 180 - 1) (-180)) mode
    else
      let x := ((Num.fin false m e).atExp (-(fxBits : Int))).toNat
      let k := x / fxLn2
      let er := fxExp (x - k * fxLn2)
      let small := 2 ^ (2 * fxBits) / er / 2 ^ k
      let top := if neg then small else 2 ^ fxBits
      roundFp32 (fxNum false (top * 2 ^ fxBits / (2 ^ fxBits + small)) 0) mode

/-! ### Comparisons (06 R203) -/

/-- A comparison's outcome, 0 or 1. -/
def fpCompare (signalsNan : Bool) (rel : Num → Num → Bool) (a b : Nat) : Rounded :=
  let x := decodeFp32 a
  let y := decodeFp32 b
  if x.isNan || y.isNan then ⟨0, Flags.when (signalsNan || x.isSnan || y.isSnan) Flags.nv⟩
  else ⟨if rel x y then 1 else 0, 0⟩

/-- EQ(a, b) (06 R203). -/
def fpEq (a b : Nat) : Rounded := fpCompare false (fun x y => x.le y && y.le x) a b

/-- LT(a, b) (06 R203). -/
def fpLt (a b : Nat) : Rounded := fpCompare true (fun x y => x.le y && !y.le x) a b

/-- LE(a, b) (06 R203). -/
def fpLe (a b : Nat) : Rounded := fpCompare true (fun x y => x.le y) a b

/-- The class mask of an FP32 encoding (06 R206). -/
def fpClass (a : Nat) : Nat :=
  match decodeFp32 a with
  | .nan s => if s then 2 ^ 8 else 2 ^ 9
  | .inf neg => if neg then 2 ^ 0 else 2 ^ 7
  | .fin neg m _ =>
    if m = 0 then (if neg then 2 ^ 3 else 2 ^ 4)
    else if fieldN a 23 8 = 0 then (if neg then 2 ^ 2 else 2 ^ 5)
    else (if neg then 2 ^ 1 else 2 ^ 6)

/-! ### Reductions and group sums (03 R132, R134) -/

/-- One step of the halving tree: the first half combined with the second half, with the flags (03 R134). -/
def reduceStep (op : Nat → Nat → Rounded) (w : List Nat) : List Nat × Flags :=
  let h := w.length / 2
  let r := (List.zip (w.take h) (w.drop h)).map (fun (a, b) => op a b)
  (r.map (·.bits), r.foldl (fun f x => f ||| x.flags) 0)

/-- Reduce(op, v, mask, mode) over lanes whose number is 2^n (03 R134). -/
def reduceTree (op : Nat → Nat → Rounded) : Nat → List Nat → Flags → Rounded
  | 0, w, fl => ⟨w.headD 0, fl⟩
  | n + 1, w, fl => let (w', f) := reduceStep op w; reduceTree op n w' (fl ||| f)

/-- The exact sum of finite values at one exponent. -/
def sumAt (e : Int) (xs : List Num) : Int := xs.foldl (fun s x => s + x.atExp e) 0

/-- The magnitude cut to a multiple of 2^g (03 R132). -/
def cutAt (g : Int) : Num → Num
  | .fin n m e => if g ≤ e then .fin n m e else .fin n (m / 2 ^ (g - e).toNat) g
  | x => x

/-- GroupSum: one accumulation group added to an FP32 accumulator element (03 R132). -/
def groupSum (acc : Nat) (a b : List Num) (sa sb : Nat) : Nat :=
  let p : List (Option Num) := (List.zip a b).map (fun (x, y) =>
    if x.isNan || y.isNan || sa % 256 = 0xFF || sb % 256 = 0xFF then none
    else (mulNum? x y).map (fun v => v.scale ((sa % 256 : Int) - 127 + ((sb % 256 : Int) - 127))))
  let s : Num :=
    if p.any Option.isNone then .nan false
    else
      let q := p.filterMap id
      let infs := q.filter (fun x => match x with | .inf _ => true | _ => false)
      match infs with
      | .inf n :: rest => if rest.all (fun x => x.sign == n) then .inf n else .nan false
      | _ =>
        if q.all Num.isZero then .fin (q.all Num.sign) 0 0
        else
          let emax := (q.filter (fun x => !x.isZero)).foldl (fun m x => max m x.log2) (-100000)
          let cut := q.map (cutAt (emax - 63))
          let e := cut.foldl (fun m x => min m x.exp) 0
          let v := sumAt e cut
          .fin (decide (v < 0)) v.natAbs e
  (fpAddNum 0 (decodeFp32 acc) s).bits

end Sys2Proof.Machine
end

