-- ==== Sys2Proof/Config.lean ====
section
/-! DEFINITION. What the spec leaves open, as constants without a body: no proof can see their values, so a
statement holds whatever they are. -/

namespace Sys2Proof

/-- How many ns of device time pass in the step of this number (log 4): the spec fixes the rate of device time,
not how long the steps of engines take. -/
opaque Config.elapsed : Nat → Nat

/-- Which of the steps that may come next does come next (log 3). -/
opaque Config.pick : Nat → Nat

/-- A free 64-bit value, applied to the step's number (log 4). -/
opaque Config.freeWord : Nat → Word

/-- Stream flits that a link's input queue of class 0 holds before it asks its peer to pause (12 R441). -/
opaque Config.linkRoom : Nat

/-- A byte of another device's memory as a core finds it when it takes up a continuation whose code stands there, by the
step's number, the home device and the address (10 R349; log 43). -/
opaque Config.remoteByte : Nat → Nat → Nat → BitVec 8

/-- The X coordinate that ECDH between a public key of P-384 and the device's identity key gives; the identity key is the
device's own (12 R458; log 6). -/
opaque Config.sharedX : BitVec 768 → BitVec 384

/-- The signature of a firmware image verifies against the root-key hash in the ROM (13 R482; log 6). -/
opaque Config.firmwareSigned : List (BitVec 8) → Bool

/-- FWVER of a verified image (13 R480; log 6). -/
opaque Config.firmwareVersion : List (BitVec 8) → BitVec 16

/-- The signature of a configuration block verifies: its SHA-384 and the 96 bytes that follow the pairs (13 R482; log 6). -/
opaque Config.blockSigned : List (BitVec 8) → List (BitVec 8) → Bool

/-- The digest of the boot ROM (13 R483; log 6). -/
opaque Config.romDigest : List (BitVec 8)

/-- The identity key's signature over a measurement and the nonce of its request (13 R483; log 6). -/
opaque Config.identitySign : List (BitVec 8) → List (BitVec 8) → List (BitVec 8)

end Sys2Proof
end

