-- ==== Sys2Proof/Machine/Table.lean ====
section
/-! DEFINITION. Tables keyed by number, and the byte memory of the device (01 R32) in its canonical form:
addresses strictly rising, and no byte listed that equals what an unlisted address reads as. -/

namespace Sys2Proof.Machine

/-- Sparse data by number: cores by core number, clusters, links, mailboxes, descriptors. -/
abbrev Tab (α : Type) := List (Nat × α)

/-- What a table holds under a key. -/
def tabFind {α : Type} (k : Nat) : Tab α → Option α
  | [] => none
  | (j, v) :: t => if j = k then some v else tabFind k t

/-- The table with `v` under the key `k`; keys stay strictly rising. -/
def tabPut {α : Type} (k : Nat) (v : α) : Tab α → Tab α
  | [] => [(k, v)]
  | (j, w) :: t => if j < k then (j, w) :: tabPut k v t else if j = k then (k, v) :: t else (k, v) :: (j, w) :: t

/-- The table with nothing under the key `k`. -/
def tabDrop {α : Type} (k : Nat) (t : Tab α) : Tab α := t.filter (fun e => e.1 ≠ k)

/-- Keys strictly rise. -/
def tabRising {α : Type} : Tab α → Bool
  | [] => true
  | [_] => true
  | (i, _) :: (j, v) :: t => decide (i < j) && tabRising ((j, v) :: t)

/-! ### Bytes in memory -/

/-- What a byte that nothing has written reads as. DESIGN CHOICE (log 1): the spec gives memory no contents at
power-on. Unsafe. -/
def Memory.unlisted : Byte := 0

/-- The byte at an address. -/
def Memory.byte (m : List Host.Cell) (a : Nat) : Byte := (tabFind a m).getD Memory.unlisted

/-- The cells of bytes that stand from an address on, without those that read as unlisted. -/
def Memory.cells (a : Nat) : List Byte → List Host.Cell
  | [] => []
  | b :: bs => if b = Memory.unlisted then Memory.cells (a + 1) bs else (a, b) :: Memory.cells (a + 1) bs

/-- Memory after bytes are stored from an address on. -/
def Memory.store (m : List Host.Cell) (a : Nat) (bs : List Byte) : List Host.Cell :=
  let hi := a + bs.length
  m.filter (fun c => c.1 < a) ++ Memory.cells a bs ++ m.filter (fun c => hi ≤ c.1)

/-- The `n` bytes from an address on. -/
def Memory.load (m : List Host.Cell) (a n : Nat) : List Byte :=
  let seg := m.filter (fun c => decide (a ≤ c.1) && decide (c.1 < a + n))
  (List.range n).map (fun i => Memory.byte seg (a + i))

/-- The canonical form: strictly rising addresses, and no cell that reads as an unlisted byte would. -/
def Memory.wf (m : List Host.Cell) : Bool := tabRising m && m.all (fun c => c.2 != Memory.unlisted)

end Sys2Proof.Machine
end

