-- ==== Sys2Proof/Machine/State.lean ====
section
/-! DEFINITION. The state of the device, all of it plain data: every register, table, queue and memory that the
spec gives the machine, and what moves next (log 3). -/

namespace Sys2Proof.Machine

/-! ### Outcomes other than a next state -/

/-- Why the machine stops with a fault. -/
inductive Fault where
  /-- Raised by no step: every fault that the spec gives the machine is taken by it, as a next state. Safe. -/
  | none
  deriving DecidableEq, Repr

/-- Why a step has no meaning. -/
inductive Refusal where
  /-- Raised by an arm of `exec` whose instruction the model does not give a meaning to yet. Safe. -/
  | notModelled (mnemonic : String)
  /-- Raised by `step` when what happens next is no step of an engine: a word issues from memory, by a fetch, and
  never from the list of events. Safe. -/
  | notAnEvent
  /-- Raised by `step` when the bytes at the program counter are no word; a fetch gives whole words, so it is never
  raised. Safe. -/
  | undecodable
  deriving DecidableEq, Repr

/-! ### The transport core (02, 04) -/

/-- A code position: offset and overlay id (02 R100). -/
structure CodePtr where
  off : BitVec 32
  ovl : BitVec 16
  deriving DecidableEq, Repr

/-- The kinds of capability (08 R254). -/
inductive CapKind where
  /-- the only capability for the buffer -/
  | whole
  /-- residual of fractions -/
  | resFractions
  /-- residual of grants -/
  | resGrants
  | fraction
  | grant
  deriving DecidableEq, Repr

/-- A capability (08 R254): it names a descriptor of a partition's buffer table. -/
structure Cap where
  kind : CapKind
  /-- the partition whose buffer table holds the descriptor (08 R284) -/
  part : BitVec 4
  /-- descriptor index (08 R258) -/
  desc : BitVec 32
  /-- rights, M X S A W R from bit 5 down (01 R24) -/
  rights : BitVec 6
  /-- the count held by a fraction or a grant (08 R254) -/
  count : BitVec 16
  deriving DecidableEq, Repr

/-- The state of a capability register or slot (08 R254). -/
inductive KReg where
  | empty
  | pending
  | cap (c : Cap)
  deriving DecidableEq, Repr

/-- A translation: virtual page range, physical base and leaf fields (01 R41, R44, R45). -/
structure Xlate where
  part : BitVec 4
  va : Nat
  size : Nat
  pa : Nat
  kind : BitVec 2
  dev : BitVec 12
  wr : Bool
  nc : Bool
  deriving DecidableEq, Repr

/-- A change of some bits of one byte: address, mask of the bits changed, new bits. -/
structure BitWrite where
  addr : Nat
  mask : Byte
  val : Byte
  deriving DecidableEq, Repr

/-- One lane, or one scalar element, of a Local-path load: where its bits stand, its format and the scale byte's
address for an MX format (03 R118; 05 R180, R182; 06 R223). -/
structure LaneLoad where
  lane : Nat
  /-- bit address: 8 times the byte address, plus the bit within the byte -/
  bitAddr : Nat
  fmt : Fmt
  scaleAddr : Option Nat
  deriving DecidableEq, Repr

/-- What a Local-path load does with its bytes (05 R180 to R182; 06 R223). -/
inductive LoadKind where
  /-- an `ls` integer load of n bytes at a physical address, sign-extended or not -/
  | bytes (addr n : Nat) (signed : Bool)
  /-- `ls.t.ldf` -/
  | elem (l : LaneLoad)
  /-- `vx.t.vld` or `vx.t.vldx`: destination, lanes, lanes to zero -/
  | lanes (vd : BitVec 5) (ls : List LaneLoad) (zeroed : BitVec 128)
  deriving DecidableEq, Repr

/-- What a fixed-latency operation delivers (02 R87; 04 R145; 06 R205, R211). -/
inductive Result where
  /-- nothing: only its scoreboard counter is decremented -/
  | none
  /-- a value for a result port, by the place of the port in the unit-port area -/
  | port (p : Nat) (v : Word)
  /-- `im.r` and `im.h` -/
  | product (r h : Word)
  /-- `fs.r` and the scalar flags -/
  | scalar (r : Word) (fl : Flags)
  /-- bits of a vector register under a bit mask, the vector flags, and `vx.r` for a pack into an MX format -/
  | vector (vd : BitVec 5) (mask val : BitVec 4096) (fl : Flags) (r : Option Word)
  /-- a lane mask, the vector flags and, for mlog, `vx.r` -/
  | lanes (md : BitVec 3) (val : BitVec 128) (fl : Flags) (r : Option Word)
  /-- `vx.r` and the vector flags of a reduction -/
  | reduced (r : Word) (fl : Flags)
  /-- the vector flags of a local vector store, whose bytes stand among the stores -/
  | flags (fl : Flags)
  /-- a Local-path load, whose bytes are read when it is performed (01 R57); `veil` holds what the load still sees
  of bytes that a later store has overwritten -/
  | load (k : LoadKind) (mode : BitVec 4) (veil : Tab Byte)
  deriving DecidableEq, Repr

/-- A stage of a fixed-latency pipeline (02 R86, R87). -/
structure Stage where
  /-- the unit, by its index in the unit-port area (04 R165) -/
  unit : Nat
  /-- place in program order, for 02 R88 and 01 R57 -/
  order : Nat
  /-- program cycles still to run; 0 = due at the end of this cycle -/
  left : Nat
  /-- an operation of the divider or of fdiv and fsqrt (02 R89) -/
  slow : Bool
  /-- scoreboard field of the triggering move (02 R79) -/
  sb : BitVec 4
  res : Result
  deriving DecidableEq, Repr

/-- Bytes that an access reads or writes, as traces see them: capability, offset and length (11 R408, R414). -/
structure Touch where
  cap : Cap
  write : Bool
  off : Nat
  len : Nat
  deriving DecidableEq, Repr

/-- A Local-path store whose latency has not elapsed (01 R57). -/
structure LocalStore where
  order : Nat
  left : Nat
  sb : BitVec 4
  writes : List BitWrite
  /-- the bytes of a buffer that it writes, for its dirty marks -/
  covers : List Touch := []
  deriving DecidableEq, Repr

/-- The owed effect of a transfer trigger (04 R164, OWEK). -/
inductive OweKind where
  | transfer | yield | wait | done | trap | brk | rett
  deriving DecidableEq, Repr

/-- What a delay word owes (02 R83; 04 R164). -/
structure Owe where
  kind : OweKind
  target : Option CodePtr
  arg : Word
  deriving DecidableEq, Repr

/-- What holds the next word (04 R142). -/
inductive Hold where
  | none
  | sbwait (n : BitVec 3) (bound : BitVec 12)
  /-- waits for every fixed-latency operation and Local store of earlier program order -/
  | drain (order : Nat)
  deriving DecidableEq, Repr

/-- A local trap that is due at the next boundary (04 R152, R155). -/
structure TrapDue where
  cause : BitVec 8
  info : BitVec 8
  detail : BitVec 40
  epc : CodePtr
  deriving DecidableEq, Repr

/-- Why and where the core stops (04 R163). -/
structure StopDue where
  pc : CodePtr
  cause : BitVec 8
  /-- 0b00 precise, 0b01 late, 0b10 escalated local trap -/
  kind : BitVec 2
  slot : BitVec 2
  seq : BitVec 16
  tgt : BitVec 11
  org : BitVec 11
  info : BitVec 8
  detail : Word
  detail2 : Word
  deriving DecidableEq, Repr

/-- What the core is doing. -/
inductive Mode where
  /-- no continuation is resident -/
  | idle
  /-- words issue -/
  | run
  /-- a local trap is entered next (04 R153) -/
  | trapDue (t : TrapDue)
  /-- a suspension point waits for its operations (04 R150) -/
  | suspending (k : OweKind) (arg : Word)
  /-- the core stops (04 R160) -/
  | stopping (d : StopDue)
  /-- held still by a gang switch, and what it was doing (10 R388) -/
  | frozen (was : Mode)
  deriving DecidableEq, Repr

/-- The one-deep shadow of a local trap (04 R154). -/
structure Shadow where
  stages : List Stage
  stores : List LocalStore
  /-- the unit-port area's words of ctl, ia0, ia1, im, fs and ls (04 R165) -/
  ports : Vector Word 24
  sflags : Flags
  vflags : Flags
  q : BitVec 8
  lnk : Word
  rm : BitVec 4
  owe : Option Owe
  check : Bool
  deriving DecidableEq, Repr

/-- A watch slot (04 R171). -/
structure Watch where
  part : BitVec 4 := 0
  buf : BitVec 32 := 0
  mbox : BitVec 17 := 0
  kind : BitVec 2 := 0
  start : BitVec 40 := 0
  len : BitVec 38 := 0
  lost : BitVec 16 := 0
  deriving DecidableEq, Repr

/-- A stream walker (05 R197) with the times of R190 and R191, in cycles still to run. -/
structure Walker where
  desc : BitVec 512 := 0
  i0 : BitVec 32 := 0
  i1 : BitVec 32 := 0
  i2 : BitVec 32 := 0
  i3 : BitVec 32 := 0
  bound : Bool := false
  exh : Bool := false
  feeding : Bool := false
  bad : Bool := false
  fin : BitVec 4 := 0
  fifoB : Bool := false
  badCause : BitVec 8 := 0
  /-- what the descriptor check of R190 reports when it failed -/
  descOff : Word := 0
  feedLeft : Word := 0
  part : BitVec 4 := 0
  buf : BitVec 32 := 0
  /-- the descriptor contents are still to be checked, in so many cycles (R190) -/
  checkIn : Option Nat := .none
  /-- the next element is ready in so many cycles (R191) -/
  readyIn : Nat := 0
  /-- skips, and rewinds after them, that wait for the check (R193; log 30): whether it is a rewind, and its value -/
  held : List (Bool × Word) := []
  /-- scoreboard field of the feed in progress, and the place of its trigger in program order (R187, R194) -/
  feedSb : BitVec 4 := 0
  feedOrder : Nat := 0
  deriving DecidableEq, Repr

/-- A sequence-ring entry (02 R94). -/
structure RingEntry where
  cause : BitVec 8 := 0
  state : BitVec 3 := 0
  sbf : BitVec 4 := 0
  slot : BitVec 2 := 0
  tgt : BitVec 11 := 0
  ovl : BitVec 16 := 0
  pc : BitVec 32 := 0
  seq : BitVec 16 := 0
  deriving DecidableEq, Repr

/-- A time-unit slot (10 R384). -/
structure TimedSlot where
  time : Word := 0
  move : BitVec 30 := 0
  armed : Bool := false
  deriving DecidableEq, Repr

/-- The matrix engine (07 R229, R253). Its command queue is its operations in flight, oldest first. -/
structure Mx where
  acc : Vector (BitVec 131072) 4
  fifoA : List Byte
  fifoB : List Byte
  /-- 256 scale columns of 64 bytes -/
  scale : BitVec 131072
  icfg : BitVec 41
  ecfg : BitVec 41
  hseq : BitVec 16
  hvalid : Bool
  kdone : BitVec 17
  stall : BitVec 21
  /-- the first core cycle in which the next command may start, and that in which the k-vectors of the present group may
  first be taken; the count of 07 R240 is `stall` and the cycles since then (07 R240, R247) -/
  startAt : Nat
  groupAt : Nat
  deriving DecidableEq, Repr

/-- A range of trace tiles that a block has read or written (11 R403, R408). -/
structure TraceRange where
  slot : Nat
  write : Bool
  first : Nat
  count : Nat
  deriving DecidableEq, Repr

/-- The trace that a continuation records into: the trace buffer's descriptor index and the block (11 R408). -/
structure Traced where
  index : BitVec 26
  block : Nat
  deriving DecidableEq, Repr

/-- The continuation resident on a core (04 R149; 10 R349). -/
structure Resident where
  /-- physical address of its record -/
  record : Nat
  part : BitVec 4
  queue : BitVec 8
  launch : BitVec 32
  wid : Word
  cset : BitVec 32
  trace : Option Traced := .none
  deriving DecidableEq, Repr


/-! ### Detached operations and their requests (02 R92; 01 R27; 09 R323) -/

/-- Late fault of a detached operation (02 R92; 04 R168). -/
structure LateFault where
  cause : BitVec 8
  detail : Word
  detail2 : Word
  deriving DecidableEq, Repr

/-- An element read by a copy or a vector load: its bits, and its scale byte (03 R118). -/
structure Elem where
  bits : Nat
  scale : Nat
  deriving DecidableEq, Repr

/-- What an atomic operation of a service or kernel core stores: of the old value and its operand, or its operand when the
old value is the one a load-reserved found (13 R474). -/
inductive RmwOp where
  | add | swap | xor | and | or | min | max | minu | maxu
  | ifIs (old : Word)
  deriving DecidableEq, Repr

/-- What one request does at the memory that serves it (09 R323; 06 R226; 09 R309, R329, R333). Addresses are physical;
a REMOTE address is the home device's. -/
inductive Access where
  /-- read `n` raw bytes into the operation's data from byte `at_` on -/
  | read (addr n at_ : Nat)
  /-- write raw bytes under bit masks; no masks: all bits -/
  | write (addr : Nat) (bs ms : List Byte)
  /-- read `n` bytes of a copy's source, in format `fmt`, into the operation's data from byte `at_` on, with the scale byte
  that stands for each (03 R118; 09 R309) -/
  | copyRead (fmt : Fmt) (addr n at_ : Nat)
  /-- convert elements of a copy and write `take` bits from bit address `bit` on; the first element begins `back` bits
  before that (09 R309, R310) -/
  | copyWrite (src dst : Fmt) (bit back take : Nat) (els : List Elem)
  /-- a detached vld from banks: the format checked at issue, the footprint's bit address, how many of its bytes have been
  performed, and the format that its first piece found (06 R226, R227) -/
  | lanesRead (fmt : Fmt) (bit gone : Nat) (begun : Option Fmt)
  /-- the same of a detached vst -/
  | lanesWrite (fmt : Fmt) (bit gone : Nat) (begun : Option Fmt)
  /-- an accumulate packet: type, operation, operand; `fetch` for rfop, `batch` for a batch packet (09 R328, R333) -/
  | acc (addr : Nat) (ty : BitVec 2) (op : BitVec 3) (x : Word) (fetch batch : Bool)
  /-- open a batch (09 R332) -/
  | batchOpen (addr : Nat) (closes : BitVec 12) (weir : Option (BitVec 13))
  /-- a close marker; `owner` closes at once (09 R333) -/
  | batchClose (addr : Nat) (owner : Bool)
  /-- an atomic operation of a service or kernel core on `n` bytes (13 R474) -/
  | rmw (addr n : Nat) (op : RmwOp) (x : Word)
  deriving DecidableEq, Repr

/-- Whom a request answers. -/
inductive ReqSrc where
  /-- a detached operation of a core of this device: a compute core, or the port page of a service or kernel core, by
  sluice index -/
  | op (agent : Nat) (seq : BitVec 16)
  /-- a raw access of a service or kernel core, by sluice index, with its count of starts -/
  | raw (x starts : Nat)
  /-- a handover engine's own access -/
  | engine
  /-- an access of a copy that a handover engine makes (01 R30; 08 R282), by the cluster that translates for it and the
  copy's number -/
  | haul (cluster id : Nat)
  /-- a close marker that a core sends without an operation of its own (09 R333) -/
  | marker (agent : Nat)
  /-- a walk of a cluster's translation unit, by its number (01 R44) -/
  | walk (cluster id : Nat)
  /-- another device, over a link: RTAG, source core, SEQ and device of its packet, at bits 0, 12, 23 and 39 of the tag -/
  | peer (link : BitVec 6) (tag : Nat)
  deriving DecidableEq, Repr

/-- A request on its way to the memory that serves it. -/
structure Req where
  src : ReqSrc
  /-- the path it travels on, in the coding of 04 R174 -/
  path : BitVec 4
  /-- the buffer: partition and descriptor index -/
  part : BitVec 4
  desc : BitVec 32
  /-- location class of the buffer (01 R23) -/
  cls : BitVec 3
  /-- byte offset of the access in the buffer -/
  off : Nat
  /-- virtual address, for a buffer that is translated, and the partition whose page table translates it (01 R39) -/
  va : Nat
  xpart : BitVec 4
  /-- sampled RMODE and SAT (03 R125) -/
  rm : BitVec 4
  /-- the source capability carries X: reads; X and not R: writes (04 R146) -/
  xRead : Bool
  xWrite : Bool
  /-- source device and core number, for 09 R334 -/
  dev : BitVec 12
  core : BitVec 11
  /-- the leaf has NC = 1 (01 R41) -/
  nc : Bool
  /-- home device of a REMOTE access -/
  home : BitVec 12
  /-- the capability register it was made through, whose cached translation it uses (01 R45) -/
  kreg : Option (BitVec 5)
  /-- the trace whose continuation made it (11 R414) -/
  trace : Option (BitVec 26) := .none
  acc : Access
  deriving DecidableEq, Repr

/-- Completion signals armed by `cp.t.sig` (09 R314). -/
structure Sig where
  token : Option (Cap × Nat)
  tcb : Option (BitVec 24)
  weir : Option (BitVec 13)
  ord : Bool
  deriving DecidableEq, Repr

/-- Where a detached operation stands. -/
inductive Phase where
  /-- issued; its unit has not begun -/
  | issued
  /-- waits for the drain of 08 R280 -/
  | drain
  /-- its requests are on their way or being answered -/
  | active
  /-- a change of a descriptor comes next (08 R260) -/
  | change
  /-- bytes are being copied by a handover engine (08 R282) -/
  | copying
  /-- its message is on its way to a mailbox (08 R290) -/
  | message
  /-- join, prune or multicast packets are on their way (08 R294, R295) -/
  | packets
  /-- snoops of the host are outstanding (01 R54) -/
  | snoop
  /-- a write to HOST memory waits for its flush read (09 R317) -/
  | flush
  /-- its completion signals come next (09 R315) -/
  | signals
  /-- a request travels to the scheduler, a weir, a trace home or a batch unit -/
  | request
  /-- everything is performed; it completes when its time has come -/
  | ready
  deriving DecidableEq, Repr

/-- A piece of a copy that has been issued (09 R310): its place in the operation's destination range, its length, the
requests of its source reads that have not been answered, and the bytes and scale bytes that they have brought. -/
structure CopyPiece where
  pos : Nat
  len : Nat
  left : Nat
  data : List Byte
  scales : List Byte
  deriving DecidableEq, Repr

/-- A detached operation that has not completed (02 R92). -/
structure Flight where
  /-- the core that issued it, by sluice index (01 R37) -/
  agent : Nat
  seq : BitVec 16
  op : Op
  t : Word
  o : Word
  rm : BitVec 4
  sbf : BitVec 4
  slot : BitVec 2
  pc : CodePtr
  /-- place in program order -/
  order : Nat
  /-- its continuation is on the core, and its completion decrements a counter there (02 R97) -/
  counted : Bool
  /-- the frame or core image of its continuation, which is stopped or switched out (02 R97) -/
  frame : Option Nat
  /-- its result is discarded: it was marked pending-retry (04 R160) -/
  retry : Bool
  res : Resident
  /-- capability registers named, and what they held at the trigger -/
  ka : BitVec 5
  ca : Option Cap
  kb : BitVec 5
  cb : Option Cap
  /-- the index list of a gath (09 R313) -/
  cx : Option Cap := .none
  phase : Phase
  /-- requests not yet answered -/
  open_ : Nat
  /-- bytes of its destination for which a copy has issued pieces, or another count -/
  pos : Nat
  /-- formats of a copy, fixed at its start (09 R309) -/
  fs : Fmt
  fd : Fmt
  /-- operand data and replies -/
  data : List Byte
  /-- pieces of a copy that are in flight, in ascending order (09 R310) -/
  pieces : List CopyPiece := []
  /-- indices that a gath has read, from that of the row at `pos` on (09 R313) -/
  rows : List Nat := []
  /-- the copy-like operation that the same core triggered before it (09 R316) -/
  prev : Option (BitVec 16) := .none
  /-- the step of a gath's index, 1 while it is read and 2 when it has come, of a write-back or of the completion signals
  (01 R51; 09 R313, R315) -/
  stage : Nat := 0
  index : Nat := 0
  /-- the stream that a copy sends, by link and number (12 R437) -/
  stream : Option (BitVec 6 × BitVec 16) := .none
  /-- device time at which its snoops left, and whether a BI_STALL record has been written for them (12 R472) -/
  snoopAt : Word := 0
  stalled : Bool := false
  /-- lanes active under the governing mask at the trigger (06 R211) -/
  mask : BitVec 128
  /-- the core cycle from which its least time counts, that of its trigger but for pieces after the first, and the first
  cycle in which it may complete (06 R226; 07 R247; 08 R267; 09 R488; 10 R374; 11 R427) -/
  born : Nat
  earliest : Nat
  result : Option Word
  /-- capability registers that its completion writes (08 R256) -/
  kres : List (BitVec 5 × KReg) := []
  fault : Option LateFault
  sigs : Option Sig
  deriving DecidableEq, Repr

/-! ### Sluices, mailboxes, buffer tables (08) -/

/-- A sluice configuration space (08 R301). -/
structure Sluice where
  part : BitVec 4 := 0
  perr : Bool := false
  en : Bool := false
  pool : BitVec 16 := 0
  mbr : Vector Word 8 := Vector.replicate 8 0
  win : Vector (BitVec 128) 8 := Vector.replicate 8 0
  deriving DecidableEq, Repr

/-- A buffer descriptor whose V bit is 1 (08 R258). -/
structure Desc where
  cls : BitVec 3
  pin : Bool := false
  pois : Bool := false
  fmt : BitVec 4
  repl : Bool := false
  share : BitVec 2 := 0
  count : BitVec 16 := 0
  owner : BitVec 32
  base : Word
  lenm1 : BitVec 35
  owndev : BitVec 12 := 0
  retmb : BitVec 17 := 0
  retv : Bool := false
  homedev : BitVec 12 := 0
  parent : BitVec 32 := 0
  /-- the partition of the original of a replica -/
  parentPart : BitVec 4 := 0
  /-- made for a LOCAL entry of a launch header, and freed at done (10 R347) -/
  auto : Bool := false
  /-- made for a lent capability that came from another device (08 R285; log 47) -/
  foreign : Bool := false
  watch : Vector (BitVec 32) 4 := Vector.replicate 4 0
  pcount : BitVec 16 := 0
  pfirst : BitVec 35 := 0
  deriving DecidableEq, Repr

/-- What a message carries (08 R291; 04 R167, R174). -/
inductive Payload where
  /-- a capability with its message word; whether the handover copied and demoted the bytes -/
  | cap (c : Cap) (word : BitVec 32) (copied demoted : Bool)
  /-- a return notice for a descriptor -/
  | notice (desc : BitVec 32)
  /-- a watch event record -/
  | event (record : BitVec 256)
  /-- a fault record -/
  | record (r : BitVec 512)
  deriving DecidableEq, Repr

/-- The operation that sent a message, for the record of a late refusal (08 R283). -/
structure Sender where
  seq : BitVec 16
  launch : BitVec 32
  wid : Word
  pc : CodePtr
  deriving DecidableEq, Repr

/-- A message on its way to a mailbox (08 R279, R290). -/
structure Msg where
  /-- the sending core, by sluice index -/
  src : Nat
  /-- the operation that completes when the message is queued -/
  seq : Option (BitVec 16)
  /-- the sender's partition -/
  part : BitVec 4
  mbox : BitVec 17
  /-- a host mailbox of that index (12 R469) -/
  host : Bool
  /-- another device (08 R279) -/
  dev : Option (BitVec 12)
  /-- the sluice did not let it pass (08 R302) -/
  refused : Bool
  pay : Payload
  sender : Option Sender := .none
  /-- the host command that completes when it is queued or orphaned (12 R466): partition and slot -/
  cmd : Option (BitVec 4 × Nat) := .none
  /-- it came over a link from another device: the link, and its source as `.peer` gives it -/
  peer : Option (BitVec 6 × Nat) := .none
  /-- the copy that must have been made before it is dealt with (08 R281) -/
  haul : Option Nat := .none
  /-- mailboxes of another device to which a multicast's packet is delivered (08 R295) -/
  many : List (BitVec 17) := []
  deriving DecidableEq, Repr

/-! ### Copies that handover engines make (01 R30; 08 R281, R282, R285, R288) -/

/-- Where a copy's bytes are to go. -/
inductive HaulTo where
  /-- the placement of a mailbox, or the HBM pool of the partition in which it is bound -/
  | mailbox (id : BitVec 17)
  /-- the HBM pool of a partition, for the host -/
  | pool (part : BitVec 4)
  /-- a bank of a core, at a recv -/
  | bank (core n : Nat)
  /-- a link to another device -/
  | link
  deriving DecidableEq, Repr

/-- The range that a copy has taken: physical, or virtual in an HBM pool. -/
inductive CopyTo where
  | place (a : Nat) (cls : BitVec 3)
  | pool (va : Nat)
  | full
  deriving DecidableEq, Repr

/-- A copy of a buffer's bytes by a handover engine. -/
structure Haul where
  /-- the agent for whom it is made -/
  agent : Nat
  goal : HaulTo
  /-- the capability for the buffer that holds the bytes; none: they have come over a link -/
  src : Option Cap
  /-- the buffer's descriptor, or that which bytes from a link will get -/
  desc : Desc
  /-- the range taken, and the partition for which it was taken -/
  place : Option CopyTo := .none
  part : BitVec 4 := 0
  /-- granules read so far; a poisoned one has no bytes -/
  data : List (List Byte) := []
  /-- granules written so far, and granules of a write on its way -/
  put : Nat := 0
  moving : Nat := 0
  /-- an access of it has not been answered -/
  busy : Bool := false
  fault : Option LateFault := .none
  /-- it is over: everything has been written, or it has failed, or there is nothing to copy -/
  over_ : Bool := false
  deriving DecidableEq, Repr

/-- Who holds a mailbox (08 R286): a continuation, by its record's address, or a launch. -/
inductive Binding where
  | unbound
  | cont (record : Nat) (part : BitVec 4)
  | launch (id : BitVec 32) (part : BitVec 4)
  deriving DecidableEq, Repr

/-- A mailbox of a cluster (08 R286, R288, R290). -/
structure Mailbox where
  bound : Binding := .unbound
  place : BitVec 5 := 0
  /-- the core on which the continuation that holds it is resident or last ran (08 R288) -/
  core : Nat := 0
  queue : List Msg := []
  deriving DecidableEq, Repr

/-! ### A compute core (01 R15) -/

/-- The matrix engine with nothing in it (07 R229). -/
def Mx.reset : Mx where
  acc := Vector.replicate 4 0
  fifoA := []
  fifoB := []
  scale := 0
  icfg := 0
  ecfg := 0
  hseq := 0
  hvalid := false
  kdone := 0
  stall := 0
  startAt := 0
  groupAt := 0

/-- A subscription in the match table of a core's network interface (08 R294): source device and core, tag, mailbox
index; `joined` is cleared when it has ended with its mailbox and its prune is still to be sent. -/
structure Subscription where
  dev : BitVec 12
  core : BitVec 11
  tag : BitVec 16
  mbox : BitVec 10
  joined : Bool
  deriving DecidableEq, Repr

/-- A compute core. Where the spec gives a register no reset value the value is zero (log 2). -/
structure Core where
  mode : Mode := .idle
  hold : Hold := .none
  res : Option Resident := .none
  /-- cycles of this core so far, for the times that count them -/
  cyc : Nat := 0
  /-- place in program order of the next word -/
  order : Nat := 0
  pc : CodePtr := ⟨0, 0⟩
  owe : Option Owe := .none
  /-- an overlay check is owed on the next fetch: 0 none, else the reason of 04 R147 -/
  check : BitVec 2 := 0
  g : Vector Word 64 := Vector.replicate 64 0
  /-- q1 to q7 in bits 1 to 7; bit 0 is not used (02 R76) -/
  q : BitVec 8 := 0
  sb : Vector (BitVec 12) 8 := Vector.replicate 8 0
  /-- operand latches and result ports: unit u's four words at 4u (04 R165); `fs.x` is kept as its flags -/
  ports : Vector Word 76 := Vector.replicate 76 0
  sflags : Flags := 0
  vflags : Flags := 0
  lnk : Word := 0
  epc : Word := 0
  cause : Word := 0
  /-- RMODE in bits 2:0, SAT in bit 3 (03 R124) -/
  rm : BitVec 4 := 0
  xb : Word := 0
  ovh : BitVec 32 := 0
  bf : Vector Word 16 := Vector.replicate 16 0
  stages : List Stage := []
  stores : List LocalStore := []
  shadow : Option Shadow := .none
  /-- a local trap saved by a stop, entered first on resume (04 R161) -/
  owedTrap : Option TrapDue := .none
  /-- a suspension whose delay word hit a watched range: it is taken on the return from the handler (04 R153) -/
  owedSusp : Option (OweKind × Word) := .none
  /-- stops recorded, taken at the next word boundary (04 R159; 05 R190, R195) -/
  stops : List StopDue := []
  watch : Vector Watch 4 := Vector.replicate 4 {}
  walkers : Vector Walker 4 := Vector.replicate 4 {}
  v : Vector (BitVec 4096) 32 := Vector.replicate 32 0
  /-- m1 to m7; m0 reads as all ones (06 R208) -/
  m : Vector (BitVec 128) 8 := Vector.replicate 8 0
  mx : Mx := Mx.reset
  k : Vector KReg 32 := Vector.replicate 32 .empty
  /-- the cached translation of each capability register (01 R45) -/
  kx : Vector (Option Xlate) 32 := Vector.replicate 32 .none
  /-- the next sequence number (02 R93) -/
  seq : BitVec 16 := 0
  ring : Vector RingEntry 64 := Vector.replicate 64 {}
  timed : Vector TimedSlot 8 := Vector.replicate 8 {}
  /-- the queue of the scratchpad's port, and the requests behind its 64 entries, which their senders hold (05 R178); the
  banks busy in the present cycle, and in the one before it (05 R177) -/
  port : List Req := []
  busy : BitVec 16 := 0
  busyLast : BitVec 16 := 0
  /-- an armed `cp.t.sig` (09 R314) -/
  sig : Option Sig := .none
  /-- the last copy-like operation triggered, and the cycle from which its copy engine moves further bytes (09 R310,
  R316) -/
  lastCopy : Option (BitVec 16) := .none
  copyCyc : Nat := 0
  /-- buffers in batch mode (09 R333): partition and descriptor -/
  batches : List (BitVec 4 × BitVec 32) := []
  sluice : Sluice := {}
  /-- the match table of the network interface (08 R294) -/
  subs : List Subscription := []
  /-- ranges held by the recorder (11 R409) -/
  ranges : List TraceRange := []
  /-- the template whose code is resident: partition and index (10 R349) -/
  code : Option (BitVec 4 × Nat) := .none
  /-- the stop in progress: OUT and TIME of its header, and the cycle in which it was taken (04 R160, R163) -/
  taken : Option (Nat × Word × Nat) := .none
  /-- re-issue records of the pending-retry entries that have not been re-issued (04 R160, R166; 10 R385) -/
  reissue : List (BitVec 512) := []
  /-- window registers v16 to v31 and tiles that a send, mcast or split has taken away (08 R298; 07 R248) -/
  vaway : BitVec 16 := 0
  taway : BitVec 4 := 0
  deriving DecidableEq, Repr

/-- A compute core after reset. -/
def Core.reset : Core := {}

/-! ### Service and kernel cores (13 R474 to R479) -/

/-- What a memory instruction of a service or kernel core does. -/
inductive RvMem where
  | load
  | store
  | lr
  | sc
  | amo (op : RmwOp)
  deriving DecidableEq, Repr

/-- A memory instruction of a service or kernel core that has not completed (01 R38, R48). -/
structure RawAccess where
  /-- the instruction in its 32-bit form, whose effect follows the answer, and its length in bytes -/
  insn : BitVec 32
  len : Nat
  kind : RvMem
  addr : Nat
  n : Nat
  /-- the value to store, or an atomic operation's operand -/
  data : Word
  /-- it has passed its sluice and is on its way -/
  sent : Bool := false
  /-- the value read, once it has been performed -/
  reply : Option Word := .none
  deriving DecidableEq, Repr

/-- A service or kernel core (13 R474 to R479): RV64IMAFDC with its port page. -/
structure Svc where
  sluice : Sluice := {}
  x : Vector Word 32 := Vector.replicate 32 0
  f : Vector Word 32 := Vector.replicate 32 0
  fcsr : BitVec 8 := 0
  cycle : Word := 0
  instret : Word := 0
  pc : Word := 0
  halted : Bool := true
  /-- HALT has been written while an instruction waits for its access (13 R477) -/
  haltDue : Bool := false
  cause : BitVec 8 := 0
  rpc : Word := 0
  /-- the reservation of a load-reserved: address, bytes and the value found -/
  resv : Option (Nat × Nat × Word) := .none
  access : Option RawAccess := .none
  /-- how often RUN has started it, by which answers to accesses from before are told (13 R477) -/
  starts : Nat := 0
  /-- cycles of this core so far, for the times that count them -/
  cyc : Nat := 0
  /-- latches and result ports of cap, cp, rm, sq, wr and tr, placed as a compute core's (04 R165) -/
  ports : Vector Word 76 := Vector.replicate 76 0
  /-- the sluice capability slots (01 R25) -/
  k : Vector KReg 16 := Vector.replicate 16 .empty
  kx : Vector (Option Xlate) 16 := Vector.replicate 16 .none
  /-- the next sequence number, and the last one used (13 R479) -/
  seq : BitVec 16 := 0
  pseq : BitVec 16 := 0
  /-- an armed `cp.t.sig` (09 R314) -/
  sig : Option Sig := .none
  /-- the last copy-like operation triggered, and the cycle from which its copy engine moves further bytes (09 R310,
  R316) -/
  lastCopy : Option (BitVec 16) := .none
  copyCyc : Nat := 0
  deriving DecidableEq, Repr

/-! ### Clusters, dies and partitions -/

/-- An invalidation of translations in progress (01 R46). -/
structure Inval where
  scope : BitVec 2
  part : BitVec 4
  vpn : Nat
  deriving DecidableEq, Repr

/-- A dispatch unit (10 R355): the next cluster group of a launch, the continuation of a single-continuation TCB, the
next chunk of a batch card, or a continuation made ready again, by its record's address. -/
inductive Work where
  | groups (tcb : Nat)
  | single (tcb : Nat)
  | chunk (tcb : Nat)
  | again (record : Nat) (cluster : Nat) (core : Option Nat)
  /-- a service call, which the service cores take (10 R371; 13 R478) -/
  | service (tcb : Nat)
  deriving DecidableEq, Repr

/-- A scheduler queue (10 R356). -/
structure Queue where
  part : BitVec 4 := 0
  en : Bool := false
  tickets : BitVec 13 := 1
  pass : BitVec 40 := 0
  units : List Work := []
  deriving DecidableEq, Repr

/-- A continuation on a cluster's ready list (10 R358): its record, and the core that alone may take it. -/
structure Ready where
  part : BitVec 4
  record : Nat
  core : Option Nat
  deriving DecidableEq, Repr

/-- A parked continuation (10 R364): the object's kind and handle, the cluster, the record, and its place in the order of
parking. -/
structure Waiter where
  part : BitVec 4
  cluster : Nat
  kind : BitVec 2
  handle : BitVec 32
  record : Nat
  no : Nat
  deriving DecidableEq, Repr

/-- A cluster group that has been dispatched (10 R343): its launch, its first item's enumeration index, its cluster,
continuations that have not retired, its barrier while it holds it, its reservation's descriptor, and whether the
reservation waits to be reclaimed. -/
structure Group where
  launch : Nat
  first : Nat
  cluster : Nat
  live : Nat
  bar : Option Nat
  resv : Option Nat
  due : Bool := false
  deriving DecidableEq, Repr

/-- A buffer that a launch has cut into parts (10 R347): the supplied slot, the rights, and each part's descriptor with
whether it stands with the launch. -/
structure Slices where
  launch : Nat
  src : Nat
  rights : BitVec 6
  parts : List (Nat × Bool)
  deriving DecidableEq, Repr

/-- A request on its way to the scheduler or a weir (10 R353, R362, R377; 09 R315): what it asks for, the partition and
the agent it comes from, and the operation that completes when it has been applied. -/
inductive Ask where
  | dec (handle : BitVec 32)
  | fill (future : BitVec 32) (value : Word)
  | arrive (bar : BitVec 13) (n : Nat)
  | bytes (bar : BitVec 13) (n : Nat)
  | query (bar : BitVec 13)
  deriving DecidableEq, Repr

/-- A request with its source. -/
structure Request where
  ask : Ask
  part : BitVec 4
  agent : Nat
  seq : Option (BitVec 16)
  launch : BitVec 32
  wid : Word
  deriving DecidableEq, Repr

/-- An entry of a router's store of subscriptions: source device and core, tag, and the bitmap of ports (08 R294). Ports 0
to 3 lead to the routers of columns and rows below and above, 4 to the ring or the hub, 5 to the router's own cluster. -/
structure Branch where
  dev : BitVec 12
  core : BitVec 11
  tag : BitVec 16
  ports : BitVec 6
  deriving DecidableEq, Repr

/-- The working set of an open block in a trace merger (11 R410, R411). -/
structure OpenBlock where
  part : BitVec 4
  index : BitVec 26
  block : Nat
  /-- continuations of the block that have not retired -/
  live : Nat
  ovf : Bool
  ranges : List TraceRange
  deriving DecidableEq, Repr

/-- A walk in progress: its number, the partition and the page of 64 KiB that it is for, the level that it reads, the table there,
and, for a run of contiguous leaves, the entries read so far and how many it has (01 R40, R43, R44). -/
structure Walk where
  id : Nat
  part : BitVec 4
  page : Nat
  level : Nat
  table : Nat
  run : List Nat := []
  runLen : Nat := 0
  deriving DecidableEq, Repr

/-- What a cluster's cores share (01 R16). -/
structure Cluster where
  /-- bank format registers of the SRAM (05 R185) -/
  bf : Vector Word 64 := Vector.replicate 64 0
  /-- HO_CPOOL (08 R262) -/
  cpool : Word := 0
  /-- XLAT_BASE0 to 15, XLAT_IVA, and SCOPE and PART of XLAT_INVAL (01 R46) -/
  xbase : Vector Word 16 := Vector.replicate 16 0
  iva : Word := 0
  invalCtl : BitVec 6 := 0
  /-- the invalidation in progress, and writes held until it has finished -/
  inval : Option Inval := .none
  invalHeld : List (BitVec 6) := []
  /-- entries of the translation unit (01 R44) -/
  tlb : List Xlate := []
  /-- requests that wait for a walk, or behind one of the same core and path (01 R44) -/
  walks : List Req := []
  /-- the walks in progress, at most 64, and the number of the next one (01 R44) -/
  walking : List Walk := []
  walkNext : Nat := 0
  /-- requests at the SRAM's crossbar (05 R199) -/
  xbar : List Req := []
  mbox : Tab Mailbox := []
  /-- the router's store of subscriptions (08 R294) -/
  branches : List Branch := []
  /-- the trace merger's open blocks (11 R410) -/
  blocks : List OpenBlock := []
  /-- barriers (10 R376) and BARMASK of each partition -/
  bars : Tab (BitVec 256) := []
  barmask : Vector Word 16 := Vector.replicate 16 0
  /-- the ready list, oldest first (10 R358) -/
  ready : List Ready := []
  /-- the wait table, at most 256 entries (01 R16; 10 R364) -/
  waits : List Waiter := []
  /-- SRAM_CORR (13 R480), and the cluster's clock: stretched by its droop detector, at half rate for heat (13 R484, R485) -/
  sramCorr : Word := 0
  stretched : Bool := false
  throttled : Bool := false
  deriving DecidableEq, Repr

/-- A trace buffer as the engine reaches it: virtual base, length, and the translations that held at instantiation
(11 R404). -/
structure TraceMap where
  base : Nat
  len : Nat
  pages : List Xlate
  /-- blocks that closed with more than 30 pairs of slot and W (11 R411) -/
  wide : List Nat := []
  deriving DecidableEq, Repr

/-- A dirty mark on its way to a trace's home slice: the tiles of one slot, and the operation that completes after it
(11 R414, R415). `agent` 4095 stands for a party that is no core. -/
structure Mark where
  part : BitVec 4
  index : BitVec 26
  slot : Nat
  first : Nat
  last : Nat
  desc : BitVec 32
  agent : Nat
  seq : Option (BitVec 16)
  deriving DecidableEq, Repr

/-- A line of a last-level-cache slice (01 R49, R50): the die, the home device of a REMOTE line, its line number, the
buffer it belongs to, and the sectors that are valid and that are dirty. -/
structure Line where
  die : Nat
  remote : Option (BitVec 12)
  num : Nat
  part : BitVec 4
  desc : BitVec 32
  valid : BitVec 4
  dirty : BitVec 4
  deriving DecidableEq, Repr

/-! ### Batches at applying units (09 R332 to R335) -/

/-- An open batch: its buffer, its applying unit, close markers still to come, the barrier that its close arrives at, and
the packets held, in order of arrival. -/
structure Batch where
  part : BitVec 4
  desc : BitVec 32
  unit : Nat
  closes : Nat
  weir : Option (BitVec 13)
  held : List Req
  deriving DecidableEq, Repr

/-! ### The fabric (12 R431 to R461) -/

/-- A packet (12 R436). -/
structure Packet where
  type : BitVec 8
  fwd : Bool := false
  op : BitVec 3 := 0
  ty : BitVec 2 := 0
  seq : BitVec 16 := 0
  src : BitVec 11 := 0
  sdev : BitVec 12
  ddev : BitVec 12
  rm : BitVec 4 := 0
  trace : Option (BitVec 26) := .none
  addr : Nat := 0
  desc : BitVec 32 := 0
  rights : BitVec 6 := 0
  rtag : BitVec 12 := 0
  /-- BYTES, and the data units: 32 bytes each -/
  bytes : Nat := 0
  data : List Byte := []
  deriving DecidableEq, Repr

/-- A flit as its beats give it: the 288 bytes as transmitted, byte 0 lowest, and whether one of its beats is bad (12 R432,
R433). -/
structure Flit where
  raw : BitVec 2304
  bad : Bool
  deriving DecidableEq, Repr

/-- What waits to leave on a link: a packet, 256 bytes of a stream, or a control flit's payload (12 R433, R445). -/
inductive OutItem where
  | packet (p : Packet)
  | stream (num : BitVec 16) (off : Nat) (bytes : List Byte)
  | control (payload : BitVec 2048)
  deriving DecidableEq, Repr

/-- What a link has accepted and not yet acted on, in SEQ order (12 R440). -/
inductive InItem where
  | control (payload : BitVec 2048)
  | stream (num : BitVec 16) (off : Nat) (bytes : List Byte)
  | open_ (p : Packet)
  deriving DecidableEq, Repr

/-- A stream that arrives: its number, its open packet, how many flits it has, how many writes of 128 bytes have been
performed, and whether every one was allowed (12 R437). -/
structure InStream where
  num : BitVec 16
  head : Packet
  flits : Nat
  written : Nat
  ok : Bool
  deriving DecidableEq, Repr

/-- A stream that leaves: its number, the operation that it belongs to, its length in flits, and the flits given to the
link. -/
structure OutStream where
  num : BitVec 16
  agent : Nat
  seq : BitVec 16
  flits : Nat
  sent : Nat
  /-- the target address, for the record of a stream that is lost (09 R319) -/
  addr : Nat
  deriving DecidableEq, Repr

/-- A link engine (12 R431 to R450, R455, R459). -/
structure Link where
  en : Bool := false
  wide : Bool := false
  quiesce : Bool := false
  part : BitVec 4 := 0
  lmask : BitVec 16 := 0xFFFF
  state : BitVec 3 := 0
  peerDev : BitVec 12 := 0
  peerLink : BitVec 6 := 0
  txact : BitVec 16 := 0
  rxact : BitVec 16 := 0
  txout : BitVec 16 := 0
  rxtrain : BitVec 16 := 0
  thresh : BitVec 16 := 1342
  resends : BitVec 32 := 0
  retrains : BitVec 32 := 0
  authFails : BitVec 32 := 0
  corr : Vector (BitVec 32) 16 := Vector.replicate 16 0
  uncorr : Vector (BitVec 16) 16 := Vector.replicate 16 0
  wdrawn : Vector (BitVec 8) 16 := Vector.replicate 16 0
  /-- training rounds of each lane that have failed, and lanes whose light is gone (12 R444, R446) -/
  laneFails : Vector Nat 16 := Vector.replicate 16 0
  dark : BitVec 16 := 0
  pfeat : BitVec 512 := 0
  /-- the job key and SALT, and a load that waits for the replay buffer to empty (12 R458, R461) -/
  key : Option (BitVec 256 × BitVec 16) := .none
  newKey : Option (BitVec 256 × BitVec 16) := .none
  /-- next SEQ to send and to accept, with the wraps since the key was installed (12 R459) -/
  txSeq : BitVec 16 := 0
  txEpoch : Nat := 0
  rxSeq : BitVec 16 := 0
  rxEpoch : Nat := 0
  /-- the replay buffer: SEQ, the flit as first sent, and the packets in it (12 R439) -/
  held : List (BitVec 16 × BitVec 2304 × List Packet) := []
  /-- PAUSE of the last flit accepted (12 R441) -/
  pause : BitVec 8 := 0
  /-- the receiver has set NAK for the SEQ it expects (12 R439) -/
  naked : Bool := false
  /-- its next flit carries that NAK -/
  nakDue : Bool := false
  /-- a resend is due from a SEQ on; resends of one flit, and retrains, without progress (12 R439) -/
  resend : Option (BitVec 16) := .none
  tries : Nat := 0
  trains : Nat := 0
  inq : List InItem := []
  outq : List OutItem := []
  inStreams : List InStream := []
  outStreams : List OutStream := []
  nextStream : BitVec 16 := 0
  /-- device time at which the peer's last TIMESYNC came (12 R451) -/
  peerTime : Word := 0
  /-- subscriptions behind this link: core of this device, tag, and mailbox of the peer (08 R294) -/
  subs : List (BitVec 11 × BitVec 16 × BitVec 17) := []
  /-- the QUIESCED control flit has been sent, and the peer has answered it (12 R454) -/
  quietSent : Bool := false
  peerQuiet : Bool := false
  /-- WIDE as of the last training (12 R431, R448) -/
  wideNow : Bool := false
  /-- device time of the last advance of ACK, or of the first flit held after none was (12 R439) -/
  ackAt : Word := 0
  /-- receive lanes whose withdrawal has been noted in their window, and those for which a LANEUP is on its way (12 R443,
  R444) -/
  noted : BitVec 16 := 0
  upSent : BitVec 16 := 0
  /-- the beats of the flit slot sent last, by lane; and among the active lanes the position of the next beat to be sent, and of
  the next to be received (12 R435) -/
  slot : List (List (BitVec 64)) := []
  txPos : Nat := 0
  rxPos : Nat := 0
  /-- receive lanes have gone, and the peer has not sent a flit without them yet (12 R442) -/
  relaned : Bool := false
  /-- granules that came ahead of a message whose bytes were copied, by the packets' tag; a poisoned one has no bytes
  (08 R285; log 38) -/
  copied : Tab (List (List Byte)) := []
  deriving DecidableEq, Repr

/-- A request that has left for its home device and has not been answered (12 R436, R456): where it goes on when it is. -/
structure Pending where
  req : Req
  link : BitVec 6
  /-- it fetches the sectors of a REMOTE line for a slice, on this die -/
  fill : Option Nat
  /-- answers that are still to come: one for each mailbox of a multicast (08 R295) -/
  left : Nat := 1
  deriving DecidableEq, Repr

/-! ### The host port (12 R462 to R473) -/

/-- A CXL port's registers (12 R464). -/
structure HostPort where
  rawen : Bool := false
  evmsi : Bool := false
  cmsi : BitVec 16 := 0
  width : BitVec 5 := 0
  up : Bool := false
  bien : Bool := false
  bistall : BitVec 32 := 10000
  /-- messages of each MSI-X vector that the port has sent to the host -/
  msix : Vector Nat 17 := Vector.replicate 17 0
  deriving DecidableEq, Repr

/-- A command that has started (12 R465, R466): its TAG and PHASE, and its outcome when it has one. -/
structure Command where
  opcode : BitVec 8
  tag : BitVec 32
  phase : Bool
  code : Option (BitVec 8)
  result : Word
  result2 : Word
  /-- places whose write-backs its completion waits for (01 R51, R55) -/
  waits : List (Nat × Nat) := []
  /-- device time at which the snoops for its return set's buffers left; the host's caches have answered them; a BI_STALL record
  has been written for them (01 R54; 12 R468, R472) -/
  snoopAt : Option Word := .none
  snooped : Bool := false
  stalled : Bool := false
  deriving DecidableEq, Repr

/-- An aperture (12 R470). -/
structure Aperture where
  rd : Bool
  wr : Bool
  /-- HDM offset and length of the window -/
  hbase : Nat
  len : Nat
  slot : Nat
  part : BitVec 4
  deriving DecidableEq, Repr

/-! ### The security controller and bring-up (13 R480 to R483; 12 R458) -/

/-- The security controller's registers and measurements, and engine 0's key-load block. -/
structure Security where
  state : BitVec 4 := 0
  fail : BitVec 8 := 0
  fwver : BitVec 16 := 0
  lock : Bool := false
  cfgst : BitVec 3 := 0
  cfg : Nat := 0
  accept : Vector Word 4 := Vector.replicate 4 0
  llcCorr : Vector Word 8 := Vector.replicate 8 0
  hbmCorr : Vector Word 16 := Vector.replicate 16 0
  unowned : Word := 0
  /-- firmware digest, and the chain over the applied configuration blocks (13 R483) -/
  firmware : BitVec 384 := 0
  chain : BitVec 384 := 0
  /-- device time by which K0 must have written LOCK (13 R482) -/
  deadline : Word := 0
  klLinks : Word := 0
  klJob : Word := 0
  klEpub : BitVec 768 := 0
  klWrap : BitVec 320 := 0
  klBusy : Bool := false
  klFailed : Bool := false
  /-- the last answer over DOE (13 R483) -/
  doe : List Byte := []
  deriving DecidableEq, Repr

/-! ### Frames and the gang switch (04 R162; 10 R387 to R394) -/

/-- What has fallen out: a request at the unit that was to serve it or on its way to translation, a mark on its way to a
trace's home slice, a packet that waited to leave on a link, or one that came over a link after the close (10 R388, R390). -/
inductive FallItem where
  | queued (unit : Nat) (r : Req)
  | walking (cluster : Nat) (r : Req)
  | host (r : Req)
  | mark (k : Mark)
  | leaving (link : BitVec 6) (p : Packet)
  | arriving (link : BitVec 6) (p : Packet)
  deriving DecidableEq, Repr

/-- A packet or request that has fallen out (10 R390): the buffer that holds it, as AT and LINK of its record, its place
in that buffer's order, and what it was. -/
structure FallOut where
  part : BitVec 4
  at_ : Nat
  link : Nat
  order : Nat
  record : BitVec 2048
  item : FallItem
  deriving DecidableEq, Repr

/-- Where a gang switch stands. -/
inductive GangPhase where
  /-- waits for TG -/
  | posted
  /-- the drain window is open, until the time given -/
  | window (close : Word)
  /-- images are being written -/
  | saving
  deriving DecidableEq, Repr

/-- A gang switch in progress (10 R387, R388). -/
structure Gang where
  out : BitVec 4
  into : BitVec 4
  valid : Bool
  win : Nat
  tg : Word
  phase : GangPhase
  /-- cores covered, and those whose image has not been saved -/
  cores : List Nat
  left : List Nat
  deriving DecidableEq, Repr

/-- A partition: its hub block (08 R261) and the tables that only engines reach (08 R258, R283, R486). -/
structure Partition where
  btbl : BitVec 52 := 0
  btlen : BitVec 32 := 0
  cslen : BitVec 32 := 0
  cstore : BitVec 52 := 0
  hpool : Word := 0
  hplen : BitVec 40 := 0
  faultmb : BitVec 17 := 0
  bufs : Tab Desc := []
  sets : Tab (Vector KReg 32) := []
  orphans : Tab Cap := []
  /-- host slots (12 R469) -/
  slots : Tab Cap := []
  /-- the command window (12 R465): command slots as the host has written them, each with whether its final word has been
  written for a command that has not started; the slot taken next, its lap's phase, commands that have started and whose
  record has not been written, and completion records -/
  cmdSlots : Tab (BitVec 512 × Bool) := []
  cmdNext : Nat := 0
  cmdPhase : Bool := true
  cmds : Tab Command := []
  records : Tab (BitVec 256) := []
  /-- trace buffers that a launch has prepared, by descriptor index (11 R400, R404) -/
  traces : Tab TraceMap := []
  /-- PBLOCK (10 R357) -/
  pblock : BitVec 1024 := 0
  /-- cluster groups that have been dispatched and not ended (10 R343) -/
  groups : List Group := []
  /-- buffers cut for launches (10 R347) -/
  slices : List Slices := []
  /-- launches, by TCB handle, whose return set has been taken (08 R486) -/
  rsets : Tab Nat := []
  /-- the enumeration index of the item that each continuation made by spawn descends from, by record address (10 R372) -/
  spawned : Tab Nat := []
  /-- the host command slots whose launch or card a TCB is, by handle (12 R466), and finished ones whose completion record
  the host has not read (10 R354) -/
  jobs : Tab Nat := []
  unread : Tab Nat := []
  /-- the blocks that each relaunch re-executes, by TCB handle (11 R417) -/
  chosen : Tab (List Nat) := []
  /-- continuations that have not run, by record address (10 R349) -/
  fresh : List Nat := []
  /-- the frame of each stopped continuation, by record address (04 R149, R160) -/
  stopped : Tab Nat := []
  /-- continuations chained on their objects' overflow lists (10 R364) -/
  chained : List Waiter := []
  /-- ranges of cluster SRAM that its spill area holds (10 R393) -/
  sram : List (Nat × Nat) := []
  /-- switched out by a gang switch (10 R388) -/
  out : Bool := false
  deriving DecidableEq, Repr

/-- The whole device. -/
structure State where
  /-- bytes of HBM, scratchpads, cluster SRAM and host memory, by device physical address (01 R32) -/
  mem : List Host.Cell
  /-- poisoned granules, by physical address divided by 32, rising (01 R65) -/
  poison : List Nat
  cores : Tab Core
  clusters : Tab Cluster
  /-- service and kernel cores by sluice index (01 R37) -/
  svcs : Tab Svc
  parts : Tab Partition
  /-- requests at the last-level-cache slice of each die (01 R49) -/
  llc : Tab (List Req)
  /-- requests that wait for an entry of their core's request table (09 R323) -/
  tableq : List Req
  /-- requests on their way to the host over CXL.io (09 R317) -/
  hostq : List Req
  /-- detached operations that have not completed (02 R92) -/
  flights : List Flight
  /-- copy-like operations marked pending-retry, whose signals and capability the copy engine keeps for the re-issue
  (09 R311, R322) -/
  marked : List Flight
  /-- messages on their way to mailboxes, oldest first (08 R290) -/
  msgs : List Msg
  /-- scheduler queues and GPASS (10 R356, R357) -/
  queues : Tab Queue
  gpass : BitVec 40
  /-- continuations parked so far (10 R364) -/
  parks : Nat
  /-- requests on their way to the scheduler and the weirs, in issue order of each agent -/
  asks : List Request
  /-- TCBs that finish next (10 R354) -/
  fins : List (BitVec 4 × Nat)
  /-- messages that leave the device (08 R285) -/
  abroad : List Msg
  /-- copies that handover engines make, by number (01 R30; 08 R282) -/
  hauls : Tab Haul
  /-- dirty marks on their way to home slices, in order of arrival (11 R415) -/
  marks : List Mark
  /-- lines of the last-level cache (01 R49) -/
  lines : List Line
  /-- bytes of REMOTE lines as the slices hold them, at home device * 2^52 + physical address (01 R50) -/
  far : List Host.Cell
  /-- open batches (09 R332) -/
  batches : List Batch
  /-- link engines, the route table, and requests that wait for another device's answer, by core * 4096 + RTAG -/
  links : Tab Link
  routes : Vector Word 64
  away : Tab Pending
  /-- requests for other devices that wait for a free entry of the request table (09 R323), with the die of a sector's fetch -/
  outbox : List (Req × Option Nat)
  /-- CXL ports, the aperture table, and the event area with the number of records written (12 R464, R470, R473) -/
  ports : Vector HostPort 2
  apertures : Tab Aperture
  events : Tab (BitVec 512)
  eventCount : Nat
  /-- what the host's last read returned, and whether with the poison indication (12 R470) -/
  hostRead : List Byte × Bool
  sec : Security
  /-- the core as it stood when a frame or a core image was written, by its address, for what is opaque there (log 7) -/
  frames : Tab Core
  /-- the gang switch in progress, GSTAT, fall-out buffers, and what each partition's spill area holds (10 R387 to R394) -/
  gang : Option Gang
  gstat : Word
  falls : List FallOut
  /-- what waits in place for room in its fall-out buffer, oldest first (10 R390) -/
  stuck : List (BitVec 4 × FallItem)
  spilled : List FallOut
  /-- device time in ns, and DT_SYNC (10 R381) -/
  now : Word
  dtSync : Word
  /-- this device's number in the fabric (02 R101) -/
  dev : BitVec 12
  /-- the core that issues; whether it is the one that moves next; and what happens before all else (log 3) -/
  turn : Nat
  sole : Bool
  agenda : List (Instr × Focus)
  /-- the subject of the event being carried out -/
  focus : Focus
  /-- steps so far; the free values of Config are applied to it (log 4) -/
  tick : Nat
  deriving DecidableEq, Repr

/-- The device right after reset. -/
def State.reset : State where
  mem := []
  poison := []
  cores := []
  clusters := []
  svcs := []
  parts := []
  llc := []
  tableq := []
  hostq := []
  flights := []
  marked := []
  msgs := []
  queues := []
  gpass := 0
  parks := 0
  asks := []
  fins := []
  abroad := []
  hauls := []
  marks := []
  lines := []
  far := []
  batches := []
  links := []
  routes := Vector.replicate 64 0
  away := []
  outbox := []
  ports := Vector.replicate 2 {}
  apertures := []
  events := []
  eventCount := 0
  hostRead := ([], false)
  sec := {}
  frames := []
  gang := none
  gstat := 0
  falls := []
  stuck := []
  spilled := []
  now := 0
  dtSync := 0
  dev := 0
  turn := 0
  sole := false
  agenda := []
  focus := {}
  tick := 0

end Sys2Proof.Machine
end

