-- ==== Sys2Proof/Machine/Ops.lean ====
section
/-! DEFINITION. The named operations over the state: cores and tables, the physical map, bytes of memory and of the
register windows, poison, registers, scoreboards, and the entry of a local trap and the return from it. -/

namespace Sys2Proof.Machine

/-! ### Parts of the device -/

/-- The `i`-th free value of this step, of which there are fewer than 2^16 (log 4). -/
def State.free (s : State) (i : Nat) : Word := Config.freeWord (s.tick * 2 ^ 16 + i)

/-- Compute core `c` (01 R14). -/
def State.core (s : State) (c : Nat) : Core := (tabFind c s.cores).getD Core.reset

/-- The state with compute core `c` replaced. -/
def State.setCore (s : State) (c : Nat) (x : Core) : State := { s with cores := tabPut c x s.cores }

/-- The state with compute core `c` changed. -/
def State.onCore (s : State) (c : Nat) (f : Core → Core) : State := s.setCore c (f (s.core c))

/-- Cluster `cl`, die * 16 + cluster (01 R16). -/
def State.cluster (s : State) (cl : Nat) : Cluster := (tabFind cl s.clusters).getD {}

/-- The state with cluster `cl` changed. -/
def State.onCluster (s : State) (cl : Nat) (f : Cluster → Cluster) : State :=
  { s with clusters := tabPut cl (f (s.cluster cl)) s.clusters }

/-- Partition `p` (01 R21). -/
def State.part (s : State) (p : BitVec 4) : Partition := (tabFind p.toNat s.parts).getD {}

/-- The state with partition `p` changed. -/
def State.onPart (s : State) (p : BitVec 4) (f : Partition → Partition) : State :=
  { s with parts := tabPut p.toNat (f (s.part p)) s.parts }

/-- The cluster of a core (00 R7). -/
def clusterOf (c : Nat) : Nat := c / 16

/-- The die of a core (00 R7). -/
def dieOf (c : Nat) : Nat := c / 256

/-! ### The device physical map (01 R32 to R34) -/

/-- The base of a core's slot (01 R32). -/
def slotBase (c : Nat) : Nat := 0x1000000000000 + c * 2 ^ 20

/-- The base of a cluster's SRAM (01 R32). -/
def sramBase (cl : Nat) : Nat := 0x1800000000000 + cl * 2 ^ 24

/-- The size of a scratchpad (05 R176). -/
def padSize : Nat := 0x80000

/-- Where a physical address lies (01 R32, R34). -/
inductive Place where
  | hbm
  | pad (core off : Nat)
  | vwin (core off : Nat)
  | awin (core off : Nat)
  | slotGap
  | sram (cluster off : Nat)
  | hub (off : Nat)
  | control (cluster off : Nat)
  | host
  | reserved
  deriving DecidableEq, Repr

/-- The region of a physical address (01 R32, R34). -/
def placeOf (a : Nat) : Place :=
  if a < 0xC000000000 then .hbm
  else if a < 0x1000000000000 then .reserved
  else if a < 0x1000080000000 then
    let c := (a - 0x1000000000000) / 2 ^ 20
    let o := a % 2 ^ 20
    if o < 0x80000 then .pad c o
    else if o < 0x82000 then .vwin c (o - 0x80000)
    else if o < 0x90000 then .slotGap
    else if o < 0xA0000 then .awin c (o - 0x90000)
    else .slotGap
  else if a < 0x1800000000000 then .reserved
  else if a < 0x1800080000000 then .sram ((a - 0x1800000000000) / 2 ^ 24) (a % 2 ^ 24)
  else if a < 0x2000000000000 then .reserved
  else if a < 0x2000001000000 then .hub (a - 0x2000000000000)
  else if a < 0x2800000000000 then .reserved
  else if a < 0x2800080000000 then .control ((a - 0x2800000000000) / 2 ^ 24) (a % 2 ^ 24)
  else if a < 0x4000000000000 then .reserved
  else if a < 0x8000000000000 then .host
  else .reserved

/-! ### Bytes of wide registers -/

/-- Byte `i` of a register's image. -/
def imageByte {n : Nat} (v : BitVec n) (i : Nat) : Byte := BitVec.extractLsb' (8 * i) 8 v

/-- A register's image with byte `i` replaced. -/
def setImageByte {n : Nat} (v : BitVec n) (i : Nat) (b : Byte) : BitVec n :=
  (v &&& ~~~((0xFF#8).setWidth n <<< (8 * i))) ||| (b.setWidth n <<< (8 * i))

/-- The number made of bytes, as a register image. -/
def imageOf (n : Nat) (bs : List Byte) : BitVec n := BitVec.ofNat n (leNat bs)

/-- The bytes of a register image. -/
def imageBytes {n : Nat} (v : BitVec n) : List Byte := leBytes (n / 8) v.toNat

/-! ### Registers -/

/-- A general register. -/
def Core.rg (c : Core) (r : BitVec 6) : Word := c.g[r.toNat]'(r.isLt)

/-- Write a general register. -/
def Core.setG (c : Core) (r : BitVec 6) (x : Word) : Core := { c with g := c.g.set r.toNat x (r.isLt) }

/-- A guard register: q0 reads 1 (02 R76). -/
def Core.rq (c : Core) (r : BitVec 3) : Bool := if r = 0 then true else c.q.getLsbD r.toNat

/-- Write a guard register; a write to q0 is discarded (02 R78). -/
def Core.setQ (c : Core) (r : BitVec 3) (b : Bool) : Core :=
  if r = 0 then c
  else { c with q := (c.q &&& ~~~(1#8 <<< r.toNat)) ||| ((if b then 1#8 else 0#8) <<< r.toNat) }

/-- A scoreboard count (02 R95). -/
def Core.rsb (c : Core) (n : BitVec 3) : BitVec 12 := c.sb[n.toNat]'(n.isLt)

/-- Write a scoreboard count. -/
def Core.setSb (c : Core) (n : BitVec 3) (x : BitVec 12) : Core := { c with sb := c.sb.set n.toNat x (n.isLt) }

/-- The counter that an enabled scoreboard field selects (02 R79). -/
def sbSel (f : BitVec 4) : Option (BitVec 3) := if f.getLsbD 3 then some (f.extractLsb' 0 3) else none

/-- The increment of a counted trigger (02 R95). -/
def Core.sbInc (c : Core) (f : BitVec 4) : Core :=
  match sbSel f with
  | some n => c.setSb n (c.rsb n + 1)
  | none => c

/-- The decrement of a counted operation that is over; a counter never falls below zero (02 R95, R97). -/
def Core.sbDec (c : Core) (f : BitVec 4) : Core :=
  match sbSel f with
  | some n => if c.rsb n = 0 then c else c.setSb n (c.rsb n - 1)
  | none => c

/-- A word of the unit-port area (04 R165). -/
def Core.port_ (c : Core) (i : Nat) : Word := c.ports[i]?.getD 0

/-- Write a word of the unit-port area. -/
def Core.setPort (c : Core) (i : Nat) (x : Word) : Core := { c with ports := c.ports.setIfInBounds i x }

/-- A vector register (06 R208). -/
def Core.rv (c : Core) (r : BitVec 5) : BitVec 4096 := c.v[r.toNat]'(r.isLt)

/-- Write a vector register. -/
def Core.setV (c : Core) (r : BitVec 5) (x : BitVec 4096) : Core := { c with v := c.v.set r.toNat x (r.isLt) }

/-- A lane mask: m0 reads as all ones (06 R208). -/
def Core.rmask (c : Core) (r : BitVec 3) : BitVec 128 := if r = 0 then BitVec.allOnes 128 else c.m[r.toNat]'(r.isLt)

/-- Write a lane mask; a write to m0 is discarded (06 R208). -/
def Core.setMask (c : Core) (r : BitVec 3) (x : BitVec 128) : Core :=
  if r = 0 then c else { c with m := c.m.set r.toNat x (r.isLt) }

/-- Lane `i` of a vector register (06 R208). -/
def laneOf (v : BitVec 4096) (i : Nat) : BitVec 32 := BitVec.extractLsb' (32 * i) 32 v

/-- The lanes of a vector register. -/
def lanesOf (v : BitVec 4096) : List (BitVec 32) := (List.range 128).map (laneOf v)

/-- A vector register from its lanes, lane 0 first. -/
def ofLanes (xs : List Nat) : BitVec 4096 :=
  BitVec.ofNat 4096 (xs.foldr (fun x acc => x % 2 ^ 32 + 2 ^ 32 * acc) 0)

/-- A capability register (08 R254). -/
def Core.rk (c : Core) (r : BitVec 5) : KReg := c.k[r.toNat]'(r.isLt)

/-- Write a capability register; its cached translation goes (01 R45). -/
def Core.setK (c : Core) (r : BitVec 5) (x : KReg) : Core :=
  { c with k := c.k.set r.toNat x (r.isLt), kx := c.kx.set r.toNat none (r.isLt) }

/-- The capability that a register holds; a pending register holds none (08 R254). -/
def KReg.cap? : KReg → Option Cap
  | .cap c => some c
  | _ => none

/-- A walker (05 R187). -/
def Core.walker (c : Core) (n : BitVec 2) : Walker := c.walkers[n.toNat]'(n.isLt)

/-- Replace a walker. -/
def Core.setWalker (c : Core) (n : BitVec 2) (w : Walker) : Core :=
  { c with walkers := c.walkers.set n.toNat w (n.isLt) }

/-- The bank format register of a scratchpad bank (05 R176). -/
def Core.bankReg (c : Core) (n : Nat) : Word := c.bf[n]?.getD 0

/-- The element format of a bank format register (03 R120). -/
def bankFmt (x : Word) : Fmt := Fmt.ofCode (x.extractLsb' 0 4)

/-- SBANK of a bank format register (03 R120). -/
def bankSbank (x : Word) : Nat := fieldN x.toNat 8 6

/-- SOFF of a bank format register (03 R120). -/
def bankSoff (x : Word) : Nat := fieldN x.toNat 16 10

/-- The fields of a local bank format register: its reserved bits are ignored on a write and read as zero (03 R120; 05 R183). -/
def localBankMask : Word := 0x7F0F0F

/-- RMODE of a sampled rounding state (03 R124). -/
def rmMode (r : BitVec 4) : BitVec 3 := r.extractLsb' 0 3

/-- SAT of a sampled rounding state (03 R124). -/
def rmSat (r : BitVec 4) : Bool := r.getLsbD 3

/-- The pc layout of a code position (02 R100). -/
def CodePtr.word (p : CodePtr) : Word := (0#16 ++ p.ovl ++ p.off)

/-- A code position from its pc layout (02 R100). -/
def CodePtr.ofWord (x : Word) : CodePtr := ⟨x.extractLsb' 0 32, x.extractLsb' 32 16⟩

/-- The code position `n` bytes on (02 R70). -/
def CodePtr.plus (p : CodePtr) (n : Nat) : CodePtr := { p with off := p.off + BitVec.ofNat 32 n }

/-- The core is inside a local-trap handler (04 R138). -/
def Core.inHandler (c : Core) : Bool := c.shadow.isSome

/-- The identity of the core, as origin `cid` gives it (02 R101). -/
def State.cid (s : State) (c : Nat) : Word :=
  (0#32 ++ s.dev ++ (s.core c).sluice.part ++ 0#5 ++ BitVec.ofNat 11 c)

/-! ### Bytes at a physical address -/

/-- The byte at a physical address: the register windows show their registers (01 R34; 08 R298; 07 R249). -/
def State.byteAt (s : State) (a : Nat) : Byte :=
  match placeOf a with
  | .vwin c o => imageByte (((s.core c).v[16 + o / 512]?).getD 0) (o % 512)
  | .awin c o => imageByte (((s.core c).mx.acc[o / 16384]?).getD 0) (o % 16384)
  | .control cl o =>
    if 0x1000 ≤ o ∧ o < 0x1200 then imageByte (((s.cluster cl).bf[(o - 0x1000) / 8]?).getD 0) (o % 8)
    else Memory.byte s.mem a
  | _ => Memory.byte s.mem a

/-- The `n` bytes from a physical address on. -/
def State.readBytes (s : State) (a n : Nat) : List Byte :=
  match placeOf a with
  | .vwin _ _ => (List.range n).map (fun i => s.byteAt (a + i))
  | .awin _ _ => (List.range n).map (fun i => s.byteAt (a + i))
  | .control _ _ => (List.range n).map (fun i => s.byteAt (a + i))
  | _ => Memory.load s.mem a n

/-- One byte of a register window replaced. -/
def Core.setVwinByte (c : Core) (o : Nat) (b : Byte) : Core :=
  { c with v := c.v.setIfInBounds (16 + o / 512) (setImageByte ((c.v[16 + o / 512]?).getD 0) (o % 512) b) }

/-- One byte of the accumulator window replaced. -/
def Core.setAwinByte (c : Core) (o : Nat) (b : Byte) : Core :=
  { c with mx := { c.mx with
      acc := c.mx.acc.setIfInBounds (o / 16384) (setImageByte ((c.mx.acc[o / 16384]?).getD 0) (o % 16384) b) } }

/-- One byte of a cluster bank format register replaced (05 R185). -/
def Cluster.setBankByte (cl : Cluster) (o : Nat) (b : Byte) : Cluster :=
  { cl with bf := cl.bf.setIfInBounds (o / 8) (setImageByte ((cl.bf[o / 8]?).getD 0) (o % 8) b) }

/-- Apply a function to each byte of a list with its place. -/
def foldBytes {α : Type} (f : α → Nat → Byte → α) : α → Nat → List Byte → α
  | x, _, [] => x
  | x, i, b :: bs => foldBytes f (f x i b) (i + 1) bs

/-- Granules that a store of `n` bytes from `a` on covers whole lose their poison (01 R65). -/
def clearPoison (p : List Nat) (a n : Nat) : List Nat :=
  p.filter (fun g => !(decide (a ≤ 32 * g) && decide (32 * g + 32 ≤ a + n)))

/-- Store bytes from a physical address on. -/
def State.writeBytes (s : State) (a : Nat) (bs : List Byte) : State :=
  match placeOf a with
  | .vwin c o => s.onCore c (fun x => foldBytes Core.setVwinByte x o bs)
  | .awin c o => s.onCore c (fun x => foldBytes Core.setAwinByte x o bs)
  | .control cl o =>
    if 0x1000 ≤ o ∧ o < 0x1200 then s.onCluster cl (fun x => foldBytes Cluster.setBankByte x (o - 0x1000) bs)
    else { s with mem := Memory.store s.mem a bs }
  | _ => { s with mem := Memory.store s.mem a bs, poison := clearPoison s.poison a bs.length }

/-- Change bits of one byte. -/
def BitWrite.apply (w : BitWrite) (b : Byte) : Byte := (b &&& ~~~w.mask) ||| (w.val &&& w.mask)

/-- Make bit changes at physical addresses, in order. -/
def State.writeBits (s : State) (ws : List BitWrite) : State :=
  ws.foldl (fun s w => s.writeBytes w.addr [w.apply (s.byteAt w.addr)]) s

/-- Bit changes, with the poison of granules that they cover whole cleared (01 R65). -/
def State.writeCovering (s : State) (ws : List BitWrite) : State :=
  let mask (a : Nat) : Byte := (ws.filter (fun w => w.addr == a)).foldl (fun m w => m ||| w.mask) 0
  let s := s.writeBits ws
  { s with poison := s.poison.filter (fun g => !(List.range 32).all (fun i => mask (32 * g + i) == 0xFF)) }

/-- The bit changes of whole bytes. -/
def bitWrites (a : Nat) : List Byte → List BitWrite
  | [] => []
  | b :: bs => ⟨a, 0xFF, b⟩ :: bitWrites (a + 1) bs

/-- The bit changes that put `n` bits at a bit address (03 R109). -/
def elemWrites (bit n : Nat) (x : Nat) : List BitWrite :=
  let first := bit / 8
  let last := (bit + n - 1) / 8
  let sh := bit % 8
  (List.range (last - first + 1)).map (fun i =>
    ⟨first + i, BitVec.ofNat 8 ((2 ^ n - 1) * 2 ^ sh / 256 ^ i), BitVec.ofNat 8 (x % 2 ^ n * 2 ^ sh / 256 ^ i)⟩)

/-- The `n` bits at a bit address, from a reader of bytes (03 R109). -/
def bitsAt (rd : Nat → Byte) (bit n : Nat) : Nat :=
  let first := bit / 8
  let last := (bit + n - 1) / 8
  leNat ((List.range (last - first + 1)).map (fun i => rd (first + i))) / 2 ^ (bit % 8) % 2 ^ n

/-- A byte of a poisoned granule stands in the range (01 R65). -/
def State.poisoned? (s : State) (a n : Nat) : Option Nat :=
  s.poison.find? (fun g => decide (32 * g < a + n) && decide (a < 32 * g + 32))

/-- Mark a granule as poisoned (01 R65). -/
def State.addPoison (s : State) (g : Nat) : State :=
  if s.poison.contains g then s else { s with poison := s.poison.filter (· < g) ++ [g] ++ s.poison.filter (g < ·) }

/-! ### Scale bytes (03 R118) -/

/-- The address of the scale byte of the element at bit `bit` of a bank, from the bank's register (03 R118). `base` is
the first byte of bank 0, `bank` the size of a bank. -/
def scaleAddr (base bank : Nat) (reg : Word) (fmt : Fmt) (bit : Nat) : Option Nat :=
  if fmt.isMx then
    some (base + bankSbank reg * bank + (bankSoff reg * 256 + bit / fmt.size / 32) % bank)
  else none

/-! ### Cycles of the pipelines (02 R86) -/

/-- A walker one cycle later: its waiting times run down (05 R190, R191). -/
def Walker.tick (w : Walker) : Walker :=
  { w with checkIn := w.checkIn.map (· - 1), readyIn := w.readyIn - 1 }

/-- The end of a cycle: every fixed-latency pipeline advances one stage, and times run down (02 R86). -/
def Core.endCycle (c : Core) : Core :=
  { c with
    cyc := c.cyc + 1
    stages := c.stages.map (fun st => { st with left := st.left - 1 })
    stores := c.stores.map (fun st => { st with left := st.left - 1 })
    walkers := c.walkers.map Walker.tick
    busy := 0
    busyLast := c.busy }

/-- Cycles that are no program cycles: only the walkers and the clock move (04 R154, R156). -/
def Core.idleCycles (c : Core) (n : Nat) : Core :=
  { c with
    cyc := c.cyc + n
    walkers := n.repeat (fun w => w.map Walker.tick) c.walkers
    busy := 0
    busyLast := if n = 1 then c.busy else 0 }

/-- Banks that the present cycle's own accesses use (05 R177). -/
def Core.useBanks (c : Core) (banks : List Nat) : Core :=
  { c with busy := banks.foldl (fun b n => b ||| (1#16 <<< n)) c.busy }

/-! ### The sequence ring (02 R94) -/

/-- The state of the ring entry of an operation that has not completed. -/
def ringIssued : BitVec 3 := 0b001

/-- The ring entry of a sequence number. -/
def Core.ringAt (c : Core) (q : BitVec 16) : RingEntry := c.ring[q.toNat % 64]'(Nat.mod_lt _ (by decide))

/-! ### Stops and local traps (04 R152 to R161) -/

/-- The stop of a core at a boundary: issue ends, and the frame is written by a later step (04 R160). -/
def Core.stopAt (c : Core) (d : StopDue) : Core := { c with mode := .stopping d, hold := .none }

/-- The first 24 words of the unit-port area: ctl, ia0, ia1, im, fs and ls (04 R154). -/
def Core.shadowPorts (c : Core) : Vector Word 24 := Vector.ofFn (fun i => c.port_ i.val)

/-- The shadow of the core as it stands (04 R154). -/
def Core.shadowOf (c : Core) : Shadow where
  stages := c.stages
  stores := c.stores
  ports := c.shadowPorts
  sflags := c.sflags
  vflags := c.vflags
  q := c.q
  lnk := c.lnk
  rm := c.rm
  owe := c.owe
  check := c.check == 2

/-- The value of the cause register for a local trap (04 R155). -/
def TrapDue.causeWord (t : TrapDue) : Word := (0#8 ++ t.detail ++ t.info ++ t.cause)

/-- The handler's entry: OVH for an overlay trap, else offset 0x100 of overlay 0 (04 R152). The handler's own
overlay id is read as 0 (log 22). -/
def Core.handlerEntry (c : Core) (cause : BitVec 8) : CodePtr := if cause = 0x07 then ⟨c.ovh, 0⟩ else ⟨0x100, 0⟩

/-- Entry of a local trap (04 R154): the pipelines freeze into the shadow, epc and cause are written, and the first
handler word issues 4 cycles after the last program word. A wait or drain that the last program word began is over (log
121). -/
def Core.enterTrap (c : Core) (t : TrapDue) : Core :=
  Core.idleCycles
    { c with
      shadow := some c.shadowOf
      epc := t.epc.word
      cause := t.causeWord
      stages := []
      stores := []
      owe := none
      check := 0
      hold := .none
      pc := c.handlerEntry t.cause
      mode := .run } 3

/-- A local trap inside a handler stops the continuation; the causes of local traps have no DETAIL (04 R157, R168). -/
def TrapDue.escalated (t : TrapDue) : StopDue where
  pc := t.epc
  cause := t.cause
  kind := 0b10
  slot := 0
  seq := 0
  tgt := 0
  org := 0
  info := t.info
  detail := 0
  detail2 := 0

/-- A local trap is due at this boundary: it is entered next, or escalates inside a handler (04 R153, R157). -/
def Core.raiseTrap (c : Core) (t : TrapDue) : Core :=
  if c.inHandler then c.stopAt t.escalated else { c with mode := .trapDue t }

/-- The 24 shadowed words put back in the unit-port area. -/
def Core.restorePorts (c : Core) (p : Vector Word 24) : Core :=
  { c with ports := Vector.ofFn (fun i => if h : i.val < 24 then p[i.val] else c.port_ i.val) }

/-- Return from a local trap (04 R156): the handler's stores that have not been performed are the caller's to
perform first; every item of the shadow is put back, and the first program word issues 4 cycles after the delay
word. A suspension whose delay word raised the trap comes next instead (04 R153; log 25). The counters of the handler's own unfinished operations are decremented (log 23). -/
def Core.leaveTrap (c : Core) (ret : CodePtr) : Core :=
  match c.shadow with
  | none => c
  | some sh =>
    let c := c.stages.foldl (fun c st => c.sbDec st.sb) c
    let c := c.restorePorts sh.ports
    Core.idleCycles
      { c with
        shadow := none
        stages := sh.stages
        stores := sh.stores
        sflags := sh.sflags
        vflags := sh.vflags
        q := sh.q
        lnk := sh.lnk
        rm := sh.rm
        owe := sh.owe
        check := if sh.check then 2 else 0
        pc := ret
        owedSusp := none
        mode := match c.owedSusp with
          | some (k, arg) => .suspending k arg
          | none => .run } 3

/-- A Local-path store is performed: its bits are written, and loads of earlier program order keep seeing what stood
there (01 R57). -/
def Core.veilLoads (old : Nat → Byte) (order : Nat) (ws : List BitWrite) (st : Stage) : Stage :=
  match st.res with
  | .load k m veil =>
    if st.order < order then
      { st with res := .load k m (ws.foldl (fun v w => match tabFind w.addr v with
          | some _ => v
          | none => tabPut w.addr (old w.addr) v) veil) }
    else st
  | _ => st

/-- The loads of a core that are in flight, those held in the shadow among them, changed. -/
def Core.mapStages (c : Core) (f : Stage → Stage) : Core :=
  { c with
    stages := c.stages.map f
    shadow := c.shadow.map (fun sh => { sh with stages := sh.stages.map f }) }

/-- A load sees what a write by another path has put at addresses `a .. a+n-1` (01 R57). -/
def Stage.unveil (a n : Nat) (st : Stage) : Stage :=
  match st.res with
  | .load k m veil => { st with res := .load k m (veil.filter (fun e => !(decide (a ≤ e.1) && decide (e.1 < a + n)))) }
  | _ => st

/-- A write through a port is about to be performed: loads of the core in flight see it, whatever stores of the core were
performed before it (01 R57). -/
def State.unveil (s : State) (a n : Nat) : State :=
  match placeOf a with
  | .pad c _ => s.onCore c (fun k => k.mapStages (Stage.unveil a n))
  | _ => s

end Sys2Proof.Machine
end

