-- ==== Sys2Proof/Machine/Local.lean ====
section
/-! DEFINITION. Capabilities and the Local path: what a capability names, how the core's own accesses see its
scratchpad (01 R57), elements of banks (03 R109, R118), and watched ranges (04 R172). -/

namespace Sys2Proof.Machine

/-- A precise fault: cause, DETAIL and DETAIL2 (04 R168). -/
structure Err where
  cause : BitVec 8
  detail : Word := 0
  detail2 : Word := 0
  deriving DecidableEq, Repr

/-- The first failing check of a list, in order (01 R26). -/
def firstErr : List (Option Err) → Option Err
  | [] => none
  | some e :: _ => some e
  | none :: t => firstErr t

/-- A check that fails with a fault unless it holds. -/
def require (ok : Bool) (e : Err) : Option Err := if ok then none else some e

/-! ### Capabilities (01 R22 to R24; 08 R254) -/

/-- The right R, in the layout of 01 R24. -/
def rightR : BitVec 6 := 0b000001
/-- The right W. -/
def rightW : BitVec 6 := 0b000010
/-- The right A. -/
def rightA : BitVec 6 := 0b000100
/-- The right S. -/
def rightS : BitVec 6 := 0b001000
/-- The right X. -/
def rightX : BitVec 6 := 0b010000
/-- The right M. -/
def rightM : BitVec 6 := 0b100000

/-- The capability carries every right of the mask. -/
def Cap.has (c : Cap) (r : BitVec 6) : Bool := c.rights &&& r == r

/-- The descriptor that a capability names (08 R258). -/
def State.descOf (s : State) (c : Cap) : Option Desc := tabFind c.desc.toNat (s.part c.part).bufs

/-- The length of a buffer in bytes (01 R22). -/
def Desc.len (d : Desc) : Nat := (d.lenm1.toNat + 1) * 32

/-- A buffer of class LOCAL in the scratchpad of core `c` (05 R179). -/
def Desc.localTo (d : Desc) (c : Nat) : Bool :=
  d.cls == 0 && (match placeOf d.base.toNat with
    | .pad k _ => k == c
    | _ => false)

/-- The scratchpad offset of a LOCAL buffer's base (01 R34). -/
def Desc.padOff (d : Desc) : Nat := d.base.toNat % 2 ^ 20

/-- A capability is a residual: a write through it is not made (01 R26 check 5; 08 R254). -/
def Cap.residual (c : Cap) : Bool :=
  match c.kind with
  | .resFractions => true
  | .resGrants => true
  | _ => false

/-- A capability may be read through with R: anything but a grant, whose only right to the bytes is A (08 R255,
R276). -/
def Cap.reads (c : Cap) : Bool :=
  c.has rightR && (match c.kind with
    | .grant => false
    | _ => true)

/-- The right W (08 R255: a fraction and a grant carry none). -/
def Cap.writes (c : Cap) : Bool := c.has rightW

/-- A capability register's number as DETAIL gives it. -/
def kNum (k : BitVec 5) : Word := k.setWidth 64

/-! ### What the core's own accesses see (01 R57) -/

/-- The Local-path stores of the core that have not been performed, in program order; those of a program whose handler runs
wait in the shadow (04 R154). -/
def Core.pendingStores (c : Core) : List LocalStore := ((c.shadow.map (·.stores)).getD []) ++ c.stores

/-- A byte under stores that have not been performed. -/
def storedOver (xs : List LocalStore) (a : Nat) (b : Byte) : Byte :=
  xs.foldl (fun b x => x.writes.foldl (fun b w => if w.addr = a then w.apply b else b) b) b

/-- The byte at an address as a Local-path access performed in this cycle sees it: every earlier Local-path store of
the core, performed or not; a handler does not see the stores that the shadow holds (01 R57; 04 R172). -/
def State.localByte (s : State) (c : Core) (a : Nat) : Byte := storedOver c.stores a (s.byteAt a)

/-- The `n` bytes from an address on, as a number, as the core sees them. -/
def State.localNat (s : State) (c : Core) (a n : Nat) : Nat :=
  leNat ((List.range n).map (fun i => s.localByte c (a + i)))

/-- The byte at an address as a load of this place in program order sees it when it is performed: stores of later
program order are left out, and those that the shadow holds (01 R57; 04 R172). -/
def State.loadByte (s : State) (c : Core) (order : Nat) (veil : Tab Byte) (a : Nat) : Byte :=
  storedOver (c.stores.filter (fun x => x.order < order)) a ((tabFind a veil).getD (s.byteAt a))

/-- The byte at an address as a feed sees it: every Local-path store of the words before its trigger, those that the shadow
holds too (05 R195). -/
def State.feedByte (s : State) (c : Core) (order : Nat) (a : Nat) : Byte :=
  storedOver (c.pendingStores.filter (fun x => x.order < order)) a (s.byteAt a)

/-! ### Elements of a scratchpad (03 R109, R118; 05 R176) -/

/-- The size of a scratchpad bank (05 R176). -/
def bankSize : Nat := 0x8000

/-- The size of a bank of cluster SRAM (05 R198). -/
def sramBank : Nat := 0x40000

/-- The bank of a scratchpad offset (05 R176). -/
def bankAt (off : Nat) : Nat := off / bankSize

/-- The format of the bank at a scratchpad offset (05 R176). -/
def Core.fmtAt (c : Core) (off : Nat) : Fmt := bankFmt (c.bankReg (bankAt off))

/-- The physical address of the scale byte of an element of core `cn`'s scratchpad, from its bit offset (03 R118). -/
def Core.padScale (c : Core) (cn bit : Nat) : Option Nat :=
  let b := bankAt (bit / 8)
  scaleAddr (slotBase cn) bankSize (c.bankReg b) (bankFmt (c.bankReg b)) (bit - 8 * bankSize * b)

/-- The value of an element: Decode, with its scale for an MX format (03 R118). -/
def elemNum (f : Fmt) (bits scale : Nat) : Num := if f.isMx then mxValue (f.decode bits) scale else f.decode bits

/-- One lane of a vector load: its 32 bits and its flags (06 R223 ToLane). -/
def toLane (f : Fmt) (bits scale : Nat) (mode : BitVec 3) : Rounded :=
  match f with
  | .bytes => ⟨bits, 0⟩
  | .fp32 => ⟨bits, 0⟩
  | .int32 => ⟨bits, 0⟩
  | .int8 => ⟨((BitVec.ofNat 8 bits).signExtend 32).toNat, 0⟩
  | f => roundFp32 (elemNum f bits scale) mode

/-- One lane of a vector store as element bits, with its flags (06 R223 FromLane). -/
def fromLane (f : Fmt) (x scale : Nat) (mode : BitVec 3) (sat : Bool) : Rounded :=
  match f with
  | .bytes => ⟨x, 0⟩
  | .fp32 => ⟨x, 0⟩
  | .int32 => ⟨x, 0⟩
  | .int8 => convertNum .int32 .int8 (Fmt.int32.decode x) mode sat
  | f => f.round (if f.isMx then mxQuotient (decodeFp32 x) scale else decodeFp32 x) mode sat

/-- The element size of a lane: BYTES moves 4 raw bytes (06 R221). -/
def laneSize (f : Fmt) : Nat :=
  match f with
  | .bytes => 32
  | f => f.size

/-! ### Watched ranges on the core's own Local path (04 R172) -/

/-- A local hit: slot, whether the access was a write, the first byte hit within the buffer, and the bytes hit. -/
structure Hit where
  slot : Nat
  write : Bool
  off : Nat
  bytes : Nat
  /-- the first byte of the access -/
  start : Nat
  deriving DecidableEq, Repr

/-- The first byte at which bytes `off .. off+n-1` of a buffer meet an armed slot of a matching kind, and how many of
them lie in its range (04 R169, R172). -/
def Watch.hit? (w : Watch) (part : BitVec 4) (buf : BitVec 32) (write : Bool) (off n : Nat) : Option (Nat × Nat) :=
  let lo := w.start.toNat
  let hi := lo + 32 * w.len.toNat
  if w.part = part ∧ w.buf = buf ∧ w.kind.getLsbD (if write then 0 else 1) ∧ off < hi ∧ lo < off + n
  then some (max off lo, min (off + n) hi - max off lo) else none

/-- The hits of one access on the four slots (04 R172). -/
def Core.hits (c : Core) (cap : Cap) (write : Bool) (off n : Nat) : List Hit :=
  (c.watch.toList.zipIdx).filterMap (fun (w, i) =>
    (w.hit? cap.part cap.desc write off n).map (fun o => ⟨i, write, o.1, o.2, off⟩))

/-- The hit that a trap reports: the lowest slot, and the lowest offset hit in it (04 R172). -/
def pickHit (hs : List Hit) : Option Hit :=
  hs.foldl (fun b h => match b with
    | none => some h
    | some g => if h.slot < g.slot ∨ (h.slot = g.slot ∧ h.off < g.off) then some h else some g) none

/-- The cause register's INFO of a hit: slot in bits 1:0, bit 2 for a write (04 R155). -/
def Hit.info (h : Hit) : BitVec 8 := BitVec.ofNat 8 (h.slot + (if h.write then 4 else 0))

end Sys2Proof.Machine
end

