-- ==== Sys2Proof/Machine/Trace.lean ====
section
/-! DEFINITION. Traces (11): the trace buffer's header, records and bitmaps, watch slots of descriptors, the recorder and
the merger, and dirty marks. -/

namespace Sys2Proof.Machine

/-! ### The trace buffer in memory (11 R401 to R404) -/

/-- The physical address of byte `off` of a trace buffer, through the translations of its instantiation (11 R404). -/
def TraceMap.pa (m : TraceMap) (off : Nat) : Option Nat :=
  (m.pages.find? (fun x => decide (x.va ≤ m.base + off) && decide (m.base + off < x.va + x.size))).map
    (fun x => x.pa + (m.base + off - x.va))

/-- The `n` bytes of a trace buffer from `off` on. -/
def State.traceBytes (s : State) (m : TraceMap) (off n : Nat) : List Byte :=
  (List.range n).map (fun i => ((m.pa (off + i)).map s.byteAt).getD 0)

/-- Write bytes of a trace buffer from `off` on. -/
def State.setTraceBytes (s : State) (m : TraceMap) (off : Nat) (bs : List Byte) : State :=
  s.writeCovering (bs.zipIdx.filterMap (fun (b, i) => (m.pa (off + i)).map (fun a => (⟨a, 0xFF, b⟩ : BitWrite))))

/-- Bits `lo .. lo+w-1` of a trace buffer, as a number. -/
def State.traceField (s : State) (m : TraceMap) (lo w : Nat) : Nat :=
  leNat (s.traceBytes m (lo / 8) ((lo % 8 + w + 7) / 8)) / 2 ^ (lo % 8) % 2 ^ w

/-- Bits `lo .. lo+w-1` of a trace buffer written. -/
def State.setTraceField (s : State) (m : TraceMap) (lo w v : Nat) : State :=
  let n := (lo % 8 + w + 7) / 8
  let old := leNat (s.traceBytes m (lo / 8) n)
  let sh := lo % 8
  let new := old - (old / 2 ^ sh % 2 ^ w) * 2 ^ sh + (v % 2 ^ w) * 2 ^ sh
  s.setTraceBytes m (lo / 8) (leBytes n new)

/-- The trace buffer that a launch of a partition has prepared under a descriptor index. -/
def State.trace? (s : State) (part : BitVec 4) (index : BitVec 26) : Option TraceMap :=
  tabFind index.toNat (s.part part).traces

/-- A header flag or field: place and width (11 R401). -/
def hdrNblk : Nat × Nat := (256, 32)
/-- NSLOT. -/
def hdrNslot : Nat × Nat := (288, 5)
/-- LIVE. -/
def hdrLive : Nat × Nat := (296, 1)
/-- ENT. -/
def hdrEnt : Nat × Nat := (297, 1)
/-- STALE. -/
def hdrStale : Nat × Nat := (298, 1)
/-- BUSY. -/
def hdrBusy : Nat × Nat := (299, 1)
/-- CUR. -/
def hdrCur : Nat × Nat := (320, 1)
/-- GEN. -/
def hdrGen : Nat × Nat := (352, 32)
/-- TMPL. -/
def hdrTmpl : Nat × Nat := (384, 16)
/-- LAUNCH. -/
def hdrLaunch : Nat × Nat := (416, 32)
/-- DIRTYOFF. -/
def hdrDirty : Nat × Nat := (448, 64)

/-- A header field's value. -/
def State.hdr (s : State) (m : TraceMap) (f : Nat × Nat) : Nat := s.traceField m f.1 f.2

/-- A header field written. -/
def State.setHdr (s : State) (m : TraceMap) (f : Nat × Nat) (v : Nat) : State := s.setTraceField m f.1 f.2 v

/-- A field of slot entry `i` (11 R402). -/
def slotField (i lo w : Nat) : Nat × Nat := (512 + 64 * i + lo, w)
/-- BUF of slot `i`. -/
def slotBuf (i : Nat) : Nat × Nat := slotField i 0 32
/-- TSZ of slot `i`. -/
def slotTsz (i : Nat) : Nat × Nat := slotField i 32 4
/-- WSLOT of slot `i`. -/
def slotWslot (i : Nat) : Nat × Nat := slotField i 36 2
/-- DEG of slot `i`. -/
def slotDeg (i : Nat) : Nat × Nat := slotField i 38 1
/-- V of slot `i`. -/
def slotV (i : Nat) : Nat × Nat := slotField i 39 1
/-- ALLD of slot `i`. -/
def slotAlld (i : Nat) : Nat × Nat := slotField i 40 1
/-- The tile count of slot `i`. -/
def slotNt (i : Nat) : Nat × Nat := (1024 + 32 * i, 32)

/-- The bytes of a tile of slot `i` (11 R402). -/
def State.tileSize (s : State) (m : TraceMap) (i : Nat) : Nat := 512 * 2 ^ s.hdr m (slotTsz i)

/-- Slots in use. -/
def State.usedSlots (s : State) (m : TraceMap) : List Nat := (List.range 16).filter (fun i => s.hdr m (slotV i) == 1)

/-- The length of a bitmap bank for a number of tiles (11 R404). -/
def bankBytes (nt : Nat) : Nat := (nt + 255) / 256 * 32

/-- The offset of bank `b` of slot `i` in the trace buffer (11 R404). -/
def State.bitmapOff (s : State) (m : TraceMap) (i b : Nat) : Nat :=
  s.hdr m hdrDirty + (((s.usedSlots m).filter (· < i)).map (fun j => 2 * bankBytes (s.hdr m (slotNt j)))).sum +
    b * bankBytes (s.hdr m (slotNt i))

/-- The bit of a tile in a bank. -/
def State.dirtyBit (s : State) (m : TraceMap) (i b tile : Nat) : Bool :=
  s.traceField m (8 * s.bitmapOff m i b + tile) 1 == 1

/-- Set the bits of tiles in the bank that CUR names; bits beyond the slot's tiles stay zero (11 R404, R414). -/
def State.setDirty (s : State) (m : TraceMap) (i first last : Nat) : State :=
  let off := s.bitmapOff m i (s.hdr m hdrCur)
  let nt := s.hdr m (slotNt i)
  (List.range (last - first + 1)).foldl (fun s k =>
    if first + k < nt then s.setTraceField m (8 * off + first + k) 1 1 else s) s

/-! ### Records (11 R403) -/

/-- The offset of block `r`'s record. -/
def recordOff (r : Nat) : Nat := 256 + 256 * r

/-- A field of a record's header. -/
def State.recField (s : State) (m : TraceMap) (r lo w : Nat) : Nat := s.traceField m (8 * recordOff r + lo) w

/-- A range entry from its 64 bits (11 R403). -/
def TraceRange.ofNat (x : Nat) : TraceRange := ⟨fieldN x 60 4, x.testBit 59, fieldN x 30 29, fieldN x 0 30⟩

/-- The 64 bits of a range entry (11 R403). -/
def TraceRange.toNat (r : TraceRange) : Nat :=
  r.slot % 16 * 2 ^ 60 + (if r.write then 2 ^ 59 else 0) + r.first % 2 ^ 29 * 2 ^ 30 + r.count % 2 ^ 30

/-- The ranges of a record. -/
def State.recRanges (s : State) (m : TraceMap) (r : Nat) : List TraceRange :=
  (List.range (s.recField m r 56 5)).map (fun i => TraceRange.ofNat (s.traceField m (8 * (recordOff r + 16 + 8 * i)) 64))

/-- The 256 bytes of a record (11 R403, R411). -/
def recordBytes (block gen : Nat) (ovf : Bool) (rs : List TraceRange) : List Byte :=
  leBytes 16 (block % 2 ^ 48 + 2 ^ 48 + (if ovf then 2 ^ 49 else 0) + rs.length * 2 ^ 56 + gen * 2 ^ 64) ++
    rs.flatMap (fun r => leBytes 8 r.toNat) ++ List.replicate (8 * (30 - rs.length)) 0

/-! ### Ranges: merging and hulls (11 R409, R410) -/

/-- Entry order: slot, then W, then first tile (11 R403). -/
def TraceRange.before (a b : TraceRange) : Bool :=
  decide (a.slot < b.slot) || (a.slot == b.slot &&
    ((!a.write && b.write) || (a.write == b.write && decide (a.first < b.first))))

/-- Two ranges of one slot and W that overlap or adjoin. -/
def TraceRange.touches (a b : TraceRange) : Bool :=
  a.slot == b.slot && a.write == b.write && decide (a.first ≤ b.first + b.count) && decide (b.first ≤ a.first + a.count)

/-- The hull of two ranges. -/
def TraceRange.hull (a b : TraceRange) : TraceRange :=
  let lo := min a.first b.first
  { a with first := lo, count := max (a.first + a.count) (b.first + b.count) - lo }

/-- Two ranges of one slot have a tile in common. -/
def TraceRange.meets (a b : TraceRange) : Bool :=
  a.slot == b.slot && decide (a.first < b.first + b.count) && decide (b.first < a.first + a.count)

/-- A range put into a list in entry order, merged with those it overlaps or adjoins (11 R409). -/
def insertRange (rs : List TraceRange) (r : TraceRange) : List TraceRange :=
  let m := (rs.filter r.touches).foldl TraceRange.hull r
  let rest := rs.filter (fun x => !r.touches x)
  rest.filter (fun x => x.before m) ++ [m] ++ rest.filter (fun x => !x.before m)

/-- The gaps between neighbours of one slot and W, with the place of the lower one. -/
def rangeGaps (rs : List TraceRange) : List (Nat × Nat) :=
  ((rs.zip (rs.drop 1)).zipIdx).filterMap (fun ((a, b), i) =>
    if a.slot = b.slot ∧ a.write = b.write then some (b.first - (a.first + a.count), i) else none)

/-- The place of the pair with the smallest gap, the lowest when gaps are equal (11 R410). -/
def smallestGap (rs : List TraceRange) : Option Nat :=
  ((rangeGaps rs).foldl (fun b g => match b with
    | none => some g
    | some h => if g.1 < h.1 then some g else some h) none).map (·.2)

/-- Two ranges replaced by their hull; none when no two are of one slot and W (11 R410). -/
def hullOnce (rs : List TraceRange) : Option (List TraceRange) :=
  match smallestGap rs with
  | none => none
  | some i => match rs.drop i with
    | a :: b :: rest => some (rs.take i ++ [a.hull b] ++ rest)
    | _ => none

/-- Ranges brought down to a number by hulls, and whether any was made; `fuel` bounds the hulls (11 R410, R411). -/
def hullTo : Nat → Nat → List TraceRange → Bool × List TraceRange
  | 0, _, rs => (false, rs)
  | fuel + 1, n, rs =>
    if rs.length ≤ n then (false, rs)
    else match hullOnce rs with
      | some rs' => (true, (hullTo fuel n rs').2)
      | none => (false, rs)

/-! ### The merger (11 R410) -/

/-- Ranges of all open blocks of a cluster. -/
def Cluster.rangeCount (c : Cluster) : Nat := (c.blocks.map (fun b => b.ranges.length)).sum

/-- The open block of a continuation's trace. -/
def OpenBlock.of (b : OpenBlock) (part : BitVec 4) (t : Traced) : Bool :=
  b.part == part && b.index == t.index && b.block == t.block

/-- Change an open block; one that is not open yet is opened. -/
def Cluster.onBlock (c : Cluster) (part : BitVec 4) (t : Traced) (f : OpenBlock → OpenBlock) : Cluster :=
  if c.blocks.any (·.of part t) then { c with blocks := c.blocks.map (fun b => if b.of part t then f b else b) }
  else { c with blocks := c.blocks ++ [f ⟨part, t.index, t.block, 0, false, []⟩] }

/-- One range reaches the merger (11 R410). -/
def Cluster.mergeRange (part : BitVec 4) (t : Traced) (c : Cluster) (r : TraceRange) : Cluster :=
  let total := c.rangeCount
  c.onBlock part t (fun b =>
    let rs := insertRange b.ranges r
    let grown := total - b.ranges.length + rs.length
    if 64 < rs.length ∨ 4096 < grown then
      match hullOnce rs with
      | some rs' => { b with ranges := rs', ovf := true }
      | none => { b with ranges := rs }
    else { b with ranges := rs })

/-- RECORDER_FLUSH of a core: its ranges go to its cluster's merger (11 R409). -/
def State.flushRanges (s : State) (cn : Nat) : State :=
  let c := s.core cn
  let s := match c.res.bind (fun r => r.trace.map (fun t => (r.part, t))) with
    | some (p, t) => s.onCluster (clusterOf cn) (fun k => c.ranges.foldl (Cluster.mergeRange p t) k)
    | none => s
  if c.ranges = [] then s else s.onCore cn (fun c => { c with ranges := [] })

/-! ### Watch slots of a descriptor (11 R405 to R407) -/

/-- An active watch slot, as the trace index and the traced slot that it names. -/
def watchSlotOf (x : BitVec 32) : Option (BitVec 26 × Nat) :=
  if x.getLsbD 31 then some (x.extractLsb' 0 26, fieldN x.toNat 27 4) else none

/-- The value of an active watch slot. -/
def watchSlotVal (index : BitVec 26) (slot : Nat) : BitVec 32 := 1#1 ++ BitVec.ofNat 4 slot ++ 0#1 ++ index

/-- The active watch slots of a descriptor. -/
def Desc.traces (d : Desc) : List (BitVec 26 × Nat) := d.watch.toList.filterMap watchSlotOf

/-- A descriptor of a partition. -/
def State.bufDesc (s : State) (part : BitVec 4) (i : Nat) : Option Desc := tabFind i (s.part part).bufs

/-- A descriptor changed. -/
def State.onDesc (s : State) (part : BitVec 4) (i : Nat) (f : Desc → Desc) : State :=
  match s.bufDesc part i with
  | some d => s.onPart part (fun p => { p with bufs := tabPut i (f d) p.bufs })
  | none => s

/-- STALE is set in every trace that a descriptor's watch slots name, and the slots are cleared (11 R407). -/
def State.staleTraces (s : State) (part : BitVec 4) (i : Nat) : State :=
  match s.bufDesc part i with
  | none => s
  | some d =>
    let s := d.traces.foldl (fun s t => match s.trace? part t.1 with
      | some m => s.setHdr m hdrStale 1
      | none => s) s
    s.onDesc part i (fun d => { d with watch := Vector.replicate 4 0 })

/-- A trace is detached: the watch slot of every used slot that is not degraded is cleared, and LIVE := 0 (11 R429). -/
def State.detachTrace (s : State) (part : BitVec 4) (m : TraceMap) : State :=
  let s := (s.usedSlots m).foldl (fun s i =>
    if s.hdr m (slotDeg i) = 0 then
      s.onDesc part (s.hdr m (slotBuf i)) (fun d =>
        { d with watch := d.watch.setIfInBounds (s.hdr m (slotWslot i)) 0 })
    else s) s
  s.setHdr m hdrLive 0

/-- The trace that stands in a buffer is detached when the buffer is freed, cut, fused or sent to another partition
(11 R424). -/
def State.detachBuffer (s : State) (part : BitVec 4) (i : Nat) : State :=
  match tabFind i (s.part part).traces with
  | some m => if s.hdr m hdrLive = 1 then s.detachTrace part m else s
  | none => s

/-- What such an event does to the traces of a buffer: those that trace it become stale, and its own is detached
(11 R407, R424). -/
def State.traceLost (s : State) (part : BitVec 4) (i : Nat) : State := (s.staleTraces part i).detachBuffer part i

/-! ### Recording (11 R408) -/

/-- The tile of byte `off` of a buffer in a slot: offsets count from the base of the slot's BUF (11 R402, R406). -/
def State.traceOff (s : State) (part : BitVec 4) (m : TraceMap) (slot : Nat) (d : Desc) (off : Nat) : Nat :=
  let base := ((s.bufDesc part (s.hdr m (slotBuf slot))).map (fun b => b.base.toNat)).getD d.base.toNat
  d.base.toNat + off - base

/-- A part of a degraded slot's buffer (11 R406): it lies in the tiles of the slot. -/
def State.partOfSlot (s : State) (part : BitVec 4) (m : TraceMap) (slot : Nat) (d : Desc) : Bool :=
  s.hdr m (slotDeg slot) == 1 && d.cls == 2 && (match s.bufDesc part (s.hdr m (slotBuf slot)) with
    | some b => decide (b.base.toNat ≤ d.base.toNat) &&
        decide (d.base.toNat < b.base.toNat + s.hdr m (slotNt slot) * s.tileSize m slot)
    | none => false)

/-- The used slot of a trace whose buffer a capability names (11 R406, R408). -/
def State.slotFor (s : State) (part : BitVec 4) (index : BitVec 26) (m : TraceMap) (cap : Cap) (d : Desc) : Option Nat :=
  if cap.part ≠ part then none
  else (s.usedSlots m).find? (fun i =>
    s.hdr m (slotBuf i) == cap.desc.toNat || d.traces.contains (index, i) || s.partOfSlot part m i d)

/-- One access is recorded (11 R408, R409): a full recorder flushes. -/
def State.recordTouch (cn : Nat) (s : State) (x : Touch) : State :=
  match (s.core cn).res with
  | none => s
  | some r => match r.trace with
    | none => s
    | some t => match s.trace? r.part t.index, s.descOf x.cap with
      | some m, some d =>
        if x.len = 0 then s
        else match s.slotFor r.part t.index m x.cap d with
          | none => s
          | some i =>
            let tile := s.tileSize m i
            let lo := s.traceOff r.part m i d x.off / tile
            let hi := s.traceOff r.part m i d (x.off + x.len - 1) / tile
            let s := s.onCore cn (fun c => { c with ranges := insertRange c.ranges ⟨i, x.write, lo, hi - lo + 1⟩ })
            if 32 ≤ (s.core cn).ranges.length then s.flushRanges cn else s
      | _, _ => s

/-- Accesses are recorded in order. -/
def State.recordAll (s : State) (cn : Nat) (xs : List Touch) : State := xs.foldl (State.recordTouch cn) s

/-! ### Dirty marks (11 R414, R415) -/

/-- A mark is applied at the trace's home slice, into the bank that CUR names (11 R415). -/
def State.applyMark (s : State) (k : Mark) : State :=
  match s.trace? k.part k.index with
  | some m => s.setDirty m k.slot k.first k.last
  | none => s

/-- The agent of writes by parties that are no core of this device, and by handover engines: its marks are applied with the
write, so before the acknowledgement of the write leaves (11 R415). -/
def noAgent : Nat := 4095

/-- A write to a buffer sends a mark to every trace that its descriptor's watch slots name, but for the trace that the
writer carries (11 R414). -/
def State.markWrite (s : State) (part : BitVec 4) (desc : BitVec 32) (off n : Nat) (carried : Option (BitVec 26))
    (agent : Nat) (seq : Option (BitVec 16)) : State :=
  match s.bufDesc part desc.toNat with
  | none => s
  | some d =>
    if n = 0 then s
    else
      let ks : List Mark := d.traces.filterMap (fun (ix, i) =>
        if carried = some ix then none
        else (s.trace? part ix).map (fun m =>
          let tile := s.tileSize m i
          ⟨part, ix, i, s.traceOff part m i d off / tile, s.traceOff part m i d (off + n - 1) / tile, desc, agent, seq⟩))
      if agent = noAgent then ks.foldl State.applyMark s else { s with marks := s.marks ++ ks }

/-- DIRTY_MARK: the first mark is applied (11 R415). -/
def State.nextMark (s : State) : State :=
  match s.marks with
  | [] => s
  | k :: rest => ({ s with marks := rest } : State).applyMark k

/-- Marks of an agent's writes that have not been applied. -/
def State.marksOf (s : State) (agent : Nat) : Bool :=
  s.marks.any (fun k => k.agent == agent) || ((s.falls ++ s.spilled).map (·.item) ++ s.stuck.map (·.2)).any (fun x => match x with
    | .mark k => k.agent == agent
    | _ => false)

/-- The accesses of a trigger are recorded, and its Local-path store, if it makes one, notes what it writes. -/
def State.noteTouches (s : State) (cn order : Nat) (xs : List Touch) : State :=
  let s := if ((s.core cn).res.bind (·.trace)).isSome then s.recordAll cn xs else s
  if (s.core cn).stores.any (fun st => st.order == order) then
    s.onCore cn (fun c => { c with stores := c.stores.map (fun st =>
      if st.order = order then { st with covers := xs.filter (·.write) } else st) })
  else s

/-! ### Local-path stores are performed (01 R56, R57) -/

/-- Bit changes of waiting stores to some addresses, and the stores without them. -/
def takeWrites (as : List Nat) (xs : List LocalStore) : List BitWrite × List LocalStore :=
  ((xs.flatMap (·.writes)).filter (fun w => as.contains w.addr),
    xs.map (fun x => { x with writes := x.writes.filter (fun w => !as.contains w.addr) }))

/-- The stores of a program that wait in the shadow come before those of its handler to the same bytes (01 R57). -/
def State.shadowFirst (s : State) (c : Nat) (as : List Nat) : State :=
  match (s.core c).shadow with
  | none => s
  | some sh =>
    let (ws, xs) := takeWrites as sh.stores
    (s.writeCovering ws).onCore c (fun k => { k with shadow := some { sh with stores := xs } })

/-- Perform one Local-path store of core `c` (01 R56, R57). -/
def State.performStore (s : State) (c : Nat) (x : LocalStore) : State :=
  let s := s.shadowFirst c (x.writes.map (·.addr))
  let old := s.byteAt
  let s := s.writeCovering x.writes
  let s := x.covers.foldl (fun s k => s.markWrite k.cap.part k.cap.desc k.off k.len
    ((s.core c).res.bind (fun r => r.trace.map (·.index))) c none) s
  s.onCore c (fun k => (k.mapStages (Core.veilLoads old x.order x.writes)).sbDec x.sb)

/-- Perform every pending Local-path store of core `c`, in program order. -/
def State.performStores (s : State) (c : Nat) (xs : List LocalStore) : State :=
  xs.foldl (fun s x => s.performStore c x) s

/-! ### Meanings -/

/-- RECORDER_FLUSH of core `focus.core` (11 R409). -/
def execRecorderFlush (s : State) : Host.Outcome State Fault Refusal := .next (s.flushRanges s.focus.core)

/-- DIRTY_MARK (11 R415). -/
def execDirtyMark (s : State) : Host.Outcome State Fault Refusal := .next s.nextMark

end Sys2Proof.Machine
end

