-- ==== Sys2Proof/Machine/Walkers.lean ====
section
/-! DEFINITION. The stream walkers (05 R187 to R197): the walk, its checks, and reads of an element. Their triggers
and the steps of a feed stand in `Sys2Proof.Machine.WalkerOps`. -/

namespace Sys2Proof.Machine

/-! ### The descriptor (05 R188) -/

/-- BASE. -/
def Walker.base (w : Walker) : Nat := fieldN w.desc.toNat 0 40
/-- DK. -/
def Walker.dk (w : Walker) : BitVec 5 := w.desc.extractLsb' 40 5
/-- The element width W in bytes. -/
def Walker.width (w : Walker) : Nat := 2 ^ fieldN w.desc.toNat 48 3
/-- SGN. -/
def Walker.sgn (w : Walker) : Bool := w.desc.getLsbD 51
/-- CVT. -/
def Walker.cvt (w : Walker) : Bool := w.desc.getLsbD 52
/-- COUNT of dimension d. -/
def Walker.count (w : Walker) (d : Nat) : Nat := fieldN w.desc.toNat (64 + 64 * d) 32
/-- STRIDE of dimension d, signed. -/
def Walker.stride (w : Walker) (d : Nat) : Int := (w.desc.extractLsb' (96 + 64 * d) 32).toInt

/-! ### The walk (05 R189, R193) -/

/-- The number of elements of the walk. -/
def Walker.total (w : Walker) : Nat := w.count 0 * w.count 1 * w.count 2 * w.count 3

/-- The place of the indices in the order of the walk: i0 varies fastest (05 R189). -/
def Walker.pos (w : Walker) : Nat :=
  w.i0.toNat + w.count 0 * (w.i1.toNat + w.count 1 * (w.i2.toNat + w.count 2 * w.i3.toNat))

/-- Elements not yet delivered, skipped or fed. -/
def Walker.left (w : Walker) : Nat := if w.exh then 0 else w.total - w.pos

/-- The walker with its indices at a place of the walk. -/
def Walker.atPos (w : Walker) (p : Nat) : Walker :=
  let c0 := w.count 0
  let c1 := w.count 1
  let c2 := w.count 2
  { w with
    i0 := BitVec.ofNat 32 (p % c0)
    i1 := BitVec.ofNat 32 (p / c0 % c1)
    i2 := BitVec.ofNat 32 (p / c0 / c1 % c2)
    i3 := BitVec.ofNat 32 (p / c0 / c1 / c2) }

/-- END after the element at the walker's indices: bit d when i0 to id are all at their maximum (05 R192). -/
def Walker.endBits (w : Walker) : BitVec 4 :=
  let a0 := w.i0.toNat + 1 == w.count 0
  let a1 := a0 && w.i1.toNat + 1 == w.count 1
  let a2 := a1 && w.i2.toNat + 1 == w.count 2
  let a3 := a2 && w.i3.toNat + 1 == w.count 3
  BitVec.ofBool a3 ++ BitVec.ofBool a2 ++ BitVec.ofBool a1 ++ BitVec.ofBool a0

/-- The walker after `n` more elements, 1 ≤ n ≤ left: END is that of the last one, and when the walk is exhausted the
indices stay at it (05 R192, R193). -/
def Walker.advance (w : Walker) (n : Nat) : Walker :=
  let last := w.atPos (w.pos + n - 1)
  let w' := { last with fin := last.endBits }
  if w.pos + n = w.total then { w' with exh := true } else { w'.atPos (w.pos + n) with fin := last.endBits }

/-- The byte offset, in the data buffer, of the element at the indices (05 R189). -/
def Walker.elemOff (w : Walker) : Int :=
  w.base + w.i0.toNat * w.stride 0 + w.i1.toNat * w.stride 1 + w.i2.toNat * w.stride 2 + w.i3.toNat * w.stride 3

/-- The range of byte offsets that the elements of the walk cover (05 R190). -/
def Walker.span (w : Walker) : Int × Int :=
  (List.range 4).foldl (fun (lo, hi) d =>
    let x : Int := ((w.count d : Int) - 1) * w.stride d
    (lo + min 0 x, hi + max 0 x)) ((w.base : Int), (w.base : Int) + w.width)

/-- The status and end flags that `swN.e` reads (05 R192). -/
def Walker.status (w : Walker) : BitVec 8 :=
  BitVec.ofBool w.bad ++ BitVec.ofBool w.exh ++ BitVec.ofBool w.bound ++ BitVec.ofBool w.feeding ++ w.fin

/-- A read of the walker delivers an element, neither an unbound, an exhausted nor a feeding one (05 R191). -/
def Walker.live (w : Walker) : Bool := w.bound && !w.exh && !w.feeding

/-- A word that reads the walker stalls (05 R191): the walker has an element to deliver and it is not ready; a bad
walker ends the stall at once. -/
def Walker.stalls (w : Walker) : Bool := w.live && !w.bad && (w.readyIn != 0 || w.checkIn.isSome)

/-- The place in the scratchpad of the data buffer that the walker was bound to (05 R190). -/
def State.walkerDesc (s : State) (w : Walker) : Option Desc := tabFind w.buf.toNat (s.part w.part).bufs

/-- DK still holds a capability for the buffer that the walker was bound to (05 R190). -/
def Core.walkerCap (c : Core) (w : Walker) : Option Cap :=
  match (c.rk w.dk).cap? with
  | some k => if k.part = w.part ∧ k.desc = w.buf then some k else none
  | none => none

/-- The deferred fault of a bad walker (05 R190). -/
def Walker.badErr (w : Walker) : Err := ⟨w.badCause, w.descOff, kNum w.dk⟩

/-- The check of DK that a read or a feed trigger makes (05 R190). -/
def Core.walkerCapErr (c : Core) (w : Walker) : Option Err :=
  match c.walkerCap w with
  | none => some ⟨0x10, kNum w.dk, rightR.setWidth 64⟩
  | some k => require k.reads ⟨0x11, kNum w.dk, rightR.setWidth 64⟩

/-- The checks of the descriptor's contents (05 R190), with the capability that DK holds when they are made (log 115). -/
def State.walkerContents (s : State) (cn : Nat) (w : Walker) : Option (BitVec 8) :=
  let c := s.core cn
  let (lo, hi) := w.span
  match (c.rk w.dk).cap? with
  | none => some 0x10
  | some k => match s.descOf k with
    | none => some 0x11
    | some d =>
      if !(d.localTo cn && k.reads) then some 0x11
      else if (List.range 4).any (fun i => w.count i == 0) || decide (lo < 0) || decide ((d.len : Int) < hi) then
        some 0x12
      else
        let al := min w.width 32
        if w.base % al != 0 || (List.range 4).any (fun i => decide (1 < w.count i) && w.stride i % al != 0) then
          some 0x13
        else if decide (d.padOff + lo < (c.xb.toNat : Int)) then some 0x06
        else none

/-! ### Reading an element (05 R189, R191, R195) -/

/-- The physical address of the walker's next element. -/
def State.walkerAddr (s : State) (w : Walker) : Nat :=
  match s.walkerDesc w with
  | some d => (d.base.toNat + w.elemOff).toNat
  | none => 0

/-- An element of these formats converts to FP32 when its size is that of the walker's element (05 R189). -/
def Fmt.walkerConverts : Fmt → Bool
  | .fp32 | .bf16 | .fp16 | .e4m3 | .e5m2 | .d8 | .e8m0 | .mxe4m3 | .mxe5m2 => true
  | _ => false

/-- The format that a converting read of the next element converts from (05 R189). -/
def State.walkerFmt (s : State) (cn : Nat) (w : Walker) : Option Fmt :=
  let f := (s.core cn).fmtAt (s.walkerAddr w - slotBase cn)
  if w.cvt && f.walkerConverts && f.size == 8 * w.width then some f else none

/-- The address of the scale byte that a read of the next element needs (03 R118; 05 R189). -/
def State.walkerScale (s : State) (cn : Nat) (w : Walker) : Option Nat :=
  (s.walkerFmt cn w).bind (fun _ => (s.core cn).padScale cn (8 * (s.walkerAddr w - slotBase cn)))

/-- What a read of `swN.r` receives when the walker delivers; an FP32 element is moved unchanged (03 R121; 05 R189). -/
def State.walkerElem (s : State) (cn : Nat) (w : Walker) : Word :=
  let c := s.core cn
  let bits := s.localNat c (s.walkerAddr w) w.width
  match s.walkerFmt cn w with
  | some .fp32 => BitVec.ofNat 64 bits
  | some f =>
    let scale := ((s.walkerScale cn w).map (fun x => (s.localByte c x).toNat)).getD 127
    BitVec.ofNat 64 (roundFp32 (elemNum f bits scale) (rmMode c.rm)).bits
  | none =>
    if w.sgn then signExt (8 * w.width) bits
    else BitVec.ofNat 64 bits

/-- What a move that reads `swN.r` receives (05 R191): 0 from a walker that delivers nothing. -/
def State.walkerRead (s : State) (cn : Nat) (n : BitVec 2) : Word :=
  let w := (s.core cn).walker n
  if w.live && !w.bad then s.walkerElem cn w else 0

/-- No byte of the next element, and no scale byte that its read needs, lies below XB as it stands (04 R143, R146). -/
def State.walkerAbove (s : State) (cn : Nat) (w : Walker) : Bool :=
  (s.walkerAddr w :: (s.walkerScale cn w).toList).all (fun a => decide ((s.core cn).xb.toNat ≤ a - slotBase cn))

/-- The checks of a move of guard value 1 that reads `swN.r`, made in step 6 of issue (02 R85; 04 R146; 05 R189, R190,
R195). -/
def State.walkerReadErr (s : State) (cn : Nat) (n : BitVec 2) : Option Err :=
  let c := s.core cn
  let w := c.walker n
  if w.bad then some w.badErr
  else if !w.live then none
  else firstErr [
    require (decide (w.width ≤ 8)) ⟨0x13, BitVec.ofInt 64 w.elemOff, kNum w.dk⟩,
    c.walkerCapErr w,
    require (s.walkerAbove cn w) ⟨0x06, BitVec.ofInt 64 w.elemOff, kNum w.dk⟩,
    (s.poisoned? (s.walkerAddr w) w.width).map (fun g => ⟨0x22, BitVec.ofNat 64 (32 * g), w.buf.setWidth 64⟩),
    (s.walkerScale cn w).bind (fun a => (s.poisoned? a 1).map (fun g => ⟨0x22, BitVec.ofNat 64 (32 * g), w.buf.setWidth 64⟩))]

/-- A completed read advances the walker once; the next element is ready from the next cycle (05 R191). -/
def Core.walkerAdvance (c : Core) (n : BitVec 2) : Core :=
  let w := c.walker n
  if w.live && !w.bad then c.setWalker n (w.advance 1) else c

/-- The watch hits of a walker read (05 R195; 04 R172). -/
def State.walkerHits (s : State) (cn : Nat) (n : BitVec 2) : List Hit :=
  let c := s.core cn
  let w := c.walker n
  match c.walkerCap w with
  | some k => if w.live && !w.bad then c.hits k false w.elemOff.toNat w.width else []
  | none => []

/-- The banks that a walker read makes busy: those of the element's bytes, and of its scale (05 R177). The elements that the
hardware prefetches are read by the model when they are delivered (log 114). -/
def State.walkerBusy (s : State) (cn : Nat) (n : BitVec 2) : List Nat :=
  let w := (s.core cn).walker n
  let a := s.walkerAddr w
  if w.live && !w.bad then
    ([a, a + w.width - 1] ++ (s.walkerScale cn w).toList).map (fun x => bankAt (x - slotBase cn))
  else []

/-! ### Ends of feeds and bindings (05 R194, R196) -/

/-- The end of a feed, with its counter decremented (05 R187, R194). -/
def Core.endFeed (c : Core) (n : BitVec 2) : Core :=
  let w := c.walker n
  if w.feeding then (c.setWalker n { w with feeding := false, feedLeft := 0, feedSb := 0 }).sbDec w.feedSb else c

/-- An unbound walker, with everything zero (05 R193). -/
def Core.unbind (c : Core) (n : BitVec 2) : Core := (c.endFeed n).setWalker n {}

end Sys2Proof.Machine
end

