-- ==== Sys2Proof/Machine/Operands.lean ====
section
/-! DEFINITION. Every operand form: the moves of a word, what an origin reads, and where a target writes
(02 R76 to R81, R90, R100). -/

namespace Sys2Proof

/-- The unit of an operation, by its index in the unit-port area; walkers are units 6 to 9 (04 R165; 02 R82). -/
def Op.unit : Op → Nat
  | .ctl _ => 0 | .ia u _ => 1 + u.toNat | .im _ => 3 | .fs _ => 4 | .ls _ => 5 | .sw n _ => 6 + n.toNat
  | .tm _ => 10 | .wr _ => 11 | .vx _ => 12 | .mx _ => 13 | .cap _ => 14 | .cp _ => 15 | .rm _ => 16
  | .sq _ => 17 | .tr _ => 18

/-- The transfer triggers (02 R83). -/
def CtlOp.transfers : CtlOp → Bool
  | .jmp | .bra | .call | .ret | .jtab | .bre | .yield | .wait | .done | .trap | .rett | .brk => true
  | _ => false

/-- An operation whose trigger owes a delay word (02 R83). -/
def Op.transfers : Op → Bool
  | .ctl o => o.transfers
  | _ => false

/-! ### The moves of a word (02 R70 to R76) -/

/-- A non-NOP move of a word that issues. -/
structure Slot where
  /-- slot number as the ring and the frame give it: BI's long move is 0, its ordinary move 1 (02 R73, R94) -/
  slot : BitVec 2
  guard : BitVec 4
  org : Origin
  /-- the 42-bit immediate of a long move -/
  long : Option (BitVec 42)
  /-- this move takes the word's literal -/
  lit : Bool
  tgt : Target
  sb : BitVec 4
  deriving DecidableEq, Repr

/-- The origin field as a frame header gives it (04 R163). -/
def Slot.orgField (m : Slot) : BitVec 11 :=
  match m.long with
  | some i => 1#1 ++ i.extractLsb' 0 10
  | none => m.org.field

/-- A word that issues: its non-NOP moves in slot order, whether it breaks a rule of R72 to R74, its literal, and its
length in bytes (02 R85). -/
structure IssueWord where
  moves : List Slot
  illegal : Bool
  lit : Word
  len : Nat
  deriving DecidableEq, Repr

/-- A move in a slot. -/
def Move.inSlot (m : Move) (slot : BitVec 2) (lit : Bool) : Slot := ⟨slot, m.guard, m.org, none, lit, m.tgt, m.sb⟩

/-- The moves of the slots that are no NOPs (02 R76). -/
def liveMoves (ms : List (Move × BitVec 2 × Bool)) : List Slot :=
  (ms.filter (fun x => !x.1.isNop)).map (fun (m, sl, lit) => m.inSlot sl lit)

/-- A non-NOP move has origin lit. -/
def Move.isLit (m : Move) : Bool := !m.isNop && m.org == .lit

/-- The literal rules of a B3 word (02 R74): with a literal the named slot takes it; without, no slot is named; and no
other move has origin lit. -/
def b3Legal (ms : List Move) (ls : BitVec 2) (hasLit : Bool) : Bool :=
  let others := (ms.zipIdx).all (fun (m, i) => (hasLit && i + 1 == ls.toNat) || !m.isLit)
  if hasLit then ls != 0 && (ms.getD (ls.toNat - 1) ⟨0b1000, .lit, .g 0, 0⟩).isLit && others
  else ls == 0 && others

/-- A general word as it issues (02 R70 to R74). -/
def SWord.issue : SWord → IssueWord
  | .one m => ⟨liveMoves [(m, 0, false)], m.isLit, 0, 4⟩
  | .oneLit m lit => ⟨liveMoves [(m, 0, true)], !m.isLit, lit, 12⟩
  | .b3 m1 m2 m3 ls lit =>
    ⟨liveMoves [(m1, 0, ls == 1), (m2, 1, ls == 2), (m3, 2, ls == 3)],
      !b3Legal [m1, m2, m3] ls lit.isSome, lit.getD 0, if lit.isSome then 20 else 12⟩
  | .bi l m top lit =>
    ⟨(if l.guard == 0b1000#4 then [] else [⟨0, l.guard, .imm 0, some l.imm, false, l.tgt, l.sb⟩]) ++
        liveMoves [(m, 1, lit.isSome)],
      top == 1 || (if lit.isSome then !m.isLit else m.isLit), lit.getD 0, if lit.isSome then 20 else 12⟩
  | .bad _ _ lit => ⟨[], true, 0, if lit.isSome then 20 else 12⟩

/-- A single-trigger 32-bit word as it issues (02 R71). -/
def Arg.issue (m : Arg) (op : Op) : IssueWord := (SWord.one ⟨m.guard, m.org, .trig op, m.sb⟩).issue

/-- The target is a trigger. -/
def Target.op? : Target → Option Op
  | .trig op => some op
  | _ => none

/-- The origin reads the walker `n`. -/
def Slot.walker? (m : Slot) : Option (BitVec 2) :=
  match m.long, m.org with
  | none, .swR n => some n
  | _, _ => none

/-- The origin reads `fs.x`. -/
def Slot.readsFsx (m : Slot) : Bool := m.long.isNone && m.org == .port .fsX

/-- The target code of a move is reserved (02 R98). -/
def Slot.badTarget (m : Slot) : Bool :=
  match m.tgt with
  | .reserved _ => true
  | _ => false

/-- The origin of a move is a reserved code (02 R100). -/
def Slot.badOrigin (m : Slot) : Bool :=
  match m.long, m.org with
  | none, .reserved _ => true
  | _, _ => false

end Sys2Proof

namespace Sys2Proof.Machine

/-! ### Latches and result ports in the unit-port area (04 R165) -/

/-- The place of a latch: unit u's first operand latch at 4u, its second or its capability select at 4u + 1
(04 R165). -/
def latchIdx : Latch → Nat
  | .ctlO => 0 | .ia0O => 4 | .ia1O => 8 | .imO => 12 | .imP => 13 | .fsO => 16 | .fsP => 17
  | .lsO => 20 | .lsK => 21 | .swK n => 25 + 4 * n.toNat | .tmO => 40 | .wrO => 44 | .vxO => 48 | .mxO => 52
  | .capO => 56 | .capK => 57 | .cpO => 60 | .cpK => 61 | .rmO => 64 | .rmK => 65 | .sqO => 68
  | .trO => 72 | .trK => 73

/-- The place of a result port: unit u's at 4u + 2, `im.h` and `fs.x` at 4u + 3 (04 R165). -/
def portIdx : Port → Nat
  | .ia0R => 6 | .ia1R => 10 | .imR => 14 | .imH => 15 | .fsR => 18 | .fsX => 19 | .lsR => 22 | .tmR => 42
  | .wrR => 46 | .vxR => 50 | .mxR => 54 | .capR => 58 | .cpR => 62 | .rmR => 66 | .sqR => 70 | .trR => 74

/-- The first operand latch of an operation's unit: its `o` (02 R107). -/
def Core.latchO (c : Core) (op : Op) : Word := c.port_ (4 * op.unit)

/-- The second operand latch of an operation's unit: its `p` (02 R107). -/
def Core.latchP (c : Core) (op : Op) : Word := c.port_ (4 * op.unit + 1)

/-- The capability register that the unit's `.k` latch selects, bits 4:0 (02 R107). -/
def Core.latchK (c : Core) (op : Op) : BitVec 5 := (c.port_ (4 * op.unit + 1)).extractLsb' 0 5

/-! ### Origins (02 R77, R80, R100) -/

/-- The guard value of a move at the start of the cycle (02 R76). -/
def Core.guardValue (c : Core) (guard : BitVec 4) : Bool := c.rq (guard.extractLsb' 0 3) != guard.getLsbD 3

/-- The value of `fs.x` (06 R207). -/
def Core.fsx (c : Core) : Word := (0#51 ++ c.vflags ++ 0#3 ++ c.sflags)

/-- What an origin reads at the start of the cycle, for a word at the core's PC (02 R100). -/
def State.originValue (s : State) (cn : Nat) (lit : Word) (o : Origin) : Word :=
  let c := s.core cn
  match o with
  | .g r => c.rg r
  | .q r => if c.rq r then 1 else 0
  | .sb r => (c.rsb r).setWidth 64
  | .lit => lit
  | .pc => c.pc.word
  | .dt => s.now
  | .wid => (c.res.map (·.wid)).getD 0
  | .cid => s.cid cn
  | .rmode => c.rm.setWidth 64
  | .xb => c.xb
  | .lnk => c.lnk
  | .epc => c.epc
  | .cause => c.cause
  | .port .fsX => c.fsx
  | .port p => c.port_ (portIdx p)
  | .swR n => s.walkerRead cn n
  | .swE n => (c.walker n).status.setWidth 64
  | .imm v => v.signExtend 64
  | .reserved _ => 0

/-- The value that a move carries (02 R73, R77). -/
def State.slotValue (s : State) (cn : Nat) (lit : Word) (m : Slot) : Word :=
  match m.long with
  | some i => i.signExtend 64
  | none => s.originValue cn lit m.org

/-! ### Targets (02 R78, R81) -/

/-- A move's write to an operand latch (02 R78). -/
def Core.writeLatch (c : Core) (t : Target) (v : Word) : Core :=
  match t with
  | .latch l => c.setPort (latchIdx l) v
  | _ => c

/-- A move's write to a g or q register, made at the end of the cycle (02 R78, R81). -/
def Core.writeReg (c : Core) (t : Target) (v : Word) : Core :=
  match t with
  | .g r => c.setG r v
  | .q r => c.setQ r (v.getLsbD 0)
  | _ => c

/-! ### Trigger values of the remote memory unit (09 R326, R328, R332) -/

/-- OFF. -/
def rmOff (t : Word) : Nat := fieldN t.toNat 0 40
/-- The size of rld and rst in bytes. -/
def rmSize (t : Word) : Nat := 32 * 2 ^ fieldN t.toNat 40 2
/-- V. -/
def rmV (t : Word) : Bool := t.getLsbD 42
/-- REG. -/
def rmReg (t : Word) : Nat := fieldN t.toNat 43 6
/-- BLK. -/
def rmBlk (t : Word) : Nat := fieldN t.toNat 49 4
/-- OP of an accumulate packet. -/
def rmOp (t : Word) : BitVec 3 := t.extractLsb' 40 3
/-- TY of an accumulate packet. -/
def rmTy (t : Word) : BitVec 2 := t.extractLsb' 43 2
/-- The vector register of rld and rst with V = 1. -/
def rmVec (t : Word) : BitVec 5 := t.extractLsb' 43 5

/-- Bytes of an element of a type of accumulate packet (09 R328). -/
def accBytes (ty : BitVec 2) : Nat :=
  match ty with
  | 0b01 => 8
  | 0b11 => 2
  | _ => 4

end Sys2Proof.Machine
end

