-- ==== Sys2Proof/Machine/Flags.lean ====
section
/-! DEFINITION. The sticky flags of the scalar float unit and of the vector engine (06 R207). What each operation
raises is computed beside its result (03 R128). -/

namespace Sys2Proof.Machine

/-- The flags of a scalar result are ORed into SFLAGS (06 R207). -/
def Core.raiseS (c : Core) (f : Flags) : Core := { c with sflags := c.sflags ||| f }

/-- The flags of a vector result are ORed into VFLAGS (06 R207). -/
def Core.raiseV (c : Core) (f : Flags) : Core := { c with vflags := c.vflags ||| f }

/-- The flags that several results raise together (03 R128). -/
def orFlags (xs : List Flags) : Flags := xs.foldl (· ||| ·) 0

end Sys2Proof.Machine
end

