-- ==== Sys2Proof/Machine/Issue.lean ====
section
/-! DEFINITION. Issue of one word (02 R85): the checks on the encoding, the stall, the checks of each operation, the
moves, and what a delay word owes (02 R83; 04 R139, R150 to R156). -/

namespace Sys2Proof.Machine

/-! ### Triggers -/

/-- A trigger as its operation meets it: the core as at the start of the cycle with the word's latch writes made
(02 R80, R81), and the fields of the move. -/
structure Trig where
  /-- the core's number -/
  c : Nat
  at_ : Core
  op : Op
  t : Word
  slot : BitVec 2
  sb : BitVec 4
  /-- place in program order: four to a word, by slot -/
  order : Nat
  /-- length of the word in bytes -/
  len : Nat

/-- The operand latch `o` of the unit (02 R107). -/
def Trig.o (x : Trig) : Word := x.at_.latchO x.op
/-- The operand latch `p` of the unit (02 R107). -/
def Trig.p (x : Trig) : Word := x.at_.latchP x.op
/-- The register that the unit's `.k` latch selects (02 R107). -/
def Trig.k (x : Trig) : BitVec 5 := x.at_.latchK x.op
/-- The rounding mode sampled (03 R125). -/
def Trig.mode (x : Trig) : BitVec 3 := rmMode x.at_.rm
/-- SAT sampled (03 R125). -/
def Trig.sat (x : Trig) : Bool := rmSat x.at_.rm

/-- What an operation does when its trigger is performed: its checks at issue (02 R85 step 6), its effect, the watched
ranges its Local-path accesses meet, and how its scoreboard counter is decremented. -/
structure Trigger where
  check : State → Trig → Option Err := fun _ _ => none
  perform : State → Trig → State
  hits : State → Trig → List Hit := fun _ _ => []
  /-- the bytes that its accesses read or write, for traces (11 R408) -/
  touches : State → Trig → List Touch := fun _ _ => []
  /-- the operation is detached (02 R92) -/
  detached : State → Trig → Bool := fun _ _ => false
  /-- its counter is decremented at the end of the same cycle (04 R137; 05 R187) -/
  sbAtOnce : Bool := false

/-- An operation of fixed latency: it adds stages to its unit's pipeline (02 R87). -/
def Trig.stage (x : Trig) (latency : Nat) (slow : Bool) (r : Result) : Stage :=
  ⟨x.op.unit, x.order, latency, slow, x.sb, r⟩

/-- A trigger of an unpipelined operation discards the one in progress, and its counter is decremented (02 R89,
R95). -/
def Core.discardSlow (c : Core) (unit : Nat) : Core :=
  let out := c.stages.filter (fun st => st.slow && st.unit == unit)
  out.foldl (fun c st => c.sbDec st.sb) { c with stages := c.stages.filter (fun st => !(st.slow && st.unit == unit)) }

/-- Start an operation of fixed latency (02 R87, R89). -/
def Trig.start (x : Trig) (latency : Nat) (slow : Bool) (r : Result) (s : State) : State :=
  s.onCore x.c (fun c =>
    let c := if slow then c.discardSlow x.op.unit else c
    { c with stages := c.stages ++ [x.stage latency slow r] })

/-! ### Steps 1 to 5 (02 R72 to R85) -/

/-- Two moves conflict (02 R82): the same target code, or two triggers of one unit. -/
def conflicts (a b : Slot) : Bool :=
  a.tgt.code == b.tgt.code ||
    (match a.tgt.op?, b.tgt.op? with
      | some x, some y => x.unit == y.unit
      | _, _ => false)

/-- The first move that conflicts with an earlier one: the later of the two is named (02 R82; log 112). -/
def firstConflict : List Slot → List Slot → Option Slot
  | _, [] => none
  | before, m :: rest => if before.any (conflicts · m) then some m else firstConflict (before ++ [m]) rest

/-- The fault of a word's encoding, with the move that is named as the faulting one (02 R85 steps 1 to 5). A word whose
form or literal is at fault names its first move (log 24). -/
def wordErr (w : IssueWord) (delay : Bool) : Option (Option Slot × BitVec 8) :=
  match if w.illegal then some w.moves.head? else
      (w.moves.find? (fun m => m.sb.getLsbD 3 && m.tgt.op?.isNone)).map some with
  | some m => some (m, 0x01)
  | none =>
  match w.moves.find? Slot.badTarget with
  | some m => some (some m, 0x02)
  | none =>
  match w.moves.find? Slot.badOrigin with
  | some m => some (some m, 0x03)
  | none =>
  match firstConflict [] w.moves with
  | some m => some (some m, 0x04)
  | none =>
  match if delay then w.moves.find? (fun m => (m.tgt.op?.map Op.transfers).getD false) else none with
  | some m => some (some m, 0x05)
  | none => none

/-- The scoreboard increments of the word would take a counter past 4,095 (02 R85, R95); the encoding alone counts
(02 R78). -/
def Core.sbFull (c : Core) (ms : List Slot) : Bool :=
  (List.range 8).any (fun n =>
    let inc := (ms.filter (fun m => sbSel m.sb == some (BitVec.ofNat 3 n))).length
    inc != 0 && decide (4095 < (c.rsb (BitVec.ofNat 3 n)).toNat + inc))

/-- `n` more detached operations would overwrite the ring entry of one that has not completed, be it one of a continuation
that has left the core, or take the number of one that is still in flight (02 R93, R94). -/
def State.ringFull (s : State) (cn n : Nat) : Bool :=
  (List.range n).any (fun i =>
    let q := (s.core cn).seq + BitVec.ofNat 16 i
    let e := (s.core cn).ringAt q
    s.flights.any (fun f => f.agent == cn && (f.seq == q || (e.state == ringIssued && f.seq == e.seq))))

/-! ### Faults (02 R85; 04 R160, R163) -/

/-- The stop of a precise fault at a word (04 R160, R163). -/
def preciseStop (pc : CodePtr) (m : Option Slot) (e : Err) : StopDue where
  pc := pc
  cause := e.cause
  kind := 0b00
  slot := (m.map (·.slot)).getD 0
  seq := 0
  tgt := (m.map (·.tgt.code)).getD 0
  org := (m.map Slot.orgField).getD 0
  info := 0
  detail := e.detail
  detail2 := e.detail2

/-- A word faults: it does not complete, and the core stops at it (02 R85; 04 R160). -/
def State.wordFault (s : State) (cn : Nat) (m : Option Slot) (e : Err) : State :=
  s.onCore cn (fun c => c.stopAt (preciseStop c.pc m e))

/-! ### What a delay word owes (02 R83; 04 R139, R150, R152, R156) -/

/-- The stop of a software trap of code 16 to 255 (04 R152). -/
def trapStop (pc : CodePtr) (code : BitVec 8) : StopDue := ⟨pc, 0x09, 0b00, 0, 0, 0, 0, code, 0, 0⟩

/-- The owed effect is taken after the delay word; `next` is the word after it, and `ovl` the delay word's overlay id
(04 R139, R150, R152, R156). -/
def State.takeOwed (s : State) (cn : Nat) (o : Owe) (next : CodePtr) : State :=
  match o.kind with
  | .transfer => s.onCore cn (fun c => match o.target with
    | some p => { c with pc := p, check := if p.ovl = next.ovl then 0 else 2 }
    | none => { c with pc := next })
  | .yield => s.onCore cn (fun c => { c with pc := next, mode := .suspending .yield o.arg })
  | .wait => s.onCore cn (fun c => { c with pc := next, mode := .suspending .wait o.arg })
  | .done => s.onCore cn (fun c => { c with pc := next, mode := .suspending .done o.arg })
  | .trap =>
    let code : BitVec 8 := o.arg.extractLsb' 0 8
    s.onCore cn (fun c =>
      let c := { c with pc := next }
      if code.toNat < 16 then c.raiseTrap ⟨0x09, code, 0, next⟩ else c.stopAt (trapStop next code))
  | .brk => s.onCore cn (fun c => ({ c with pc := next } : Core).raiseTrap ⟨0x0B, o.arg.extractLsb' 0 8, 0, next⟩)
  | .rett =>
    let s := s.performStores cn (s.core cn).stores
    s.onCore cn (fun c => ({ c with stores := [] } : Core).leaveTrap (o.target.getD next))

/-! ### Watch hits (04 R153, R172 to R174) -/

/-- A watch event record (04 R174). -/
def watchRecord (slot : Nat) (path : BitVec 4) (lost : BitVec 16) (buf : BitVec 32) (off bytes : Nat)
    (wdev : BitVec 12) (wcore : BitVec 11) (time : Word) : BitVec 256 :=
  (time ++ 0#41 ++ wcore ++ wdev ++ BitVec.ofNat 24 (min bytes 0xFFFFFF) ++ BitVec.ofNat 40 off ++ buf ++ lost ++
    0#10 ++ path ++ BitVec.ofNat 2 slot)

/-- A watch event of slot `slot` of core `cn`, on its way to the slot's mailbox (04 R174). -/
def State.watchEvent (s : State) (cn slot : Nat) (path : BitVec 4) (off bytes : Nat) (wdev : BitVec 12)
    (wcore : BitVec 11) : State :=
  match (s.core cn).watch[slot]? with
  | some w => { s with msgs := s.msgs ++ [
      { src := cn, seq := none, part := w.part, mbox := w.mbox, host := false, dev := none, refused := false,
        pay := .event (watchRecord slot path w.lost w.buf off bytes wdev wcore s.now) }] }
  | none => s

/-- A local hit that is not taken as a trap is reported as a watch event (04 R153). -/
def State.reportHit (s : State) (cn : Nat) (h : Hit) : State :=
  s.watchEvent cn h.slot 0 h.start h.bytes s.dev (BitVec.ofNat 11 cn)

/-- After a word whose accesses hit a watched range: local trap 0x0A at this boundary, or an event when the word was the
delay word of a trap or a breakpoint. After the delay word of a suspension the trap comes first, and the suspension on the
return from the handler (04 R153, R172; log 25). -/
def State.afterHit (s : State) (cn : Nat) (hs : List Hit) : State :=
  match pickHit hs with
  | none => s
  | some h =>
    let t (c : Core) : TrapDue := ⟨0x0A, h.info, BitVec.ofNat 40 h.off, c.pc⟩
    match (s.core cn).mode with
    | .run => s.onCore cn (fun c => c.raiseTrap (t c))
    | .suspending k arg => s.onCore cn (fun c => ({ c with owedSusp := some (k, arg) } : Core).raiseTrap (t c))
    | _ => s.reportHit cn h

/-! ### Issue (02 R85) -/

/-- The context of an enabled trigger move, if the move is one. -/
def trigOf (cn : Nat) (at_ : Core) (order len : Nat) (m : Slot) (v : Word) : Option Trig :=
  m.tgt.op?.map (fun op => ⟨cn, at_, op, v, m.slot, m.sb, order + m.slot.toNat, len⟩)

/-- Step 6 for one enabled move: the deferred and element faults of a walker it reads, then the checks of the
operation it triggers (02 R85). -/
def State.moveErr (s : State) (trig : Op → Trigger) (cn : Nat) (m : Slot) (x : Option Trig) : Option Err :=
  match m.walker?.bind (s.walkerReadErr cn) with
  | some e => some e
  | none => x.bind (fun x => (trig x.op).check s x)

/-- The first enabled move, in slot order, whose checks fail (02 R85 step 6). -/
def State.firstMoveErr (s : State) (trig : Op → Trigger) (cn : Nat) :
    List (Slot × Word × Option Trig) → Option (Slot × Err)
  | [] => none
  | (m, _, x) :: rest => match s.moveErr trig cn m x with
    | some e => some (m, e)
    | none => s.firstMoveErr trig cn rest

/-- Step 7 for one enabled move: the scoreboard increment and the start of its operation (02 R85). -/
def State.performMove (trig : Op → Trigger) (s : State) (x : Slot × Word × Option Trig) : State :=
  match x.2.2 with
  | none => s
  | some tr =>
    let tg := trig tr.op
    let xs := tg.touches s tr
    let s := tg.perform (s.onCore tr.c (·.sbInc tr.sb)) tr
    let s := s.noteTouches tr.c tr.order xs
    if tg.sbAtOnce then s.onCore tr.c (·.sbDec tr.sb) else s

/-- The side effects of the origins that enabled moves read: walkers advance once, `fs.x` is cleared, banks are busy
(02 R85; 05 R177, R191; 06 R207). -/
def State.originEffects (s : State) (cn : Nat) (ms : List Slot) (fsx : Bool) : State :=
  let ns := (ms.filterMap Slot.walker?).eraseDups
  let busy := ns.flatMap (s.walkerBusy cn)
  let s := s.onCore cn (fun c => ns.foldl Core.walkerAdvance c)
  s.onCore cn (fun c => { c.useBanks busy with
    sflags := if fsx then 0 else c.sflags
    vflags := if fsx then 0 else c.vflags })

/-- The moves of a word that passed every check are performed, and the cycle ends (02 R80, R81, R85). A watch hit in
the delay word of `ctl.t.rett`, which belongs to the handler, stops the continuation (04 R138, R157; log 25). -/
def State.performWord (s : State) (trig : Op → Trigger) (cn : Nat) (w : IssueWord)
    (ms : List (Slot × Word × Option Trig)) (at_ : Core) : State :=
  let c := s.core cn
  let hs := ms.flatMap (fun x => ((x.1.walker?.map (s.walkerHits cn)).getD []) ++
    ((x.2.2.map (fun t => (trig t.op).hits s t)).getD []))
  let s := s.originEffects cn (ms.map (·.1)) (ms.any (fun x => x.1.readsFsx))
  let s := s.onCore cn (fun c => { c with ports := at_.ports })
  let s := ms.foldl (State.performMove trig) s
  let s := s.onCore cn (fun c => ms.foldl (fun c x => c.writeReg x.1.tgt x.2.1) c)
  let next := c.pc.plus w.len
  let s := s.onCore cn (fun c => ({ c with order := c.order + 4 } : Core).endCycle)
  match c.owe with
  | none => (s.onCore cn (fun c => { c with pc := next })).afterHit cn hs
  | some o =>
    let s := s.onCore cn (fun c => { c with owe := none })
    match o.kind, pickHit hs with
    | .rett, some h => s.onCore cn (fun c =>
        c.stopAt (TrapDue.escalated ⟨0x0A, h.info, BitVec.ofNat 40 h.off, o.target.getD next⟩))
    | _, _ => (s.takeOwed cn o next).afterHit cn hs

/-- Issue of one word on a running core (02 R85). A word that the ring holds stalls before its operations are checked
(log 113). -/
def State.issueRun (s : State) (trig : Op → Trigger) (cn : Nat) (w : IssueWord) : State :=
  let c := s.core cn
  match wordErr w c.owe.isSome with
  | some (m, cause) => s.wordFault cn m ⟨cause, 0, 0⟩
  | none =>
    let vals := w.moves.map (fun m => (m, s.slotValue cn w.lit m))
    let on := vals.filter (fun x => c.guardValue x.1.guard)
    let at_ := on.foldl (fun c x => c.writeLatch x.1.tgt x.2) c
    let ms := on.map (fun x => (x.1, x.2, trigOf cn at_ c.order w.len x.1 x.2))
    let det := (ms.filter (fun x => (x.2.2.map (fun t => (trig t.op).detached s t)).getD false)).length
    if (w.moves.filterMap Slot.walker?).any (fun n => (c.walker n).stalls) || c.sbFull w.moves || s.ringFull cn det then
      s.onCore cn Core.endCycle
    else match s.firstMoveErr trig cn ms with
      | some (m, e) => s.wordFault cn (some m) e
      | none => s.performWord trig cn w ms at_

/-- Issue of one word on core `cn`: nothing on a core that issues no words; a cycle passes while `ctl.t.sbwait` or
`ctl.t.drain` holds the word (02 R85; 04 R136). -/
def State.issue (s : State) (trig : Op → Trigger) (cn : Nat) (w : IssueWord) : State :=
  match (s.core cn).mode with
  | .run => match (s.core cn).hold with
    | .none => s.issueRun trig cn w
    | _ => s.onCore cn Core.endCycle
  | _ => s

/-- Issue of a 32-bit word with one trigger, on the core whose turn it is (02 R71, R85). -/
def issueOne (op : Op) (tr : Trigger) (m : Arg) (s : State) : State := s.issue (fun _ => tr) s.turn (m.issue op)

end Sys2Proof.Machine
end

