-- ==== Sys2Proof/Machine/Agents.lean ====
section
/-! DEFINITION. The cores that issue operations, by sluice index: compute cores, and the service and kernel cores
through their port pages (01 R37; 13 R478). -/

namespace Sys2Proof.Machine

/-- A compute core's agent number (01 R37). -/
def isCompute (a : Nat) : Bool := decide (a < 2048)

/-- A service or kernel core. -/
def State.svc (s : State) (x : Nat) : Svc := (tabFind x s.svcs).getD {}

/-- The state with a service or kernel core changed. -/
def State.onSvc (s : State) (x : Nat) (f : Svc → Svc) : State := { s with svcs := tabPut x (f (s.svc x)) s.svcs }

/-- The cluster of an agent; a kernel core stands beside the hub (01 R37). -/
def agentCluster (a : Nat) : Nat := if isCompute a then a / 16 else if a < 2176 then a - 2048 else 128

/-- A truth value as a word. -/
def boolWord (b : Bool) : Word := if b then 1 else 0

/-- KIND of a sluice, by its index: 0b00 compute, 0b01 service, 0b10 kernel (01 R37; 08 R301). -/
def sluiceKind (a : Nat) : BitVec 2 := if isCompute a then 0b00 else if a < 2176 then 0b01 else 0b10

/-- The sluice of an agent (08 R301). -/
def State.sluiceOf (s : State) (a : Nat) : Sluice := if isCompute a then (s.core a).sluice else (s.svc a).sluice

/-- The partition of an agent (01 R21). -/
def State.partOf (s : State) (a : Nat) : BitVec 4 := (s.sluiceOf a).part

/-- The identity of an agent as records give it: a service or kernel core has CORE = 0x7FF (02 R101; 13 R476). -/
def State.agentCid (s : State) (a : Nat) : Word :=
  (0#32 ++ s.dev ++ s.partOf a ++ 0#5 ++ (if isCompute a then BitVec.ofNat 11 a else 0x7FF))

/-- The core number that a request of an agent carries. -/
def agentCore (a : Nat) : BitVec 11 := if isCompute a then BitVec.ofNat 11 a else 0x7FF

/-- A service or kernel core as its operations see it: latches, ports and slots; its rounding state is 0 (13 R474,
R478). -/
def Svc.view (v : Svc) : Core :=
  { Core.reset with
    ports := v.ports
    k := Vector.ofFn (fun i => v.k[i.val]?.getD .empty)
    kx := Vector.ofFn (fun i => v.kx[i.val]?.getD none)
    seq := v.seq
    sig := v.sig
    lastCopy := v.lastCopy
    copyCyc := v.copyCyc
    sluice := v.sluice
    cyc := v.cyc }

/-- An agent as its operations see it. -/
def State.view (s : State) (a : Nat) : Core := if isCompute a then s.core a else (s.svc a).view

/-- A capability slot of a service or kernel core: slots 16 to 31 hold none (13 R478). -/
def Svc.rk (v : Svc) (k : BitVec 5) : KReg := v.k[k.toNat]?.getD .empty

/-- The capability register, or sluice slot, of an agent. -/
def State.agentK (s : State) (a : Nat) (k : BitVec 5) : KReg :=
  if isCompute a then (s.core a).rk k else (s.svc a).rk k

/-- A capability names the buffer that a slot watches. -/
def Watch.names (w : Watch) (c : Cap) : Bool := c.part == w.part && c.desc == w.buf

/-- A register of the core holds a capability for the buffer that a slot watches. -/
def Core.holdsWatched (c : Core) (w : Watch) : Bool := c.k.toList.any (fun k => (k.cap?.map w.names).getD false)

/-- An operation in flight of the continuation still holds a capability for the buffer that a slot watches. -/
def State.flightHolds (s : State) (a : Nat) (w : Watch) : Bool :=
  s.flights.any (fun f => f.agent == a && f.counted && f.phase != .ready && (f.ca.toList ++ f.cb.toList).any w.names &&
    (match f.op with
      | .cap o => o != .send && o != .drop
      | _ => false))

/-- A watch slot is cleared silently once the continuation holds no capability for its buffer (04 R169). -/
def State.sweepWatch (s : State) (a : Nat) : State :=
  if (s.core a).watch.toList.all (fun w => w.kind == 0 || (s.core a).holdsWatched w || s.flightHolds a w) then s
  else s.onCore a (fun c => { c with
    watch := c.watch.map (fun w => if w.kind = 0 ∨ c.holdsWatched w ∨ s.flightHolds a w then w else {}) })

/-- Write a capability register or slot of an agent; its cached translation goes (01 R45), and so do watches of a buffer that
it no longer holds (04 R169). -/
def State.setAgentK (s : State) (a : Nat) (k : BitVec 5) (v : KReg) : State :=
  if isCompute a then (s.onCore a (·.setK k v)).sweepWatch a
  else s.onSvc a (fun c => { c with k := c.k.setIfInBounds k.toNat v, kx := c.kx.setIfInBounds k.toNat none })

/-- A slot of a capability set (08 R486). -/
def State.setSlot (s : State) (part : BitVec 4) (set : Nat) (k : BitVec 5) : KReg :=
  match tabFind set (s.part part).sets with
  | some v => v[k.toNat]'(k.isLt)
  | none => .empty

/-- Write a slot of a capability set. -/
def State.putSlot (s : State) (part : BitVec 4) (set : Nat) (k : BitVec 5) (v : KReg) : State :=
  s.onPart part (fun p => match tabFind set p.sets with
    | some w => { p with sets := tabPut set (w.set k.toNat v (k.isLt)) p.sets }
    | none => p)

/-- A service or kernel core's operations belong to this continuation, which is never resident (13 R478). -/
def State.svcResident (s : State) (a : Nat) : Resident :=
  ⟨0, s.partOf a, 0, BitVec.ofNat 32 (0x80000000 + a), 0, 0, none⟩

end Sys2Proof.Machine
end

