-- ==== Sys2Proof/Machine/Owners.lean ====
section
/-! DEFINITION. Owners of buffers (08 R259) and orphan lists (08 R283). -/

namespace Sys2Proof.Machine

/-- Two capabilities name one buffer. -/
def Cap.same (a b : Cap) : Bool := a.part == b.part && a.desc == b.desc

/-- The capability carries ownership: whole or a residual (08 R284). -/
def Cap.owns (c : Cap) : Bool :=
  match c.kind with
  | .whole | .resFractions | .resGrants => true
  | _ => false

/-! ### Owners (08 R259) -/

/-- OWNER: kind and identity. -/
def ownerOf (kind : BitVec 3) (id : Nat) : BitVec 32 := kind ++ BitVec.ofNat 29 id

/-- OWNER of a capability in a register of an agent: a core's register, or a slot of a service or kernel core. -/
def ownerReg (a : Nat) (k : BitVec 5) : BitVec 32 :=
  if isCompute a then ownerOf 0 (a * 32 + k.toNat) else ownerOf 1 (a * 16 + k.toNat % 16)

/-- OWNER of a capability in a set. -/
def ownerSet (i : Nat) : BitVec 32 := ownerOf 2 i

/-- OWNER of a capability in a message to a mailbox. -/
def ownerMsg (mbox : BitVec 17) (host : Bool) : BitVec 32 := ownerOf 3 (mbox.toNat + if host then 2 ^ 17 else 0)

/-- OWNER of a capability in a host slot. -/
def ownerHost (part : BitVec 4) (slot : Nat) : BitVec 32 := ownerOf 4 (part.toNat * 256 + slot)

/-- OWNER of an orphan. -/
def ownerOrphan (part : BitVec 4) (i : Nat) : BitVec 32 := ownerOf 5 (part.toNat + 16 * i)

/-- OWNER of a capability in a return set. -/
def ownerReturn (i : Nat) : BitVec 32 := ownerOf 6 i

/-- The descriptor records where the owner's capability stands; a fraction or a grant leaves it (08 R258). -/
def State.setOwner (s : State) (c : Cap) (o : BitVec 32) : State :=
  if c.owns then s.onDesc c.part c.desc.toNat (fun d => { d with owner := o, owndev := s.dev }) else s

/-! ### Orphans (08 R283) -/

/-- A capability goes to the orphan list of a partition, behind the others (08 R283). -/
def State.orphan (s : State) (part : BitVec 4) (c : Cap) : State :=
  let i := ((s.part part).orphans.getLast?.map (fun e => e.1 + 1)).getD 0
  (s.onPart part (fun p => { p with orphans := tabPut i c p.orphans })).setOwner c (ownerOrphan part i)

/-! ### Capabilities that are taken away (08 R300; 10 R347) -/

/-- A capability is for one of the descriptors of a partition. -/
def Cap.among (part : BitVec 4) (is_ : List Nat) (c : Cap) : Bool := c.part == part && is_.contains c.desc.toNat

/-- Capabilities are removed wherever they stand: registers, slots, sets, host slots, orphan lists and messages. -/
def State.removeCaps (s : State) (gone : Cap → Bool) : State :=
  let clear (k : KReg) : KReg := match k with
    | .cap c => if gone c then .empty else .cap c
    | x => x
  let stays (m : Msg) : Bool := match m.pay with
    | .cap c _ _ _ => !gone c
    | _ => true
  { s with
    flights := s.flights.map (fun f => { f with kres := f.kres.map (fun x => (x.1, clear x.2)) })
    cores := s.cores.map (fun (i, c) => (i, { c with
      k := c.k.map clear
      watch := c.watch.map (fun w => if gone ⟨.whole, w.part, w.buf, 0, 0⟩ then {} else w) }))
    svcs := s.svcs.map (fun (i, v) => (i, { v with k := v.k.map clear }))
    parts := s.parts.map (fun (i, p) => (i, { p with
      sets := p.sets.map (fun (j, v) => (j, v.map clear))
      orphans := p.orphans.filter (fun e => !gone e.2)
      slots := p.slots.filter (fun e => !gone e.2) }))
    clusters := s.clusters.map (fun (i, c) => (i, { c with
      mbox := c.mbox.map (fun (j, m) => (j, { m with queue := m.queue.filter stays })) }))
    msgs := s.msgs.filter stays }

end Sys2Proof.Machine
end

