-- ==== Sys2Proof/Machine/Detached.lean ====
section
/-! DEFINITION. Detached operations (02 R92 to R97): sequence numbers and the ring, late faults and their records
(04 R159, R161, R167), and completion. -/

namespace Sys2Proof.Machine

/-! ### Operations in flight -/

/-- The operation of an agent with a sequence number. -/
def State.flight? (s : State) (a : Nat) (q : BitVec 16) : Option Flight :=
  s.flights.find? (fun f => f.agent == a && f.seq == q)

/-- An operation in flight changed. -/
def State.onFlight (s : State) (a : Nat) (q : BitVec 16) (g : Flight → Flight) : State :=
  { s with flights := s.flights.map (fun f => if f.agent == a && f.seq == q then g f else f) }

/-- An operation in flight replaced. -/
def State.setFlight (s : State) (f : Flight) : State := s.onFlight f.agent f.seq (fun _ => f)

/-- An operation taken out of flight. -/
def State.dropFlight (s : State) (a : Nat) (q : BitVec 16) : State :=
  { s with flights := s.flights.filter (fun f => !(f.agent == a && f.seq == q)) }

/-- A resident continuation that no one is: for a core that runs none. -/
def Resident.none : Resident := ⟨0, 0, 0, 0, 0, 0, .none⟩

/-- An operation in flight as its trigger leaves it (02 R93). -/
def Flight.start (agent : Nat) (seq : BitVec 16) (op : Op) (t o : Word) (rm sbf : BitVec 4) (slot : BitVec 2)
    (pc : CodePtr) (order : Nat) (res : Resident) (born n : Nat) : Flight where
  agent := agent
  seq := seq
  op := op
  t := t
  o := o
  rm := rm
  sbf := sbf
  slot := slot
  pc := pc
  order := order
  counted := true
  frame := .none
  retry := false
  res := res
  ka := 0
  ca := .none
  kb := 0
  cb := .none
  phase := .issued
  open_ := 0
  pos := 0
  fs := .bytes
  fd := .bytes
  data := []
  mask := 0
  born := born
  earliest := born + n
  result := .none
  fault := .none
  sigs := .none

/-- The states of a ring entry beside issued (02 R94): completed. -/
def ringCompleted : BitVec 3 := 0b010
/-- Late-faulted. -/
def ringFaulted : BitVec 3 := 0b011
/-- Pending-retry. -/
def ringRetry : BitVec 3 := 0b100
/-- Abandoned. -/
def ringAbandoned : BitVec 3 := 0b101

/-- Replace the ring entry of a sequence number. -/
def Core.setRing (c : Core) (q : BitVec 16) (e : RingEntry) : Core :=
  { c with ring := c.ring.set (q.toNat % 64) e (Nat.mod_lt _ (by decide)) }

/-- The ring entry of an operation at its issue (02 R94). -/
def Flight.entry (f : Flight) : RingEntry :=
  ⟨0, ringIssued, f.sbf, f.slot, BitVec.ofNat 11 f.op.code, f.pc.ovl, f.pc.off, f.seq⟩

/-- The next sequence number is taken and the ring entry written (02 R93, R94). -/
def Core.takeSeq (c : Core) (f : Flight) : Core := { c.setRing f.seq f.entry with seq := c.seq + 1 }

/-- The operation that a trigger puts in flight, completing no earlier than `n` cycles from the trigger. -/
def Trig.flight (x : Trig) (s : State) (n : Nat) : Flight :=
  let c := s.view x.c
  let res := if isCompute x.c then c.res.getD Resident.none else s.svcResident x.c
  Flight.start x.c c.seq x.op x.t x.o x.at_.rm x.sb x.slot c.pc x.order res c.cyc n

/-- Put an operation in flight (02 R92, R93). -/
def State.launch (s : State) (f : Flight) : State :=
  let s := if isCompute f.agent then s.onCore f.agent (·.takeSeq f) else s.onSvc f.agent (fun v => { v with seq := v.seq + 1, pseq := v.seq })
  { s with flights := s.flights ++ [f] }

/-- A trigger's operation goes into flight, with what `g` sets in it. -/
def Trig.detach (x : Trig) (n : Nat) (g : Flight → Flight) (s : State) : State := s.launch (g (x.flight s n))

/-- A request of a core whose sluice is off is refused at once, with nothing done (08 R301; log 129). -/
def Trig.throughSluice (x : Trig) (n : Nat) (perform : State → State) (s : State) : State :=
  if (s.sluiceOf x.c).en then perform s
  else x.detach n (fun f => { f with phase := .ready, fault := some ⟨0x20, 0, 1⟩ }) s

/-- A capability register's content at the trigger, noted in the operation. -/
def Flight.withCap (f : Flight) (k : BitVec 5) (c : Option Cap) : Flight := { f with ka := k, ca := c }

/-! ### Fault records (04 R167) -/

/-- A fault record (04 R167). -/
def faultRecord (cause : BitVec 8) (kind : BitVec 2) (exact stop : Bool) (part : BitVec 4) (seq : BitVec 16)
    (launch : BitVec 32) (wid cid pc detail detail2 frame time : Word) : BitVec 512 :=
  time ++ frame ++ detail2 ++ detail ++ pc ++ cid ++ wid ++ launch ++ seq ++ part ++ BitVec.ofBool stop ++
    BitVec.ofBool exact ++ kind ++ cause

/-- A record goes to the fault mailbox of a partition (04 R167; 08 R261). -/
def State.postRecord (s : State) (src : Nat) (part : BitVec 4) (r : BitVec 512) : State :=
  { s with msgs := s.msgs ++ [{
      src := src, seq := none, part := part, mbox := (s.part part).faultmb, host := false, dev := none, refused := false,
      pay := .record r }] }

/-- The record of an operation's late fault, or of a reported cause of it (04 R161, R167). -/
def State.postFor (s : State) (f : Flight) (kind : BitVec 2) (cause : BitVec 8) (detail detail2 : Word) : State :=
  s.postRecord f.agent f.res.part
    (faultRecord cause kind false false f.res.part f.seq f.res.launch f.res.wid (s.agentCid f.agent) f.pc.word detail detail2
      0 s.now)

/-! ### Late faults (02 R92; 04 R159, R161) -/

/-- The stop that a late fault brings; until it is taken, PC is that of the operation, for a record of its own. -/
def Flight.lateStop (f : Flight) (e : LateFault) : StopDue :=
  ⟨f.pc, e.cause, 0b01, 0, f.seq, 0, 0, 0, e.detail, e.detail2⟩

/-- The core runs a continuation that a late fault may stop, now or when a gang switch lets it go on. -/
def Mode.issues : Mode → Bool
  | .run | .trapDue _ | .suspending _ _ | .frozen .run | .frozen (.trapDue _) => true
  | _ => false

/-- The core's continuation issues, or is about to, and no stop is due or taken. -/
def Core.stoppable (c : Core) : Bool := c.stops.isEmpty && c.mode.issues

/-- A packet of a grant holder was discarded at a poisoned granule: the record is all that comes of it (01 R68). -/
def Flight.sparesHolder (f : Flight) (e : LateFault) : Bool :=
  e.cause == 0x22 && (f.op == .rm .racc || f.op == .rm .rfop) && f.ca.any (fun c => c.kind == .grant)

/-- The late fault of a completed operation stops its continuation when that is resident and no other stop is due;
else it has a record of its own (04 R159, R161; 02 R97; 01 R68). -/
def State.lateFault (s : State) (f : Flight) (e : LateFault) : State :=
  if !f.sparesHolder e && isCompute f.agent && f.counted && (s.core f.agent).stoppable then
    s.onCore f.agent (fun c => { c with stops := c.stops ++ [f.lateStop e] })
  else s.postFor f 0b01 e.cause e.detail e.detail2

/-! ### Completion (01 R56; 02 R94, R95, R97) -/

/-- The saved count of a counter in a frame or core image is decremented (02 R97; 04 R164). -/
def State.decFrame (s : State) (frame : Nat) (f : BitVec 4) : State :=
  match sbSel f with
  | none => s
  | some n =>
    let a := frame + 0x308 + 2 * n.toNat
    let v := leNat (s.readBytes a 2)
    if v % 4096 = 0 then s else s.writeBytes a (leBytes 2 (v - 1))

/-- The place of the result port of a unit, when the operation delivers one. -/
def resultPort (op : Op) : Nat := 4 * op.unit + 2

/-- The result of a completed operation reaches the port, or the port's place in the frame of a continuation that is
away (02 R97; log 31). -/
def State.deliverResult (s : State) (f : Flight) (v : Word) : State :=
  if f.retry then s
  else if !isCompute f.agent then
    if !f.counted then s else s.onSvc f.agent (fun c => { c with ports := c.ports.setIfInBounds (resultPort f.op) v })
  else if f.counted then s.onCore f.agent (fun c => c.setPort (resultPort f.op) v)
  else match f.frame with
    | some a => s.writeBytes (a + 0x600 + 8 * resultPort f.op) (leBytes 8 v.toNat)
    | none => s

/-- The ring entry of a completed operation, when it still stands for it (02 R94). -/
def Core.finishRing (c : Core) (f : Flight) : Core :=
  let e := c.ringAt f.seq
  if e.seq = f.seq ∧ e.state = ringIssued then
    c.setRing f.seq (match f.fault with
      | some l => { e with state := ringFaulted, cause := l.cause }
      | none => { e with state := ringCompleted })
  else c

/-- The ring entry of a completed operation in the frame or core image of its continuation, when it still stands for it
(02 R94; 04 R162, R166). -/
def State.finishFrameRing (s : State) (frame : Nat) (f : Flight) : State :=
  let a := frame + 0x1400 + 16 * (f.seq.toNat % 64)
  let v := leNat (s.readBytes a 16)
  if fieldN v 0 16 = f.seq.toNat ∧ fieldN v 81 3 = ringIssued.toNat then
    s.writeBytes (a + 10) (leBytes 2 (fieldN v 80 1 + (match f.fault with
      | some l => 2 * ringFaulted.toNat + 256 * l.cause.toNat
      | none => 2 * ringCompleted.toNat)))
  else s

/-- The counter of a completed operation is decremented, on the core or in the frame (02 R95, R97). -/
def State.uncount (s : State) (f : Flight) : State :=
  if f.retry || !isCompute f.agent then s
  else if f.counted then s.onCore f.agent (fun c => c.sbDec f.sbf)
  else match f.frame with
    | some a => s.decFrame a f.sbf
    | none => s

/-- The core on which the continuation of an operation is resident, if it is on one: it may have left and come back. -/
def State.flightCore (s : State) (f : Flight) : Option Nat :=
  if f.counted || !isCompute f.agent then some f.agent
  else (s.cores.find? (fun e => e.2.res.any (fun r => r.part == f.res.part && r.record == f.res.record))).map (·.1)

/-- A capability register of the operation's agent, or its slot in the capability set of a continuation that has left
the core (08 R257). -/
def State.flightK (s : State) (f : Flight) (k : BitVec 5) : KReg :=
  match s.flightCore f with
  | some a => s.agentK a k
  | none => s.setSlot f.res.part f.res.cset.toNat k

/-- Write a capability register of the operation's agent, or the matching slot of the set (08 R257). -/
def State.setFlightK (s : State) (f : Flight) (k : BitVec 5) (v : KReg) : State :=
  match s.flightCore f with
  | some a => s.setAgentK a k v
  | none => s.putSlot f.res.part f.res.cset.toNat k v

/-- A capability put into a register of an operation's agent, or the matching slot of its set (08 R257). -/
def State.giveK (s : State) (f : Flight) (k : BitVec 5) (c : Cap) : State :=
  let s := s.setFlightK f k (.cap c)
  s.setOwner c (match s.flightCore f with
    | some a => ownerReg a k
    | none => ownerSet f.res.cset.toNat)

/-- A completing operation's capability registers get their results, and are empty where it has produced none (08 R256). -/
def State.giveResults (s : State) (f : Flight) : State :=
  f.kres.foldl (fun s (k, v) => match v with
    | .cap c => s.giveK f k c
    | v => s.setFlightK f k v) s

/-- A completed operation leaves the machine: ring, result, counter, and its late fault when it has one. A copys that
fails before its send gives up the capability (09 R311). -/
def State.finish (s : State) (f : Flight) : State :=
  let s := (s.dropFlight f.agent f.seq).giveResults f
  let s := match f.op with
    | .cap _ => if isCompute f.agent && f.counted then s.sweepWatch f.agent else s
    | _ => s
  let s := match f.frame with
    | some a => s.finishFrameRing a f
    | none => s
  let s := if isCompute f.agent then s.onCore f.agent (·.finishRing f) else s
  let s := match f.fault, f.result with
    | none, some v => s.deliverResult f v
    | _, _ => s
  let s := s.uncount f
  match f.fault with
  | some e =>
    if f.retry then s
    else
      let s := match f.op, f.cb with
        | .cp .copys, some c => s.orphan f.res.part c
        | _, _ => s
      s.lateFault f e
  | none => s

/-- An operation ends with a late fault: it completes at the moment the fault is recorded (02 R92). -/
def State.fail (s : State) (a : Nat) (q : BitVec 16) (cause : BitVec 8) (detail detail2 : Word) : State :=
  match s.flight? a q with
  | some f => s.finish { f with fault := some ⟨cause, detail, detail2⟩ }
  | none => s

/-- An operation is over with a late fault, but for its time (08 R267). -/
def State.failInTime (s : State) (a : Nat) (q : BitVec 16) (cause : BitVec 8) (detail detail2 : Word) : State :=
  s.onFlight a q (fun f => { f with phase := .ready, fault := some ⟨cause, detail, detail2⟩ })

/-- Everything of an operation has been performed: it completes when its time has come. -/
def State.ready (s : State) (a : Nat) (q : BitVec 16) (result : Option Word) : State :=
  s.onFlight a q (fun f => { f with phase := .ready, result := result })

/-- A request of an operation has been answered, and `g` notes what came of it. An operation one of whose requests ended
with a late fault completes when those sent before it have been answered (02 R92). -/
def State.answered (s : State) (a : Nat) (q : BitVec 16) (g : Flight → Flight) : State :=
  let s := s.onFlight a q (fun f => let f := g f; { f with open_ := f.open_ - 1 })
  match s.flight? a q with
  | some f => if f.open_ = 0 && f.fault.isSome then s.finish f else s
  | none => s

/-- A request of an operation ends with a late fault; the first one stands. -/
def State.answeredFault (s : State) (a : Nat) (q : BitVec 16) (e : LateFault) : State :=
  s.answered a q (fun f => { f with fault := some (f.fault.getD e) })

/-- An operation of which a request has already ended with a late fault sends nothing more. -/
def State.faulted (s : State) (a : Nat) (q : BitVec 16) : Bool :=
  match s.flight? a q with
  | some f => f.fault.isSome
  | none => true

end Sys2Proof.Machine
end

