-- ==== Sys2Proof/Machine/Translate.lean ====
section
/-! DEFINITION. Requests to memory: their pieces, translation (01 R39 to R47), and the queue of the memory that serves
them (01 R30, R49, R50). -/

namespace Sys2Proof.Machine

/-! ### Pieces (05 R178; 06 R226; 09 R310, R323) -/

/-- A range cut at the multiples of `k`: start and length of each part, in ascending order. -/
def cutPieces (k : Nat) : Nat → Nat → Nat → List (Nat × Nat)
  | 0, _, _ => []
  | fuel + 1, a, n =>
    if n = 0 then []
    else
      let len := min n (k - a % k)
      (a, len) :: cutPieces k fuel (a + len) (n - len)

/-- The pieces of a range: they cross no multiple of 128 bytes, so no line, no bank and no page. -/
def pieces (a n : Nat) : List (Nat × Nat) := cutPieces 128 (n + 1) a n

/-! ### Addresses of an access -/

/-- The first byte of an access. -/
def Access.addr : Access → Nat
  | .read a _ _ => a
  | .write a _ _ => a
  | .copyRead _ a _ _ => a
  | .copyWrite _ _ b _ _ _ => b / 8
  | .lanesRead _ b i _ => b / 8 + i
  | .lanesWrite _ b i _ => b / 8 + i
  | .acc a _ _ _ _ _ => a
  | .batchOpen a _ _ => a
  | .batchClose a _ => a
  | .rmw a _ _ _ => a

/-- The access at a place whose byte addresses differ: from virtual to physical. -/
def Access.moveTo (x : Access) (pa : Nat) : Access :=
  match x with
  | .read _ n i => .read pa n i
  | .write _ bs ms => .write pa bs ms
  | .copyRead f _ n i => .copyRead f pa n i
  | .copyWrite f g b k n es => .copyWrite f g (8 * pa + b % 8) k n es
  | .lanesRead f b i n => .lanesRead f (8 * pa + b % 8) i n
  | .lanesWrite f b i n => .lanesWrite f (8 * pa + b % 8) i n
  | .acc _ t o v f b => .acc pa t o v f b
  | .batchOpen _ c w => .batchOpen pa c w
  | .batchClose _ o => .batchClose pa o
  | .rmw _ n op x => .rmw pa n op x

/-- An access that changes memory, for the WR bit of a leaf (01 R42). -/
def Access.writes : Access → Bool
  | .read _ _ _ | .copyRead _ _ _ _ | .lanesRead _ _ _ _ => false
  | _ => true

/-! ### Page tables (01 R40 to R43) -/

/-- An entry's V bit. -/
def pteV (e : Nat) : Bool := e.testBit 0
/-- LEAF. -/
def pteLeaf (e : Nat) : Bool := e.testBit 1
/-- WR. -/
def pteWr (e : Nat) : Bool := e.testBit 3
/-- CH. -/
def pteCh (e : Nat) : Bool := e.testBit 4
/-- NC. -/
def pteNc (e : Nat) : Bool := e.testBit 5
/-- KIND. -/
def pteKind (e : Nat) : Nat := fieldN e 6 2
/-- DEV. -/
def pteDev (e : Nat) : Nat := fieldN e 52 12
/-- The physical page base of a leaf. -/
def pteBase (e : Nat) : Nat := fieldN e 16 36 * 2 ^ 16
/-- The table that a pointer names. -/
def pteTable (e : Nat) : Nat := fieldN e 15 37 * 2 ^ 15

/-- The index of a virtual address at a level (01 R40). -/
def levelIndex (level va : Nat) : Nat := fieldN va (64 - 12 * level) 12

/-- The size of the page that a leaf at a level maps (01 R40). -/
def leafSize (level : Nat) : Nat := if level = 3 then 2 ^ 28 else 2 ^ 16

/-- The run of contiguous leaves at a level (01 R43). -/
def runLength (level : Nat) : Nat := if level = 3 then 128 else 32

/-- A leaf that breaks a rule of 01 R42 whatever the access. -/
def leafBad (level e : Nat) : Bool :=
  decide (level < 3) || e.testBit 15 || fieldN e 8 7 != 0 || e.testBit 2 ||
    (pteDev e != 0 && pteKind e != 2) || pteKind e == 3 || (level == 3 && fieldN e 16 12 != 0)

/-- A table pointer that breaks a rule of 01 R42. -/
def pointerBad (level e : Nat) : Bool := level == 4 || fieldN e 8 7 != 0 || e.testBit 2 || pteDev e != 0

/-- The entries of a run are consistent (01 R43). -/
def runConsistent (level : Nat) (es : List Nat) : Bool :=
  match es with
  | [] => false
  | e :: _ =>
    decide (pteBase e % (leafSize level * runLength level) = 0) &&
      (es.zipIdx.all (fun (x, i) => pteV x && pteLeaf x && pteCh x && !leafBad level x && pteDev x == pteDev e &&
        pteKind x == pteKind e && pteNc x == pteNc e && pteWr x == pteWr e && pteBase x == pteBase e + i * leafSize level))

/-- The translation that a leaf gives. -/
def leafXlate (part : BitVec 4) (va e size : Nat) : Xlate :=
  ⟨part, va / size * size, size, pteBase e / size * size, BitVec.ofNat 2 (pteKind e), BitVec.ofNat 12 (pteDev e), pteWr e,
    pteNc e⟩

/-- One walk from a table, one entry per level: the translation, or the level at which it stopped (01 R42, R43). -/
def walkFrom (rd : Nat → Nat) (part : BitVec 4) (va : Nat) : Nat → Nat → Nat → Except Nat Xlate
  | 0, level, _ => .error level
  | fuel + 1, level, table =>
    let e := rd (table + 8 * levelIndex level va)
    if !pteV e then .error level
    else if pteLeaf e then
      if leafBad level e then .error level
      else if pteCh e then
        let n := runLength level
        let first := levelIndex level va / n * n
        let es := (List.range n).map (fun i => rd (table + 8 * (first + i)))
        if runConsistent level es then .ok (leafXlate part va (es.headD e) (leafSize level * n)) else .error level
      else .ok (leafXlate part va e (leafSize level))
    else if pointerBad level e then .error level
    else walkFrom rd part va fuel (level + 1) (pteTable e)

/-- Eight bytes of memory as a number. -/
def State.dword (s : State) (a : Nat) : Nat := leNat (s.readBytes a 8)

/-- The walk for a virtual address in a cluster (01 R40, R46). -/
def State.walk (s : State) (cl : Nat) (part : BitVec 4) (va : Nat) : Except Nat Xlate :=
  let b := (s.cluster cl).xbase[part.toNat]'(part.isLt)
  if b.getLsbD 0 then walkFrom s.dword part va 4 1 (fieldN b.toNat 15 37 * 2 ^ 15) else .error 1

/-- A cluster that holds a page table of a partition: where no operation's core says which unit translates, this one does
(log 125). -/
def State.tableCluster (s : State) (part : BitVec 4) : Nat :=
  ((s.clusters.find? (fun e => (e.2.xbase[part.toNat]'(part.isLt)).getLsbD 0)).map (·.1)).getD 0

/-! ### Use of a translation -/

/-- The leaf KIND that a location class needs (01 R41, R42). -/
def classKind (cls : BitVec 3) : BitVec 2 := cls.extractLsb' 0 2 - 2

/-- A class whose buffers are translated (01 R39). -/
def translated (cls : BitVec 3) : Bool := cls == 2 || cls == 3 || cls == 4

/-- The place of a REMOTE byte among the bytes that slices hold: home device and physical address there (01 R50). -/
def farKey (home : BitVec 12) (pa : Nat) : Nat := home.toNat * 2 ^ 52 + pa

/-- The translation covers an address of its partition. -/
def Xlate.covers (x : Xlate) (part : BitVec 4) (va : Nat) : Bool :=
  x.part == part && decide (x.va ≤ va) && decide (va < x.va + x.size)

/-- The level of the leaf that a translation came from, for DETAIL2 of 0x21. -/
def Xlate.level (x : Xlate) : Nat := if x.size = 2 ^ 28 ∨ x.size = 2 ^ 35 then 3 else 4

/-- The leaf allows the access (01 R42). -/
def Xlate.allows (x : Xlate) (cls : BitVec 3) (write : Bool) : Bool := x.kind == classKind cls && (x.wr || !write)

/-- The cluster whose translation unit serves an agent; a kernel core uses that of cluster 0 (log 32). -/
def xlatCluster (a : Nat) : Nat := if agentCluster a < 128 then agentCluster a else 0

/-- The agent that a request belongs to. -/
def ReqSrc.agent : ReqSrc → Nat
  | .op a _ => a
  | .raw a _ => a
  | .marker a => a
  | .walk cl id => 8192 + 65536 * cl + id
  | .haul _ i => 2 ^ 24 + i
  | _ => 4095

/-- The cluster whose translation unit serves a request. -/
def ReqSrc.cluster : ReqSrc → Nat
  | .walk cl _ => cl
  | .haul cl _ => cl
  | x => xlatCluster x.agent

/-- The cached translation of the register that a request was made through (01 R45). -/
def State.cachedXlate (s : State) (r : Req) : Option Xlate :=
  match r.kreg with
  | some k => match (s.view r.src.agent).kx[k.toNat]? with
    | some (some x) => if x.covers r.xpart r.va then some x else none
    | _ => none
  | none => none

/-- A translation held for a request: in its register, or in the cluster's unit (01 R44, R45). -/
def State.heldXlate (s : State) (r : Req) : Option Xlate :=
  match s.cachedXlate r with
  | some x => some x
  | none => (s.cluster r.src.cluster).tlb.find? (·.covers r.xpart r.va)

/-- The register caches the translation made through it (01 R45). -/
def State.cacheXlate (s : State) (r : Req) (x : Xlate) : State :=
  let a := r.src.agent
  match r.kreg with
  | some k =>
    if isCompute a then s.onCore a (fun c => { c with kx := c.kx.set k.toNat (some x) (k.isLt) })
    else s.onSvc a (fun v => { v with kx := v.kx.setIfInBounds k.toNat (some x) })
  | none => s

/-! ### The queue of the memory that serves a request -/

/-- Put a request at a scratchpad's port (01 R30). -/
def State.atPort (s : State) (c : Nat) (r : Req) : State := s.onCore c (fun k => { k with port := k.port ++ [r] })

/-- Put a request at a cluster SRAM's crossbar (05 R199). -/
def State.atXbar (s : State) (cl : Nat) (r : Req) : State := s.onCluster cl (fun k => { k with xbar := k.xbar ++ [r] })

/-- Put a request at a slice of the last-level cache (01 R49). -/
def State.atSlice (s : State) (d : Nat) (r : Req) : State :=
  { s with llc := tabPut d ((tabFind d s.llc).getD [] ++ [r]) s.llc }

/-- The die whose slice serves an HBM address (01 R33). -/
def hbmDie (pa : Nat) : Nat := pa / 0x1800000000

/-- The die whose slice serves a REMOTE line (01 R50). -/
def remoteDie (va : Nat) : Nat := fieldN va 7 3

/-! ### Unloaded times (01 R19, R20; 09 R488) -/

/-- Steps between two routers of a die (01 R20). -/
def meshHops (a b : Nat) : Nat :=
  (max (a % 4) (b % 4) - min (a % 4) (b % 4)) + (max (a / 4) (b / 4) - min (a / 4) (b / 4))

/-- Hops between the routers of two clusters, die * 16 + cluster; 128 is the hub (01 R19, R20). -/
def routeHops (a b : Nat) : Nat :=
  if a = 128 ∨ b = 128 then
    if a = b then 0 else meshHops (min a b % 16) 13 + 1
  else if a / 16 = b / 16 then meshHops (a % 16) (b % 16)
  else
    let up := (b / 16 + 8 - a / 16) % 8
    if up ≤ 4 then meshHops (a % 16) 7 + up + meshHops 8 (b % 16)
    else meshHops (a % 16) 8 + (8 - up) + meshHops 7 (b % 16)

/-- The unloaded round trip of a request, in cycles (09 R488). -/
def Req.minCycles (r : Req) : Nat :=
  let from_ := min (agentCluster r.src.agent) 128
  let a := r.acc.addr
  match r.cls with
  | 1 => 28 + 8 * routeHops from_ (match placeOf a with
    | .sram cl _ => cl
    | _ => from_)
  | 2 => 40 + 8 * routeHops from_ (16 * hbmDie a + fieldN a 10 4)
  | 3 => 60 + 8 * routeHops from_ 128
  | 4 => 40 + 8 * routeHops from_ (16 * remoteDie r.va + fieldN r.va 10 4)
  | _ => 24 + 8 * routeHops from_ (match placeOf a with
    | .pad c _ | .vwin c _ | .awin c _ => clusterOf c
    | _ => from_)

/-- The operation of a request completes no earlier than its unloaded round trip (09 R488). -/
def State.timeReq (s : State) (r : Req) : State :=
  match r.src with
  | .op a q => s.onFlight a q (fun f => { f with earliest := max f.earliest (f.born + r.minCycles) })
  | _ => s

/-- A request with its physical address goes to the memory that serves it (01 R30, R49, R50; 09 R317). -/
def State.dispatch (s : State) (r : Req) : State :=
  let s := s.timeReq r
  match r.cls with
  | 2 => s.atSlice (hbmDie r.acc.addr) r
  | 3 => { s with hostq := s.hostq ++ [r] }
  | 4 => s.atSlice (remoteDie r.va) r
  | _ => match placeOf r.acc.addr with
    | .pad c _ | .vwin c _ | .awin c _ => s.atPort c r
    | .sram cl _ => s.atXbar cl r
    | .host => { s with hostq := s.hostq ++ [r] }
    | _ => s.atSlice (hbmDie r.acc.addr) r

/-- A handover engine's copy changed (01 R30). -/
def State.onHaul (s : State) (i : Nat) (g : Haul → Haul) : State :=
  { s with hauls := s.hauls.map (fun e => if e.1 = i then (i, g e.2) else e) }

/-- A request ends with a late fault of its operation, or of the copy that made it; others end silently. -/
def State.failReq (s : State) (r : Req) (cause : BitVec 8) (detail detail2 : Word) : State :=
  match r.src with
  | .op a q => s.answeredFault a q ⟨cause, detail, detail2⟩
  | .haul _ i => s.onHaul i (fun h => { h with busy := false, fault := some ⟨cause, detail, detail2⟩ })
  | _ => s

/-- The request belongs to an operation that sends nothing more. -/
def State.reqDead (s : State) (r : Req) : Bool :=
  match r.src with
  | .op a q => s.faulted a q
  | _ => false

/-- A request that is not sent counts as answered. -/
def State.dropReq (s : State) (r : Req) : State :=
  match r.src with
  | .op a q => s.answered a q id
  | _ => s

/-- The HOST window's address of a host page (01 R32): a HOST leaf's physical address is one of the window. -/
def State.applyXlate (s : State) (r : Req) (x : Xlate) : State :=
  if x.allows r.cls r.acc.writes then
    let pa := x.pa + (r.va - x.va)
    (s.cacheXlate r x).dispatch { r with nc := x.nc, home := x.dev, acc := r.acc.moveTo pa }
  else s.failReq r 0x21 (BitVec.ofNat 64 r.va) (BitVec.ofNat 64 x.level)

/-- An earlier request of the same core and path waits for a walk. -/
def State.behindWalk (s : State) (r : Req) : Bool :=
  (s.cluster r.src.cluster).walks.any (fun w => w.src.agent == r.src.agent && w.path == r.path)

/-- The sluice of an operation's core refuses its requests (08 R301). -/
def State.sluiceOff (s : State) (r : Req) : Bool :=
  match r.src with
  | .op a _ => !(s.sluiceOf a).en
  | _ => false

/-- An operation whose requests take entries of the request table (09 R323). -/
def Flight.tabled (f : Flight) : Bool :=
  match f.op with
  | .cp _ | .rm _ | .vx _ => true
  | _ => false

/-- Requests of an agent that wait for an entry. -/
def State.tableWaits (s : State) (a : Nat) : Nat := (s.tableq.filter (fun r => r.src.agent == a)).length

/-- Entries of an agent's request table that are taken. -/
def State.tableUsed (s : State) (a : Nat) : Nat :=
  ((s.flights.filter (fun f => f.agent == a && f.tabled)).map (·.open_)).sum - s.tableWaits a

/-- A request finds no free entry, or others wait before it (09 R323). -/
def State.noEntry (s : State) (r : Req) : Bool :=
  match r.src with
  | .op a q => ((s.flight? a q).map Flight.tabled).getD false && (s.tableWaits a != 0 || decide (4096 < s.tableUsed a))
  | _ => false

/-- A request with its entry sets out: it is translated when its class is, and goes to the memory that serves it (01 R39, R44; 08 R301;
09 R319). One whose descriptor holds a reserved class finds it poisoned (01 R23). -/
def State.sendNow (s : State) (r : Req) : State :=
  if s.reqDead r then s.dropReq r
  else if s.sluiceOff r then s.failReq r 0x20 (BitVec.ofNat 64 (if translated r.cls then r.va else r.acc.addr)) 1
  else if 6 ≤ r.cls.toNat then s.failReq r 0x22 (BitVec.ofNat 64 r.acc.addr) (r.desc.setWidth 64)
  else if translated r.cls then
    match s.heldXlate r, s.behindWalk r with
    | some x, false => s.applyXlate r x
    | _, _ => s.onCluster r.src.cluster (fun c => { c with walks := c.walks ++ [r] })
  else s.dispatch r

/-- A request sets out once it has an entry (09 R323). -/
def State.send (s : State) (r : Req) : State :=
  if s.noEntry r then { s with tableq := s.tableq ++ [r] } else s.sendNow r

/-- The oldest request of an agent that waits for an entry takes one. -/
def State.takeEntry (s : State) (a : Nat) : State :=
  match s.tableq.findIdx? (fun r => r.src.agent == a) with
  | some i => match s.tableq[i]? with
    | some r => ({ s with tableq := s.tableq.eraseIdx i } : State).sendNow r
    | none => s
  | none => s

/-- Agents with requests that wait and entries that are free. -/
def State.entriesFree (s : State) : List Nat :=
  ((s.tableq.map (·.src.agent)).eraseDups).filter (fun a => decide (s.tableUsed a < 4096))

/-- A request of an operation to byte `off` of a buffer, on a path (01 R27). `acc` gives what is done there; its place is
set here. -/
def State.reqOf (s : State) (f : Flight) (path : BitVec 4) (k : Option (BitVec 5)) (cap : Cap) (d : Desc) (off : Nat)
    (acc : Access) : Req where
  src := .op f.agent f.seq
  path := path
  part := cap.part
  desc := cap.desc
  cls := d.cls
  off := off
  va := d.base.toNat + off
  xpart := f.res.part
  rm := f.rm
  xRead := false
  xWrite := false
  dev := s.dev
  core := agentCore f.agent
  nc := false
  home := 0
  kreg := k
  trace := f.res.trace.map (·.index)
  acc := acc.moveTo (d.base.toNat + off)

/-- Requests set out in order. -/
def State.sendAll (s : State) (rs : List Req) : State := rs.foldl State.send s

/-! ### Steps of the translation unit (01 R42 to R47) -/

/-- The set of a translation: 4,096 entries in 8 ways make 512 sets (01 R44; log 124). -/
def Xlate.set (x : Xlate) : Nat := x.va / x.size % 512

/-- A translation unit holds 8 entries in each set; the oldest of a full one goes (01 R44; log 124). -/
def tlbPut (t : List Xlate) (x : Xlate) : List Xlate :=
  match t.filter (fun y => y.set == x.set) with
  | [] => x :: t
  | y :: ys => if ys.length < 7 then x :: t else x :: t.filter (· != (y :: ys).getLast (by simp))

/-- The first waiting request that no earlier one of the same core and path holds up, from place `n` on. -/
def pickWalk (ws : List Req) (n : Nat) : Option Nat :=
  (List.range ws.length).find? (fun i => decide (n ≤ i) &&
    (match ws[i]? with
      | some r => !(ws.take i).any (fun w => w.src.agent == r.src.agent && w.path == r.path)
      | none => false))

/-- A walk is for the page of a request. -/
def Walk.serves (w : Walk) (r : Req) : Bool := w.part == r.xpart && w.page == r.va / 65536

/-- The read that a walk waits for: the entry of its level, or the next 128 bytes of a run (01 R40, R43, R44). -/
def Walk.read (w : Walk) (cl : Nat) (dev : BitVec 12) : Req :=
  let i := levelIndex w.level (65536 * w.page)
  let (a, n) := if w.runLen = 0 then (w.table + 8 * i, 8)
    else (w.table + 8 * (i / w.runLen * w.runLen + w.run.length), 128)
  { src := .walk cl w.id, path := 15, part := w.part, desc := 0, cls := 2, off := 0, va := 0, xpart := w.part, rm := 0,
    xRead := false, xWrite := false, dev := dev, core := 0x7FF, nc := false, home := 0, kreg := none, acc := .read a n 0 }

/-- A walk sends its next read to the slice of the die whose HBM holds the table (01 R44). -/
def State.walkRead (s : State) (cl : Nat) (w : Walk) : State := s.atSlice (hbmDie (w.read cl s.dev).acc.addr) (w.read cl s.dev)

/-- A walk of a cluster replaced. -/
def State.setWalk (s : State) (cl : Nat) (w : Walk) : State :=
  s.onCluster cl (fun c => { c with walking := c.walking.map (fun x => if x.id = w.id then w else x) })

/-- A walk of a cluster taken away. -/
def State.dropWalk (s : State) (cl id : Nat) : State :=
  s.onCluster cl (fun c => { c with walking := c.walking.filter (fun x => x.id != id) })

/-- A walk fails: so do the requests that wait for its page (01 R42). -/
def State.walkFails (s : State) (cl : Nat) (w : Walk) (cause : BitVec 8) (detail2 : Word) : State :=
  let gone := (s.cluster cl).walks.filter w.serves
  let s := (s.dropWalk cl w.id).onCluster cl (fun c => { c with walks := c.walks.filter (fun r => !w.serves r) })
  gone.foldl (fun s r => if s.reqDead r then s.dropReq r else s.failReq r cause (BitVec.ofNat 64 r.va) detail2) s

/-- A walk ends in a translation, which the unit takes (01 R44). -/
def State.walkEnds (s : State) (cl : Nat) (w : Walk) (x : Xlate) : State :=
  (s.dropWalk cl w.id).onCluster cl (fun c => { c with tlb := tlbPut c.tlb x })

/-- A walk begins for the page of a request, when fewer than 64 are in progress (01 R44, R46). -/
def State.walkStart (s : State) (cl : Nat) (r : Req) : State :=
  let k := s.cluster cl
  let b := k.xbase[r.xpart.toNat]'(r.xpart.isLt)
  if 64 ≤ k.walking.length then s
  else
    let w : Walk := ⟨k.walkNext, r.xpart, r.va / 65536, 1, fieldN b.toNat 15 37 * 2 ^ 15, [], 0⟩
    let s := s.onCluster cl (fun c => { c with walking := c.walking ++ [w], walkNext := c.walkNext + 1 })
    if b.getLsbD 0 then s.walkRead cl w else s.walkFails cl w 0x21 1

/-- A walk has read an entry of its level: it ends, goes on to the next level, or reads a run (01 R42, R43). -/
def State.walkEntry (s : State) (cl : Nat) (w : Walk) (e : Nat) : State :=
  let bad := s.walkFails cl w 0x21 (BitVec.ofNat 64 w.level)
  if !pteV e then bad
  else if pteLeaf e then
    if leafBad w.level e then bad
    else if pteCh e then
      let w := { w with runLen := runLength w.level }
      (s.setWalk cl w).walkRead cl w
    else s.walkEnds cl w (leafXlate w.part (65536 * w.page) e (leafSize w.level))
  else if pointerBad w.level e then bad
  else
    let w := { w with level := w.level + 1, table := pteTable e }
    (s.setWalk cl w).walkRead cl w

/-- A walk has read 128 bytes of a run; with the last of it the run is checked and cached as one page (01 R43). -/
def State.walkRun (s : State) (cl : Nat) (w : Walk) (es : List Nat) : State :=
  let w := { w with run := w.run ++ es }
  if w.run.length < w.runLen then (s.setWalk cl w).walkRead cl w
  else if runConsistent w.level w.run then
    s.walkEnds cl w (leafXlate w.part (65536 * w.page) (w.run.headD 0) (leafSize w.level * w.runLen))
  else s.walkFails cl w 0x21 (BitVec.ofNat 64 w.level)

/-- The slice answers a walk's read; the answer to a walk that has been restarted is dropped (01 R42 to R44, R47). -/
def State.walkAnswer (s : State) (cl id : Nat) (bs : List Byte) : State :=
  match (s.cluster cl).walking.find? (fun w => w.id == id) with
  | none => s
  | some w =>
    if w.runLen = 0 then s.walkEntry cl w (leNat bs)
    else s.walkRun cl w ((List.range (bs.length / 8)).map (fun i => leNat ((bs.drop (8 * i)).take 8)))

/-- A walk's read has met poison: the requests that wait for its page end with late fault 0x22 (log 125). -/
def State.walkPoisoned (s : State) (cl id : Nat) (e : LateFault) : State :=
  match (s.cluster cl).walking.find? (fun w => w.id == id) with
  | none => s
  | some w => s.walkFails cl w e.cause e.detail2

/-- What TRANSLATION_WALK can do for a waiting request: it can be sent on, dropped, or begin a walk. -/
def State.walkUseful (s : State) (cl n : Nat) : Bool :=
  let k := s.cluster cl
  match k.walks[n]? with
  | none => false
  | some r => pickWalk k.walks n == some n &&
      (s.reqDead r || (s.heldXlate r).isSome || (!k.walking.any (·.serves r) && decide (k.walking.length < 64)))

/-- TRANSLATION_WALK: a waiting request sets out when its translation is held, or begins a walk; two misses to one page
share one (01 R42, R44). -/
def State.walkStep (s : State) (cl n : Nat) : State :=
  let ws := (s.cluster cl).walks
  match (pickWalk ws n).orElse (fun _ => pickWalk ws 0) with
  | none => s
  | some i => match ws[i]? with
    | none => s
    | some r =>
      let gone := s.onCluster cl (fun c => { c with walks := c.walks.eraseIdx i })
      if s.reqDead r then gone.dropReq r
      else match s.heldXlate r with
      | some x => gone.applyXlate r x
      | none => if (s.cluster cl).walking.any (·.serves r) then s else s.walkStart cl r

/-- The invalidation covers an entry (01 R46, R47). -/
def Inval.covers (i : Inval) (x : Xlate) : Bool :=
  match i.scope with
  | 0 => x.covers i.part (i.vpn * 2 ^ 16)
  | 1 => x.part == i.part
  | 2 => true
  | _ => false

/-- A write of XLAT_INVAL starts an invalidation; while one is in progress the write is held (01 R46). -/
def Cluster.startInval (c : Cluster) (ctl : BitVec 6) : Cluster :=
  match c.inval with
  | some _ => { c with invalHeld := c.invalHeld ++ [ctl] }
  | none =>
    let scope : BitVec 2 := ctl.extractLsb' 4 2
    let c := { c with invalCtl := ctl }
    if scope = 3 then c
    else { c with inval := some ⟨scope, ctl.extractLsb' 0 4, fieldN c.iva.toNat 16 48⟩ }

/-- Cached translations that an invalidation covers are discarded (01 R45, R47). -/
def dropXlates {n : Nat} (i : Inval) (v : Vector (Option Xlate) n) : Vector (Option Xlate) n :=
  v.map (fun x => x.bind (fun y => if i.covers y then none else some y))

/-- The invalidation covers a walk in progress: one of its partition, or any (01 R47). -/
def Inval.restarts (i : Inval) (w : Walk) : Bool := i.scope == 2 || w.part == i.part

/-- A walk begins anew, under a new number (01 R47). -/
def State.walkAgain (s : State) (cl : Nat) (w : Walk) : State :=
  let k := s.cluster cl
  let b := k.xbase[w.part.toNat]'(w.part.isLt)
  let v : Walk := ⟨k.walkNext, w.part, w.page, 1, fieldN b.toNat 15 37 * 2 ^ 15, [], 0⟩
  let s := s.onCluster cl (fun c => { c with
    walking := c.walking.map (fun x => if x.id = w.id then v else x), walkNext := c.walkNext + 1 })
  if b.getLsbD 0 then s.walkRead cl v else s.walkFails cl v 0x21 1

/-- INVALIDATION_FINISH: matching entries are gone from the unit and from every register and slot that it serves, matching
walks are restarted, and a held write starts the next one (01 R46, R47). -/
def State.finishInval (s : State) (cl : Nat) : State :=
  match (s.cluster cl).inval with
  | none => s
  | some i =>
    let s := s.onCluster cl (fun c =>
      let c := { c with tlb := c.tlb.filter (fun x => !i.covers x), inval := none }
      match c.invalHeld with
      | [] => c
      | h :: t => ({ c with invalHeld := t } : Cluster).startInval h)
    let s := ((s.cluster cl).walking.filter i.restarts).foldl (State.walkAgain · cl ·) s
    { s with
      cores := s.cores.map (fun (k, c) => (k, if clusterOf k = cl then { c with kx := dropXlates i c.kx } else c))
      svcs := s.svcs.map (fun (k, v) => (k, if xlatCluster k = cl then { v with kx := dropXlates i v.kx } else v)) }

/-- A write of XLAT_INVAL with a scope, for the partition that the event names (01 R46). -/
def State.writeInval (s : State) (cl : Nat) (scope : BitVec 2) (part : BitVec 4) : State :=
  s.onCluster cl (fun c => c.startInval (scope ++ part))

/-! ### Meanings -/

/-- TRANSLATION_WALK in cluster `focus.cluster`: for the waiting request at place `focus.n`, or the first that may go (01 R42,
R44). -/
def execTranslationWalk (s : State) : Host.Outcome State Fault Refusal :=
  .next (s.walkStep s.focus.cluster s.focus.n)

/-- XLAT_INVAL_PAGE in cluster `focus.cluster` for partition `focus.part` (01 R46). -/
def execXlatInvalPage (s : State) : Host.Outcome State Fault Refusal :=
  .next (s.writeInval s.focus.cluster 0 s.focus.part)

/-- XLAT_INVAL_PARTITION in cluster `focus.cluster` for partition `focus.part` (01 R46). -/
def execXlatInvalPartition (s : State) : Host.Outcome State Fault Refusal :=
  .next (s.writeInval s.focus.cluster 1 s.focus.part)

/-- XLAT_INVAL_ALL in cluster `focus.cluster` (01 R46). -/
def execXlatInvalAll (s : State) : Host.Outcome State Fault Refusal :=
  .next (s.writeInval s.focus.cluster 2 s.focus.part)

/-- INVALIDATION_FINISH in cluster `focus.cluster` (01 R47). -/
def execInvalidationFinish (s : State) : Host.Outcome State Fault Refusal := .next (s.finishInval s.focus.cluster)

end Sys2Proof.Machine
end

