-- ==== Sys2Proof/Machine/Caps.lean ====
section
/-! DEFINITION. What handover engines do with capabilities and descriptors: owners, returns, orphans, pools and sluices
(08 R254 to R262, R273 to R275, R281 to R284, R301, R302). -/

namespace Sys2Proof.Machine

/-! ### Where capabilities stand (01 R25) -/

/-- A capability register's content changed. -/
def KReg.map (g : Cap → Cap) : KReg → KReg
  | .cap c => .cap (g c)
  | x => x

/-- A message's capability changed. -/
def Payload.mapCap (g : Cap → Cap) : Payload → Payload
  | .cap c w a b => .cap (g c) w a b
  | x => x

/-- The capability of a token changed (09 R314). -/
def Sig.mapCap (g : Cap → Cap) (x : Sig) : Sig := { x with token := x.token.map (fun t => (g t.1, t.2)) }

/-- An operation's capabilities changed: those that it names, its token's, and those that its completion brings. -/
def Flight.mapCap (g : Cap → Cap) (f : Flight) : Flight :=
  { f with
    ca := f.ca.map g
    cb := f.cb.map g
    cx := f.cx.map g
    kres := f.kres.map (fun x => (x.1, x.2.map g))
    sigs := f.sigs.map (Sig.mapCap g) }

/-- Every capability of the device changed, wherever it stands (01 R25). -/
def State.mapCaps (s : State) (g : Cap → Cap) : State :=
  { s with
    cores := s.cores.map (fun (i, c) => (i, { c with k := c.k.map (KReg.map g), sig := c.sig.map (Sig.mapCap g) }))
    svcs := s.svcs.map (fun (i, v) => (i, { v with k := v.k.map (KReg.map g), sig := v.sig.map (Sig.mapCap g) }))
    parts := s.parts.map (fun (i, p) => (i, { p with
      sets := p.sets.map (fun (j, v) => (j, v.map (KReg.map g)))
      orphans := p.orphans.map (fun (j, c) => (j, g c))
      slots := p.slots.map (fun (j, c) => (j, g c)) }))
    clusters := s.clusters.map (fun (i, c) => (i, { c with
      mbox := c.mbox.map (fun (j, m) => (j, { m with queue := m.queue.map (fun x => { x with pay := x.pay.mapCap g }) })) }))
    msgs := s.msgs.map (fun m => { m with pay := m.pay.mapCap g })
    abroad := s.abroad.map (fun m => { m with pay := m.pay.mapCap g })
    hauls := s.hauls.map (fun (i, h) => (i, { h with src := h.src.map g }))
    flights := s.flights.map (Flight.mapCap g)
    marked := s.marked.map (Flight.mapCap g) }

/-! ### Windows (08 R298) -/

/-- The windows' registers and tiles, and the byte ranges of the core slot that they show. -/
def windowParts : List (Nat × Nat × Nat) :=
  ((List.range 16).map (fun i => (i, 0x80000 + 512 * i, 512))) ++
    ((List.range 4).map (fun i => (16 + i, 0x90000 + 16384 * i, 16384)))

/-- The registers (0 to 15, for v16 to v31) and tiles (16 to 19) of the core that a WINDOW descriptor covers. -/
def Desc.windowBits (d : Desc) : List Nat :=
  (windowParts.filter (fun p => decide (d.base.toNat % 2 ^ 20 < p.2.1 + p.2.2) &&
    decide (p.2.1 < d.base.toNat % 2 ^ 20 + d.len))).map (·.1)

/-- The core whose window a WINDOW descriptor is. -/
def Desc.windowCore (d : Desc) : Nat := (d.base.toNat - 0x1000000000000) / 2 ^ 20

/-- Some registers and tiles go away, or come back (08 R298). -/
def Core.setAway (c : Core) (bits : List Nat) (away : Bool) : Core :=
  bits.foldl (fun c i =>
    if i < 16 then { c with vaway := (c.vaway &&& ~~~(1#16 <<< i)) ||| (if away then 1#16 <<< i else 0) }
    else { c with taway := (c.taway &&& ~~~(1#4 <<< (i - 16))) ||| (if away then 1#4 <<< (i - 16) else 0) }) c

/-- A capability that covers part of its core's window is taken away (08 R298). -/
def State.windowAway (s : State) (c : Cap) : State :=
  match s.descOf c with
  | some d => if d.cls = 5 then s.onCore d.windowCore (fun k => k.setAway d.windowBits true) else s
  | none => s

/-- A register of core `cn` holds a capability that owns the descriptor and has nothing lent. -/
def State.windowHome (s : State) (cn : Nat) (part : BitVec 4) (i : Nat) : Bool :=
  (s.core cn).k.toList.any (fun k => match k with
    | .cap c => c.part == part && c.desc.toNat == i && c.kind == .whole
    | _ => false)

/-- A capability stands again in a register of the core whose window it covers: its registers and tiles are present,
but for those that another part, still away, covers too (08 R298). -/
def State.windowBack (s : State) (c : Cap) : State :=
  match s.descOf c with
  | none => s
  | some d =>
    if d.cls ≠ 5 then s
    else
      let cn := d.windowCore
      let others := ((s.part c.part).bufs.filter (fun e => e.2.cls == 5 && e.2.windowCore == cn &&
        e.1 != c.desc.toNat && !s.windowHome cn c.part e.1)).flatMap (fun e => e.2.windowBits)
      s.onCore cn (fun k => k.setAway (d.windowBits.filter (fun i => !others.contains i)) false)

/-! ### Returns (08 R273 to R275) -/

/-- A split or mcast of a buffer has not changed its descriptor yet. -/
def State.lending (s : State) (c : Cap) : Bool :=
  s.flights.any (fun f => (f.op == .cap .split || f.op == .cap .mcast) && f.phase != .ready &&
    (f.ca.map (fun x => x.same c && x.owns)).getD false)

/-- A residual becomes whole. -/
def Cap.madeWhole (part : BitVec 4) (i : Nat) (c : Cap) : Cap :=
  if c.part = part ∧ c.desc.toNat = i ∧ (c.kind = .resFractions ∨ c.kind = .resGrants) then { c with kind := .whole } else c

/-- A return notice for a descriptor (08 R275). -/
def State.postNotice (s : State) (part : BitVec 4) (i : Nat) (mbox : BitVec 17) : State :=
  { s with msgs := s.msgs ++ [{
      src := 4095, seq := none, part := part, mbox := mbox, host := false, dev := none, refused := false,
      pay := .notice (BitVec.ofNat 32 i) }] }

/-- When nothing is lent any more the owner's residual becomes whole, wherever it stands, and the notice is posted
(08 R275). -/
def State.settle (s : State) (part : BitVec 4) (i : Nat) : State :=
  match s.bufDesc part i with
  | none => s
  | some d =>
    if d.count ≠ 0 || s.lending ⟨.whole, part, BitVec.ofNat 32 i, 0, 0⟩ then s
    else
      let s := (s.onDesc part i (fun d => { d with share := 0, retv := false })).mapCaps (Cap.madeWhole part i)
      let s := if d.cls = 5 ∧ s.windowHome d.windowCore part i
        then s.windowBack ⟨.whole, part, BitVec.ofNat 32 i, 0, 0⟩ else s
      if d.retv then s.postNotice part i d.retmb else s

/-- A count of fractions or grants comes back to a descriptor (08 R273, R275). -/
def State.returnTo (s : State) (part : BitVec 4) (i : Nat) (n : BitVec 16) : State :=
  (s.onDesc part i (fun d => { d with count := d.count - n })).settle part i

/-- A descriptor's entry is cleared, and its storage is free (08 R269). -/
def State.dropDesc (s : State) (part : BitVec 4) (i : Nat) : State :=
  s.onPart part (fun p => { p with bufs := tabDrop i p.bufs })

/-- A fraction or a grant is returned: a replica's fraction returns to the original, and the replica's storage is freed
with its last fraction (08 R273). One whose original is on another device ends here (log 47). -/
def State.returnCap (s : State) (c : Cap) : State :=
  match s.descOf c with
  | none => s
  | some d =>
    if d.repl then
      let s := if d.count ≤ c.count then s.dropDesc c.part c.desc.toNat
        else s.onDesc c.part c.desc.toNat (fun d => { d with count := d.count - c.count })
      if d.foreign then s else s.returnTo d.parentPart d.parent.toNat c.count
    else s.returnTo c.part c.desc.toNat c.count

/-! ### Pools (08 R262, R268, R282) -/

/-- The lowest number from `i` on that a rising table leaves free. -/
def firstGap {α : Type} : Nat → Tab α → Nat
  | i, [] => i
  | i, (j, _) :: t => if j = i then firstGap (i + 1) t else i

/-- A LOCAL or CLUSTER descriptor of any partition, or a copy under way, covers a byte of the range. -/
def State.covered (s : State) (a n : Nat) : Bool :=
  s.parts.any (fun p => p.2.bufs.any (fun e => decide (e.2.cls.toNat < 2) &&
    decide (e.2.base.toNat < a + n) && decide (a < e.2.base.toNat + e.2.len))) ||
  s.hauls.any (fun e => match e.2.place with
    | some (.place b _) => decide (b < a + n) && decide (a < b + e.2.desc.len)
    | _ => false)

/-- The places at which a free range may begin: given ones, and the ends of buffers. -/
def State.starts (s : State) (lo hi : Nat) (own : List Nat) : List Nat :=
  (own ++ s.parts.flatMap (fun p => p.2.bufs.map (fun e => e.2.base.toNat + e.2.len))).filter
    (fun a => decide (lo ≤ a) && decide (a < hi))

/-- The least number of a list that passes a test. -/
def leastOf (xs : List Nat) (ok : Nat → Bool) : Option Nat :=
  (xs.filter ok).foldl (fun b x => match b with
    | none => some x
    | some y => some (min x y)) none

/-- The lowest free range of `n` bytes in the banks of a pool that hold format `f`: `first` is the first byte of bank 0,
`low` the lowest byte that may be used (08 R262). -/
def State.poolRange (s : State) (first bank count low : Nat) (inPool : Nat → Bool) (f : BitVec 4) (fmtOf : Nat → BitVec 4)
    (n : Nat) : Option Nat :=
  let own := low :: (List.range count).map (fun b => first + b * bank)
  leastOf (s.starts first (first + count * bank) own) (fun a =>
    decide (low ≤ a) && decide (a + n ≤ first + count * bank) &&
      ((List.range ((a + n - 1 - first) / bank - (a - first) / bank + 1)).all (fun i =>
        let b := (a - first) / bank + i
        inPool b && fmtOf b == f)) && !s.covered a n)

/-- A range in the local pool of a core, in one bank when a placement names it (08 R262, R282). -/
def State.localRange (s : State) (cn : Nat) (only : Option Nat) (f : BitVec 4) (n : Nat) : Option Nat :=
  let c := s.core cn
  s.poolRange (slotBase cn) bankSize 16 (slotBase cn + (c.xb.toNat + 31) / 32 * 32)
    (fun b => c.sluice.pool.getLsbD b && only.all (· == b)) f (fun b => (c.bankReg b).extractLsb' 0 4) n

/-- A range in a cluster's pool (08 R262). -/
def State.clusterRange (s : State) (cl : Nat) (f : BitVec 4) (n : Nat) : Option Nat :=
  let k := s.cluster cl
  s.poolRange (sramBase cl) sramBank 64 (sramBase cl) (fun b => k.cpool.getLsbD b) f
    (fun b => ((k.bf[b]?).getD 0).extractLsb' 0 4) n

/-- The lowest free virtual range of `n` bytes in a partition's HBM pool (08 R261, R268). -/
def State.hbmRange (s : State) (part : BitVec 4) (n : Nat) : Option Nat :=
  let p := s.part part
  let lo := p.hpool.toNat
  let hi := lo + p.hplen.toNat
  let vs := (p.bufs.filter (fun e => translated e.2.cls)).map (fun e => (e.2.base.toNat, e.2.len)) ++
    s.hauls.filterMap (fun e => match e.2.place with
      | some (.pool va) => if e.2.part = part then some (va, e.2.desc.len) else none
      | _ => none)
  leastOf ((lo :: vs.map (fun v => v.1 + v.2)).filter (fun a => decide (lo ≤ a))) (fun a =>
    decide (a + n ≤ hi) && !vs.any (fun v => decide (v.1 < a + n) && decide (a < v.1 + v.2)))

/-- The lowest free index of a partition's buffer table (08 R258, R268). -/
def State.freeDesc (s : State) (part : BitVec 4) : Option Nat :=
  let p := s.part part
  let i := firstGap 0 p.bufs
  if i < p.btlen.toNat then some i else none

/-- A descriptor put into a table. -/
def State.putDesc (s : State) (part : BitVec 4) (i : Nat) (d : Desc) : State :=
  s.onPart part (fun p => { p with bufs := tabPut i d p.bufs })

/-! ### Poison in a descriptor (01 R65; 08 R258, R277) -/

/-- The physical address of a byte of a buffer; a translated one by the walk of cluster `cl`. -/
def State.bufPa (s : State) (cl : Nat) (part : BitVec 4) (d : Desc) (off : Nat) : Option Nat :=
  let va := d.base.toNat + off
  if translated d.cls then
    match s.walk cl part va with
    | .ok x => some (x.pa + (va - x.va))
    | .error _ => none
  else some va

/-- The place of a byte of a buffer among the device's bytes: a REMOTE one stands among those that slices hold. -/
def State.bufKey (s : State) (cl : Nat) (part : BitVec 4) (d : Desc) (off : Nat) : Option Nat :=
  if d.cls = 4 then match s.walk cl part (d.base.toNat + off) with
    | .ok x => some (farKey x.dev (x.pa + (d.base.toNat + off - x.va)))
    | .error _ => none
  else s.bufPa cl part d off

/-- The ranges of a buffer's bytes in those places, page by page: first place and length. -/
def State.bufRanges (s : State) (cl : Nat) (part : BitVec 4) (d : Desc) : List (Nat × Nat) :=
  if translated d.cls then
    (cutPieces 65536 (d.len / 65536 + 2) d.base.toNat d.len).filterMap (fun (va, n) =>
      (s.bufKey cl part d (va - d.base.toNat)).map (fun a => (a, n)))
  else [(d.base.toNat, d.len)]

/-- The granules of a buffer that are poisoned. -/
def State.poisonedGranules (s : State) (cl : Nat) (part : BitVec 4) (d : Desc) : List Nat :=
  if s.poison = [] then []
  else if translated d.cls then
    (List.range (d.lenm1.toNat + 1)).filter (fun g =>
      ((s.bufKey cl part d (32 * g)).map (fun a => s.poison.contains (a / 32))).getD false)
  else (s.poison.filter (fun g => decide (d.base.toNat / 32 ≤ g) && decide (g ≤ d.base.toNat / 32 + d.lenm1.toNat))).map
    (fun g => g - d.base.toNat / 32)

/-- POIS, PCOUNT and PFIRST of a descriptor from its granules (08 R258, R277). -/
def State.countPoison (s : State) (cl : Nat) (part : BitVec 4) (d : Desc) : Desc :=
  let gs := s.poisonedGranules cl part d
  { d with
    pois := !gs.isEmpty
    pcount := BitVec.ofNat 16 (min gs.length 0xFFFF)
    pfirst := BitVec.ofNat 35 ((leastOf gs (fun _ => true)).getD 0) }

/-- The descriptors of buffers that hold a granule (01 R65, R67): partition and index. -/
def State.holdersOf (s : State) (g : Nat) : List (Nat × Nat) :=
  s.parts.flatMap (fun (p, x) => (x.bufs.filter (fun (_, d) =>
    (s.bufRanges (s.tableCluster (BitVec.ofNat 4 p)) (BitVec.ofNat 4 p) d).any (fun r =>
      decide (r.1 / 32 ≤ g) && decide (32 * g < r.1 + r.2)))).map (fun e => (p, e.1)))

/-- An uncorrectable error poisons a granule: every buffer that holds it records it; with none it is counted (01 R65). -/
def State.poisonGranule (s : State) (g : Nat) : State :=
  let s := s.addPoison g
  match s.holdersOf g with
  | [] => { s with sec := { s.sec with unowned := if s.sec.unowned = BitVec.allOnes 64 then s.sec.unowned else s.sec.unowned + 1 } }
  | hs => hs.foldl (fun s (p, i) => s.onDesc (BitVec.ofNat 4 p) i (fun d =>
      s.countPoison (s.tableCluster (BitVec.ofNat 4 p)) (BitVec.ofNat 4 p) d)) s

/-- An access of a core's own paths finds an uncorrectable error in its scratchpad, at the byte that the event names (01 R52,
R65; log 127). -/
def State.padError (s : State) (cn : Nat) (e : Ecc) (a : Nat) : State :=
  match e, placeOf a with
  | .uncorrectable, .pad c _ => if c = cn then s.poisonGranule (a / 32) else s
  | _, _ => s

/-- Poison has gone from granules that were written whole: the descriptors that recorded some count anew (01 R65). -/
def State.recountPoison (s : State) (old : List Nat) : State :=
  if old.length ≤ s.poison.length then s
  else { s with parts := s.parts.map (fun (p, x) => (p, { x with
      bufs := x.bufs.map (fun (i, d) =>
        (i, if d.pois then s.countPoison (s.tableCluster (BitVec.ofNat 4 p)) (BitVec.ofNat 4 p) d else d)) })) }

/-! ### Status words (08 R265) -/

/-- A status word. -/
def statusWord (tag : BitVec 32) (count : BitVec 16) (ret event demoted copied : Bool) (cls : BitVec 3)
    (code : BitVec 8) : Word :=
  tag ++ count ++ 0#1 ++ BitVec.ofBool ret ++ BitVec.ofBool event ++ BitVec.ofBool demoted ++ BitVec.ofBool copied ++
    cls ++ code

/-- A status word with a code alone. -/
def statusCode (code : BitVec 8) : Word := statusWord 0 0 false false false false 0 code

/-! ### Mailboxes and sluices (08 R286, R301, R302) -/

/-- The cluster and the index of a mailbox id (00 R7). -/
def mboxCluster (id : BitVec 17) : Nat := fieldN id.toNat 10 7
/-- The index of a mailbox within its cluster. -/
def mboxIndex (id : BitVec 17) : Nat := fieldN id.toNat 0 10

/-- A mailbox. -/
def State.mailbox (s : State) (cl i : Nat) : Mailbox := (tabFind i (s.cluster cl).mbox).getD {}

/-- A mailbox changed. -/
def State.onMailbox (s : State) (cl i : Nat) (g : Mailbox → Mailbox) : State :=
  s.onCluster cl (fun c => { c with mbox := tabPut i (g ((tabFind i c.mbox).getD {})) c.mbox })

/-- The partition in which a mailbox is bound. -/
def Binding.part? : Binding → Option (BitVec 4)
  | .unbound => none
  | .cont _ p => some p
  | .launch _ p => some p

/-- The mailbox is bound to the continuation or to its launch (08 R291). -/
def Binding.held (b : Binding) (r : Resident) : Bool :=
  match b with
  | .unbound => false
  | .cont rec p => rec == r.record && p == r.part
  | .launch id p => id == r.launch && p == r.part

/-- An MBR range admits a destination (08 R301, R302). -/
def mbrAdmits (x : Word) (mbox : BitVec 17) (dev : Option (BitVec 12)) (host : Bool) : Bool :=
  x.getLsbD 63 && decide (fieldN x.toNat 0 17 ≤ mbox.toNat) && decide (mbox.toNat ≤ fieldN x.toNat 17 17) &&
    x.getLsbD 46 == dev.isSome && x.getLsbD 47 == host && dev.all (fun d => fieldN x.toNat 34 12 == d.toNat)

/-- A device that a send names, when it is another one (08 R279, R285). -/
def State.farDev (s : State) (dev : Option (BitVec 12)) : Option (BitVec 12) := dev.filter (· != s.dev)

/-- The sluice of an agent lets a message pass (08 R301, R302). -/
def State.sluicePasses (s : State) (a : Nat) (mbox : BitVec 17) (dev : Option (BitVec 12)) (host : Bool) : Bool :=
  let sl := s.sluiceOf a
  sl.en && ((dev.all (· == s.dev) && !host && (s.mailbox (mboxCluster mbox) (mboxIndex mbox)).bound.part? == some sl.part) ||
    sl.mbr.toList.any (fun x => mbrAdmits x mbox dev host))

/-! ### Writes that other parties' filters see (04 R173; 11 R414) -/

/-- A write by a path other than the Local one: watch events of every core that watches the bytes, and dirty marks
(04 R173, R174; 11 R414). -/
def State.seenWrite (s : State) (path : BitVec 4) (part : BitVec 4) (desc : BitVec 32) (cls : BitVec 3) (off n : Nat)
    (wdev : BitVec 12) (wcore : BitVec 11) (carried : Option (BitVec 26)) (agent : Nat) (seq : Option (BitVec 16)) : State :=
  let s := s.cores.foldl (fun s (cn, c) =>
    if cls = 3 ∧ !(cn == agent && (path == 2 || path == 3)) then s
    else (c.watch.toList.zipIdx).foldl (fun s (w, i) => match w.hit? part desc true off n with
      | some (_, bytes) => s.watchEvent cn i path off bytes wdev wcore
      | none => s) s) s
  s.markWrite part desc off n carried agent seq

end Sys2Proof.Machine
end

