-- ==== Sys2Proof/Machine/LocalMem.lean ====
section
/-! DEFINITION. The local load/store unit and the bank-format accesses (05 R179 to R184). -/

namespace Sys2Proof.Machine

/-! ### Checks shared by the Local path (05 R179) -/

/-- Checks 1 to 3 of R179: a capability, LOCAL of this core, with the right. -/
def State.localCapErr (s : State) (cn : Nat) (k : KReg) (reg : BitVec 5) (right : BitVec 6) : Option Err :=
  match k.cap? with
  | none => some ⟨0x10, kNum reg, right.setWidth 64⟩
  | some cap =>
    let ok := ((s.descOf cap).map (fun d => d.localTo cn)).getD false && cap.has right && (right != rightR || cap.reads)
    require ok ⟨0x11, kNum reg, right.setWidth 64⟩

/-- The capability and descriptor that the unit's `.k` selects. -/
def State.selected (s : State) (x : Trig) : Option (Cap × Desc) :=
  (x.at_.rk x.k).cap?.bind (fun cap => (s.descOf cap).map (fun d => (cap, d)))

/-- The right that a Local-path access needs. -/
def accessRight (store : Bool) : BitVec 6 := if store then rightW else rightR

/-- The poison check of the granules that a load reads, as stop fault 0x22 (05 R179; 01 R66). -/
def State.poisonErr (s : State) (d : Cap) (a n : Nat) : Option Err :=
  (s.poisoned? a n).map (fun g => ⟨0x22, BitVec.ofNat 64 (32 * g), d.desc.setWidth 64⟩)

/-! ### Integer loads and stores (05 R180) -/

/-- The checks of an access of `n` bytes at offset t, in order (05 R179). -/
def lsBytesErr (n : Nat) (store : Bool) (s : State) (x : Trig) : Option Err :=
  let t := x.t.toNat
  let e (cause : BitVec 8) : Err := ⟨cause, x.t, kNum x.k⟩
  match s.localCapErr x.c (x.at_.rk x.k) x.k (accessRight store) with
  | some e => some e
  | none => match s.selected x with
    | none => some ⟨0x10, kNum x.k, 0⟩
    | some (cap, d) => firstErr [
        require (decide (t + n ≤ d.len)) (e 0x12),
        require (t % n == 0) (e 0x13),
        require (!(store && cap.residual)) (e 0x16),
        require (decide (x.at_.xb.toNat ≤ d.padOff + t)) (e 0x06),
        if store then none else s.poisonErr cap (d.base.toNat + t) n]

/-- The physical address of offset t of the selected buffer (05 R180). -/
def lsAddr (s : State) (x : Trig) : Nat := match s.selected x with
  | some (_, d) => d.base.toNat + x.t.toNat
  | none => 0

/-- The watched ranges that an access of `n` bytes at an offset of the selected buffer meets (04 R172). -/
def lsHits (off n : Nat) (write : Bool) (s : State) (x : Trig) : List Hit := match s.selected x with
  | some (cap, _) => x.at_.hits cap write off n
  | none => []

/-- The bytes of the selected buffer that an access of `n` bytes touches (11 R408). -/
def lsTouches (off n : Nat) (write : Bool) (s : State) (x : Trig) : List Touch := match s.selected x with
  | some (cap, _) => [⟨cap, write, off, n⟩]
  | none => []

/-- A Local-path store joins the stores whose latency has not elapsed (01 R57; 05 R180). -/
def Trig.store (x : Trig) (latency : Nat) (ws : List BitWrite) (s : State) : State :=
  s.onCore x.c (fun c => { c with stores := c.stores ++ [{ order := x.order, left := latency, sb := x.sb, writes := ws }] })

/-! ### Bank-format accesses (05 R183, R184) -/

/-- The fields of a cluster bank format register (03 R120). -/
def clusterBankMask : Word := 0x3FF3F0F

/-- The bank number of a bank-format access. -/
def bankIndex (x : Trig) : Nat := fieldN x.t.toNat 3 60

/-- Where the selected buffer lies: in this core's scratchpad, in this core's cluster's SRAM, or neither
(05 R183). -/
def bankPlace (cn : Nat) (d : Desc) : Option Bool :=
  if d.localTo cn then some true
  else if d.cls == 1 && (match placeOf d.base.toNat with
    | .sram cl _ => cl == clusterOf cn
    | _ => false) then some false
  else none

/-- The buffer overlaps the bank, or covers it whole (05 R183). -/
def bankReach (cn : Nat) (d : Desc) (loc store : Bool) (n : Nat) : Bool :=
  let size := if loc then bankSize else sramBank
  let first := (if loc then slotBase cn else sramBase (clusterOf cn)) + n * size
  let lo := d.base.toNat
  let hi := lo + d.len
  decide (n < (if loc then 16 else 64)) &&
    (if store then decide (lo ≤ first) && decide (first + size ≤ hi) else decide (lo < first + size) && decide (first < hi))

/-- The checks of an `ls` operation whose trigger value has bit 63 set; `fits` says that the operation is ldd or std
(05 R183). -/
def bankErr (fits store : Bool) (s : State) (x : Trig) : Option Err :=
  let right := accessRight store
  match (x.at_.rk x.k).cap? with
  | none => some ⟨0x10, kNum x.k, right.setWidth 64⟩
  | some cap =>
    match (s.descOf cap).bind (fun d => (bankPlace x.c d).map (fun l => (d, l))) with
    | none => some ⟨0x11, kNum x.k, right.setWidth 64⟩
    | some (d, loc) => firstErr [
        require (if store then cap.writes else cap.reads) ⟨0x11, kNum x.k, right.setWidth 64⟩,
        require (fits && fieldN x.t.toNat 0 3 == 0 && bankReach x.c d loc store (bankIndex x)) ⟨0x12, x.t, kNum x.k⟩,
        require (!(store && cap.residual)) ⟨0x16, x.t, kNum x.k⟩]

/-- The bank of the access lies in the scratchpad (05 R183). -/
def bankLocal (s : State) (x : Trig) : Bool := match s.selected x with
  | some (_, d) => d.localTo x.c
  | none => false

/-- The physical address of a cluster bank's register (05 R185). -/
def clusterBankAddr (cl n : Nat) : Nat := 0x2800000000000 + cl * 2 ^ 24 + 0x1000 + 8 * n

/-- BANK_FORMAT_READ: the register reaches `ls.r` after four cycles; a local register is read in the cycle in which the word
issues, a cluster register at the crossbar, at the end of the latency, as it is written (05 R183, R184; 01 R57). -/
def bankRead (s : State) (x : Trig) : State :=
  if bankLocal s x then x.start 4 false (.port (portIdx .lsR) (x.at_.bankReg (bankIndex x))) s
  else x.start 4 false (.load (.bytes (clusterBankAddr (clusterOf x.c) (bankIndex x)) 8 false) x.at_.rm []) s

/-- BANK_FORMAT_WRITE: a local register changes in the cycle in which the word issues; a cluster register at the
crossbar, at the end of the latency (05 R183, R184). -/
def bankWrite (s : State) (x : Trig) : State :=
  let n := bankIndex x
  if bankLocal s x then
    s.onCore x.c (fun c => ({ c with bf := c.bf.setIfInBounds n (x.o &&& localBankMask) } : Core).sbDec x.sb)
  else x.store 4 (bitWrites (clusterBankAddr (clusterOf x.c) n) (imageBytes (x.o &&& clusterBankMask))) s

/-! ### Triggers of the integer operations -/

/-- Bit 63 of the trigger value selects a bank-format access (05 R179). -/
def Trig.bankAccess (x : Trig) : Bool := x.t.getLsbD 63

/-- An integer load of `n` bytes (05 R180); `ldd` also reads a bank format register (05 R183). -/
def trigLoad (n : Nat) (signed dword : Bool) : Trigger where
  check s x := if x.bankAccess then bankErr dword false s x else lsBytesErr n false s x
  perform s x :=
    if x.bankAccess then bankRead s x
    else x.start 4 false (.load (.bytes (lsAddr s x) n signed) x.at_.rm []) s
  hits s x := if x.bankAccess then [] else lsHits x.t.toNat n false s x
  touches s x := if x.bankAccess then [] else lsTouches x.t.toNat n false s x

/-- An integer store of `n` bytes (05 R180); `std` also writes a bank format register (05 R183). -/
def trigStore (n : Nat) (dword : Bool) : Trigger where
  check s x := if x.bankAccess then bankErr dword true s x else lsBytesErr n true s x
  perform s x :=
    if x.bankAccess then bankWrite s x
    else x.store 4 (bitWrites (lsAddr s x) ((imageBytes x.o).take n)) s
  hits s x := if x.bankAccess then [] else lsHits x.t.toNat n true s x
  touches s x := if x.bankAccess then [] else lsTouches x.t.toNat n true s x

/-! ### Elements (05 R181, R182) -/

/-- The bank of an element access. -/
def elemBank (x : Trig) : Nat := fieldN x.t.toNat 16 4

/-- The format of its bank, sampled at issue (05 R182). -/
def elemFmt (x : Trig) : Fmt := bankFmt (x.at_.bankReg (elemBank x))

/-- The bit offset of the element in the scratchpad (03 R109; 05 R181). -/
def elemBit (x : Trig) : Nat := 8 * bankSize * elemBank x + fieldN x.t.toNat 0 16 * (elemFmt x).size

/-- The scratchpad offset of the element's first byte. -/
def elemByte (x : Trig) : Nat := elemBit x / 8

/-- The number of bytes that the element touches. -/
def elemBytes (x : Trig) : Nat := (elemBit x + (elemFmt x).size - 1) / 8 - elemByte x + 1

/-- The physical address of the element's scale byte, for an MX format (03 R118). -/
def elemScale (x : Trig) : Option Nat := x.at_.padScale x.c (elemBit x)

/-- Every bit of the element lies in the bank and in the buffer (05 R181 check 4). -/
def elemInside (d : Desc) (x : Trig) : Bool :=
  fieldN x.t.toNat 20 44 == 0 && decide (fieldN x.t.toNat 0 16 < 262144 / (elemFmt x).size) &&
    decide (8 * d.padOff ≤ elemBit x) && decide (elemBit x + (elemFmt x).size ≤ 8 * (d.padOff + d.len))

/-- The checks of an element access, in order (05 R181; log 28). -/
def elemErr (store : Bool) (s : State) (x : Trig) : Option Err :=
  let e (cause : BitVec 8) : Err := ⟨cause, x.t, kNum x.k⟩
  let xb := x.at_.xb.toNat
  match s.localCapErr x.c (x.at_.rk x.k) x.k (accessRight store) with
  | some e => some e
  | none => match s.selected x with
    | none => some ⟨0x10, kNum x.k, 0⟩
    | some (cap, d) => firstErr [
        require (elemInside d x) (e 0x12),
        require (!(store && cap.residual)) (e 0x16),
        require (decide (xb ≤ elemByte x)) (e 0x06),
        require ((elemScale x).all (fun a => decide (xb ≤ a - slotBase x.c))) (e 0x06),
        if store then none else s.poisonErr cap (slotBase x.c + elemByte x) (elemBytes x),
        (elemScale x).bind (fun a => s.poisonErr cap a 1)]

/-- The bits that stf stores: fixed at issue, with the scale byte as the core sees it then; a bank of FP32 takes them
unchanged (03 R121; 05 R182). -/
def stfBits (s : State) (x : Trig) : Nat :=
  let v := fieldN x.o.toNat 0 32
  match elemFmt x with
  | .bytes => v % 256
  | .fp32 => v
  | f =>
    let scale := match elemScale x with
      | some a => (s.localByte (s.core x.c) a).toNat
      | none => 127
    (f.round (if f.isMx then mxQuotient (decodeFp32 v) scale else decodeFp32 v) x.mode x.sat).bits

/-- The watched ranges that an element access meets. -/
def elemHits (write : Bool) (s : State) (x : Trig) : List Hit := match s.selected x with
  | some (cap, d) => x.at_.hits cap write (elemByte x - d.padOff) (elemBytes x)
  | none => []

/-- The bytes of the element of ldf and stf, as traces see them (11 R408). -/
def elemTouches (write : Bool) (s : State) (x : Trig) : List Touch := match s.selected x with
  | some (cap, d) => [⟨cap, write, elemByte x - d.padOff, elemBytes x⟩]
  | none => []

/-- ldf (05 R182). -/
def trigLdf : Trigger where
  check s x := if x.bankAccess then bankErr false false s x else elemErr false s x
  perform s x :=
    x.start 4 false (.load (.elem ⟨0, 8 * slotBase x.c + elemBit x, elemFmt x, elemScale x⟩) x.at_.rm []) s
  hits s x := elemHits false s x
  touches s x := elemTouches false s x

/-- stf (05 R182). -/
def trigStf : Trigger where
  check s x := if x.bankAccess then bankErr false true s x else elemErr true s x
  perform s x := x.store 4 (elemWrites (8 * slotBase x.c + elemBit x) (elemFmt x).size (stfBits s x)) s
  hits s x := elemHits true s x
  touches s x := elemTouches true s x

/-- The trigger of an `ls` operation (05 R180, R182). -/
def trigLs : LsOp → Trigger
  | .ldb => trigLoad 1 true false
  | .ldbu => trigLoad 1 false false
  | .ldh => trigLoad 2 true false
  | .ldhu => trigLoad 2 false false
  | .ldw => trigLoad 4 true false
  | .ldwu => trigLoad 4 false false
  | .ldd => trigLoad 8 false true
  | .stb => trigStore 1 false
  | .sth => trigStore 2 false
  | .stw => trigStore 4 false
  | .std => trigStore 8 true
  | .ldf => trigLdf
  | .stf => trigStf

/-! ### Meanings: the word whose one move triggers the operation (02 R85) -/

/-- The word `-> ls.t.ldb` (05 R180, R182). -/
def execLsLdb (m : Arg) (s : State) : Host.Outcome State Fault Refusal :=
  .next (issueOne (.ls .ldb) (trigLs .ldb) m s)

/-- The word `-> ls.t.ldbu` (05 R180, R182). -/
def execLsLdbu (m : Arg) (s : State) : Host.Outcome State Fault Refusal :=
  .next (issueOne (.ls .ldbu) (trigLs .ldbu) m s)

/-- The word `-> ls.t.ldh` (05 R180, R182). -/
def execLsLdh (m : Arg) (s : State) : Host.Outcome State Fault Refusal :=
  .next (issueOne (.ls .ldh) (trigLs .ldh) m s)

/-- The word `-> ls.t.ldhu` (05 R180, R182). -/
def execLsLdhu (m : Arg) (s : State) : Host.Outcome State Fault Refusal :=
  .next (issueOne (.ls .ldhu) (trigLs .ldhu) m s)

/-- The word `-> ls.t.ldw` (05 R180, R182). -/
def execLsLdw (m : Arg) (s : State) : Host.Outcome State Fault Refusal :=
  .next (issueOne (.ls .ldw) (trigLs .ldw) m s)

/-- The word `-> ls.t.ldwu` (05 R180, R182). -/
def execLsLdwu (m : Arg) (s : State) : Host.Outcome State Fault Refusal :=
  .next (issueOne (.ls .ldwu) (trigLs .ldwu) m s)

/-- The word `-> ls.t.ldd` (05 R180, R182). -/
def execLsLdd (m : Arg) (s : State) : Host.Outcome State Fault Refusal :=
  .next (issueOne (.ls .ldd) (trigLs .ldd) m s)

/-- The word `-> ls.t.stb` (05 R180, R182). -/
def execLsStb (m : Arg) (s : State) : Host.Outcome State Fault Refusal :=
  .next (issueOne (.ls .stb) (trigLs .stb) m s)

/-- The word `-> ls.t.sth` (05 R180, R182). -/
def execLsSth (m : Arg) (s : State) : Host.Outcome State Fault Refusal :=
  .next (issueOne (.ls .sth) (trigLs .sth) m s)

/-- The word `-> ls.t.stw` (05 R180, R182). -/
def execLsStw (m : Arg) (s : State) : Host.Outcome State Fault Refusal :=
  .next (issueOne (.ls .stw) (trigLs .stw) m s)

/-- The word `-> ls.t.std` (05 R180, R182). -/
def execLsStd (m : Arg) (s : State) : Host.Outcome State Fault Refusal :=
  .next (issueOne (.ls .std) (trigLs .std) m s)

/-- The word `-> ls.t.ldf` (05 R180, R182). -/
def execLsLdf (m : Arg) (s : State) : Host.Outcome State Fault Refusal :=
  .next (issueOne (.ls .ldf) (trigLs .ldf) m s)

/-- The word `-> ls.t.stf` (05 R180, R182). -/
def execLsStf (m : Arg) (s : State) : Host.Outcome State Fault Refusal :=
  .next (issueOne (.ls .stf) (trigLs .stf) m s)

/-- The word whose immediate names a bank format register and triggers ldd (05 R183). -/
def execBankFormatRead (m : Arg) (s : State) : Host.Outcome State Fault Refusal :=
  .next (issueOne (.ls .ldd) (trigLs .ldd) m s)

/-- The word whose immediate names a bank format register and triggers std (05 R183). -/
def execBankFormatWrite (m : Arg) (s : State) : Host.Outcome State Fault Refusal :=
  .next (issueOne (.ls .std) (trigLs .std) m s)

end Sys2Proof.Machine
end

