-- ==== Sys2Proof/Machine/Banks.lean ====
section
/-! DEFINITION. Banks as the ports and crossbars see them: the format register of the bank at a physical address, and the
scale bytes of its elements (03 R118, R120; 05 R176, R178, R198, R199). -/

namespace Sys2Proof.Machine

/-- A bank: its format register, the address of bank 0 of its memory, the size of a bank, and its number. -/
structure Bank where
  reg : Word
  first : Nat
  size : Nat
  num : Nat

/-- The bank that holds a physical address; none outside scratchpads and cluster SRAM (05 R176, R198). -/
def State.bank? (s : State) (pa : Nat) : Option Bank :=
  match placeOf pa with
  | .pad c o => some ⟨(s.core c).bankReg (o / bankSize), slotBase c, bankSize, o / bankSize⟩
  | .sram cl o => some ⟨((s.cluster cl).bf[o / sramBank]?).getD 0, sramBase cl, sramBank, o / sramBank⟩
  | _ => none

/-- The first byte of a bank. -/
def Bank.base (b : Bank) : Nat := b.first + b.num * b.size

/-- The element format in force at a physical address; memory without banks holds BYTES (03 R119, R120). -/
def State.fmtAt (s : State) (pa : Nat) : Fmt :=
  match s.bank? pa with
  | some b => bankFmt b.reg
  | none => .bytes

/-- The address of the scale byte of the element at a physical bit address (03 R118). -/
def State.scaleAt (s : State) (bit : Nat) : Option Nat :=
  (s.bank? (bit / 8)).bind (fun b => scaleAddr b.first b.size b.reg (bankFmt b.reg) (bit - 8 * b.base))

/-- The scale that an element at a physical bit address is read or written with: 2^0 outside banks (03 R118, R119). -/
def State.scaleOfBit (s : State) (bit : Nat) : Nat :=
  match s.scaleAt bit with
  | some a => (s.byteAt a).toNat
  | none => 127

/-- The `n` bits at a physical bit address. -/
def State.bitsOf (s : State) (bit n : Nat) : Nat := bitsAt s.byteAt bit n

end Sys2Proof.Machine
end

