-- ==== Sys2Proof/Machine/Vector.lean ====
section
/-! DEFINITION. The vector engine without its memory operations (06 R208 to R220). -/

namespace Sys2Proof.Machine

/-! ### The packed command (06 R209) -/

/-- Register field `i` of a command: vd, va, vb, vc (06 R209). -/
def vxReg (t : Word) (i : Nat) : BitVec 5 := t.extractLsb' (5 * i) 5
/-- The governing mask's number. -/
def vxMask (t : Word) : BitVec 3 := t.extractLsb' 20 3
/-- The modifier z. -/
def vxZ (t : Word) : Bool := t.getLsbD 23
/-- The modifier from, op or fmt. -/
def vxFrom (t : Word) : BitVec 4 := t.extractLsb' 24 4
/-- The modifier lane or n. -/
def vxLane (t : Word) : Nat := fieldN t.toNat 24 7
/-- The modifier to. -/
def vxTo (t : Word) : BitVec 4 := t.extractLsb' 28 4
/-- The modifier s. -/
def vxS (t : Word) : Bool := t.getLsbD 31
/-- The modifier part. -/
def vxPart (t : Word) : Nat := fieldN t.toNat 32 3
/-- The modifier k. -/
def vxK (t : Word) : BitVec 5 := t.extractLsb' 35 5

/-- The place of `vx.r` in the unit-port area. -/
def vxR : Nat := portIdx .vxR

/-! ### Checks of every operation (06 R210) -/

/-- A format code that vcvt accepts (06 R216). -/
def cvtFmt (f : Fmt) : Bool :=
  match f with
  | .bytes | .int64 => false
  | _ => true

/-- A format code that vpack and vunpack accept (06 R217). -/
def packFmt (f : Fmt) : Bool :=
  match f with
  | .bytes | .int64 | .int32 | .fp32 => false
  | _ => true

/-- The block `part` of elements of a format lies in a register (06 R217). -/
def packFits (f : Fmt) (part : Nat) : Bool := packFmt f && decide ((part + 1) * 128 * f.size ≤ 4096)

/-- Every modifier that the operation uses holds a value that it accepts (06 R210, R216, R217). -/
def vxModifiers (op : VxOp) (t : Word) : Bool :=
  match op with
  | .vcvt => cvtFmt (Fmt.ofCode (vxFrom t)) && cvtFmt (Fmt.ofCode (vxTo t))
  | .vpack => packFits (Fmt.ofCode (vxTo t)) (vxPart t)
  | .vunpack => packFits (Fmt.ofCode (vxFrom t)) (vxPart t)
  | _ => true

/-- The register fields that an operation's row names: 0 vd, 1 va, 2 vb, 3 vc (06 R210). -/
def vxNamed : VxOp → List Nat
  | .vabs | .vneg | .vsqrt | .vrcp | .vrsq | .vexp2 | .vlog2 | .vsigm => [0, 1]
  | .vcvt | .vpack | .vunpack | .vmov | .vbcast => [0, 1]
  | .vfma | .vfms | .vfnma => [0, 1, 2, 3]
  | .vfeq | .vflt | .vfle | .vieq | .vilt => [1, 2]
  | .mlog => []
  | .vidx | .vins | .vld | .vst => [0]
  | .vldx | .vstx => [0, 2]
  | .vext | .vfsum | .vfrmax | .vfrmin | .visum => [1]
  | _ => [0, 1, 2]

/-- Register vN is a window register that is away (08 R298). -/
def Core.vAbsent (c : Core) (r : BitVec 5) : Bool := r.getLsbD 4 && c.vaway.getLsbD (r.toNat - 16)

/-- The lowest absent register of some that an operation names, as cause 0x15 (06 R210; 04 R168). -/
def Core.absentErr (c : Core) (rs : List (BitVec 5)) : Option Err :=
  match rs.filter c.vAbsent with
  | [] => none
  | r :: rest => some ⟨0x15, 30, BitVec.ofNat 64 (rest.foldl (fun m x => min m x.toNat) r.toNat)⟩

/-- The checks that every `vx` trigger makes (06 R210). -/
def vxErr (op : VxOp) (x : Trig) : Option Err :=
  firstErr [require (x.t.extractLsb' 40 24 == 0#24 && vxModifiers op x.t) ⟨0x12, x.t, 0⟩,
    x.at_.absentErr ((vxNamed op).map (vxReg x.t))]

/-! ### Lanes under a mask (06 R211) -/

/-- The bits of the lanes of a mask. -/
def laneBits (m : BitVec 128) : BitVec 4096 :=
  ofLanes ((List.range 128).map (fun i => if m.getLsbD i then 2 ^ 32 - 1 else 0))

/-- The lanes of a source register of the command, as numbers. -/
def Trig.lanes (x : Trig) (i : Nat) : List Nat := (lanesOf (x.at_.rv (vxReg x.t i))).map BitVec.toNat

/-- The governing mask (06 R209). -/
def Trig.mask (x : Trig) : BitVec 128 := x.at_.rmask (vxMask x.t)

/-- The flags of the active lanes (06 R212). -/
def maskFlags (m : BitVec 128) (rs : List Rounded) : Flags :=
  orFlags ((rs.zipIdx.filter (fun p => m.getLsbD p.2)).map (fun p => p.1.flags))

/-- The result that writes lanes under the governing mask, with z (06 R211). -/
def laneResult (x : Trig) (rs : List Rounded) : Result :=
  let m := x.mask
  .vector (vxReg x.t 0) (if vxZ x.t then BitVec.allOnes 4096 else laneBits m)
    (ofLanes (rs.map (·.bits)) &&& laneBits m) (maskFlags m rs) none

/-- Lane values that raise no flag. -/
def exact (xs : List Nat) : List Rounded := xs.map (fun b => ⟨b, 0⟩)

/-- The mask whose bit i is the outcome of a comparison, for an active lane (06 R215). -/
def maskOf (m : BitVec 128) (bs : List Nat) : BitVec 128 :=
  BitVec.ofNat 128 (bs.foldr (fun b acc => b % 2 + 2 * acc) 0) &&& m

/-! ### Operations by lane -/

/-- The FP32 operations (06 R213). -/
def vxFp (op : VxOp) (mode : BitVec 3) (a b c : Nat) : Rounded :=
  match op with
  | .vadd => fpAdd mode a b
  | .vsub => fpSub mode a b
  | .vmul => fpMul mode a b
  | .vfma => fpFma mode a b c
  | .vfms => fpFms mode a b c
  | .vfnma => fpFnma mode a b c
  | .vmin => fpMin a b
  | .vmax => fpMax a b
  | .vabs => fpAbs a
  | .vneg => fpNeg a
  | .vdiv => fpDiv mode a b
  | .vsqrt => fpSqrt mode a
  | .vrcp => fpRcp mode a
  | .vrsq => fpRsq mode a
  | .vexp2 => fpExp2 mode a
  | .vlog2 => fpLog2 mode a
  | .vsigm => fpSigm mode a
  | _ => ⟨0, 0⟩

/-- The integer operations (06 R214). -/
def vxInt (op : VxOp) (a b : BitVec 32) : BitVec 32 :=
  let n := fieldN b.toNat 0 5
  match op with
  | .viadd => a + b
  | .visub => a - b
  | .vimul => a * b
  | .vimin => if a.slt b then a else b
  | .vimax => if a.slt b then b else a
  | .viminu => if a.ult b then a else b
  | .vimaxu => if a.ult b then b else a
  | .vand => a &&& b
  | .vor => a ||| b
  | .vxor => a ^^^ b
  | .vshl => a <<< n
  | .vshr => a >>> n
  | .vsar => a.sshiftRight n
  | _ => 0

/-- The comparisons (06 R215). -/
def vxCmp (op : VxOp) (a b : Nat) : Rounded :=
  match op with
  | .vfeq => fpEq a b
  | .vflt => fpLt a b
  | .vfle => fpLe a b
  | .vieq => ⟨if a = b then 1 else 0, 0⟩
  | .vilt => ⟨if (BitVec.ofNat 32 a).slt (BitVec.ofNat 32 b) then 1 else 0, 0⟩
  | _ => ⟨0, 0⟩

/-- The result of an FP32 operation on every lane. -/
def vxFpResult (op : VxOp) (x : Trig) : Result :=
  laneResult x ((List.zip (x.lanes 1) (List.zip (x.lanes 2) (x.lanes 3))).map
    (fun (a, b, c) => vxFp op x.mode a b c))

/-- The result of an integer operation on every lane. -/
def vxIntResult (op : VxOp) (x : Trig) : Result :=
  laneResult x (exact ((List.zip (x.lanes 1) (x.lanes 2)).map
    (fun (a, b) => (vxInt op (BitVec.ofNat 32 a) (BitVec.ofNat 32 b)).toNat)))

/-- The result of a comparison: a mask; z is ignored (06 R215). -/
def vxCmpResult (op : VxOp) (x : Trig) : Result :=
  let rs := (List.zip (x.lanes 1) (x.lanes 2)).map (fun (a, b) => vxCmp op a b)
  .lanes ((vxReg x.t 0).extractLsb' 0 3) (maskOf x.mask (rs.map (·.bits))) (maskFlags x.mask rs) none

/-- mlog: two masks combined by a truth table, and the count of set bits (06 R215). -/
def mlogResult (x : Trig) : Result :=
  let a := x.at_.rmask ((vxReg x.t 1).extractLsb' 0 3)
  let b := x.at_.rmask ((vxReg x.t 2).extractLsb' 0 3)
  let tt := vxFrom x.t
  let all := BitVec.allOnes 128
  let term (n : Nat) (p q : BitVec 128) : BitVec 128 := if tt.getLsbD n then p &&& q else 0
  let v := term 0 (all ^^^ a) (all ^^^ b) ||| term 1 (all ^^^ a) b ||| term 2 a (all ^^^ b) ||| term 3 a b
  let n := ((List.range 128).filter (fun i => v.getLsbD i)).length
  .lanes ((vxReg x.t 0).extractLsb' 0 3) v 0 (some (BitVec.ofNat 64 n))

/-! ### Conversions (06 R216 to R218) -/

/-- An element in a lane: INT8 is sign-extended, any other zero-extended. -/
def widenLane (f : Fmt) (bits : Nat) : Nat :=
  match f with
  | .int8 => ((BitVec.ofNat 8 bits).signExtend 32).toNat
  | _ => bits

/-- One lane of vcvt; `from = to` compares format codes, so that a code of an MX element and the code of its bare format are
two formats (06 R216; log 111). -/
def cvtLane (src dst : Fmt) (mode : BitVec 3) (sat : Bool) (lane : Nat) : Rounded :=
  let bits := lane % 2 ^ src.size
  if src = dst then ⟨widenLane dst bits, 0⟩
  else
    let r := convertNum src dst (src.decode bits) mode sat
    ⟨widenLane dst r.bits, r.flags⟩

/-- vcvt (06 R216). -/
def vcvtResult (x : Trig) : Result :=
  let f := Fmt.ofCode (vxFrom x.t)
  let g := Fmt.ofCode (vxTo x.t)
  laneResult x ((x.lanes 1).map (cvtLane f g x.mode x.sat))

/-- Elements laid in a block, in element order (03 R109). -/
def packBits (s : Nat) (es : List Nat) : Nat := es.foldr (fun e acc => e % 2 ^ s + 2 ^ s * acc) 0

/-- The lanes of vpack: an inactive lane is read as +0 (06 R217). -/
def packLanes (x : Trig) : List Nat :=
  let m := x.mask
  (x.lanes 1).zipIdx.map (fun p => if m.getLsbD p.2 then p.1 else 0)

/-- The scale of group `g` of the lanes (06 R217; 03 R130). -/
def packScale (dst : Fmt) (xs : List Nat) (g : Nat) : Nat :=
  scaleOf dst (((xs.drop (32 * g)).take 32).map decodeFp32)

/-- One element of vpack (06 R217). -/
def packElem (dst : Fmt) (scale : Nat) (mode : BitVec 3) (sat : Bool) (lane : Nat) : Rounded :=
  match dst with
  | .int8 => convertNum .int32 .int8 (Fmt.int32.decode lane) mode sat
  | f => f.round (if f.isMx then mxQuotient (decodeFp32 lane) scale else decodeFp32 lane) mode sat

/-- vpack (06 R217). -/
def vpackResult (x : Trig) : Result :=
  let dst := Fmt.ofCode (vxTo x.t)
  let s := dst.size
  let xs := packLanes x
  let sc := (List.range 4).map (packScale dst xs)
  let es := xs.zipIdx.map (fun p => packElem dst (sc.getD (p.2 / 32) 127) x.mode x.sat p.1)
  let at_ := vxPart x.t * 128 * s
  .vector (vxReg x.t 0) (BitVec.ofNat 4096 ((2 ^ (128 * s) - 1) * 2 ^ at_))
    (BitVec.ofNat 4096 (packBits s (es.map (·.bits)) * 2 ^ at_)) (maskFlags x.mask es)
    (if dst.isMx then some (BitVec.ofNat 64 (packBits 8 sc)) else none)

/-- One lane of vunpack (06 R218). -/
def unpackLane (f : Fmt) (scale : Nat) (mode : BitVec 3) (bits : Nat) : Rounded :=
  match f with
  | .int8 => ⟨widenLane .int8 bits, 0⟩
  | f => roundFp32 (elemNum f bits scale) mode

/-- vunpack (06 R218). -/
def vunpackResult (x : Trig) : Result :=
  let f := Fmt.ofCode (vxFrom x.t)
  let s := f.size
  let img := (x.at_.rv (vxReg x.t 1)).toNat / 2 ^ (vxPart x.t * 128 * s)
  laneResult x ((List.range 128).map (fun i =>
    unpackLane f (fieldN x.o.toNat (8 * (i / 32)) 8) x.mode (fieldN img (i * s) s)))

/-! ### Movement and reductions (06 R219, R220) -/

/-- Lane `i` of some lanes. -/
def pick (xs : List Nat) (i : Nat) : Nat := xs.getD i 0

/-- A result that writes every lane, whatever the mask. -/
def allLanes (x : Trig) (xs : List Nat) : Result :=
  .vector (vxReg x.t 0) (BitVec.allOnes 4096) (ofLanes xs) 0 none

/-- vsel (06 R219). -/
def vselResult (x : Trig) : Result :=
  let m := x.mask
  allLanes x (((List.zip (x.lanes 1) (x.lanes 2)).zipIdx).map (fun p => if m.getLsbD p.2 then p.1.1 else p.1.2))

/-- vbcast (06 R219). -/
def vbcastResult (x : Trig) : Result :=
  let v := if vxS x.t then (laneOf (x.at_.rv (vxReg x.t 1)) (vxLane x.t)).toNat else fieldN x.o.toNat 0 32
  laneResult x (exact (List.replicate 128 v))

/-- vidx (06 R219). -/
def vidxResult (x : Trig) : Result :=
  laneResult x (exact ((List.range 128).map (fun i =>
    (fieldN x.o.toNat 0 32 + i * fieldN x.o.toNat 32 32) % 2 ^ 32)))

/-- vperm (06 R219). -/
def vpermResult (x : Trig) : Result :=
  let a := x.lanes 1
  laneResult x (exact ((x.lanes 2).map (fun b => pick a (b % 128))))

/-- vslide (06 R219). -/
def vslideResult (x : Trig) : Result :=
  laneResult x (exact (((x.lanes 1 ++ x.lanes 2).drop (vxLane x.t)).take 128))

/-- vins: one lane changes, whatever the mask (06 R219). -/
def vinsResult (x : Trig) : Result :=
  let i := vxLane x.t
  .vector (vxReg x.t 0) (BitVec.ofNat 4096 ((2 ^ 32 - 1) * 2 ^ (32 * i)))
    (BitVec.ofNat 4096 (fieldN x.o.toNat 0 32 * 2 ^ (32 * i))) 0 none

/-- The float reductions: the operation and its identity (06 R220; 03 R134). -/
def reduceResult (op : Nat → Nat → Rounded) (id : Nat) (x : Trig) : Result :=
  let m := x.mask
  let w := (x.lanes 1).zipIdx.map (fun p => if m.getLsbD p.2 then p.1 else id)
  let r := reduceTree op 7 w 0
  .reduced (BitVec.ofNat 64 r.bits) r.flags

/-- visum: the exact sum of the active lanes (06 R220). -/
def visumResult (x : Trig) : Result :=
  let m := x.mask
  let v : Int := ((x.lanes 1).zipIdx.filter (fun p => m.getLsbD p.2)).foldl
    (fun s p => s + (BitVec.ofNat 32 p.1).toInt) 0
  .reduced (BitVec.ofInt 64 v) 0

/-- What an operation that accesses no memory delivers (06 R213 to R220). -/
def vxResult (op : VxOp) (x : Trig) : Result :=
  match op with
  | .vadd | .vsub | .vmul | .vfma | .vfms | .vfnma | .vmin | .vmax | .vabs | .vneg | .vdiv | .vsqrt | .vrcp
  | .vrsq | .vexp2 | .vlog2 | .vsigm => vxFpResult op x
  | .viadd | .visub | .vimul | .vimin | .vimax | .viminu | .vimaxu | .vand | .vor | .vxor | .vshl | .vshr
  | .vsar => vxIntResult op x
  | .vfeq | .vflt | .vfle | .vieq | .vilt => vxCmpResult op x
  | .mlog => mlogResult x
  | .vcvt => vcvtResult x
  | .vpack => vpackResult x
  | .vunpack => vunpackResult x
  | .vmov => laneResult x (exact (x.lanes 1))
  | .vsel => vselResult x
  | .vbcast => vbcastResult x
  | .vidx => vidxResult x
  | .vperm => vpermResult x
  | .vslide => vslideResult x
  | .vext => .port vxR (BitVec.ofNat 64 (pick (x.lanes 1) (vxLane x.t)))
  | .vins => vinsResult x
  | .vfsum => reduceResult (fpAdd x.mode) 0 x
  | .vfrmax => reduceResult fpMax (fpInf true) x
  | .vfrmin => reduceResult fpMin (fpInf false) x
  | .visum => visumResult x
  | .vld | .vst | .vldx | .vstx => .none

/-- The latency of an operation that accesses no memory (06 R211). -/
def vxLatency : VxOp → Nat
  | .vdiv | .vsqrt | .vrcp | .vrsq | .vexp2 | .vlog2 | .vsigm => 10
  | .vfsum | .vfrmax | .vfrmin | .visum => 10
  | _ => 6

/-- A vector operation that accesses no memory (06 R210, R211). -/
def trigVx (op : VxOp) : Trigger where
  check _ x := vxErr op x
  perform s x := x.start (vxLatency op) false (vxResult op x) s

/-! ### Meanings: the word whose one move triggers the operation (02 R85) -/

/-- The word `-> vx.t.vadd` (06 R213). -/
def execVxVadd (m : Arg) (s : State) : Host.Outcome State Fault Refusal :=
  .next (issueOne (.vx .vadd) (trigVx .vadd) m s)

/-- The word `-> vx.t.vsub` (06 R213). -/
def execVxVsub (m : Arg) (s : State) : Host.Outcome State Fault Refusal :=
  .next (issueOne (.vx .vsub) (trigVx .vsub) m s)

/-- The word `-> vx.t.vmul` (06 R213). -/
def execVxVmul (m : Arg) (s : State) : Host.Outcome State Fault Refusal :=
  .next (issueOne (.vx .vmul) (trigVx .vmul) m s)

/-- The word `-> vx.t.vfma` (06 R213). -/
def execVxVfma (m : Arg) (s : State) : Host.Outcome State Fault Refusal :=
  .next (issueOne (.vx .vfma) (trigVx .vfma) m s)

/-- The word `-> vx.t.vfms` (06 R213). -/
def execVxVfms (m : Arg) (s : State) : Host.Outcome State Fault Refusal :=
  .next (issueOne (.vx .vfms) (trigVx .vfms) m s)

/-- The word `-> vx.t.vfnma` (06 R213). -/
def execVxVfnma (m : Arg) (s : State) : Host.Outcome State Fault Refusal :=
  .next (issueOne (.vx .vfnma) (trigVx .vfnma) m s)

/-- The word `-> vx.t.vmin` (06 R213). -/
def execVxVmin (m : Arg) (s : State) : Host.Outcome State Fault Refusal :=
  .next (issueOne (.vx .vmin) (trigVx .vmin) m s)

/-- The word `-> vx.t.vmax` (06 R213). -/
def execVxVmax (m : Arg) (s : State) : Host.Outcome State Fault Refusal :=
  .next (issueOne (.vx .vmax) (trigVx .vmax) m s)

/-- The word `-> vx.t.vabs` (06 R213). -/
def execVxVabs (m : Arg) (s : State) : Host.Outcome State Fault Refusal :=
  .next (issueOne (.vx .vabs) (trigVx .vabs) m s)

/-- The word `-> vx.t.vneg` (06 R213). -/
def execVxVneg (m : Arg) (s : State) : Host.Outcome State Fault Refusal :=
  .next (issueOne (.vx .vneg) (trigVx .vneg) m s)

/-- The word `-> vx.t.vdiv` (06 R213). -/
def execVxVdiv (m : Arg) (s : State) : Host.Outcome State Fault Refusal :=
  .next (issueOne (.vx .vdiv) (trigVx .vdiv) m s)

/-- The word `-> vx.t.vsqrt` (06 R213). -/
def execVxVsqrt (m : Arg) (s : State) : Host.Outcome State Fault Refusal :=
  .next (issueOne (.vx .vsqrt) (trigVx .vsqrt) m s)

/-- The word `-> vx.t.vrcp` (06 R213). -/
def execVxVrcp (m : Arg) (s : State) : Host.Outcome State Fault Refusal :=
  .next (issueOne (.vx .vrcp) (trigVx .vrcp) m s)

/-- The word `-> vx.t.vrsq` (06 R213). -/
def execVxVrsq (m : Arg) (s : State) : Host.Outcome State Fault Refusal :=
  .next (issueOne (.vx .vrsq) (trigVx .vrsq) m s)

/-- The word `-> vx.t.vexp2` (06 R213). -/
def execVxVexp2 (m : Arg) (s : State) : Host.Outcome State Fault Refusal :=
  .next (issueOne (.vx .vexp2) (trigVx .vexp2) m s)

/-- The word `-> vx.t.vlog2` (06 R213). -/
def execVxVlog2 (m : Arg) (s : State) : Host.Outcome State Fault Refusal :=
  .next (issueOne (.vx .vlog2) (trigVx .vlog2) m s)

/-- The word `-> vx.t.vsigm` (06 R213). -/
def execVxVsigm (m : Arg) (s : State) : Host.Outcome State Fault Refusal :=
  .next (issueOne (.vx .vsigm) (trigVx .vsigm) m s)

/-- The word `-> vx.t.viadd` (06 R214). -/
def execVxViadd (m : Arg) (s : State) : Host.Outcome State Fault Refusal :=
  .next (issueOne (.vx .viadd) (trigVx .viadd) m s)

/-- The word `-> vx.t.visub` (06 R214). -/
def execVxVisub (m : Arg) (s : State) : Host.Outcome State Fault Refusal :=
  .next (issueOne (.vx .visub) (trigVx .visub) m s)

/-- The word `-> vx.t.vimul` (06 R214). -/
def execVxVimul (m : Arg) (s : State) : Host.Outcome State Fault Refusal :=
  .next (issueOne (.vx .vimul) (trigVx .vimul) m s)

/-- The word `-> vx.t.vimin` (06 R214). -/
def execVxVimin (m : Arg) (s : State) : Host.Outcome State Fault Refusal :=
  .next (issueOne (.vx .vimin) (trigVx .vimin) m s)

/-- The word `-> vx.t.vimax` (06 R214). -/
def execVxVimax (m : Arg) (s : State) : Host.Outcome State Fault Refusal :=
  .next (issueOne (.vx .vimax) (trigVx .vimax) m s)

/-- The word `-> vx.t.viminu` (06 R214). -/
def execVxViminu (m : Arg) (s : State) : Host.Outcome State Fault Refusal :=
  .next (issueOne (.vx .viminu) (trigVx .viminu) m s)

/-- The word `-> vx.t.vimaxu` (06 R214). -/
def execVxVimaxu (m : Arg) (s : State) : Host.Outcome State Fault Refusal :=
  .next (issueOne (.vx .vimaxu) (trigVx .vimaxu) m s)

/-- The word `-> vx.t.vand` (06 R214). -/
def execVxVand (m : Arg) (s : State) : Host.Outcome State Fault Refusal :=
  .next (issueOne (.vx .vand) (trigVx .vand) m s)

/-- The word `-> vx.t.vor` (06 R214). -/
def execVxVor (m : Arg) (s : State) : Host.Outcome State Fault Refusal :=
  .next (issueOne (.vx .vor) (trigVx .vor) m s)

/-- The word `-> vx.t.vxor` (06 R214). -/
def execVxVxor (m : Arg) (s : State) : Host.Outcome State Fault Refusal :=
  .next (issueOne (.vx .vxor) (trigVx .vxor) m s)

/-- The word `-> vx.t.vshl` (06 R214). -/
def execVxVshl (m : Arg) (s : State) : Host.Outcome State Fault Refusal :=
  .next (issueOne (.vx .vshl) (trigVx .vshl) m s)

/-- The word `-> vx.t.vshr` (06 R214). -/
def execVxVshr (m : Arg) (s : State) : Host.Outcome State Fault Refusal :=
  .next (issueOne (.vx .vshr) (trigVx .vshr) m s)

/-- The word `-> vx.t.vsar` (06 R214). -/
def execVxVsar (m : Arg) (s : State) : Host.Outcome State Fault Refusal :=
  .next (issueOne (.vx .vsar) (trigVx .vsar) m s)

/-- The word `-> vx.t.vfeq` (06 R215). -/
def execVxVfeq (m : Arg) (s : State) : Host.Outcome State Fault Refusal :=
  .next (issueOne (.vx .vfeq) (trigVx .vfeq) m s)

/-- The word `-> vx.t.vflt` (06 R215). -/
def execVxVflt (m : Arg) (s : State) : Host.Outcome State Fault Refusal :=
  .next (issueOne (.vx .vflt) (trigVx .vflt) m s)

/-- The word `-> vx.t.vfle` (06 R215). -/
def execVxVfle (m : Arg) (s : State) : Host.Outcome State Fault Refusal :=
  .next (issueOne (.vx .vfle) (trigVx .vfle) m s)

/-- The word `-> vx.t.vieq` (06 R215). -/
def execVxVieq (m : Arg) (s : State) : Host.Outcome State Fault Refusal :=
  .next (issueOne (.vx .vieq) (trigVx .vieq) m s)

/-- The word `-> vx.t.vilt` (06 R215). -/
def execVxVilt (m : Arg) (s : State) : Host.Outcome State Fault Refusal :=
  .next (issueOne (.vx .vilt) (trigVx .vilt) m s)

/-- The word `-> vx.t.mlog` (06 R215). -/
def execVxMlog (m : Arg) (s : State) : Host.Outcome State Fault Refusal :=
  .next (issueOne (.vx .mlog) (trigVx .mlog) m s)

/-- The word `-> vx.t.vcvt` (06 R216). -/
def execVxVcvt (m : Arg) (s : State) : Host.Outcome State Fault Refusal :=
  .next (issueOne (.vx .vcvt) (trigVx .vcvt) m s)

/-- The word `-> vx.t.vpack` (06 R217). -/
def execVxVpack (m : Arg) (s : State) : Host.Outcome State Fault Refusal :=
  .next (issueOne (.vx .vpack) (trigVx .vpack) m s)

/-- The word `-> vx.t.vunpack` (06 R218). -/
def execVxVunpack (m : Arg) (s : State) : Host.Outcome State Fault Refusal :=
  .next (issueOne (.vx .vunpack) (trigVx .vunpack) m s)

/-- The word `-> vx.t.vmov` (06 R219). -/
def execVxVmov (m : Arg) (s : State) : Host.Outcome State Fault Refusal :=
  .next (issueOne (.vx .vmov) (trigVx .vmov) m s)

/-- The word `-> vx.t.vsel` (06 R219). -/
def execVxVsel (m : Arg) (s : State) : Host.Outcome State Fault Refusal :=
  .next (issueOne (.vx .vsel) (trigVx .vsel) m s)

/-- The word `-> vx.t.vbcast` (06 R219). -/
def execVxVbcast (m : Arg) (s : State) : Host.Outcome State Fault Refusal :=
  .next (issueOne (.vx .vbcast) (trigVx .vbcast) m s)

/-- The word `-> vx.t.vidx` (06 R219). -/
def execVxVidx (m : Arg) (s : State) : Host.Outcome State Fault Refusal :=
  .next (issueOne (.vx .vidx) (trigVx .vidx) m s)

/-- The word `-> vx.t.vperm` (06 R219). -/
def execVxVperm (m : Arg) (s : State) : Host.Outcome State Fault Refusal :=
  .next (issueOne (.vx .vperm) (trigVx .vperm) m s)

/-- The word `-> vx.t.vslide` (06 R219). -/
def execVxVslide (m : Arg) (s : State) : Host.Outcome State Fault Refusal :=
  .next (issueOne (.vx .vslide) (trigVx .vslide) m s)

/-- The word `-> vx.t.vext` (06 R219). -/
def execVxVext (m : Arg) (s : State) : Host.Outcome State Fault Refusal :=
  .next (issueOne (.vx .vext) (trigVx .vext) m s)

/-- The word `-> vx.t.vins` (06 R219). -/
def execVxVins (m : Arg) (s : State) : Host.Outcome State Fault Refusal :=
  .next (issueOne (.vx .vins) (trigVx .vins) m s)

/-- The word `-> vx.t.vfsum` (06 R220). -/
def execVxVfsum (m : Arg) (s : State) : Host.Outcome State Fault Refusal :=
  .next (issueOne (.vx .vfsum) (trigVx .vfsum) m s)

/-- The word `-> vx.t.vfrmax` (06 R220). -/
def execVxVfrmax (m : Arg) (s : State) : Host.Outcome State Fault Refusal :=
  .next (issueOne (.vx .vfrmax) (trigVx .vfrmax) m s)

/-- The word `-> vx.t.vfrmin` (06 R220). -/
def execVxVfrmin (m : Arg) (s : State) : Host.Outcome State Fault Refusal :=
  .next (issueOne (.vx .vfrmin) (trigVx .vfrmin) m s)

/-- The word `-> vx.t.visum` (06 R220). -/
def execVxVisum (m : Arg) (s : State) : Host.Outcome State Fault Refusal :=
  .next (issueOne (.vx .visum) (trigVx .visum) m s)

end Sys2Proof.Machine
end

