-- ==== Sys2Proof/Machine/VectorMem.lean ====
section
/-! DEFINITION. The memory operations of the vector engine (06 R221 to R227). -/

namespace Sys2Proof.Machine

/-! ### Footprints (06 R221, R222) -/

/-- The byte offset of a memory operation: bits 39:0 of o (06 R221). -/
def vxOff (x : Trig) : Nat := fieldN x.o.toNat 0 40

/-- The bytes of a footprint (06 R221). -/
def footBytes (f : Fmt) : Nat := 16 * laneSize f

/-- The alignment of a footprint in bytes (06 R222 check 4). -/
def footAlign (f : Fmt) : Nat := if laneSize f = 4 then 16 else if laneSize f = 6 then 24 else 32

/-- The memory operation stores. -/
def vxStores : VxOp → Bool
  | .vst | .vstx => true
  | _ => false

/-- The memory operation takes element indices. -/
def vxIndexed : VxOp → Bool
  | .vldx | .vstx => true
  | _ => false

/-- The capability and descriptor that the modifier k selects. -/
def vxSelected (s : State) (x : Trig) : Option (Cap × Desc) :=
  (x.at_.rk (vxK x.t)).cap?.bind (fun cap => (s.descOf cap).map (fun d => (cap, d)))

/-- The memory operation goes by the Local path: a LOCAL buffer of the issuing core (06 R221). -/
def vxOwn (s : State) (x : Trig) : Bool := match vxSelected s x with
  | some (_, d) => d.localTo x.c
  | none => false

/-- The memory format known at issue: none for a LOCAL buffer of another core (06 R221, R222). -/
def vxFmt (s : State) (x : Trig) (d : Desc) : Option Fmt :=
  if d.localTo x.c then some (x.at_.fmtAt (d.padOff + vxOff x))
  else match d.cls.toNat with
    | 0 => none
    | 1 => some (s.fmtAt (d.base.toNat + vxOff x))
    | 5 => some .bytes
    | _ => some (Fmt.ofCode (vxFrom x.t))

/-- The offset that check 4 tests: from the start of the bank, or from the buffer's base (06 R222). -/
def vxAlignOff (d : Desc) (off : Nat) : Nat :=
  match d.cls.toNat with
  | 0 => (d.base.toNat + off) % bankSize
  | 1 => (d.base.toNat + off) % sramBank
  | _ => off

/-- The register holds a capability with the right, and of a class that the operation reaches (06 R222, R224). -/
def vxCapErr (op : VxOp) (s : State) (x : Trig) : Option Err :=
  let k := vxK x.t
  let right := accessRight (vxStores op)
  match (x.at_.rk k).cap? with
  | none => some ⟨0x10, kNum k, right.setWidth 64⟩
  | some cap =>
    let ok := (if vxStores op then cap.writes else cap.reads) &&
      ((s.descOf cap).map (fun d => !vxIndexed op || d.localTo x.c)).getD false
    require ok ⟨0x11, kNum k, right.setWidth 64⟩

/-- Bits 63:40 of o are zero. -/
def vxOffOk (x : Trig) : Bool := fieldN x.o.toNat 40 24 == 0

/-! ### Elements of the core's own scratchpad -/

/-- Lane `i`'s element by the Local path: its bit address, its format and its scale (03 R118; 06 R221). -/
def laneAt (x : Trig) (f : Fmt) (padBit i : Nat) : LaneLoad :=
  ⟨i, 8 * slotBase x.c + padBit, f, x.at_.padScale x.c padBit⟩

/-- The elements of a footprint in the own scratchpad, in lane order. -/
def footLanes (x : Trig) (d : Desc) (f : Fmt) : List LaneLoad :=
  (List.range 128).map (fun i => laneAt x f (8 * (d.padOff + vxOff x) + i * laneSize f) i)

/-- The lanes that are active. -/
def activeLanes (x : Trig) (ls : List LaneLoad) : List LaneLoad :=
  let m := x.mask
  ls.filter (fun l => m.getLsbD l.lane)

/-- The bytes of an element's footprint: first byte and number. -/
def LaneLoad.bytes (l : LaneLoad) : Nat × Nat :=
  (l.bitAddr / 8, (l.bitAddr + laneSize l.fmt - 1) / 8 - l.bitAddr / 8 + 1)

/-- No byte of the elements, and no scale byte that they need, lies below XB (06 R222 check 7). -/
def lanesAboveXb (x : Trig) (ls : List LaneLoad) : Bool :=
  ls.all (fun l => decide (x.at_.xb.toNat ≤ l.bytes.1 - slotBase x.c) &&
    l.scaleAddr.all (fun a => decide (x.at_.xb.toNat ≤ a - slotBase x.c)))

/-- The first poisoned granule that the elements of some lanes read: their bytes when they load, and their scale bytes
(06 R225; 01 R66). -/
def State.lanesPoison (s : State) (cap : Cap) (store : Bool) : List LaneLoad → Option Err
  | [] => none
  | l :: ls =>
    match if store then none else s.poisonErr cap l.bytes.1 l.bytes.2 with
    | some e => some e
    | none => match l.scaleAddr.bind (fun a => s.poisonErr cap a 1) with
      | some e => some e
      | none => s.lanesPoison cap store ls

/-! ### Checks (06 R222, R224) -/

/-- Checks 3 to 7 of vld and vst (06 R222). -/
def vxFootErr (store : Bool) (s : State) (x : Trig) (cap : Cap) (d : Desc) : Option Err :=
  let off := vxOff x
  let e (cause : BitVec 8) : Err := ⟨cause, x.o, kNum (vxK x.t)⟩
  let rest := require (!(store && cap.residual)) (e 0x16)
  match vxFmt s x d with
  | none => firstErr [require (vxOffOk x && decide (off < d.len)) (e 0x12), rest]
  | some f =>
    firstErr ([require (vxOffOk x && f != .int64 && decide (off + footBytes f ≤ d.len)) (e 0x12),
      require (vxAlignOff d off % footAlign f == 0) (e 0x13), rest] ++
      if d.localTo x.c then
        let ls := footLanes x d f
        [require (x.at_.fmtAt (d.padOff + off + footBytes f - 1) == f) (e 0x14),
         require (lanesAboveXb x ls) (e 0x06),
         s.lanesPoison cap store (activeLanes x ls)]
      else [])

/-- The format of an indexed operation: that of the bank that holds byte off (06 R224; log 34). -/
def vxIndexFmt (x : Trig) (d : Desc) : Fmt := x.at_.fmtAt (d.padOff + vxOff x)

/-- The byte offset that lane `i` of an indexed operation addresses (06 R224). -/
def vxIndexOff (x : Trig) (f : Fmt) (i : Nat) : Nat :=
  vxOff x + laneSize f / 8 * (laneOf (x.at_.rv (vxReg x.t 2)) i).toNat

/-- The format of lane `i` of an indexed operation: that of its own bank, when that has elements of the size that its
address was computed with (06 R224; log 34). -/
def vxLaneFmt (x : Trig) (f : Fmt) (o : Nat) : Fmt :=
  let g := x.at_.fmtAt o
  if laneSize g = laneSize f then g else f

/-- The elements that the active lanes address, in lane order (06 R224). -/
def indexLanes (x : Trig) (d : Desc) (f : Fmt) : List LaneLoad :=
  let m := x.mask
  ((List.range 128).filter (fun i => m.getLsbD i)).map (fun i =>
    let o := d.padOff + vxIndexOff x f i
    laneAt x (vxLaneFmt x f o) (8 * o) i)

/-- The buffer offset of an element of the own scratchpad. -/
def LaneLoad.off (l : LaneLoad) (d : Desc) : Nat := l.bytes.1 - d.base.toNat

/-- The first lane that fails a test, as a fault that names its offset. -/
def laneErr (cause : BitVec 8) (k : BitVec 5) (d : Desc) (ls : List LaneLoad) (ok : LaneLoad → Bool) : Option Err :=
  (ls.find? (fun l => !ok l)).map (fun l => ⟨cause, BitVec.ofNat 64 (l.off d), kNum k⟩)

/-- Checks 3 to 7 of vldx and vstx (06 R224). -/
def vxIndexErr (store : Bool) (s : State) (x : Trig) (cap : Cap) (d : Desc) : Option Err :=
  let f := vxIndexFmt x d
  let k := vxK x.t
  let e := laneSize f / 8
  let ls := indexLanes x d f
  firstErr [
    require (vxOffOk x && f != .int64 && laneSize f % 8 == 0) ⟨0x12, x.o, kNum k⟩,
    laneErr 0x12 k d ls (fun l => decide (l.off d + e ≤ d.len)),
    laneErr 0x13 k d ls (fun _ => vxOff x % e == 0),
    laneErr 0x16 k d ls (fun _ => !(store && cap.residual)),
    laneErr 0x14 k d ls (fun l => x.at_.fmtAt (l.bytes.1 - slotBase x.c) == l.fmt &&
      ls.head?.all (fun h => h.fmt == l.fmt)),
    laneErr 0x06 k d ls (fun l => lanesAboveXb x [l]),
    s.lanesPoison cap store ls]

/-- The checks of a memory operation at issue, after those of every operation (06 R210, R222, R224). -/
def vxMemErr (op : VxOp) (s : State) (x : Trig) : Option Err :=
  match firstErr [vxErr op x, vxCapErr op s x] with
  | some e => some e
  | none => match vxSelected s x with
    | none => some ⟨0x10, kNum (vxK x.t), 0⟩
    | some (cap, d) =>
      if vxIndexed op then vxIndexErr (vxStores op) s x cap d else vxFootErr (vxStores op) s x cap d

/-! ### The local forms (06 R223 to R225) -/

/-- The elements that a local form reads or writes, in lane order. -/
def vxLocalLanes (op : VxOp) (x : Trig) (d : Desc) : List LaneLoad :=
  if vxIndexed op then indexLanes x d (vxIndexFmt x d)
  else activeLanes x (footLanes x d (x.at_.fmtAt (d.padOff + vxOff x)))

/-- A local load: its elements are read when it is performed (06 R225). -/
def vxLocalLoad (op : VxOp) (s : State) (x : Trig) (d : Desc) : State :=
  x.start 8 false (.load (.lanes (vxReg x.t 0) (vxLocalLanes op x d) (if vxZ x.t then ~~~x.mask else 0)) x.at_.rm []) s

/-- One lane of a local store, with the scale byte as the core sees it at the trigger (06 R223; 03 R121). -/
def storeLane (s : State) (x : Trig) (v : BitVec 4096) (l : LaneLoad) : Rounded :=
  fromLane l.fmt (laneOf v l.lane).toNat
    (match l.scaleAddr with
      | some a => (s.localByte (s.core x.c) a).toNat
      | none => 127) x.mode x.sat

/-- A local store: a higher lane overwrites a lower one (06 R223 to R225). -/
def vxLocalStore (op : VxOp) (s : State) (x : Trig) (d : Desc) : State :=
  let v := x.at_.rv (vxReg x.t 0)
  let rs := (vxLocalLanes op x d).map (fun l => (l, storeLane s x v l))
  let ws := rs.flatMap (fun p => elemWrites p.1.bitAddr (laneSize p.1.fmt) p.2.bits)
  let fl := orFlags (rs.map (fun p => p.2.flags))
  (x.store 8 ws s).onCore x.c (fun c => { c with
    stages := c.stages ++ [{ x.stage 8 false (.flags fl) with sb := 0 }] })

/-- The watched ranges that a local form meets, lane by lane (04 R172; 06 R225). -/
def vxHits (op : VxOp) (s : State) (x : Trig) : List Hit := match vxSelected s x with
  | some (cap, d) =>
    if d.localTo x.c then
      (vxLocalLanes op x d).flatMap (fun l => x.at_.hits cap (vxStores op) (l.off d) l.bytes.2)
    else []
  | none => []

/-- The bytes that a memory operation reads or writes, lane by lane, as traces see them (11 R408). -/
def vxTouches (op : VxOp) (s : State) (x : Trig) : List Touch := match vxSelected s x with
  | some (cap, d) =>
    if d.localTo x.c then (vxLocalLanes op x d).map (fun l => ⟨cap, vxStores op, l.off d, l.bytes.2⟩)
    else
      let n := laneSize ((vxFmt s x d).getD (s.fmtAt (d.base.toNat + vxOff x)))
      ((List.range 128).filter (fun i => x.mask.getLsbD i)).map (fun i =>
        ⟨cap, vxStores op, vxOff x + i * n / 8, (i * n % 8 + n + 7) / 8⟩)
  | none => []

/-! ### The detached forms (06 R226) -/

/-- The lanes of a register image in element order, under a mask: their bits and the bits they cover. -/
def laneImage (s : Nat) (m : BitVec 128) (es : List Nat) : Nat × Nat :=
  (packBits s (es.zipIdx.map (fun p => if m.getLsbD p.2 then p.1 else 0)),
   packBits s ((List.range 128).map (fun i => if m.getLsbD i then 2 ^ s - 1 else 0)))

/-- A footprint in memory without banks, cut into pieces, under the bit masks of its bytes: a piece of which some granule
holds no active element is cut into granules, and such granules are not accessed, since an inactive lane raises no fault
(06 R211, R226). -/
def activePieces (base : Nat) (ms : List Byte) : List (Nat × Nat) :=
  let live (p : Nat × Nat) : Bool := ((ms.drop (p.1 - base)).take p.2).any (· != 0)
  (pieces base ms.length).flatMap (fun p =>
    let gs := cutPieces 32 (p.2 + 1) p.1 p.2
    if gs.all live then [p] else gs.filter live)

/-- The requests of a detached vst on memory without banks: the footprint's pieces with their bit masks (06 R223,
R226). -/
def vstPieces (x : Trig) (f : Fmt) (base : Nat) : List (Nat × Access) :=
  let n := footBytes f
  let es := (x.lanes 0).map (fun v => (fromLane f v 127 x.mode x.sat).bits)
  let img := laneImage (laneSize f) x.mask es
  let bs := leBytes n img.1
  let ms := leBytes n img.2
  (activePieces base ms).map (fun (a, len) =>
    (a - base, .write 0 ((bs.drop (a - base)).take len) ((ms.drop (a - base)).take len)))

/-- The requests of a detached vld on memory without banks. -/
def vldPieces (x : Trig) (f : Fmt) (base : Nat) : List (Nat × Access) :=
  (activePieces base (leBytes (footBytes f) (laneImage (laneSize f) x.mask []).2)).map (fun (a, len) =>
    (a - base, .read 0 len (a - base)))

/-- The requests of a detached form: place in the footprint, and access (06 R221, R226; log 33). Banks take a footprint as
one request, and cut it into pieces where they perform it (05 R178, R199; 06 R227). -/
def vxPieces (op : VxOp) (s : State) (x : Trig) (d : Desc) : List (Nat × Access) :=
  let f := (vxFmt s x d).getD .bytes
  if d.cls.toNat < 2 then [(0, if vxStores op then .lanesWrite f 0 0 none else .lanesRead f 0 0 none)]
  else if vxStores op then vstPieces x f (d.base.toNat + vxOff x)
  else vldPieces x f (d.base.toNat + vxOff x)

/-- Cycles that a footprint's pieces after the first add (06 R226). -/
def footCycles (f : Fmt) : Nat := (footBytes f + 127) / 128 - 1

/-- Start a detached form (06 R226). -/
def vxDetached (op : VxOp) (s : State) (x : Trig) (cap : Cap) (d : Desc) : State :=
  let banks := decide (d.cls.toNat < 2)
  let f := vxFmt s x d
  let ps := vxPieces op s x d
  let fl : Flight := { x.flight s 0 with
    ka := vxK x.t
    ca := some cap
    phase := .active
    open_ := ps.length
    fs := if banks then .bytes else f.getD .bytes
    data := if vxStores op then imageBytes (x.at_.rv (vxReg x.t 0)) else List.replicate 512 0
    mask := x.mask
    born := (s.core x.c).cyc + (f.map footCycles).getD 0 }
  (s.launch fl).sendAll (ps.map (fun (i, a) => s.reqOf fl 2 (some (vxK x.t)) cap d (vxOff x + i) a))

/-- A memory operation of the vector engine (06 R221). -/
def trigVxMem (op : VxOp) : Trigger where
  check s x := vxMemErr op s x
  perform s x := match vxSelected s x with
    | none => s
    | some (cap, d) =>
      if d.localTo x.c then (if vxStores op then vxLocalStore op s x d else vxLocalLoad op s x d)
      else vxDetached op s x cap d
  hits s x := vxHits op s x
  touches s x := vxTouches op s x
  detached s x := !vxOwn s x

/-! ### Detached forms at the memory that serves them (06 R226, R227) -/

/-- What a completed vld writes: its active lanes, and 0 into the others with z (06 R223, R226). Banks answer with lanes
that they have converted; other memories with raw bytes in the modifier's format. -/
def Flight.vldResult (f : Flight) : Result :=
  let s := laneSize f.fs
  let img := leNat f.data
  let es := (List.range 128).map (fun i => (toLane f.fs (fieldN img (i * s) s) 127 (rmMode f.rm)).bits)
  .vector (vxReg f.t 0) (if vxZ f.t then BitVec.allOnes 4096 else laneBits f.mask) (ofLanes es &&& laneBits f.mask) 0 none

/-- The length of the buffer that a request reaches. -/
def State.reqLen (s : State) (r : Req) : Nat := ((tabFind r.desc.toNat (s.part r.part).bufs).map Desc.len).getD 0

/-- Late fault 0x25 of a vector access to banks, checked where it is performed (06 R222, R227). `chk` is the format
checked at issue, and `pa` the first byte. -/
def State.lanesErr (s : State) (r : Req) (chk : Fmt) (pa : Nat) : Option LateFault :=
  let f := s.fmtAt pa
  let n := footBytes f
  let g := s.fmtAt (pa + n - 1)
  let fault (at_ : Nat) (h : Fmt) : LateFault := ⟨0x25, BitVec.ofNat 64 at_, (0#56 ++ h.code ++ f.code)⟩
  if f != g then
    let edge := match s.bank? pa with
      | some b => b.base + b.size - pa
      | none => 0
    some (fault (r.off + 8 * edge / laneSize f * laneSize f / 8) g)
  else if f == .int64 || (r.cls != 0 && laneSize f != laneSize chk) || decide (s.reqLen r < r.off + n) then
    some (fault r.off f)
  else if (match s.bank? pa with
      | some b => (pa - b.base) % footAlign f != 0
      | none => false) then some (fault r.off f)
  else none

/-- A piece of a footprint that banks perform (05 R178, R199): the format in force, the bit address of lane 0, the piece's
first byte, and the byte behind its last one. -/
structure LanePiece where
  fmt : Fmt
  bit : Nat
  first : Nat
  stop : Nat
  deriving DecidableEq, Repr

/-- The next piece of a footprint. The layout of its elements is that which its first piece found; a later piece takes the
format that its bank then has when that has elements of the same size (05 R178; log 34). -/
def State.lanePiece (s : State) (bit gone : Nat) (begun : Option Fmt) : LanePiece :=
  let p := bit / 8 + gone
  let g := s.fmtAt p
  let f := match begun with
    | some h => if laneSize g = laneSize h then g else h
    | none => g
  ⟨f, bit, p, min (bit / 8 + footBytes f) (p / 128 * 128 + 128)⟩

/-- The bit address of lane `i`. -/
def LanePiece.at_ (p : LanePiece) (i : Nat) : Nat := p.bit + i * laneSize p.fmt

/-- The lanes of which the piece holds bits. -/
def LanePiece.lanes (p : LanePiece) : List Nat :=
  (List.range 128).filter (fun i => decide (p.at_ i < 8 * p.stop) && decide (8 * p.first < p.at_ (i + 1)))

/-- The active ones among them. -/
def LanePiece.active (p : LanePiece) (m : BitVec 128) : List Nat := p.lanes.filter (fun i => m.getLsbD i)

/-- The bytes of lane `i` that lie in the piece: first byte and number. -/
def LanePiece.bytes (p : LanePiece) (i : Nat) : Nat × Nat :=
  let a := max (p.at_ i / 8) p.first
  (a, min ((p.at_ (i + 1) - 1) / 8 + 1) p.stop - a)

/-- The first poisoned granule among the active elements of a piece and their scales (01 R66; 06 R226). -/
def State.lanesPoisoned (s : State) (p : LanePiece) (m : BitVec 128) : Option Nat :=
  (p.active m).findSome? (fun i =>
    (s.poisoned? (p.bytes i).1 (p.bytes i).2).orElse (fun _ =>
      (s.scaleAt (p.at_ i)).bind (fun a => s.poisoned? a 1)))

/-- What a piece leaves in the register image for lane `i`: the converted element, or its raw low bits when the rest of it
lies beyond the piece; the low bits of an element that began in the piece before are taken from there. -/
def State.pieceLane (s : State) (p : LanePiece) (f : Flight) (i : Nat) : Nat :=
  let n := laneSize p.fmt
  let raw := s.bitsOf (p.at_ i) n
  let cut := 2 ^ (8 * p.first - p.at_ i)
  let v := raw / cut * cut + leNat ((f.data.drop (4 * i)).take 4) % cut
  if 8 * p.stop < p.at_ (i + 1) then v % 2 ^ (8 * p.stop - p.at_ i)
  else (toLane p.fmt v (s.scaleOfBit (p.at_ i)) (rmMode f.rm)).bits

/-- The lanes that a piece reads from banks, as bytes of the register image and their place in it (06 R223, R226). -/
def State.lanesRead (s : State) (p : LanePiece) (f : Flight) : Nat × List Byte :=
  (4 * p.lanes.headD 0, p.lanes.flatMap (fun i => leBytes 4 (s.pieceLane p f i)))

/-- The bit changes that a piece of a vector store makes in banks (06 R223, R226). -/
def State.lanesWrites (s : State) (p : LanePiece) (f : Flight) : List BitWrite :=
  ((p.active f.mask).flatMap (fun i =>
    elemWrites (p.at_ i) (laneSize p.fmt)
      (fromLane p.fmt (leNat ((f.data.drop (4 * i)).take 4)) (s.scaleOfBit (p.at_ i)) (rmMode f.rm) (rmSat f.rm)).bits)).filter
    (fun w => decide (p.first ≤ w.addr) && decide (w.addr < p.stop))

/-- The bytes that a piece of a vector store carries; those that no active lane writes are zero. -/
def State.laneBytes (s : State) (p : LanePiece) (f : Flight) : List Byte :=
  (s.lanesWrites p f).foldl (fun bs w => bs.modify (w.addr - p.first) w.apply) (List.replicate (p.stop - p.first) 0)

/-! ### Meanings: the word whose one move triggers the operation (02 R85) -/

/-- The word `-> vx.t.vld` (06 R221 to R227). -/
def execVxVld (m : Arg) (s : State) : Host.Outcome State Fault Refusal :=
  .next (issueOne (.vx .vld) (trigVxMem .vld) m s)

/-- The word `-> vx.t.vst` (06 R221 to R227). -/
def execVxVst (m : Arg) (s : State) : Host.Outcome State Fault Refusal :=
  .next (issueOne (.vx .vst) (trigVxMem .vst) m s)

/-- The word `-> vx.t.vldx` (06 R221 to R227). -/
def execVxVldx (m : Arg) (s : State) : Host.Outcome State Fault Refusal :=
  .next (issueOne (.vx .vldx) (trigVxMem .vldx) m s)

/-- The word `-> vx.t.vstx` (06 R221 to R227). -/
def execVxVstx (m : Arg) (s : State) : Host.Outcome State Fault Refusal :=
  .next (issueOne (.vx .vstx) (trigVxMem .vstx) m s)

end Sys2Proof.Machine
end

