-- ==== Sys2Proof/Machine/WalkerOps.lean ====
section
/-! DEFINITION. The operations of the stream walkers and the steps of a feed (05 R190 to R196). -/

namespace Sys2Proof.Machine

/-! ### Binding (05 R190) -/

/-- The checks of bind, in order (05 R190). -/
def bindErr (s : State) (x : Trig) : Option Err :=
  let t := x.t.toNat
  let e (cause : BitVec 8) : Err := ⟨cause, x.t, kNum x.k⟩
  match s.localCapErr x.c (x.at_.rk x.k) x.k rightR with
  | some e => some e
  | none => match s.selected x with
    | none => some ⟨0x10, kNum x.k, 0⟩
    | some (cap, d) => firstErr [
        require (decide (t + 64 ≤ d.len)) (e 0x12),
        require (t % 64 == 0) (e 0x13),
        require (decide (x.at_.xb.toNat ≤ d.padOff + t)) (e 0x06),
        s.poisonErr cap (d.base.toNat + t) 64]

/-- The walker bound to the descriptor at t: read on the Local path at issue (05 R190). -/
def boundWalker (s : State) (x : Trig) : Walker :=
  let w : Walker := { desc := BitVec.ofNat 512 (s.localNat (s.core x.c) (lsAddr s x) 64) }
  let own := (x.at_.rk w.dk).cap?
  { w with
    bound := true
    descOff := x.t
    part := (own.map (·.part)).getD 0
    buf := (own.map (·.desc)).getD 0
    checkIn := some 4
    readyIn := 8 }

/-- What a bind touches: the descriptor, and the bytes of every element of the walk (11 R408). -/
def bindTouches (s : State) (x : Trig) : List Touch :=
  let w := boundWalker s x
  lsTouches x.t.toNat 64 false s x ++
    (match x.at_.walkerCap w with
      | some cap => (List.range w.total).filterMap (fun p =>
          let o := (w.atPos p).elemOff
          if 0 ≤ o then some ⟨cap, false, o.toNat, w.width⟩ else none)
      | none => [])

/-- bind (05 R190). -/
def trigBind (n : BitVec 2) : Trigger where
  check := bindErr
  perform s x := let w := boundWalker s x; s.onCore x.c (fun c => (c.endFeed n).setWalker n w)
  hits s x := lsHits x.t.toNat 64 false s x
  touches s x := bindTouches s x
  sbAtOnce := true

/-! ### Feeds (05 R194) -/

/-- The check of feeda and feedb: a bad walker's deferred fault, and DK for a walker that has elements (05 R190,
R194). -/
def feedErr (n : BitVec 2) (_ : State) (x : Trig) : Option Err :=
  let w := x.at_.walker n
  if w.bad then some w.badErr else if w.bound && !w.exh then x.at_.walkerCapErr w else none

/-- Start a feed; one on a walker that has nothing to feed ends at once (05 R194). -/
def startFeed (n : BitVec 2) (toB : Bool) (x : Trig) (c : Core) : Core :=
  let c := c.endFeed n
  let w := c.walker n
  if w.bound && !w.exh then
    c.setWalker n { w with feeding := true, fifoB := toB, feedLeft := x.t, feedSb := x.sb, feedOrder := x.order }
  else c.sbDec x.sb

/-- feeda and feedb (05 R194). -/
def trigFeed (n : BitVec 2) (toB : Bool) : Trigger where
  check := feedErr n
  perform s x := s.onCore x.c (startFeed n toB x)

/-! ### Skip, rewind, stop (05 R193) -/

/-- Advance past elements without reading them (05 R193). -/
def Walker.skip (w : Walker) (t : Nat) : Walker :=
  let n := min t w.left
  if n = 0 then w else w.advance n

/-- Rewind dimensions 0 to d (05 R193). -/
def Walker.rewind (w : Walker) (d : Nat) : Walker :=
  { w with
    i0 := 0
    i1 := if 1 ≤ d then 0 else w.i1
    i2 := if 2 ≤ d then 0 else w.i2
    i3 := if 3 ≤ d then 0 else w.i3
    fin := 0
    exh := false }

/-- The next element is ready no earlier than `n` cycles from now (05 R191; log 30). -/
def Walker.readyAfter (w : Walker) (n : Nat) : Walker := { w with readyIn := max w.readyIn n }

/-- skip on a walker: held until the contents check has been made (05 R193). -/
def Walker.doSkip (w : Walker) (t : Word) : Walker :=
  if !w.bound || w.feeding then w
  else if w.checkIn.isSome then ({ w with held := w.held ++ [(false, t)] } : Walker).readyAfter 4
  else (w.skip t.toNat).readyAfter 4

/-- rewind on a walker: it clears the bad state, and the contents are checked again; after a held skip it is held too
(05 R190, R193; log 30). -/
def Walker.doRewind (w : Walker) (t : Word) : Walker :=
  if !w.bound then w
  else
    let w := if w.bad then { w with bad := false, badCause := 0, checkIn := some 4 } else w
    (if w.held.isEmpty then w.rewind (fieldN t.toNat 0 2) else { w with held := w.held ++ [(true, t)] }).readyAfter 4

/-- skip (05 R193). -/
def trigSkip (n : BitVec 2) : Trigger where
  check _ x := let w := x.at_.walker n; if w.bad then some w.badErr else none
  perform s x := s.onCore x.c (fun c => c.setWalker n ((c.walker n).doSkip x.t))
  sbAtOnce := true

/-- rewind (05 R193). -/
def trigRewind (n : BitVec 2) : Trigger where
  perform s x := s.onCore x.c (fun c => let c := c.endFeed n; c.setWalker n ((c.walker n).doRewind x.t))
  sbAtOnce := true

/-- stop (05 R193). -/
def trigSwStop (n : BitVec 2) : Trigger where
  perform s x := s.onCore x.c (fun c => c.unbind n)
  sbAtOnce := true

/-- The trigger of a walker operation (05 R187). -/
def trigSw (n : BitVec 2) : SwOp → Trigger
  | .bind => trigBind n
  | .feeda => trigFeed n false
  | .feedb => trigFeed n true
  | .skip => trigSkip n
  | .rewind => trigRewind n
  | .stop => trigSwStop n

/-! ### Steps of a walker (05 R190, R191, R194, R195) -/

/-- A stop fault taken at the next word boundary, with the next word as its PC (05 R190, R195); its KIND is that of a precise
stop (log 116). -/
def boundaryStop (cause : BitVec 8) (detail detail2 : Word) : StopDue :=
  ⟨⟨0, 0⟩, cause, 0b00, 0, 0, 0, 0, 0, detail, detail2⟩

/-- The walker after the operations held for the check, in order (05 R193). -/
def Walker.applyHeld (w : Walker) : Walker :=
  w.held.foldl (fun w h => if h.1 then w.rewind (fieldN h.2.toNat 0 2) else w.skip h.2.toNat) { w with held := [] }

/-- The contents check passes or makes the walker bad; a feed or skip that waited on a failed check ends, and the core
takes a stop fault (05 R190). A feed behind a skip that exhausts the walk ends (05 R194). -/
def Core.walkerChecked (c : Core) (n : BitVec 2) (err : Option (BitVec 8)) : Core :=
  let w := { c.walker n with checkIn := none }
  match err with
  | none =>
    let w := w.applyHeld
    let c := c.setWalker n w
    if w.exh then c.endFeed n else c
  | some cause =>
    let waited := w.feeding || w.held.any (fun h => !h.1)
    let w := { w with bad := true, badCause := cause, held := [] }
    let c := (c.setWalker n w).endFeed n
    if waited then { c with stops := c.stops ++ [boundaryStop cause w.descOff (kNum w.dk)] } else c

/-- WALKER_CONTENTS_CHECK: made when its time has come (05 R190). -/
def State.walkerCheck (s : State) (cn : Nat) (n : BitVec 2) : State :=
  let w := (s.core cn).walker n
  if w.checkIn = some 0 then let err := s.walkerContents cn w; s.onCore cn (fun c => c.walkerChecked n err) else s

/-- The core lets feeds run: not stopped, suspended or switched out, and no stop due (05 R196). -/
def Core.feedsRun (c : Core) : Bool :=
  c.stops.isEmpty && (match c.mode with
    | .run => true
    | .trapDue _ => true
    | _ => false)

/-- The feed on walker `n` is the earliest into its FIFO (05 R194). -/
def Core.feedFirst (c : Core) (n : BitVec 2) : Bool :=
  let w := c.walker n
  c.walkers.all (fun v => !(v.feeding && v.fifoB == w.fifoB && decide (v.feedOrder < w.feedOrder)))

/-- The bytes that a FIFO holds at most (07 R229). -/
def fifoSize : Nat := 8192

/-- The FIFO that a feed fills. -/
def Core.feedFifo (c : Core) (w : Walker) : List Byte := if w.fifoB then c.mx.fifoB else c.mx.fifoA

/-- The feed on walker `n` can move an element (05 R194). -/
def Core.feedReady (c : Core) (n : BitVec 2) : Bool :=
  let w := c.walker n
  w.feeding && w.checkIn.isNone && c.feedsRun && c.feedFirst n &&
    decide ((c.feedFifo w).length + w.width ≤ fifoSize)

/-- Bytes appended to a FIFO. -/
def Mx.push (x : Mx) (toB : Bool) (bs : List Byte) : Mx :=
  if toB then { x with fifoB := x.fifoB ++ bs } else { x with fifoA := x.fifoA ++ bs }

/-- One element has been fed: the walk advances, and the feed ends when its count is reached or the walk is exhausted
(05 R194). -/
def Core.fedOne (c : Core) (n : BitVec 2) : Core :=
  let w := (c.walker n).advance 1
  let last := w.exh || w.feedLeft == 1
  let c := c.setWalker n { w with feedLeft := w.feedLeft - 1 }
  if last then c.endFeed n
  else if w.feedLeft = 0 then c.setWalker n w else c

/-- FEED_ELEMENT: the element is read when it enters the FIFO, and sees every Local-path store of the words before the
feed's trigger; a poisoned granule, or an element below XB as it stands, stops the core at the next boundary (04 R143, R146;
05 R194, R195; log 117). -/
def State.feedElement (s : State) (cn : Nat) (n : BitVec 2) : State :=
  let c := s.core cn
  let w := c.walker n
  if c.feedReady n then
    let a := s.walkerAddr w
    let stop (cause : BitVec 8) (d d2 : Word) : State :=
      s.onCore cn (fun c => { c with stops := c.stops ++ [boundaryStop cause d d2] })
    if a - slotBase cn < c.xb.toNat then stop 0x06 (BitVec.ofInt 64 w.elemOff) (kNum w.dk)
    else match s.poisoned? a w.width with
      | some g => stop 0x22 (BitVec.ofNat 64 (32 * g)) (w.buf.setWidth 64)
      | none =>
        let bs := (List.range w.width).map (fun i => s.feedByte c w.feedOrder (a + i))
        s.onCore cn (fun c => Core.fedOne { c.useBanks [bankAt (a - slotBase cn), bankAt (a + w.width - 1 - slotBase cn)] with
          mx := c.mx.push w.fifoB bs } n)
  else s

/-- WALKER_ELEMENT_READY: a cycle in which the reading word waits for its element (05 R191). -/
def State.walkerWait (s : State) (cn : Nat) (n : BitVec 2) : State :=
  let c := s.core cn
  if (c.walker n).stalls && c.mode == .run then s.onCore cn Core.endCycle else s

/-! ### Meanings -/

/-- WALKER_CONTENTS_CHECK on core `focus.core`, walker `focus.n` (05 R190). -/
def execWalkerContentsCheck (s : State) : Host.Outcome State Fault Refusal :=
  .next (s.walkerCheck s.focus.core (BitVec.ofNat 2 s.focus.n))

/-- WALKER_ELEMENT_READY on core `focus.core`, walker `focus.n` (05 R191). -/
def execWalkerElementReady (s : State) : Host.Outcome State Fault Refusal :=
  .next (s.walkerWait s.focus.core (BitVec.ofNat 2 s.focus.n))

/-- FEED_ELEMENT on core `focus.core`, walker `focus.n` (05 R194). -/
def execFeedElement (s : State) : Host.Outcome State Fault Refusal :=
  .next ((s.padError s.focus.core s.focus.ecc s.focus.addr).feedElement s.focus.core (BitVec.ofNat 2 s.focus.n))

/-- The word `-> swN.t.bind` (05 R190 to R194). -/
def execSwBind (n : BitVec 2) (m : Arg) (s : State) : Host.Outcome State Fault Refusal :=
  .next (issueOne (.sw n .bind) (trigSw n .bind) m s)

/-- The word `-> swN.t.feeda` (05 R190 to R194). -/
def execSwFeeda (n : BitVec 2) (m : Arg) (s : State) : Host.Outcome State Fault Refusal :=
  .next (issueOne (.sw n .feeda) (trigSw n .feeda) m s)

/-- The word `-> swN.t.feedb` (05 R190 to R194). -/
def execSwFeedb (n : BitVec 2) (m : Arg) (s : State) : Host.Outcome State Fault Refusal :=
  .next (issueOne (.sw n .feedb) (trigSw n .feedb) m s)

/-- The word `-> swN.t.skip` (05 R190 to R194). -/
def execSwSkip (n : BitVec 2) (m : Arg) (s : State) : Host.Outcome State Fault Refusal :=
  .next (issueOne (.sw n .skip) (trigSw n .skip) m s)

/-- The word `-> swN.t.rewind` (05 R190 to R194). -/
def execSwRewind (n : BitVec 2) (m : Arg) (s : State) : Host.Outcome State Fault Refusal :=
  .next (issueOne (.sw n .rewind) (trigSw n .rewind) m s)

/-- The word `-> swN.t.stop` (05 R190 to R194). -/
def execSwStop (n : BitVec 2) (m : Arg) (s : State) : Host.Outcome State Fault Refusal :=
  .next (issueOne (.sw n .stop) (trigSw n .stop) m s)

end Sys2Proof.Machine
end

