-- ==== Sys2Proof/Machine/Matrix.lean ====
section
/-! DEFINITION. The matrix engine (07 R229 to R252). Each command is a detached operation; the commands of a core that
have not completed are its queue. -/

namespace Sys2Proof.Machine

/-! ### Configurations (07 R233, R238) -/

/-- AFMT of a configuration. -/
def cfgA (c : BitVec 41) : Fmt := Fmt.ofCode (c.extractLsb' 0 4)
/-- BFMT of a configuration. -/
def cfgB (c : BitVec 41) : Fmt := Fmt.ofCode (c.extractLsb' 4 4)
/-- K of a configuration. -/
def cfgK (c : BitVec 41) : Nat := fieldN c.toNat 8 16 + 1
/-- SA of a configuration. -/
def cfgSa (c : BitVec 41) : Nat := fieldN c.toNat 24 8
/-- SB of a configuration. -/
def cfgSb (c : BitVec 41) : Nat := fieldN c.toNat 32 8
/-- ACCT of a configuration: the accumulators are INT32. -/
def cfgInt (c : BitVec 41) : Bool := c.getLsbD 40
/-- The configuration is unconfigured. -/
def cfgNone (c : BitVec 41) : Bool := c.extractLsb' 0 4 == 0#4

/-- The class of an operand format among the pairs of 07 R233: 16-bit, 8-bit float, INT8, MX. -/
def mxClass : Fmt → Option Nat
  | .bf16 | .fp16 => some 0
  | .e4m3 | .e5m2 | .d8 => some 1
  | .int8 => some 2
  | .mxe4m3 | .mxe5m2 | .mxe3m2 | .mxe2m3 | .mxe2m1 => some 3
  | _ => none

/-- A pair of formats with its accumulator type is accepted (07 R233). -/
def mxPair (a b : Fmt) (int : Bool) : Bool :=
  match mxClass a, mxClass b with
  | some x, some y => x == y && int == (x == 2)
  | _, _ => false

/-- The accumulation group of a pair (03 R131). -/
def mxGroupSize (a b : Fmt) : Nat :=
  if a.isMx || b.isMx then 32 else if a.size == 16 || b.size == 16 then 8 else 16

/-- The k-vectors that a pair takes from each FIFO in a cycle (07 R233). -/
def mxRate (a b : Fmt) : Nat :=
  if a.size == 16 || b.size == 16 then 1 else if a == .mxe2m1 && b == .mxe2m1 then 4 else 2

/-! ### The packed command (07 R237) -/

/-- The field acc, or fifo. -/
def mxAcc (t : Word) : BitVec 2 := t.extractLsb' 0 2
/-- The field v. -/
def mxV (t : Word) : BitVec 5 := t.extractLsb' 2 5
/-- The field row. -/
def mxRow (t : Word) : Nat := fieldN t.toNat 7 6
/-- The field to. -/
def mxTo (t : Word) : Fmt := Fmt.ofCode (t.extractLsb' 13 4)
/-- The field part. -/
def mxPart (t : Word) : Nat := fieldN t.toNat 17 3
/-- The field k. -/
def mxK (t : Word) : BitVec 5 := t.extractLsb' 20 5
/-- The field col. -/
def mxCol (t : Word) : Nat := fieldN t.toNat 25 8
/-- The number of columns of an ldscale (07 R242). -/
def mxN (t : Word) : Nat := if fieldN t.toNat 33 8 = 0 then 256 else fieldN t.toNat 33 8

/-! ### Checks at issue (07 R236, R238, R239, R242) -/

/-- The tile that a command names. -/
def mxTile : MxOp → Bool
  | .mma | .mmaz | .zero | .rdacc | .wracc => true
  | _ => false

/-- A format that rdacc accepts, with its part (07 R243). -/
def rdaccFits (f : Fmt) (part : Nat) : Bool :=
  match f with
  | .bytes | .int32 | .fp32 => true
  | f => packFits f part

/-- Every field that the command uses holds a value that it accepts (07 R236, R243 to R245). -/
def mxFields (op : MxOp) (t : Word) : Bool :=
  match op with
  | .rdacc => mxRow t != 63 && rdaccFits (mxTo t) (mxPart t)
  | .wracc => mxRow t != 63
  | .ffl => mxAcc t != 0
  | _ => true

/-- The checks of every command but cfg (07 R236). -/
def mxErr (op : MxOp) (x : Trig) : Option Err :=
  firstErr [
    require (x.t.extractLsb' 41 23 == 0#23 && mxFields op x.t) ⟨0x12, x.t, 0⟩,
    require (!(mxTile op && x.at_.taway.getLsbD (mxAcc x.t).toNat)) ⟨0x15, 31, (mxAcc x.t).setWidth 64⟩,
    match op with
    | .rdacc | .wracc => x.at_.absentErr [mxV x.t]
    | _ => none]

/-- The check of cfg (07 R238). -/
def mxCfgErr (x : Trig) : Option Err :=
  let c : BitVec 41 := x.t.setWidth 41
  require (x.t.extractLsb' 41 23 == 0#23 && mxPair (cfgA c) (cfgB c) (cfgInt c)) ⟨0x12, x.t, 0⟩

/-- The offset of an ldscale. -/
def ldscaleOff (x : Trig) : Nat := fieldN x.o.toNat 0 40

/-- The checks of ldscale (07 R242). -/
def ldscaleErr (s : State) (x : Trig) : Option Err :=
  let k := mxK x.t
  let off := ldscaleOff x
  let e (cause : BitVec 8) : Err := ⟨cause, x.o, kNum k⟩
  match s.localCapErr x.c (x.at_.rk k) k rightR with
  | some e => some e
  | none => match (x.at_.rk k).cap?.bind s.descOf with
    | none => some ⟨0x10, kNum k, 0⟩
    | some d => firstErr [
        require (fieldN x.o.toNat 40 24 == 0 && decide (off + 64 * mxN x.t ≤ d.len)) (e 0x12),
        require (off % 64 == 0) (e 0x13),
        require (decide (x.at_.xb.toNat ≤ d.padOff + off)) (e 0x06)]

/-- The checks of a command, in order. -/
def mxCheck (op : MxOp) (s : State) (x : Trig) : Option Err :=
  match op with
  | .cfg => mxCfgErr x
  | .mma | .mmaz => firstErr [mxErr op x, require (!cfgNone x.at_.mx.icfg) ⟨0x12, x.at_.mx.icfg.setWidth 64, 0⟩]
  | .ldscale => match mxErr op x with
    | some e => some e
    | none => ldscaleErr s x
  | _ => mxErr op x

/-- A command of the matrix engine: it is queued (07 R235). -/
def trigMx (op : MxOp) : Trigger where
  check s x := mxCheck op s x
  perform s x :=
    let s := x.detach 0 (fun f => { f with
      ka := mxK x.t
      ca := if op = .ldscale then (x.at_.rk (mxK x.t)).cap? else none
      data := if op = .wracc then imageBytes (x.at_.rv (mxV x.t)) else [] }) s
    if op = .cfg then s.onCore x.c (fun c => { c with mx := { c.mx with icfg := x.t.setWidth 41 } }) else s
  detached _ _ := true
  touches _ x := match op, (x.at_.rk (mxK x.t)).cap? with
    | .ldscale, some cap => [⟨cap, false, ldscaleOff x, 64 * mxN x.t⟩]
    | _, _ => []

/-! ### Tiles and scales -/

/-- A tile. -/
def Mx.tile (m : Mx) (n : BitVec 2) : BitVec 131072 := m.acc[n.toNat]'(n.isLt)

/-- Replace a tile. -/
def Mx.setTile (m : Mx) (n : BitVec 2) (v : BitVec 131072) : Mx := { m with acc := m.acc.set n.toNat v (n.isLt) }

/-- Element (i, j) of a tile (07 R230). -/
def tileElem (v : BitVec 131072) (i j : Nat) : Nat := (v.extractLsb' (32 * (64 * i + j)) 32).toNat

/-- The two rows of a tile from `row` on, as a register image (07 R243, R244). -/
def tileRows (v : BitVec 131072) (row : Nat) : BitVec 4096 := v.extractLsb' (2048 * row) 4096

/-- A tile with two rows replaced (07 R244). -/
def setTileRows (v : BitVec 131072) (row : Nat) (x : BitVec 4096) : BitVec 131072 :=
  (v &&& ~~~((BitVec.allOnes 4096).setWidth 131072 <<< (2048 * row))) ||| (x.setWidth 131072 <<< (2048 * row))

/-- A byte of scale memory: column and byte within it (07 R229). -/
def Mx.scaleByte (m : Mx) (col i : Nat) : Nat := (imageByte m.scale (64 * (col % 256) + i)).toNat

/-- Bytes written into the scale columns from `col` on, from byte `at_` of the first (07 R242). -/
def Mx.putScales (m : Mx) (col at_ : Nat) (bs : List Byte) : Mx :=
  { m with scale := foldBytes (fun v i b => setImageByte v ((64 * col + i) % 16384) b) m.scale at_ bs }

/-! ### The queue (07 R235, R247) -/

/-- An operation of the matrix engine. -/
def mxOp? : Op → Option MxOp
  | .mx o => some o
  | _ => none

/-- The commands of a core that have not completed, oldest first (07 R229). -/
def State.mxQueue (s : State) (cn : Nat) : List Flight := 
  s.flights.filter (fun f => f.agent == cn && f.counted && !f.retry && (mxOp? f.op).isSome)

/-- The command's effects have been made, and it only has to complete (07 R235, R252). -/
def Flight.effectMade (f : Flight) : Bool := f.phase == .ready

/-- A command that writes the tile. -/
def mxWrites (n : BitVec 2) (f : Flight) : Bool :=
  mxAcc f.t == n && (match f.op with
    | .mx .mma | .mx .mmaz | .mx .zero | .mx .wracc => true
    | _ => false)

/-- The earlier commands let this one start: what a stat delivers may not reach `mx.r` before the scales of an earlier
rdacc (07 R235, R243, R245, R247). -/
def mxMayStart (before : List Flight) (f : Flight) : Bool :=
  before.all Flight.effectMade &&
    (match f.op with
      | .mx .rdacc | .mx .ffl => before.isEmpty
      | .mx .stat => !before.any (fun g => g.op == .mx .rdacc)
      | .mx .zero | .mx .wracc => !before.any (mxWrites (mxAcc f.t))
      | _ => true)

/-- The command that a core's engine may carry out next, with the earlier ones and the later ones. -/
def State.mxNext (s : State) (cn : Nat) : Option (List Flight × Flight × List Flight) :=
  let c := s.core cn
  let q := s.mxQueue cn
  let before := q.takeWhile (fun f => f.phase != .issued)
  match q.drop before.length with
  | f :: after =>
    if mxMayStart before f && decide (f.born + 3 ≤ c.cyc) && decide (c.mx.startAt ≤ c.cyc)
    then some (before, f, after) else none
  | [] => none

/-! ### Effects of the commands -/

/-- The 32-bit value of an accumulator as rdacc reads it (07 R243). -/
def accNum (int : Bool) (v : Nat) : Num := if int then Fmt.int32.decode v else decodeFp32 v

/-- One lane or element of rdacc, in the format `dst` with its group's scale (07 R243). -/
def rdaccElem (int : Bool) (dst : Fmt) (scale : Nat) (mode : BitVec 3) (sat : Bool) (v : Nat) : Nat :=
  let x := accNum int v
  match dst with
  | .bytes => v
  | .fp32 => if int then (roundFp32 x mode).bits else v
  | f => if int && f == .int32 then v
    else (convertNum (if int then .int32 else .fp32) f (if f.isMx then mxQuotient x scale else x) mode sat).bits

/-- The bits of v that an rdacc writes: all of it, or one block (07 R243). -/
def rdaccMask (t : Word) : BitVec 4096 :=
  let s := (mxTo t).size
  match mxTo t with
  | .bytes | .fp32 | .int32 => BitVec.allOnes 4096
  | _ => BitVec.ofNat 4096 ((2 ^ (128 * s) - 1) * 2 ^ (mxPart t * 128 * s))

/-- What an rdacc writes: the image of v under its mask, and mx.r for an MX format (07 R243). -/
def rdaccValue (int : Bool) (t : Word) (rm : BitVec 4) (rows : BitVec 4096) : BitVec 4096 × Option Word :=
  let dst := mxTo t
  let xs := (lanesOf rows).map BitVec.toNat
  let sc := (List.range 4).map (fun g => scaleOf dst (((xs.drop (32 * g)).take 32).map (accNum int)))
  let es := xs.zipIdx.map (fun p => rdaccElem int dst (sc.getD (p.2 / 32) 127) (rmMode rm) (rmSat rm) p.1)
  match dst with
  | .bytes | .fp32 | .int32 => (ofLanes es, none)
  | f => (BitVec.ofNat 4096 (packBits f.size es * 2 ^ (mxPart t * 128 * f.size)),
      if f.isMx then some (BitVec.ofNat 64 (packBits 8 sc)) else none)

/-- The word that stat delivers (07 R246). -/
def mxStatus (m : Mx) (queued : Nat) : Word :=
  (0#15 ++ m.ecfg.extractLsb' 40 1 ++ m.ecfg.extractLsb' 4 4 ++ m.ecfg.extractLsb' 0 4 ++ 0#1 ++ BitVec.ofNat 7 queued ++
    0#2 ++ BitVec.ofNat 14 m.fifoB.length ++ 0#2 ++ BitVec.ofNat 14 m.fifoA.length)

/-- A command's effect has been made; it completes `n` cycles from now at the earliest (07 R247). -/
def State.mxReady (s : State) (f : Flight) (n : Nat) (g : Flight → Flight) : State :=
  let cyc := (s.core f.agent).cyc
  s.onFlight f.agent f.seq (fun f => g { f with phase := .ready, earliest := cyc + n })

/-- The matrix engine of a core changed. -/
def State.onMx (s : State) (cn : Nat) (g : Mx → Mx) : State := s.onCore cn (fun c => { c with mx := g c.mx })

/-- An mma or mmaz starts: from KDONE when it is the interrupted one, else from the first k-vector, and an mmaz zeroes its
tile (07 R239, R252). -/
def Mx.startMma (m : Mx) (f : Flight) (cyc : Nat) : Mx :=
  if m.hvalid && m.hseq == f.seq then { m with hvalid := false, groupAt := cyc }
  else
    let m := { m with kdone := 0, stall := 0, groupAt := max cyc m.groupAt }
    if f.op = .mx .mmaz then m.setTile (mxAcc f.t) 0 else m

/-- The requests of an ldscale: 128 bytes each, through the core's own port (07 R242). -/
def State.ldscaleReqs (s : State) (f : Flight) : List Req :=
  match f.ca.bind (fun cap => (s.descOf cap).map (fun d => (cap, d))) with
  | none => []
  | some (cap, d) =>
    let off := fieldN f.o.toNat 0 40
    let n := 64 * mxN f.t
    (List.range ((n + 127) / 128)).map (fun i =>
      s.reqOf f 2 none cap d (off + 128 * i) (.read 0 (min 128 (n - 128 * i)) (128 * i)))

/-- The effect of a command when it is carried out (07 R235, R238 to R246). A stat completes and delivers 2 cycles after
that, as 07 R247 has it, where 07 R246 says "then" (log 123). -/
def State.mxEffect (s : State) (cn : Nat) (f : Flight) (queued : Nat) : State :=
  let c := s.core cn
  let n := mxAcc f.t
  match f.op with
  | .mx .cfg => (s.onMx cn (fun m => { m with ecfg := f.t.setWidth 41 })).mxReady f 0 id
  | .mx .zero => (s.onMx cn (·.setTile n 0)).mxReady f 2 id
  | .mx .ffl => (s.onMx cn (fun m => { m with
      fifoA := if n.getLsbD 0 then [] else m.fifoA
      fifoB := if n.getLsbD 1 then [] else m.fifoB })).mxReady f 0 id
  | .mx .stat => s.mxReady f 2 (fun f => { f with result := some (mxStatus c.mx queued) })
  | .mx .wracc => (s.onMx cn (fun m => m.setTile n (setTileRows (m.tile n) (mxRow f.t) (imageOf 4096 f.data)))).mxReady f 4 id
  | .mx .rdacc =>
    let v := rdaccValue (cfgInt c.mx.ecfg) f.t f.rm (tileRows (c.mx.tile n) (mxRow f.t))
    s.mxReady f 8 (fun f => { f with data := imageBytes v.1, result := v.2 })
  | .mx .ldscale =>
    let rs := s.ldscaleReqs f
    (s.onFlight cn f.seq (fun f => { f with phase := .active, open_ := rs.length })).sendAll rs
  | .mx _ => (s.onMx cn (·.startMma f c.cyc)).onFlight cn f.seq (fun f => { f with phase := .active })
  | _ => s

/-- MX_COMMAND_CARRY_OUT: the next command that may start is carried out (07 R235, R247). -/
def State.mxCarryOut (s : State) (cn : Nat) : State :=
  match s.mxNext cn with
  | none => s
  | some (_, f, after) =>
    (s.onMx cn (fun m => { m with startAt := (s.core cn).cyc + 1 })).mxEffect cn f after.length

/-! ### Groups (07 R231 to R234, R239) -/

/-- The mma or mmaz that applies groups. -/
def State.mxActive (s : State) (cn : Nat) : Option Flight :=
  (s.mxQueue cn).find? (fun f => f.phase == .active && (f.op == .mx .mma || f.op == .mx .mmaz))

/-- The k-vectors of the present group (07 R239). -/
def Mx.groupLen (m : Mx) : Nat :=
  min (mxGroupSize (cfgA m.ecfg) (cfgB m.ecfg)) (cfgK m.ecfg - m.kdone.toNat)

/-- The FIFO holds `n` whole k-vectors of a format (07 R232). -/
def holdsGroup (fifo : List Byte) (f : Fmt) (n : Nat) : Bool := decide (n * (8 * f.size) ≤ fifo.length)

/-- The 64 element streams of a group: stream i is element i of each of its k-vectors (07 R232). -/
def groupStreams (fifo : List Byte) (f : Fmt) (n : Nat) : List (List Num) :=
  let v := leNat (fifo.take (n * (8 * f.size)))
  (List.range 64).map (fun i => (List.range n).map (fun k => f.decode (fieldN v (64 * f.size * k + i * f.size) f.size)))

/-- The scale bytes of a group: 2^0 for formats without scales (07 R234). -/
def groupScales (m : Mx) (f : Fmt) (col : Nat) : List Nat :=
  (List.range 64).map (fun i => if f.isMx then m.scaleByte col i else 127)

/-- One element's sum of an INT8 group (03 R133). -/
def intGroup (acc : Nat) (a b : List Num) : Nat :=
  let x : Int := (List.zip a b).foldl (fun t p => t + p.1.atExp 0 * p.2.atExp 0) (BitVec.ofNat 32 acc).toInt
  (BitVec.ofInt 32 x).toNat

/-- The tile after a group (07 R239). -/
def groupTile (int : Bool) (v : BitVec 131072) (a b : List (List Num × Nat)) : BitVec 131072 :=
  BitVec.ofNat 131072 (packBits 32 (a.zipIdx.flatMap (fun (x, i) => b.zipIdx.map (fun (y, j) =>
    if int then intGroup (tileElem v i j) x.1 y.1 else groupSum (tileElem v i j) x.1 y.1 x.2 y.2))))

/-- The engine after a group of `n` k-vectors has been applied to a tile (07 R239). -/
def Mx.applyGroup (m : Mx) (tile : BitVec 2) (n cyc : Nat) : Mx :=
  let fa := cfgA m.ecfg
  let fb := cfgB m.ecfg
  let g := m.kdone.toNat / mxGroupSize fa fb
  let a := List.zip (groupStreams m.fifoA fa n) (groupScales m fa (cfgSa m.ecfg + g))
  let b := List.zip (groupStreams m.fifoB fb n) (groupScales m fb (cfgSb m.ecfg + g))
  { m.setTile tile (groupTile (cfgInt m.ecfg) (m.tile tile) a b) with
    fifoA := m.fifoA.drop (n * (8 * fa.size))
    fifoB := m.fifoB.drop (n * (8 * fb.size))
    kdone := m.kdone + BitVec.ofNat 17 n
    stall := 0
    groupAt := cyc + 1 }

/-- The present group can be applied: it is whole in both FIFOs, and its k-vectors have been taken at the rate of its
class (07 R233, R239). -/
def Core.mxGroupReady (c : Core) : Bool :=
  let m := c.mx
  let fa := cfgA m.ecfg
  let fb := cfgB m.ecfg
  let n := m.groupLen
  let r := mxRate fa fb
  holdsGroup m.fifoA fa n && holdsGroup m.fifoB fb n && decide (m.groupAt + (n + r - 1) / r ≤ c.cyc + 1)

/-- Which FIFOs lack k-vectors of the present group (07 R240). -/
def Mx.lacks (m : Mx) : Word :=
  let n := m.groupLen
  (0#62 ++ BitVec.ofBool (!holdsGroup m.fifoB (cfgB m.ecfg) n) ++ BitVec.ofBool (!holdsGroup m.fifoA (cfgA m.ecfg) n))

/-- A command is reading or writing a tile in this cycle: an mma that has a whole group to apply, or one whose writes end
with its completion (07 R249). -/
def State.tileInUse (s : State) (cn tile : Nat) : Bool :=
  let c := s.core cn
  (s.mxQueue cn).any (fun f => (mxAcc f.t).toNat == tile && (match f.op, f.phase with
    | .mx .mma, .active | .mx .mmaz, .active => c.mx.lacks == 0
    | .mx .mma, .ready | .mx .mmaz, .ready | .mx .zero, .ready | .mx .wracc, .ready => decide (c.cyc < f.earliest)
    | _, _ => false))

/-- The read of an ldscale has been answered: its columns are written, unless an earlier read has failed, and the command
completes no earlier than 2 cycles later (07 R242, R247). -/
def State.takeScales (s : State) (f : Flight) (at_ : Nat) (bs : List Byte) : State :=
  if f.fault.isSome || f.retry || !f.counted then s
  else (s.onMx f.agent (·.putScales (mxCol f.t) at_ bs)).onFlight f.agent f.seq (fun g => { g with
    earliest := max g.earliest ((s.core f.agent).cyc + 2) })

/-- MX_GROUP_APPLY: one group is applied; after the last, the command completes in 12 cycles (07 R239, R247). -/
def State.mxGroupStep (s : State) (cn : Nat) : State :=
  let c := s.core cn
  match s.mxActive cn with
  | none => s
  | some f =>
    if c.mxGroupReady then
      let n := c.mx.groupLen
      let last := decide (cfgK c.mx.ecfg ≤ c.mx.kdone.toNat + n)
      let s := s.onMx cn (fun m => m.applyGroup (mxAcc f.t) n c.cyc)
      if last then s.mxReady f 12 id else s
    else s

/-- The count of 07 R240: cycles waited for the present group. -/
def Core.mxStall (c : Core) : Nat := c.mx.stall.toNat + (c.cyc - c.mx.groupAt)

/-- The active command has waited 2^20 cycles for a group that is not whole (07 R240). -/
def State.mxStalled (s : State) (cn : Nat) : Bool :=
  let c := s.core cn
  (s.mxActive cn).isSome && c.mx.lacks != 0 && decide (2 ^ 20 ≤ c.mxStall)

/-- MX_FIFO_STALL: the command ends with late fault 0x26 (07 R240). -/
def State.mxStallStep (s : State) (cn : Nat) : State :=
  let c := s.core cn
  match s.mxActive cn with
  | none => s
  | some f => if s.mxStalled cn then s.fail cn f.seq 0x26 (c.mx.kdone.setWidth 64) c.mx.lacks else s

/-! ### Meanings -/

/-- MX_COMMAND_CARRY_OUT on core `focus.core` (07 R235). -/
def execMxCommandCarryOut (s : State) : Host.Outcome State Fault Refusal := .next (s.mxCarryOut s.focus.core)

/-- MX_GROUP_APPLY on core `focus.core` (07 R239). -/
def execMxGroupApply (s : State) : Host.Outcome State Fault Refusal := .next (s.mxGroupStep s.focus.core)

/-- MX_FIFO_STALL on core `focus.core` (07 R240). -/
def execMxFifoStall (s : State) : Host.Outcome State Fault Refusal := .next (s.mxStallStep s.focus.core)

/-- The word `-> mx.t.cfg` (07 R238). -/
def execMxCfg (m : Arg) (s : State) : Host.Outcome State Fault Refusal :=
  .next (issueOne (.mx .cfg) (trigMx .cfg) m s)

/-- The word `-> mx.t.mma` (07 R239). -/
def execMxMma (m : Arg) (s : State) : Host.Outcome State Fault Refusal :=
  .next (issueOne (.mx .mma) (trigMx .mma) m s)

/-- The word `-> mx.t.mmaz` (07 R239). -/
def execMxMmaz (m : Arg) (s : State) : Host.Outcome State Fault Refusal :=
  .next (issueOne (.mx .mmaz) (trigMx .mmaz) m s)

/-- The word `-> mx.t.zero` (07 R241). -/
def execMxZero (m : Arg) (s : State) : Host.Outcome State Fault Refusal :=
  .next (issueOne (.mx .zero) (trigMx .zero) m s)

/-- The word `-> mx.t.ldscale` (07 R242). -/
def execMxLdscale (m : Arg) (s : State) : Host.Outcome State Fault Refusal :=
  .next (issueOne (.mx .ldscale) (trigMx .ldscale) m s)

/-- The word `-> mx.t.rdacc` (07 R243). -/
def execMxRdacc (m : Arg) (s : State) : Host.Outcome State Fault Refusal :=
  .next (issueOne (.mx .rdacc) (trigMx .rdacc) m s)

/-- The word `-> mx.t.wracc` (07 R244). -/
def execMxWracc (m : Arg) (s : State) : Host.Outcome State Fault Refusal :=
  .next (issueOne (.mx .wracc) (trigMx .wracc) m s)

/-- The word `-> mx.t.ffl` (07 R245). -/
def execMxFfl (m : Arg) (s : State) : Host.Outcome State Fault Refusal :=
  .next (issueOne (.mx .ffl) (trigMx .ffl) m s)

/-- The word `-> mx.t.stat` (07 R246). -/
def execMxStat (m : Arg) (s : State) : Host.Outcome State Fault Refusal :=
  .next (issueOne (.mx .stat) (trigMx .stat) m s)

end Sys2Proof.Machine
end

