-- ==== Sys2Proof/Machine/Delivery.lean ====
section
/-! DEFINITION. What comes about in a core between its words: results of fixed latency (02 R86 to R88), the Local path
(01 R56, R57), the release of sbwait and drain (02 R96; 04 R142), local traps (04 R153) and late faults (04 R159). -/

namespace Sys2Proof.Machine

/-! ### Results of fixed latency (02 R87, R88; 06 R207, R211, R212) -/

/-- A place that a result is written to. -/
inductive ResultPlace where
  | port (p : Nat)
  | vreg (r : BitVec 5)
  | mreg (r : BitVec 3)
  deriving DecidableEq, Repr

/-- The place that decides whether a result is lost; its flags go with it. -/
def Result.main : Result → Option ResultPlace
  | .none => Option.none
  | .port p _ => some (.port p)
  | .product _ _ => some (.port (portIdx .imR))
  | .scalar _ _ => some (.port (portIdx .fsR))
  | .vector vd _ _ _ _ => some (.vreg vd)
  | .lanes md _ _ _ => some (.mreg md)
  | .reduced _ _ => some (.port vxR)
  | .flags _ => Option.none
  | .load _ _ _ => Option.none

/-- A second place, `vx.r`, beside the main one. -/
def Result.side : Result → Option Word
  | .vector _ _ _ _ r => r
  | .lanes _ _ _ r => r
  | _ => Option.none

/-- Every place of a result. -/
def Result.places (r : Result) : List ResultPlace :=
  r.main.toList ++ (if r.side.isSome then [.port vxR] else [])

/-- Bits of a vector register written under a mask. -/
def Core.mergeV (c : Core) (vd : BitVec 5) (mask val : BitVec 4096) : Core :=
  c.setV vd ((c.rv vd &&& ~~~mask) ||| (val &&& mask))

/-- The main part of a result is written, with its flags. -/
def Core.writeMain (c : Core) : Result → Core
  | .none => c
  | .port p v => c.setPort p v
  | .product r h => (c.setPort (portIdx .imR) r).setPort (portIdx .imH) h
  | .scalar r fl => (c.setPort (portIdx .fsR) r).raiseS fl
  | .vector vd mask val fl _ => (c.mergeV vd mask val).raiseV fl
  | .lanes md val fl _ => (c.setMask md val).raiseV fl
  | .reduced r fl => (c.setPort vxR r).raiseV fl
  | .flags fl => c.raiseV fl
  | .load _ _ _ => c

/-- One result is delivered but for the places that a later-triggered one due in the same cycle takes (02 R88). -/
def Core.deliverOne (c : Core) (taken : List ResultPlace) (r : Result) : Core :=
  let c := if r.main.any (fun p => taken.contains p) then c else c.writeMain r
  match r.side with
  | some v => if taken.contains (.port vxR) then c else c.setPort vxR v
  | none => c

/-- Results due in one cycle, in the order of their triggers. -/
def Core.deliverAll (c : Core) : List Stage → Core
  | [] => c
  | st :: rest =>
    let c := c.deliverOne (rest.flatMap (fun x => x.res.places)) st.res
    Core.deliverAll (c.sbDec st.sb) rest

/-- A stage whose result is due. -/
def Stage.due (st : Stage) : Bool :=
  st.left == 0 && (match st.res with
    | .load _ _ _ => false
    | _ => true)

/-- Every result that is due is delivered (02 R87). -/
def Core.deliverDue (c : Core) : Core :=
  Core.deliverAll { c with stages := c.stages.filter (fun st => !st.due) } (c.stages.filter Stage.due)

/-- RESULT_DELIVERY on a core (02 R87, R88). -/
def State.deliverDue (s : State) (cn : Nat) : State := s.onCore cn Core.deliverDue

/-! ### The Local path (01 R56, R57; 05 R177, R180, R182; 06 R223, R225) -/

/-- The element of a lane when it is read: its 32 bits and its flags. -/
def readLane (rd : Nat → Byte) (mode : BitVec 4) (l : LaneLoad) : Rounded :=
  let bits := bitsAt rd l.bitAddr (laneSize l.fmt)
  let scale := match l.scaleAddr with
    | some a => (rd a).toNat
    | none => 127
  toLane l.fmt bits scale (rmMode mode)

/-- The element of ldf when it is read; that of a bank of FP32 is unchanged (03 R121; 05 R182; log 29). -/
def readElem (rd : Nat → Byte) (mode : BitVec 4) (l : LaneLoad) : Nat :=
  let bits := bitsAt rd l.bitAddr l.fmt.size
  match l.fmt with
  | .bytes => bits
  | .fp32 => bits
  | f =>
    let scale := match l.scaleAddr with
      | some a => (rd a).toNat
      | none => 127
    (roundFp32 (elemNum f bits scale) (rmMode mode)).bits

/-- What a load delivers, from the bytes that it sees (05 R180, R182; 06 R223). -/
def LoadKind.value (k : LoadKind) (rd : Nat → Byte) (mode : BitVec 4) : Result :=
  match k with
  | .bytes a n signed =>
    let v := leNat ((List.range n).map (fun i => rd (a + i)))
    .port (portIdx .lsR) (if signed then signExt (8 * n) v else BitVec.ofNat 64 v)
  | .elem l => .port (portIdx .lsR) (BitVec.ofNat 64 (readElem rd mode l))
  | .lanes vd ls zeroed =>
    let rs := ls.map (fun l => (l.lane, readLane rd mode l))
    let act : BitVec 128 := ls.foldl (fun m l => m ||| (1#128 <<< l.lane)) 0
    let val := rs.foldl (fun v p => v ||| (BitVec.ofNat 4096 (p.2.bits % 2 ^ 32) <<< (32 * p.1))) (0 : BitVec 4096)
    .vector vd (laneBits (act ||| zeroed)) val (orFlags (rs.map (fun p => p.2.flags))) none

/-- The addresses that a load reads: bytes of elements and scale bytes. -/
def LoadKind.addrs : LoadKind → List Nat
  | .bytes a _ _ => [a]
  | .elem l => l.bytes.1 :: l.scaleAddr.toList
  | .lanes _ ls _ => ls.flatMap (fun l => [l.bytes.1, l.bytes.1 + l.bytes.2 - 1] ++ l.scaleAddr.toList)

/-- Banks of core `cn`'s scratchpad that accesses at some addresses keep busy (05 R177); accesses of cluster registers keep
none. -/
def Core.markBusy (c : Core) (cn : Nat) (as : List Nat) : Core :=
  { c with busy := as.foldl (fun b a => match placeOf a with
      | .pad k o => if k = cn then b ||| (1#16 <<< bankAt o) else b
      | _ => b) c.busy }

/-- A due load is performed: its bytes are read, and its value waits to be delivered in the same cycle. -/
def State.performLoad (s : State) (c : Core) (st : Stage) : Stage :=
  match st.res with
  | .load k mode veil =>
    if st.left = 0 then { st with res := k.value (s.loadByte c st.order veil) mode } else st
  | _ => st

/-- The addresses that the due accesses of a core touch. -/
def Core.dueAddrs (c : Core) : List Nat :=
  (c.stores.filter (fun x => x.left == 0)).flatMap (fun x => x.writes.map (·.addr)) ++
    c.stages.flatMap (fun st => match st.res with
      | .load k _ _ => if st.left = 0 then k.addrs else []
      | _ => [])

/-- A Local-path access is due. -/
def Core.localDue (c : Core) : Bool :=
  c.stores.any (fun x => x.left == 0) || c.stages.any (fun st => st.left == 0 && !st.due)

/-- LOCAL_PATH_PERFORM: due stores in program order, then due loads, each of which leaves out the stores later than it
(01 R56, R57). -/
def State.performLocal (s : State) (cn : Nat) : State :=
  let as := (s.core cn).dueAddrs
  let now := (s.core cn).stores.filter (fun x => x.left == 0)
  let s := s.onCore cn (fun c => { c with stores := c.stores.filter (fun x => x.left != 0) })
  let old := s.poison
  let s := (s.performStores cn now).recountPoison old
  let c := s.core cn
  s.onCore cn (fun k => ({ k with stages := c.stages.map (s.performLoad c) } : Core).markBusy cn as)

/-! ### sbwait and drain (02 R96; 04 R142) -/

/-- The counter that sbwait waits for is at or below its bound. -/
def Core.sbwaitDone (c : Core) : Bool :=
  match c.hold with
  | .sbwait n bound => decide (c.rsb n ≤ bound)
  | _ => false

/-- Every operation of fixed latency and every Local-path access before the drain is done. -/
def Core.drainDone (c : Core) : Bool :=
  match c.hold with
  | .drain order => c.stages.all (fun st => decide (order ≤ st.order)) && c.stores.all (fun x => decide (order ≤ x.order))
  | _ => false

/-- The next word may issue again. -/
def Core.release (c : Core) (done : Bool) : Core := if done then { c with hold := .none } else c

/-! ### Local traps and late faults (04 R153, R154, R159, R161) -/

/-- LOCAL_TRAP_ENTRY: a trap that is due is entered, unless a stop comes first (04 R153, R154, R161). -/
def Core.takeTrap (c : Core) : Core :=
  match c.mode with
  | .trapDue t => if c.stops.isEmpty then c.enterTrap t else c
  | _ => c

/-- The core runs a continuation that a late fault may stop. -/
def Core.interruptible (c : Core) : Bool :=
  match c.mode with
  | .run | .trapDue _ | .suspending _ _ => true
  | _ => false

/-- LATE_FAULT_TAKEN: a recorded stop is taken at a word boundary, with the next word as its PC; a local trap due at the
same boundary is kept for the resumption, and a suspension that waits for its operations is given up (04 R159, R161; 05
R190, R195; 07 R240; log 120). -/
def Core.takeStop (c : Core) : Core :=
  match c.stops with
  | [] => c
  | d :: _ =>
    if c.interruptible then
      let owed := match c.mode with
        | .trapDue t => some t
        | _ => c.owedTrap
      { c with stops := [], owedTrap := owed, hold := .none, mode := .stopping { d with pc := c.pc } }
    else c

/-! ### Meanings -/

/-- RESULT_DELIVERY on core `focus.core` (02 R87). -/
def execResultDelivery (s : State) : Host.Outcome State Fault Refusal := .next (s.deliverDue s.focus.core)

/-- LOCAL_PATH_PERFORM on core `focus.core` (01 R56, R57). -/
def execLocalPathPerform (s : State) : Host.Outcome State Fault Refusal :=
  .next ((s.padError s.focus.core s.focus.ecc s.focus.addr).performLocal s.focus.core)

/-- SBWAIT_RELEASE on core `focus.core` (02 R96; 04 R142). -/
def execSbwaitRelease (s : State) : Host.Outcome State Fault Refusal :=
  .next (s.onCore s.focus.core (fun c => c.release c.sbwaitDone))

/-- DRAIN_RELEASE on core `focus.core` (04 R142). -/
def execDrainRelease (s : State) : Host.Outcome State Fault Refusal :=
  .next (s.onCore s.focus.core (fun c => c.release c.drainDone))

/-- LOCAL_TRAP_ENTRY on core `focus.core` (04 R153, R154). -/
def execLocalTrapEntry (s : State) : Host.Outcome State Fault Refusal :=
  .next (s.onCore s.focus.core Core.takeTrap)

/-- LATE_FAULT_TAKEN on core `focus.core` (04 R159). -/
def execLateFaultTaken (s : State) : Host.Outcome State Fault Refusal :=
  .next (s.onCore s.focus.core Core.takeStop)

end Sys2Proof.Machine
end

