-- ==== Sys2Proof/Machine/Handover.lean ====
section
/-! DEFINITION. The `cap` unit: checks at issue and what a trigger does (08 R254 to R257, R263 to R274, R277 to R280,
R288, R291 to R295). -/

namespace Sys2Proof.Machine

/-! ### Operands (08 R266) -/

/-- kd. -/
def capKd (t : Word) : BitVec 5 := t.extractLsb' 0 5
/-- kd of recv. -/
def recvKd (t : Word) : BitVec 5 := t.extractLsb' 16 5
/-- n of split. -/
def splitN (t : Word) : BitVec 16 := t.extractLsb' 16 16
/-- G of split. -/
def splitG (t : Word) : Bool := t.getLsbD 5
/-- NOTIFY of split. -/
def splitNotify (t : Word) : Bool := t.getLsbD 6
/-- MERGE of join. -/
def joinMerge (t : Word) : Bool := t.getLsbD 5
/-- The length of alloc. -/
def allocLen (o : Word) : Nat := fieldN o.toNat 0 41
/-- The offset of cut. -/
def cutOff (o : Word) : Nat := fieldN o.toNat 0 40

/-- The bits of t that an operation uses (08 R266). -/
def capTBits : CapOp → Word
  | .send => 0x3FFF1FFFF
  | .recv => 0x1F03FF
  | .split => 0x1FFFFFFFF007F
  | .join => 0x3F
  | .drop => 0
  | .cut => 0x1F
  | .fuse => 0x1F
  | .alloc => 0x3F7F1F
  | .free => 0
  | .info => 0x3
  | .narrow => 0x3F
  | .sub => 0xFFFFFFFFFF
  | .unsub => 0xFFFFFFFFFF
  | .mcast => 0xFFFF
  | .bindmb => 0x1F03FF
  | .closemb => 0x3FF
  | .peek => 0x3FF

/-- The bits of `cap.o` that an operation uses (08 R266). -/
def capOBits : CapOp → Word
  | .send => 0xFFFFFFFF
  | .recv => 0xFFFFFFFFFF
  | .cut => 0xFFFFFFFFFF
  | .alloc => 0x1FFFFFFFFFF
  | .sub => 0x3FF
  | .unsub => 0x3FF
  | .mcast => 0xFFFFFFFF
  | _ => 0

/-- The operation reads k at issue (08 R264, R266). -/
def capReadsK : CapOp → Bool
  | .send | .split | .join | .drop | .cut | .fuse | .free | .narrow | .mcast => true
  | _ => false

/-- The register that the operation's destination check concerns (08 R256). -/
def capDest (op : CapOp) (t : Word) : Option (BitVec 5) :=
  match op with
  | .recv => some (recvKd t)
  | .split | .cut | .alloc => some (capKd t)
  | _ => none

/-! ### Checks at issue (08 R264) -/

/-- Check 1, as far as it needs no capability: unused bits are zero and every field holds an accepted value. -/
def capFieldsOk (op : CapOp) (t o : Word) : Bool :=
  t &&& ~~~capTBits op == 0 && o &&& ~~~capOBits op == 0 &&
    (match op with
      | .split => splitN t != 0
      | .cut => cutOff o != 0
      | .alloc => decide (fieldN t.toNat 8 3 ≤ 2) && fieldN t.toNat 16 6 != 0 && !t.getLsbD 20 &&
          decide (32 ≤ allocLen o) && decide (allocLen o ≤ 2 ^ 40) &&
          (fieldN t.toNat 8 3 != 0 || decide (allocLen o ≤ 0x80000))
      | .bindmb => decide (fieldN t.toNat 16 5 ≤ 16)
      | _ => true)

/-- The rights that an operation needs of k; of a fraction or a grant a split needs S alone (08 R272, R295). -/
def capNeeds (op : CapOp) (t : Word) (lent : Bool) : BitVec 6 :=
  match op with
  | .split => if lent then rightS else rightS ||| (if splitG t then rightA else rightR)
  | .mcast => rightR ||| rightS ||| rightM
  | _ => 0

/-- Splits of a buffer that have not changed its descriptor yet have lent so many more (08 R260). -/
def State.lendingCount (s : State) (c : Cap) : Nat :=
  ((s.flights.filter (fun f => f.op == .cap .split && f.phase != .ready &&
    (f.ca.map (fun x => x.same c && x.owns)).getD false)).map (fun f => (splitN f.t).toNat)).sum

/-- The ranges of check 1 that depend on the capability: counts of a split, the place of a cut, the halves of a fuse
(08 R272, R277, R278). -/
def capRangeOk (op : CapOp) (s : State) (x : Trig) (cap : Cap) (d : Desc) : Bool :=
  match op with
  | .split =>
    if cap.owns then decide (d.count.toNat + s.lendingCount cap + (splitN x.t).toNat ≤ 65535)
    else decide ((splitN x.t).toNat < cap.count.toNat) && !splitNotify x.t
  | .cut => decide (cutOff x.o < d.len)
  | .fuse => match (x.at_.rk (capKd x.t)).cap? with
    | some cb => match s.descOf cb with
      | some e => cap.kind == .whole && cb.kind == .whole && cap.rights == cb.rights && cap.part == cb.part &&
          cap.desc != cb.desc && d.cls == e.cls && d.fmt == e.fmt && d.pin == e.pin &&
          decide (d.base.toNat + d.len = e.base.toNat)
      | none => false
    | none => false
  | _ => true

/-- k is in a state that the operation accepts, but for the lent states of check 5 (08 R266, R272 to R278, R295). -/
def capStateOk (op : CapOp) (x : Trig) (cap : Cap) (d : Desc) : Bool :=
  match op with
  | .split => match cap.kind with
    | .fraction => !splitG x.t
    | .grant => splitG x.t
    | _ => true
  | .join => !cap.owns
  | .drop => d.cls != 5
  | .cut => cap.owns
  | .free => cap.owns && !d.pin && d.cls != 5
  | .mcast => cap.owns
  | _ => true

/-- Check 5: the operation's own rule on lent fractions and grants (08 R269, R272, R274, R277, R295). -/
def capLentOk (op : CapOp) (x : Trig) (cap : Cap) : Bool :=
  match op with
  | .split => !(cap.kind == .resFractions && splitG x.t) && !(cap.kind == .resGrants && !splitG x.t)
  | .drop => !cap.residual
  | .cut => !cap.residual
  | .free => !cap.residual
  | .mcast => cap.kind != .resGrants
  | _ => true

/-- The check of a destination: empty, and not one of the registers kept for windows (08 R256, R298); a service or kernel
core has slots 0 to 15 (13 R478). -/
def capDestErr (op : CapOp) (x : Trig) (need : BitVec 6) : Option Err :=
  (capDest op x.t).bind (fun kd => firstErr [
    require (isCompute x.c || decide (kd.toNat < 16)) ⟨0x10, kNum kd, 0⟩,
    require (x.at_.rk kd == .empty && !(isCompute x.c && decide (30 ≤ kd.toNat)))
      ⟨0x11, kNum kd, 0x40 ||| need.setWidth 64⟩])

/-- The check of join with MERGE: kd holds the same kind of capability for the same buffer (08 R273). -/
def joinErr (x : Trig) (cap : Cap) : Option Err :=
  if joinMerge x.t then
    let ok := match x.at_.rk (capKd x.t) with
      | .cap c => c.same cap && c.kind == cap.kind && capKd x.t != x.k
      | _ => false
    require ok ⟨0x11, kNum (capKd x.t), 0x80⟩
  else none

/-- The checks of a `cap` trigger, in order (08 R264). -/
def capErr (op : CapOp) (s : State) (x : Trig) : Option Err :=
  let bad : Err := ⟨0x12, x.t, 0⟩
  let none_ : Err := ⟨0x10, kNum x.k, (capNeeds op x.t false).setWidth 64⟩
  if !capFieldsOk op x.t x.o then some bad
  else if !capReadsK op then
    firstErr [require (op != .info || isCompute x.c || decide (x.k.toNat < 16)) ⟨0x10, kNum x.k, 0⟩, capDestErr op x 0,
      require (op != .alloc || allocLen x.o % 32 == 0) ⟨0x13, x.o, 0⟩]
  else match (x.at_.rk x.k).cap? with
    | none => some none_
    | some cap => match s.descOf cap with
      | none => some none_
      | some d =>
        let need := capNeeds op x.t (!cap.owns)
        let state := capStateOk op x cap d
        firstErr [
          require (capRangeOk op s x cap d) bad,
          require (cap.has need && state) ⟨0x11, kNum x.k, need.setWidth 64 ||| (if state then 0 else 0x80)⟩,
          (if op = .join then joinErr x cap else none),
          capDestErr op x need,
          require (op != .cut || cutOff x.o % 32 == 0) ⟨0x13, x.o, kNum x.k⟩,
          require (capLentOk op x cap) ⟨0x16, kNum x.k, need.setWidth 64⟩]

/-! ### What a trigger does (08 R256, R272 to R279) -/

/-- Word `n` of what `cap.t.info` reports of a capability, or of an empty or pending register (08 R270). -/
def State.infoOf (s : State) (c : Option Cap) (n : Nat) : Word :=
  match c with
  | none => if n = 0 then 0b111 <<< 47 else 0
  | some cap => match s.descOf cap with
    | none => if n = 0 then 0b111 <<< 47 else 0
    | some d =>
      let kind : BitVec 3 := match cap.kind with
        | .whole => 0
        | .resFractions => 1
        | .resGrants => 2
        | .fraction => 3
        | .grant => 4
      match n with
      | 0 => 1#1 ++ 0#7 ++ d.fmt ++ BitVec.ofBool (d.pois || decide (6 ≤ d.cls.toNat)) ++ BitVec.ofBool d.pin ++ kind ++ d.cls ++ cap.rights ++
          0#3 ++ d.lenm1
      | 1 => cap.desc ++ 0#16 ++ (match cap.kind with
          | .whole => 0
          | .resFractions | .resGrants => d.count
          | _ => cap.count)
      | 2 => d.base
      | _ => if d.cls = 4 then d.homedev.setWidth 64 else 0

/-- `cap.t.info`; a pending register has a state code of its own (08 R254, R270). -/
def infoWord (s : State) (x : Trig) : Word :=
  let n := fieldN x.t.toNat 0 2
  match x.at_.rk x.k with
  | .pending => if n = 0 then 0b101 <<< 47 else 0
  | k => s.infoOf k.cap? n

/-- The message's destination: mailbox id, device, and host (08 R266). -/
def sendMbox (t : Word) : BitVec 17 := t.extractLsb' 0 17
/-- The device of a send with XDEV. -/
def sendDev (t : Word) : Option (BitVec 12) := if t.getLsbD 32 then some (t.extractLsb' 20 12) else none
/-- HOST of a send. -/
def sendHost (t : Word) : Bool := t.getLsbD 33

/-- Register changes of a trigger that takes the capability away (08 R274, R279, R298). -/
def takeK (x : Trig) (cap : Cap) (left : KReg) (s : State) : State := (s.setAgentK x.c x.k left).windowAway cap

/-- The operation as its trigger leaves it: k and kd, what they held, and where it stands (08 R257). -/
def capFlight (x : Trig) (kd : BitVec 5) (ph : Phase) (f : Flight) : Flight :=
  { f with ka := x.k, ca := (x.at_.rk x.k).cap?, kb := kd, cb := if x.op = .cap .fuse then (x.at_.rk kd).cap? else none, phase := ph }

/-- A close marker travels to the unit that applies a buffer's packets (09 R333). -/
def State.sendMarker (s : State) (a : Nat) (cap : Cap) : State :=
  match s.descOf cap with
  | none => s
  | some d => s.send {
      src := .marker a, path := 2, part := cap.part, desc := cap.desc, cls := d.cls, off := 0, va := d.base.toNat, xpart := s.partOf a,
      rm := 0, xRead := false, xWrite := false, dev := s.dev, core := agentCore a, nc := false, home := 0, kreg := none,
      acc := .batchClose d.base.toNat false }

/-- A core's batch-mode entry for a buffer is given up: the marker goes first (09 R333). -/
def State.leaveBatch (s : State) (a : Nat) (cap : Cap) : State :=
  if isCompute a && (s.core a).batches.contains (cap.part, cap.desc) then
    (s.sendMarker a cap).onCore a (fun c => { c with batches := c.batches.filter (· != (cap.part, cap.desc)) })
  else s

/-- Split: the parent's register, and kd pending (08 R272). -/
def splitPerform (x : Trig) (cap : Cap) (s : State) : State :=
  let s := if cap.owns then takeK x cap (.cap { cap with kind := if splitG x.t then .resGrants else .resFractions }) s
    else s.setAgentK x.c x.k (.cap { cap with count := cap.count - splitN x.t })
  s.setAgentK x.c (capKd x.t) .pending

/-- Join with MERGE: k's count moves into kd (08 R273). -/
def mergePerform (x : Trig) (cap : Cap) (s : State) : State :=
  let s := s.setAgentK x.c x.k .empty
  match x.at_.rk (capKd x.t) with
  | .cap c => s.setAgentK x.c (capKd x.t) (.cap { c with count := c.count + cap.count })
  | _ => s

/-- What an operation on a capability that is held does in the cycle of its trigger (08 R257, R271 to R279, R295). -/
def capPerformHeld (op : CapOp) (x : Trig) (cap : Cap) (s : State) : State :=
  let kd := capKd x.t
  let go (n : Nat) (ph : Phase) := x.detach n (capFlight x kd ph)
  match op with
  | .send => takeK x cap .empty (go 0 .drain s)
  | .split => splitPerform x cap (go 0 .drain s)
  | .join =>
    if joinMerge x.t then mergePerform x cap (go 4 .ready s)
    else (s.setAgentK x.c x.k .empty).leaveBatch x.c cap |> go 0 .drain
  | .drop => (s.setAgentK x.c x.k .empty).leaveBatch x.c cap |> go 0 .drain
  | .cut => ((go 0 .drain s).setAgentK x.c x.k .pending).setAgentK x.c kd .pending
  | .fuse => ((go 0 .drain s).setAgentK x.c x.k .pending).setAgentK x.c kd .pending
  | .free => (go 0 .drain s).setAgentK x.c x.k .empty
  | .narrow =>
    let s := s.setAgentK x.c x.k (.cap { cap with rights := cap.rights &&& x.t.extractLsb' 0 6 })
    let f := capFlight x kd .ready (x.flight s 0)
    (s.launch f).finish f
  | .mcast => takeK x cap (.cap { cap with kind := .resFractions }) (go 0 .drain s)
  | _ => s

/-- Mesh steps of a join packet to the source and back, in cycles (08 R267). -/
def subCycles (x : Trig) : Nat :=
  if x.t.getLsbD 39 then 8 * routeHops (agentCluster x.c) 128
  else 8 * routeHops (agentCluster x.c) (fieldN x.t.toNat 16 11 / 16)

/-- What a `cap` trigger does (08 R254 to R295). -/
def capPerform (op : CapOp) (s : State) (x : Trig) : State :=
  match op with
  | .recv => (x.detach 20 (capFlight x (recvKd x.t) .change) s).setAgentK x.c (recvKd x.t) .pending
  | .alloc => (x.detach 20 (capFlight x (capKd x.t) .change) s).setAgentK x.c (capKd x.t) .pending
  | .info => x.detach 4 (fun f => { f with phase := .ready, result := some (infoWord s x) }) s
  | .bindmb | .closemb | .peek => x.detach 20 (capFlight x 0 .change) s
  | .sub | .unsub => x.detach (subCycles x) (capFlight x 0 .packets) s
  | .send =>
    let pass := s.sluicePasses x.c (sendMbox x.t) (sendDev x.t) (sendHost x.t)
    let q := (s.view x.c).seq
    match (x.at_.rk x.k).cap? with
    | some cap => (capPerformHeld .send x cap s).onFlight x.c q (fun f => { f with index := if pass then 1 else 0 })
    | none => s
  | op => match (x.at_.rk x.k).cap? with
    | some cap => capPerformHeld op x cap s
    | none => s

/-- A `cap` trigger: every one is detached (08 R263). -/
def trigCap (op : CapOp) : Trigger where
  check := capErr op
  perform := capPerform op
  detached _ _ := true

/-! ### Meanings -/

/-- The word `-> cap.t.send` (08 R279). -/
def execCapSend (m : Arg) (s : State) : Host.Outcome State Fault Refusal :=
  .next (issueOne (.cap .send) (trigCap .send) m s)

/-- The word `-> cap.t.recv` (08 R291). -/
def execCapRecv (m : Arg) (s : State) : Host.Outcome State Fault Refusal :=
  .next (issueOne (.cap .recv) (trigCap .recv) m s)

/-- The word `-> cap.t.split` (08 R272). -/
def execCapSplit (m : Arg) (s : State) : Host.Outcome State Fault Refusal :=
  .next (issueOne (.cap .split) (trigCap .split) m s)

/-- The word `-> cap.t.join` (08 R273). -/
def execCapJoin (m : Arg) (s : State) : Host.Outcome State Fault Refusal :=
  .next (issueOne (.cap .join) (trigCap .join) m s)

/-- The word `-> cap.t.drop` (08 R274). -/
def execCapDrop (m : Arg) (s : State) : Host.Outcome State Fault Refusal :=
  .next (issueOne (.cap .drop) (trigCap .drop) m s)

/-- The word `-> cap.t.cut` (08 R277). -/
def execCapCut (m : Arg) (s : State) : Host.Outcome State Fault Refusal :=
  .next (issueOne (.cap .cut) (trigCap .cut) m s)

/-- The word `-> cap.t.fuse` (08 R278). -/
def execCapFuse (m : Arg) (s : State) : Host.Outcome State Fault Refusal :=
  .next (issueOne (.cap .fuse) (trigCap .fuse) m s)

/-- The word `-> cap.t.alloc` (08 R268). -/
def execCapAlloc (m : Arg) (s : State) : Host.Outcome State Fault Refusal :=
  .next (issueOne (.cap .alloc) (trigCap .alloc) m s)

/-- The word `-> cap.t.free` (08 R269). -/
def execCapFree (m : Arg) (s : State) : Host.Outcome State Fault Refusal :=
  .next (issueOne (.cap .free) (trigCap .free) m s)

/-- The word `-> cap.t.info` (08 R270). -/
def execCapInfo (m : Arg) (s : State) : Host.Outcome State Fault Refusal :=
  .next (issueOne (.cap .info) (trigCap .info) m s)

/-- The word `-> cap.t.narrow` (08 R271). -/
def execCapNarrow (m : Arg) (s : State) : Host.Outcome State Fault Refusal :=
  .next (issueOne (.cap .narrow) (trigCap .narrow) m s)

/-- The word `-> cap.t.sub` (08 R294). -/
def execCapSub (m : Arg) (s : State) : Host.Outcome State Fault Refusal :=
  .next (issueOne (.cap .sub) (trigCap .sub) m s)

/-- The word `-> cap.t.unsub` (08 R294). -/
def execCapUnsub (m : Arg) (s : State) : Host.Outcome State Fault Refusal :=
  .next (issueOne (.cap .unsub) (trigCap .unsub) m s)

/-- The word `-> cap.t.mcast` (08 R295). -/
def execCapMcast (m : Arg) (s : State) : Host.Outcome State Fault Refusal :=
  .next (issueOne (.cap .mcast) (trigCap .mcast) m s)

/-- The word `-> cap.t.bindmb` (08 R288). -/
def execCapBindmb (m : Arg) (s : State) : Host.Outcome State Fault Refusal :=
  .next (issueOne (.cap .bindmb) (trigCap .bindmb) m s)

/-- The word `-> cap.t.closemb` (08 R289). -/
def execCapClosemb (m : Arg) (s : State) : Host.Outcome State Fault Refusal :=
  .next (issueOne (.cap .closemb) (trigCap .closemb) m s)

/-- The word `-> cap.t.peek` (08 R292). -/
def execCapPeek (m : Arg) (s : State) : Host.Outcome State Fault Refusal :=
  .next (issueOne (.cap .peek) (trigCap .peek) m s)

end Sys2Proof.Machine
end

