-- ==== Sys2Proof/Machine/Sha.lean ====
section
/-! DEFINITION. SHA-384, which the spec names for digests (11 R401; 13); its definition is FIPS 180-4's (log 6). -/

namespace Sys2Proof.Machine

/-- The greatest n ≤ 2^k with f n ≤ x, for a rising f, by bisection from bit k - 1 down. -/
def greatest (f : Nat → Nat) (x : Nat) : Nat → Nat → Nat
  | 0, acc => acc
  | k + 1, acc => greatest f x k (if f (acc + 2 ^ k) ≤ x then acc + 2 ^ k else acc)

/-- The first 80 primes. -/
def primes80 : List Nat :=
  (List.range 410).filter (fun n => decide (2 ≤ n) && (List.range 21).all (fun d => d < 2 || n == d || n % d != 0))

/-- The first 64 bits of the fractional part of a cube root. -/
def cubeFrac (p : Nat) : BitVec 64 := BitVec.ofNat 64 (greatest (fun n => n * n * n) (p * 2 ^ 192) 70 0)

/-- The first 64 bits of the fractional part of a square root. -/
def sqrtFrac (p : Nat) : BitVec 64 := BitVec.ofNat 64 (greatest (fun n => n * n) (p * 2 ^ 128) 70 0)

/-- The round constants. -/
def shaK : List (BitVec 64) := primes80.map cubeFrac

/-- The initial hash value of SHA-384. -/
def shaInit : List (BitVec 64) := ((primes80.drop 8).take 8).map sqrtFrac

/-- σ0. -/
def shaS0 (x : BitVec 64) : BitVec 64 := x.rotateRight 1 ^^^ x.rotateRight 8 ^^^ (x >>> 7)
/-- σ1. -/
def shaS1 (x : BitVec 64) : BitVec 64 := x.rotateRight 19 ^^^ x.rotateRight 61 ^^^ (x >>> 6)

/-- The message schedule: `n` more words after those of a list, held latest first. -/
def shaSchedule : Nat → List (BitVec 64) → List (BitVec 64)
  | 0, w => w
  | n + 1, w => shaSchedule n ((shaS1 (w.getD 1 0) + w.getD 6 0 + shaS0 (w.getD 14 0) + w.getD 15 0) :: w)

/-- One round. -/
def shaRound (h : List (BitVec 64)) (kw : BitVec 64 × BitVec 64) : List (BitVec 64) :=
  match h with
  | [a, b, c, d, e, f, g, x] =>
    let t1 := x + (e.rotateRight 14 ^^^ e.rotateRight 18 ^^^ e.rotateRight 41) + ((e &&& f) ^^^ (~~~e &&& g)) + kw.1 + kw.2
    let t2 := (a.rotateRight 28 ^^^ a.rotateRight 34 ^^^ a.rotateRight 39) + ((a &&& b) ^^^ (a &&& c) ^^^ (b &&& c))
    [t1 + t2, a, b, c, d + t1, e, f, g]
  | h => h

/-- One block of 16 words. -/
def shaBlock (h : List (BitVec 64)) (w : List (BitVec 64)) : List (BitVec 64) :=
  let ws := (shaSchedule 64 w.reverse).reverse
  List.zipWith (· + ·) h ((shaK.zip ws).foldl shaRound h)

/-- Big-endian words of a list of bytes; `n` bounds their number. -/
def beWords : Nat → List Byte → List (BitVec 64)
  | 0, _ => []
  | n + 1, bs => if bs.isEmpty then [] else BitVec.ofNat 64 (leNat (bs.take 8).reverse) :: beWords n (bs.drop 8)

/-- Blocks in order; `n` bounds their number. -/
def shaBlocks : Nat → List (BitVec 64) → List (BitVec 64) → List (BitVec 64)
  | 0, h, _ => h
  | n + 1, h, ws => if ws.isEmpty then h else shaBlocks n (shaBlock h (ws.take 16)) (ws.drop 16)

/-- The padded message. -/
def shaPad (bs : List Byte) : List Byte :=
  let z := (239 - bs.length % 128) % 128
  bs ++ [0x80] ++ List.replicate z 0 ++ (leBytes 16 (8 * bs.length)).reverse

/-- SHA-384: 48 bytes, in the order in which the digest is written. -/
def sha384 (bs : List Byte) : List Byte :=
  let ws := beWords (bs.length / 8 + 32) (shaPad bs)
  ((shaBlocks (bs.length / 128 + 2) shaInit ws).take 6).flatMap (fun w => (leBytes 8 w.toNat).reverse)

end Sys2Proof.Machine
end

