-- ==== Sys2Proof/Machine/Aes.lean ====
section
/-! DEFINITION. AES-256 and its GCM mode, which the spec names for the payloads of links, and the unwrapping of job keys (12 R458,
R459). The algorithms are those of the standards that the spec's names point to: FIPS 197, SP 800-38D, RFC 3394, RFC 5869 (log 6). -/

namespace Sys2Proof.Machine

/-- A product in the field of 2^8 elements. -/
def aesMul : Nat → Byte → Byte → Byte
  | 0, _, _ => 0
  | n + 1, a, b =>
    (if b.getLsbD 0 then a else 0) ^^^ aesMul n ((a <<< 1) ^^^ (if a.getLsbD 7 then 0x1B else 0)) (b >>> 1)

/-- The inverse, the 254th power. -/
def aesInv (x : Byte) : Byte := (List.replicate 254 x).foldl (aesMul 8) 1

/-- The substitution box. -/
def aesSbox : List Byte :=
  (List.range 256).map (fun n =>
    let b := aesInv (BitVec.ofNat 8 n)
    b ^^^ b.rotateLeft 1 ^^^ b.rotateLeft 2 ^^^ b.rotateLeft 3 ^^^ b.rotateLeft 4 ^^^ 0x63)

/-- A byte substituted. -/
def aesSub (b : Byte) : Byte := aesSbox.getD b.toNat 0

/-- A byte substituted back. -/
def aesSubInv (b : Byte) : Byte := BitVec.ofNat 8 (aesSbox.findIdx (fun y => y == b))

/-- The bytes of a state of 16 that stand at the places which a function names. -/
def aesPermute (f : Nat → Nat) (s : List Byte) : List Byte := (List.range 16).map (fun i => s.getD (f i % 16) 0)

/-- Every column of a state multiplied by the circulant matrix of a row. -/
def aesMix (row : List Byte) (s : List Byte) : List Byte :=
  (List.range 16).map (fun i =>
    (List.range 4).foldl (fun x j => x ^^^ aesMul 8 (row.getD ((j + 4 - i % 4) % 4) 0) (s.getD (i / 4 * 4 + j) 0)) 0)

/-- The next word of the key schedule after `w`, its words latest first; `i` is its number. -/
def aesNextWord (i : Nat) (w : List (List Byte)) : List Byte :=
  let t := w.headD []
  let t :=
    if i % 8 = 0 then
      List.zipWith (· ^^^ ·) ((t.drop 1 ++ t.take 1).map aesSub) [BitVec.ofNat 8 (2 ^ (i / 8 - 1)), 0, 0, 0]
    else if i % 8 = 4 then t.map aesSub
    else t
  List.zipWith (· ^^^ ·) (w.getD 7 []) t

/-- The 15 round keys of a key of 32 bytes. -/
def aesRoundKeys (key : List Byte) : List (List Byte) :=
  let w := (List.range 8).map (fun i => (key.drop (4 * i)).take 4)
  let all := ((List.range 52).foldl (fun w i => aesNextWord (i + 8) w :: w) w.reverse).reverse
  (List.range 15).map (fun i => ((all.drop (4 * i)).take 4).flatten)

/-- Bytes added without carry. -/
def xorBytes (a b : List Byte) : List Byte := List.zipWith (· ^^^ ·) a b

/-- A block enciphered under round keys. -/
def aesEncrypt (ks : List (List Byte)) (x : List Byte) : List Byte :=
  let sub (s : List Byte) := aesPermute (fun i => i + 4 * (i % 4)) (s.map aesSub)
  let s := ((ks.drop 1).take 13).foldl (fun s k => xorBytes (aesMix [2, 3, 1, 1] (sub s)) k) (xorBytes x (ks.headD []))
  xorBytes (sub s) (ks.getD 14 [])

/-- A block deciphered under round keys. -/
def aesDecrypt (ks : List (List Byte)) (x : List Byte) : List Byte :=
  let back (s : List Byte) := (aesPermute (fun i => i + 12 * (i % 4)) s).map aesSubInv
  let s := ((ks.drop 1).take 13).reverse.foldl (fun s k => aesMix [14, 11, 13, 9] (xorBytes (back s) k))
    (xorBytes x (ks.getD 14 []))
  xorBytes (back s) (ks.headD [])

/-! ### Galois counter mode -/

/-- A block as a number, its first byte highest. -/
def beBlock (bs : List Byte) : BitVec 128 := BitVec.ofNat 128 (leNat bs.reverse)

/-- The 16 bytes of a number, highest first. -/
def blockBytes (x : BitVec 128) : List Byte := (leBytes 16 x.toNat).reverse

/-- A product in the field of 2^128 elements, whose constant term is the highest bit. -/
def ghashMul (x y : BitVec 128) : BitVec 128 :=
  ((List.range 128).foldl (fun (z, v) i =>
    (if x.getMsbD i then z ^^^ v else z, (v >>> 1) ^^^ (if v.getLsbD 0 then 0xE1#128 <<< 120 else 0))) ((0 : BitVec 128), y)).1

/-- The blocks of 16 bytes of a list, the last one filled with zeros. -/
def gcmBlocks (bs : List Byte) : List (BitVec 128) :=
  (List.range ((bs.length + 15) / 16)).map (fun i =>
    let b := (bs.drop (16 * i)).take 16
    beBlock (b ++ List.replicate (16 - b.length) 0))

/-- The tag of ciphertext and additional data. -/
def gcmTag (ks : List (List Byte)) (iv aad body : List Byte) : List Byte :=
  let h := beBlock (aesEncrypt ks (List.replicate 16 0))
  let len := BitVec.ofNat 64 (8 * aad.length) ++ BitVec.ofNat 64 (8 * body.length)
  let y := (gcmBlocks aad ++ gcmBlocks body ++ [len]).foldl (fun y b => ghashMul (y ^^^ b) h) 0
  xorBytes (blockBytes y) (aesEncrypt ks (iv ++ [0, 0, 0, 1]))

/-- Bytes enciphered, or deciphered, with the counter's blocks. -/
def gcmCrypt (ks : List (List Byte)) (iv bs : List Byte) : List Byte :=
  (List.range ((bs.length + 15) / 16)).flatMap (fun i =>
    xorBytes ((bs.drop (16 * i)).take 16) (aesEncrypt ks (iv ++ (leBytes 4 (i + 2)).reverse)))

/-- The bytes of an IV, its highest field first. -/
def ivBytes (iv : BitVec 96) : List Byte := (leBytes 12 iv.toNat).reverse

/-- The ciphertext of a payload and its tag (12 R459). -/
def gcmSeal (key : BitVec 256) (iv aad : BitVec 96) (plain : BitVec 2048) : BitVec 2048 × BitVec 128 :=
  let ks := aesRoundKeys (leBytes 32 key.toNat)
  let body := gcmCrypt ks (ivBytes iv) (leBytes 256 plain.toNat)
  (BitVec.ofNat 2048 (leNat body), BitVec.ofNat 128 (leNat (gcmTag ks (ivBytes iv) (leBytes 12 aad.toNat) body)))

/-- The plaintext of a payload whose tag passes (12 R459). -/
def gcmOpen (key : BitVec 256) (iv aad : BitVec 96) (body : BitVec 2048) (tag : BitVec 128) : Option (BitVec 2048) :=
  let ks := aesRoundKeys (leBytes 32 key.toNat)
  if gcmTag ks (ivBytes iv) (leBytes 12 aad.toNat) (leBytes 256 body.toNat) = leBytes 16 tag.toNat then
    some (BitVec.ofNat 2048 (leNat (gcmCrypt ks (ivBytes iv) (leBytes 256 body.toNat))))
  else none

/-! ### Job keys -/

/-- HMAC-SHA-384 under a key of at most 128 bytes. -/
def hmac384 (key msg : List Byte) : List Byte :=
  let k := key ++ List.replicate (128 - key.length) 0
  sha384 (k.map (· ^^^ 0x5C) ++ sha384 (k.map (· ^^^ 0x36) ++ msg))

/-- The KEK of a job: the first 32 bytes of HKDF-SHA-384 of the shared X coordinate, with an empty salt and the info "RONSA-KEK"
and the job number (12 R458). -/
def jobKek (sharedX : List Byte) (job : BitVec 32) : List Byte :=
  (hmac384 (hmac384 (List.replicate 48 0) sharedX)
    ([0x52, 0x4F, 0x4E, 0x53, 0x41, 0x2D, 0x4B, 0x45, 0x4B] ++ leBytes 4 job.toNat ++ [1])).take 32

/-- One step of the unwrapping, of block `i` of the four with the counter `t`. -/
def unwrapStep (ks : List (List Byte)) (i t : Nat) (a : List Byte) (r : List (List Byte)) : List Byte × List (List Byte) :=
  let b := aesDecrypt ks (xorBytes a (leBytes 8 t).reverse ++ r.getD i [])
  (b.take 8, r.set i (b.drop 8))

/-- 40 bytes unwrapped under a KEK, when they pass the integrity check (RFC 3394). -/
def keyUnwrap (kek wrapped : List Byte) : Option (List Byte) :=
  let ks := aesRoundKeys kek
  let r := (List.range 4).map (fun i => (wrapped.drop (8 * i + 8)).take 8)
  let (a, r) := (List.range 24).reverse.foldl (fun (a, r) n => unwrapStep ks (n % 4) (n + 1) a r) (wrapped.take 8, r)
  if a = List.replicate 8 0xA6 then some r.flatten else none

/-- The job key that KL_EPUB, KL_WRAP and the job number give; none when the integrity check fails. The shared X coordinate is
that of ECDH with the device's identity key, which Config holds (12 R458). -/
def unwrapKey (epub : BitVec 768) (wrap : BitVec 320) (job : BitVec 32) : Option (BitVec 256) :=
  (keyUnwrap (jobKek (leBytes 48 (Config.sharedX epub).toNat).reverse job) (leBytes 40 wrap.toNat)).map (fun b =>
    BitVec.ofNat 256 (leNat b))

end Sys2Proof.Machine
end

