-- ==== Sys2Proof/Machine/Links.lean ====
section
/-! DEFINITION. Link engines as senders (12 R433 to R441, R452, R457, R459): packets and flits as bits, the replay buffer,
routes, requests that leave the device, and event records (12 R473). -/

namespace Sys2Proof.Machine

/-! ### Event records (12 R473) -/

/-- A message of an MSI-X vector goes to the host by every port that asks for it (12 R464). -/
def State.sendMsi (s : State) (v : Nat) (asks : HostPort → Bool) : State :=
  { s with ports := s.ports.map (fun p =>
      if asks p then { p with msix := p.msix.setIfInBounds v ((p.msix[v]?).getD 0 + 1) } else p) }

/-- An event record, written into the ring (12 R473), with its interrupt (12 R464). -/
def State.eventRecord (s : State) (kind : BitVec 8) (link : BitVec 6) (dir : Bool) (lanes : BitVec 16) (part : BitVec 4)
    (peer : BitVec 12) (detail : Nat) : State :=
  let phase := s.eventCount / 16384 % 2 == 0
  let r : BitVec 512 := 0#320 ++ s.now ++ BitVec.ofNat 64 detail ++ 0#8 ++ peer ++ part ++ lanes ++ 0#1 ++
    BitVec.ofBool dir ++ link ++ 0#7 ++ BitVec.ofBool phase ++ kind
  ({ s with events := tabPut (s.eventCount % 16384) r s.events, eventCount := s.eventCount + 1 } : State).sendMsi 16
    HostPort.evmsi

/-! ### Packets (12 R434, R436) -/

/-- Data units of a payload. -/
def dataUnits (bs : List Byte) : Nat := (bs.length + 31) / 32

/-- The header unit of a packet (12 R436). -/
def Packet.header (p : Packet) : BitVec 256 :=
  0#6 ++ BitVec.ofNat 8 p.bytes ++ p.rtag ++ p.rights ++ p.desc ++ 0#12 ++ BitVec.ofNat 52 p.addr ++ 0#14 ++
    BitVec.ofBool p.trace.isSome ++ (p.trace.getD 0) ++ p.rm ++ p.ddev ++ p.sdev ++ p.src ++ p.seq ++ 0#15 ++ p.ty ++
    p.op ++ BitVec.ofBool p.fwd ++ BitVec.ofNat 3 (dataUnits p.data) ++ p.type

/-- A packet as bytes: its header unit and its data units. -/
def Packet.encode (p : Packet) : List Byte :=
  leBytes 32 p.header.toNat ++ p.data ++ List.replicate (32 * dataUnits p.data - p.data.length) 0

/-- A packet from its header unit and the bytes after it (12 R436). -/
def Packet.ofBits (h : BitVec 256) (rest : List Byte) : Packet where
  type := h.extractLsb' 0 8
  fwd := h.getLsbD 11
  op := h.extractLsb' 12 3
  ty := h.extractLsb' 15 2
  seq := h.extractLsb' 32 16
  src := h.extractLsb' 48 11
  sdev := h.extractLsb' 59 12
  ddev := h.extractLsb' 71 12
  rm := h.extractLsb' 83 4
  trace := if h.getLsbD 113 then some (h.extractLsb' 87 26) else none
  addr := fieldN h.toNat 128 52
  desc := h.extractLsb' 192 32
  rights := h.extractLsb' 224 6
  rtag := h.extractLsb' 230 12
  bytes := fieldN h.toNat 242 8
  data := rest.take (32 * fieldN h.toNat 8 3)

/-- The packets of a flit's 8 units (12 R434); `fuel` bounds them. -/
def packetsOf : Nat → List Byte → List Packet
  | 0, _ => []
  | fuel + 1, bs =>
    if bs.length < 32 then []
    else
      let h : BitVec 256 := imageOf 256 (bs.take 32)
      if h.extractLsb' 0 8 = 0 then []
      else Packet.ofBits h (bs.drop 32) :: packetsOf fuel (bs.drop (32 * (1 + fieldN h.toNat 8 3)))

/-- The class of a packet's type (12 R434). -/
def packetClass (type : BitVec 8) : BitVec 3 :=
  match type.toNat with
  | 7 | 8 | 13 | 14 => 1
  | 9 | 10 => 2
  | 11 => 3
  | _ => 0

/-! ### Flits (12 R433, R438, R459) -/

/-- One bit of the CRC of IEEE 802.3. -/
def crcBit (c : BitVec 32) : BitVec 32 := if c.getLsbD 0 then (c >>> 1) ^^^ 0xEDB88320#32 else c >>> 1

/-- CRC-32 of IEEE 802.3 (12 R433). -/
def crc32 (bs : List Byte) : BitVec 32 :=
  ~~~(bs.foldl (fun c b => (8 : Nat).repeat crcBit (c ^^^ b.setWidth 32)) 0xFFFFFFFF#32)

/-- Header bytes 0 to 11 of a flit. -/
def flitHead (seq ack : BitVec 16) (pause : BitVec 8) (kind : BitVec 4) (nak : Bool) (cls : BitVec 3) (stream : BitVec 16)
    (off : BitVec 32) : BitVec 96 :=
  off ++ stream ++ cls ++ BitVec.ofBool nak ++ kind ++ pause ++ ack ++ seq

/-- A whole flit, byte 0 lowest. -/
def flitOf (head : BitVec 96) (payload : BitVec 2048) (tag : BitVec 128) : BitVec 2304 :=
  payload ++ tag ++ crc32 (imageBytes head ++ imageBytes payload) ++ head

/-- The IV of a flit (12 R459). -/
def flitIv (salt : BitVec 16) (dev : BitVec 12) (link : BitVec 6) (epoch : Nat) (seq : BitVec 16) : BitVec 96 :=
  salt ++ dev ++ link ++ BitVec.ofNat 46 epoch ++ seq

/-- The additional authenticated data: the head with ACK, PAUSE and NAK zero (12 R459). -/
def flitAad (head : BitVec 96) : BitVec 96 :=
  head &&& ~~~(0xFFFFFF#96 <<< 16) &&& ~~~(1#96 <<< 44)

/-! ### Beats on the active lanes (12 R433, R435) -/

/-- Lanes of a mask, ascending. -/
def lanesIn (m : BitVec 16) : List Nat := (List.range 16).filter (fun i => m.getLsbD i)

/-- Beat `j` of a flit. -/
def beatOf (raw : BitVec 2304) (j : Nat) : BitVec 64 := raw.extractLsb' (64 * j) 64

/-- The active lane that beat `j` of a flit goes on, when its first beat is at position `p`. -/
def beatLane (m : BitVec 16) (p j : Nat) : Nat :=
  let lanes := lanesIn m
  (lanes[(p + j) % lanes.length]?).getD 16

/-- The beats of a flit on each lane. -/
def stripeFlit (m : BitVec 16) (p : Nat) (raw : BitVec 2304) : List (List (BitVec 64)) :=
  (List.range 16).map (fun n => ((List.range 36).filter (fun j => beatLane m p j == n)).map (beatOf raw))

/-- The position of the beat that follows a flit's last. -/
def afterFlit (m : BitVec 16) (p : Nat) : Nat := (p + 36) % max 1 (lanesIn m).length

/-- A flit is sent on the active lanes. -/
def Link.putOut (k : Link) (raw : BitVec 2304) : Link :=
  { k with slot := stripeFlit k.txact k.txPos raw, txPos := afterFlit k.txact k.txPos }

/-- Beats as one number, the first lowest. -/
def beatsNat : List (BitVec 64) → Nat
  | [] => 0
  | b :: bs => b.toNat + 2 ^ 64 * beatsNat bs

/-- The flit that a slot's beats make up; a beat that is missing is bad. -/
def Link.assemble (k : Link) (lanes : List (List (Option (BitVec 64)))) : Flit :=
  let a := (lanesIn k.rxact).length
  let bs := (List.range 36).map (fun j => (((lanes[beatLane k.rxact k.rxPos j]?).getD [])[j / a]?).join)
  ⟨BitVec.ofNat 2304 (beatsNat (bs.map (fun b => b.getD 0))), bs.any Option.isNone⟩

/-- The transmit lanes change: the next flit's first beat begins a new sequence. -/
def Link.sendOn (k : Link) (m : BitVec 16) : Link := { k with txact := m, txPos := 0 }

/-- The receive lanes change. -/
def Link.receiveOn (k : Link) (m : BitVec 16) : Link := { k with rxact := m, rxPos := 0 }

/-- 256 bytes as a payload. -/
def payloadOf (bs : List Byte) : BitVec 2048 := imageOf 2048 bs

/-! ### The transmitter (12 R435, R439, R441, R445, R454, R457) -/

/-- A link engine. -/
def State.link (s : State) (l : BitVec 6) : Link := (tabFind l.toNat s.links).getD {}

/-- A link engine changed. -/
def State.onLink (s : State) (l : BitVec 6) (g : Link → Link) : State :=
  { s with links := tabPut l.toNat (g (s.link l)) s.links }

/-- STATE UP. -/
def linkUp : BitVec 3 := 3

/-- The class of what waits to leave. -/
def OutItem.cls : OutItem → BitVec 3
  | .packet p => packetClass p.type
  | .stream _ _ _ => 0
  | .control _ => 4

/-- The peer has paused the class: classes 1 and 4 never are (12 R441). -/
def Link.paused (k : Link) (c : BitVec 3) : Bool := c != 1 && k.pause.getLsbD c.toNat

/-- What waits may start a flit: control flits always on a link that runs, others with a key, while their class is not
paused; a quiesced link starts no new packet flit (12 R441, R454, R457). -/
def Link.maySend (k : Link) (o : OutItem) : Bool :=
  match o with
  | .control _ => k.state == 2 || k.state == linkUp || k.state == 4
  | .packet _ => k.state == linkUp && k.key.isSome && !k.quiesce && !k.paused o.cls
  | .stream _ _ _ => (k.state == linkUp || k.state == 4) && k.key.isSome && !k.paused 0

/-- What follows the first packet of a flit in it: the next packets of the class while the units last; and what is
left. -/
def gather (c : BitVec 3) : Nat → List OutItem → List Packet × List OutItem
  | _, [] => ([], [])
  | room, .packet p :: rest =>
    if packetClass p.type ≠ c then
      let (ps, more) := gather c room rest
      (ps, .packet p :: more)
    else if 1 + dataUnits p.data ≤ room then
      let (ps, more) := gather c (room - (1 + dataUnits p.data)) rest
      (p :: ps, more)
    else
      let (ps, more) := gather c 0 rest
      (ps, .packet p :: more)
  | room, o :: rest =>
    let (ps, more) := gather c room rest
    (ps, o :: more)

/-- The first thing that may leave and has nothing of its class before it, with its place. -/
def Link.nextOut (k : Link) : Option (OutItem × Nat) :=
  (k.outq.zipIdx).find? (fun (o, i) => k.maySend o && !(k.outq.take i).any (fun x => x.cls == o.cls))

/-- The content of the next flit: KIND, CLASS, STREAM, OFFSET, payload, the packets in it, and what is left to send. -/
def Link.content (k : Link) : Option (BitVec 4 × BitVec 3 × BitVec 16 × Nat × List Byte × List Packet × List OutItem) :=
  k.nextOut.map (fun (o, i) =>
    let others := k.outq.eraseIdx i
    match o with
    | .packet _ =>
      let (ps, rest) := gather o.cls 8 k.outq
      (1, o.cls, 0, 0, ps.flatMap Packet.encode, ps, rest)
    | .stream n off bs => (2, 0, n, off, bs, [], others)
    | .control p => (3, 4, 0, 0, imageBytes p, [], others))

/-- What is accepted belongs to the input queue of class 0; packets, but for those that open streams, are handed on at once. -/
def InItem.inClass0 : InItem → Bool
  | .control _ => false
  | _ => true

/-- The PAUSE bits that a flit carries: class 0 while its input queue is short of room, which is free (12 R441; log 130). -/
def Link.pauseBits (k : Link) : BitVec 8 :=
  let n := k.inq.countP InItem.inClass0
  if n != 0 && decide (Config.linkRoom < n) then 1 else 0

/-- One sequenced flit joins the replay buffer and is sent (12 R433, R439, R459). -/
def Link.emit (dev : BitVec 12) (l : BitVec 6) (k : Link) : Link :=
  match k.content with
  | none => k
  | some (kind, cls, stream, off, bytes, ps, rest) =>
    let head := flitHead k.txSeq k.rxSeq k.pauseBits kind k.nakDue cls stream (BitVec.ofNat 32 off)
    let plain := payloadOf (bytes ++ List.replicate (256 - bytes.length) 0)
    let (body, tag) := match k.key with
      | some (key, salt) => gcmSeal key (flitIv salt dev l k.txEpoch k.txSeq) (flitAad head) plain
      | none => (plain, 0)
    let raw := flitOf head body tag
    { k.putOut raw with
      outq := rest
      nakDue := false
      held := k.held ++ [(k.txSeq, raw, ps)]
      txSeq := k.txSeq + 1
      txEpoch := if k.txSeq = 0xFFFF then k.txEpoch + 1 else k.txEpoch }

/-- A held flit as it is sent again: ACK, PAUSE, NAK and CRC are those of now (12 R459). -/
def Link.refresh (k : Link) (raw : BitVec 2304) : BitVec 2304 :=
  let old : BitVec 96 := raw.extractLsb' 0 96
  let head := flitHead (old.extractLsb' 0 16) k.rxSeq k.pauseBits (old.extractLsb' 40 4) k.nakDue (old.extractLsb' 45 3)
    (old.extractLsb' 48 16) (old.extractLsb' 64 32)
  flitOf head (raw.extractLsb' 256 2048) (raw.extractLsb' 128 128)

/-- A held flit is sent again. -/
def Link.putAgain (k : Link) (raw : BitVec 2304) : Link := { k.putOut (k.refresh raw) with nakDue := false }

/-- An idle flit fills a slot: it says what has been accepted, asks for a resend that is due, and names the next SEQ (12 R433,
R434, R439). -/
def Link.putIdle (k : Link) : Link :=
  { k.putOut (flitOf (flitHead k.txSeq k.rxSeq k.pauseBits 0 k.nakDue 0 0 0) 0 0) with nakDue := false }

/-- Flits leave while the replay buffer has room and something may start; none while a resend is due (12 R439). -/
def Link.pump (dev : BitVec 12) (l : BitVec 6) : Nat → Link → Link
  | 0, k => k
  | fuel + 1, k =>
    if 1024 ≤ k.held.length || k.resend.isSome || k.nextOut.isNone then k else Link.pump dev l fuel (k.emit dev l)

/-- A link sends what may leave; the wait of 12 R439 begins with the first flit held. -/
def State.pumpLink (s : State) (l : BitVec 6) : State :=
  s.onLink l (fun k =>
    let j := k.pump s.dev l (k.outq.length + 1)
    if k.held.isEmpty then { j with ackAt := s.now } else j)

/-- Something is given to a link to send. -/
def State.offer (s : State) (l : BitVec 6) (o : OutItem) : State :=
  (s.onLink l (fun k => { k with outq := k.outq ++ [o] })).pumpLink l

/-- A control flit's payload (12 R445). -/
def controlWord (op : BitVec 8) (lanes next : BitVec 16) : BitVec 2048 := 0#2008 ++ next ++ lanes ++ op

/-! ### Routes and requests that leave the device (12 R436, R452, R456, R457) -/

/-- The link on which a packet for a device leaves: that of the lowest-numbered valid route (12 R452). -/
def State.route? (s : State) (d : BitVec 12) : Option (BitVec 6) :=
  (s.routes.toList.find? (fun r => r.getLsbD 19 && r.extractLsb' 0 12 == d)).map (fun r => r.extractLsb' 12 6)

/-- The route to a device is one hop (12 R437, R452). -/
def State.oneHop (s : State) (d : BitVec 12) : Bool :=
  ((s.routes.toList.find? (fun r => r.getLsbD 19 && r.extractLsb' 0 12 == d)).map (fun r => !r.getLsbD 18)).getD false

/-- The link takes packets: it is UP with a key, or system software has quiesced it, where requests wait while it is QUIESCED or
retrains (12 R452, R454, R457). -/
def Link.takes (k : Link) : Bool := k.state == linkUp || (k.quiesce && (k.state == 4 || k.state == 5))

/-- A packet sets out for another device; none when it is unreachable (12 R452, R457). -/
def State.sendPacket (s : State) (p : Packet) : Option State :=
  match s.route? p.ddev with
  | some l => if (s.link l).takes then some (s.offer l (.packet p)) else none
  | none => none

/-- The lowest RTAG that no request of a core waits under, when its table of 4,096 has one (09 R323). -/
def State.freeTag (s : State) (core : Nat) : Option Nat :=
  (List.range 4096).find? (fun i => (tabFind (core * 4096 + i) s.away).isNone)

/-- The type, rights and data of the packet of an access (12 R436; log 38): a batch open travels as a batch packet with
no payload length, and a write under bit masks has OP 1 and its masks behind its bytes. -/
def Access.packet (x : Access) (p : Packet) : Packet :=
  match x with
  | .read _ n _ => { p with type := 1, rights := 1, bytes := n }
  | .copyRead _ _ n _ => { p with type := 1, rights := 1, bytes := n }
  | .write _ bs [] => { p with type := 2, rights := 2, bytes := bs.length, data := bs }
  | .write _ bs ms => { p with
      type := 2, op := 1, rights := 2, bytes := bs.length
      data := bs ++ (List.range bs.length).map (fun i => (ms[i]?).getD 0xFF) }
  | .acc _ ty op v fetch batch =>
    let n := match ty with
      | 0b01 => 8
      | 0b11 => 2
      | _ => 4
    { p with
      type := if batch then 5 else if fetch then 4 else 3
      op := op, ty := ty, rights := 4, bytes := n, data := leBytes 32 v.toNat }
  | .batchOpen _ closes weir => { p with
      type := 5, rights := 4,
      data := leBytes 32 (closes.toNat + (match weir with
        | some w => 2 ^ 12 * w.toNat + 2 ^ 25
        | none => 0)) }
  | .batchClose _ owner => { p with type := 6, rights := 4, op := if owner then 1 else 0 }
  | _ => p

/-- The source operation of a request. -/
def ReqSrc.seq : ReqSrc → BitVec 16
  | .op _ q => q
  | _ => 0

/-- The packet of a request for its home device; the access's rights stand for those of the capability used (log 38). -/
def State.packetOf (s : State) (r : Req) (tag : Nat) : Packet :=
  let home := (tabFind r.desc.toNat (s.part r.part).bufs).map (fun d => d.parent)
  r.acc.packet {
    type := 0, seq := r.src.seq, src := r.core, sdev := s.dev, ddev := r.home, rm := r.rm, trace := r.trace,
    addr := r.acc.addr, desc := home.getD r.desc, rtag := BitVec.ofNat 12 tag }

/-- A request leaves for its home device under a tag, and waits for the answer; one whose device is unreachable ends with
late fault 0x20, reason 4 (12 R452, R457). -/
def State.sendTagged (s : State) (r : Req) (fill : Option Nat) (tag : Nat) : State :=
  match s.route? r.home, s.sendPacket (s.packetOf r tag) with
  | some l, some t => { t with away := tabPut (r.core.toNat * 4096 + tag) { req := r, link := l, fill := fill } t.away }
  | _, _ => s.failReq r 0x20 (BitVec.ofNat 64 r.acc.addr) 4

/-- A request leaves for its home device, or waits for a free entry of its core's request table, behind those that wait
already (09 R323). -/
def State.sendAway (s : State) (r : Req) (fill : Option Nat) : State :=
  match s.freeTag r.core.toNat, s.outbox.any (fun x => x.1.core == r.core) with
  | some tag, false => s.sendTagged r fill tag
  | _, _ => { s with outbox := s.outbox ++ [(r, fill)] }

/-- An entry of a request table becomes free; the first request that waits for one of that core leaves (09 R323). -/
def State.dropTag (s : State) (key : Nat) : State :=
  let s : State := { s with away := tabDrop key s.away }
  match s.outbox.findIdx? (fun x => x.1.core.toNat == key / 4096) with
  | none => s
  | some i => match s.outbox[i]? with
    | none => s
    | some (r, fill) => ({ s with outbox := s.outbox.eraseIdx i } : State).sendTagged r fill (key % 4096)

/-! ### Lines of REMOTE buffers (01 R50, R51; 09 R340) -/

/-- A write-back of one sector; a poisoned one travels as a write without bytes (09 R340; log 38). -/
def Line.sectorReq (s : State) (l : Line) (home : BitVec 12) (i : Nat) : Req where
  src := .engine
  path := 4
  part := l.part
  desc := l.desc
  cls := 4
  off := 0
  va := 0
  xpart := l.part
  rm := 0
  xRead := false
  xWrite := false
  dev := s.dev
  core := 0x7FF
  nc := false
  home := home
  kreg := none
  acc :=
    let a := 128 * l.num + 32 * i
    if s.poison.contains (farKey home a / 32) then .write a [] []
    else .write a (Memory.load s.far (farKey home a) 32) []

/-- The dirty sectors of a REMOTE line travel home (01 R51). -/
def State.writeBackLine (s : State) (l : Line) : State :=
  match l.remote with
  | none => s
  | some home => ((List.range 4).filter (fun i => l.dirty.getLsbD i)).foldl (fun s i => s.sendAway (l.sectorReq s home i) none) s

/-- A write-back that its home has not acknowledged touches a range of the places where slices hold REMOTE bytes. -/
def State.writingBack (s : State) (rs : List (Nat × Nat)) : Bool :=
  let hit (r : Req) (fill : Option Nat) : Bool := r.src == .engine && fill.isNone && r.acc.writes &&
    rs.any (fun x => decide (x.1 < farKey r.home r.acc.addr + 32) && decide (farKey r.home r.acc.addr < x.1 + x.2))
  s.away.any (fun (_, p) => hit p.req p.fill) || s.outbox.any (fun (r, fill) => hit r fill)

/-- The source of a packet as a tag. -/
def Packet.tag (p : Packet) : Nat :=
  p.rtag.toNat + p.src.toNat * 2 ^ 12 + p.seq.toNat * 2 ^ 23 + p.sdev.toNat * 2 ^ 39

/-- The answer to a packet of another device: acknowledgement, response or refusal (12 R434, R456). It leaves as every packet
does, by the route to its device (12 R452). -/
def State.respond (s : State) (tag : Nat) (type : BitVec 8) (bs : List Byte) : State :=
  let p : Packet := {
    type := type, seq := BitVec.ofNat 16 (fieldN tag 23 16), src := BitVec.ofNat 11 (fieldN tag 12 11), sdev := s.dev,
    ddev := BitVec.ofNat 12 (fieldN tag 39 12), rtag := BitVec.ofNat 12 (fieldN tag 0 12), bytes := bs.length, data := bs }
  (s.sendPacket p).getD s

/-- The tag of a write of a stream that arrives: its number, apart from every packet's tag. -/
def streamTag (num : BitVec 16) : Nat := 2 ^ 51 + num.toNat * 2 ^ 52

/-- The data of a refusal: cause, DETAIL and DETAIL2 (log 38). -/
def refusalBytes (cause : BitVec 8) (detail detail2 : Word) : List Byte :=
  leBytes 8 cause.toNat ++ leBytes 8 detail.toNat ++ leBytes 8 detail2.toNat

end Sys2Proof.Machine
end

