-- ==== Sys2Proof/Machine/Engine.lean ====
section
/-! DEFINITION. A handover engine at work: drains (08 R280), changes of descriptors (08 R260, R268 to R278, R288 to R292)
and copies of bytes (08 R281, R282). -/

namespace Sys2Proof.Machine

/-! ### The drain (08 R280) -/

/-- A flight has performed every access that it makes. -/
def Flight.performed (f : Flight) : Bool :=
  match f.phase with
  | .ready => true
  | .active => f.open_ == 0 && (match f.op with
    | .cp _ | .mx .mma | .mx .mmaz => false
    | _ => true)
  | _ => false

/-- The bytes of a buffer that stands in the device's own memories. -/
def Desc.holds (d : Desc) (a : Nat) : Bool :=
  !translated d.cls && decide (d.base.toNat ≤ a) && decide (a < d.base.toNat + d.len)

/-- A local store before a place in program order covers the buffer. -/
def storesTouch (sts : List LocalStore) (order : Nat) (c : Cap) : Bool :=
  sts.any (fun st => decide (st.order < order) && st.covers.any (fun t => t.cap.same c))

/-- A local load before a place in program order reads bytes of the buffer. -/
def loadsTouch (sts : List Stage) (order : Nat) (d : Desc) : Bool :=
  sts.any (fun st => decide (st.order < order) && (match st.res with
    | .load k _ _ => k.addrs.any d.holds
    | _ => false))

/-- A vector register that stands behind the core's own vector window (06 R228; 08 R298). -/
def windowShows (bits : List Nat) (r : BitVec 5) : Bool := decide (16 ≤ r.toNat) && bits.contains (r.toNat - 16)

/-- The vector register that a result of fixed latency goes to, a local load among them. -/
def Result.vregs : Result → List (BitVec 5)
  | .vector vd _ _ _ _ => [vd]
  | .load (.lanes vd _ _) _ _ => [vd]
  | _ => []

/-- The vector register that a detached operation writes when it completes. -/
def Flight.vregs (g : Flight) : List (BitVec 5) :=
  match g.op with
  | .vx .vld => [vxReg g.t 0]
  | .mx .rdacc => [mxV g.t]
  | .rm .rld => if rmV g.t then [rmVec g.t] else []
  | _ => []

/-- Results due before a place in program order go to a register that the window shows (06 R228). -/
def resultsTouch (sts : List Stage) (order : Nat) (bits : List Nat) : Bool :=
  sts.any (fun st => decide (st.order < order) && st.res.vregs.any (windowShows bits))

/-- An earlier operation of the agent that has not performed its accesses names the buffer. -/
def Flight.touches (g : Flight) (c : Cap) : Bool :=
  !g.performed && (g.ca.toList ++ g.cb.toList ++ g.cx.toList ++ (g.sigs.bind (fun x => x.token.map (·.1))).toList).any (·.same c)

/-- An earlier operation that has not completed uses what the core's own windows show: a command of the matrix engine, or
one with a result due in a vector register (07 R248; 06 R228). -/
def Flight.usesWindow (g : Flight) (bits : List Nat) : Bool :=
  !g.retry && ((match g.op with
    | .mx _ => bits.any (16 ≤ ·)
    | _ => false) || g.vregs.any (windowShows bits))

/-- Operations of the agent that were issued before one. -/
def State.before (s : State) (f : Flight) : List Flight :=
  (s.flights.takeWhile (fun g => !(g.agent == f.agent && g.seq == f.seq))).filter (fun g => g.agent == f.agent)

/-- Every access to one buffer issued by the agent before an operation has been performed (08 R280). -/
def State.drainedOf (s : State) (f : Flight) (c : Cap) : Bool :=
  let k := s.view f.agent
  let own := (s.descOf c).map (fun d => (d, if d.cls = 5 ∧ d.windowCore = f.agent then d.windowBits else []))
  !storesTouch k.stores f.order c && !(k.shadow.map (fun sh => storesTouch sh.stores f.order c)).getD false &&
    (match own with
      | some (d, bits) =>
        let sts := k.stages ++ (k.shadow.map (·.stages)).getD []
        !loadsTouch sts f.order d && !resultsTouch sts f.order bits && !(s.before f).any (·.usesWindow bits)
      | none => true) &&
    !k.walkers.toList.any (fun w => w.feeding && w.part == c.part && w.buf == c.desc && decide (w.feedOrder < f.order)) &&
    !(s.before f).any (·.touches c) &&
    !s.marks.any (fun m => m.agent == f.agent && m.part == c.part && m.desc == c.desc)

/-- The drain of an operation is over (08 R280). -/
def State.drained (s : State) (f : Flight) : Bool := (f.ca.toList ++ f.cb.toList).all (s.drainedOf f)

/-- The places of a line's bytes. -/
def Line.key (l : Line) : Nat :=
  match l.remote with
  | none => 128 * l.num
  | some home => farKey home (128 * l.num)

/-- The places of a buffer's bytes. -/
def State.capRanges (s : State) (c : Cap) : List (Nat × Nat) :=
  match s.descOf c with
  | some d => s.bufRanges (s.tableCluster c.part) c.part d
  | none => []

/-- Dirty sectors of a buffer's lines are written back, and the lines of a REMOTE buffer are invalidated (01 R51). -/
def State.writeBack (s : State) (c : Cap) : State :=
  let rs := s.capRanges c
  let mine (l : Line) : Bool := rs.any (fun r => decide (r.1 < l.key + 128) && decide (l.key < r.1 + r.2))
  let s := (s.lines.filter mine).foldl State.writeBackLine s
  { s with lines := (s.lines.filter (fun l => !(mine l && l.remote.isSome))).map (fun l =>
      if mine l then { l with dirty := 0 } else l) }

/-- Write-backs of a buffer that its home has not acknowledged (01 R51). -/
def State.writeBacks (s : State) (c : Cap) : Bool := s.writingBack (s.capRanges c)

/-- The operation sends a capability: a send, or a copys once it has copied (09 R311). -/
def Flight.sends (f : Flight) : Bool := f.op == .cap .send || f.op == .cp .copys

/-- The phase after the drain (08 R279): back-invalidate snoops come first when the host receives (01 R54). -/
def Flight.afterDrain (f : Flight) : Phase :=
  if f.sends ∧ sendHost f.t then .snoop
  else if f.op = .cap .mcast then .packets
  else .change

/-- Cycles from the end of the drain to completion (08 R267). -/
def Flight.handoverCycles (f : Flight) : Nat := if f.sends then 24 else 20

/-- DRAIN: the recorder flushes, lines are written back before a capability leaves the device, and the operation goes on
(08 R280; 01 R51; 11 R409). -/
def State.drainStep (s : State) (a : Nat) (q : BitVec 16) : State :=
  match s.flight? a q with
  | none => s
  | some f =>
    if f.phase = .drain ∧ s.drained f then
      let s := if isCompute a then s.flushRanges a else s
      s.onFlight a q (fun f => { f with
        phase := f.afterDrain
        snoopAt := s.now
        earliest := max f.earliest ((s.view a).cyc + f.handoverCycles) })
    else s

/-! ### Refusals (08 R283) -/

/-- A send ends refused: the capability is an orphan of the sender's partition (08 R283). -/
def State.refuseSend (s : State) (f : Flight) (c : Cap) (reason : Word) : State :=
  (s.orphan f.res.part c).failInTime f.agent f.seq 0x20 (sendMbox f.t).toNat reason

/-! ### Changes (08 R260) -/

/-- An operation is done but for its time: its status word. -/
def State.doneWith (s : State) (f : Flight) (w : Option Word) : State := s.ready f.agent f.seq w

/-- What the operation's completion writes to capability registers; until then they stay pending (08 R256). -/
def State.results (s : State) (f : Flight) (ks : List (BitVec 5 × KReg)) : State :=
  s.onFlight f.agent f.seq (fun g => { g with kres := ks })

/-- An operation is done but for its time: a register gets a capability then. -/
def State.giveKd (s : State) (f : Flight) (c : Cap) (w : Word) : State :=
  (s.results f [(f.kb, .cap c)]).doneWith f (some w)

/-- kd gets back nothing: it becomes empty, with a code (08 R256). -/
def State.emptyKd (s : State) (f : Flight) (w : Word) : State := (s.results f [(f.kb, .empty)]).doneWith f (some w)

/-- The rights of a fraction or a grant (08 R255). -/
def lentRights (g : Bool) (parent : BitVec 6) : BitVec 6 :=
  if g then rightA ||| rightS else parent &&& (rightR ||| rightS ||| rightM ||| rightX)

/-- split (08 R272). -/
def State.changeSplit (s : State) (f : Flight) (c : Cap) : State :=
  let g := splitG f.t
  let n := splitN f.t
  let s := if c.owns then s.onDesc c.part c.desc.toNat (fun d => { d with
      share := if g then 0b10 else 0b01
      count := d.count + n
      retv := d.retv || splitNotify f.t
      retmb := if splitNotify f.t then f.t.extractLsb' 32 17 else d.retmb }) else s
  let part : Cap := { c with
    kind := if g then .grant else .fraction
    rights := if c.owns then lentRights g c.rights else c.rights
    count := n }
  let d := s.descOf c
  s.giveKd f part (statusWord 0 ((d.map (·.count)).getD 0) false false false false ((d.map (·.cls)).getD 0) 0)

/-- The capability is the last that this device holds for a REMOTE buffer (01 R51). -/
def State.lastRemote (s : State) (c : Cap) : Bool :=
  match s.descOf c with
  | some d => d.cls == 4 && (c.owns || (d.foreign && decide (d.count ≤ c.count)))
  | none => false

/-- The lines of a REMOTE buffer leave the slices before its last capability goes: the write-backs are sent, and then the
operation waits for them (01 R51). -/
def State.afterWriteBack (s : State) (f : Flight) (c : Cap) (go : State → State) : State :=
  if s.lastRemote c then
    if f.stage = 0 then (s.writeBack c).onFlight f.agent f.seq (fun g => { g with stage := 1 })
    else if s.writeBacks c then s else go s
  else go s

/-- drop: a fraction or grant returns; a whole capability is an orphan (08 R274). -/
def State.changeDrop (s : State) (f : Flight) (c : Cap) : State :=
  s.afterWriteBack f c (fun s => (if c.owns then s.orphan c.part c else s.returnCap c).doneWith f none)

/-- The upper half of a cut: a descriptor of its own (08 R277). -/
def Desc.upper (d : Desc) (x : Nat) : Desc :=
  { d with base := d.base + BitVec.ofNat 64 x, lenm1 := BitVec.ofNat 35 ((d.len - x) / 32 - 1), watch := Vector.replicate 4 0 }

/-- The lower half of a cut. -/
def Desc.lower (d : Desc) (x : Nat) : Desc :=
  { d with lenm1 := BitVec.ofNat 35 (x / 32 - 1), watch := Vector.replicate 4 0 }

/-- cut (08 R277). -/
def State.changeCut (s : State) (f : Flight) (c : Cap) : State :=
  let cl := xlatCluster f.agent
  let x := cutOff f.o
  match s.freeDesc c.part, s.descOf c with
  | some i, some d =>
    let s := s.traceLost c.part c.desc.toNat
    let lo := s.countPoison cl c.part (d.lower x)
    let hi := s.countPoison cl c.part (d.upper x)
    let s := (s.putDesc c.part c.desc.toNat lo).putDesc c.part i hi
    (s.results f [(f.ka, .cap c), (f.kb, .cap { c with desc := BitVec.ofNat 32 i })]).doneWith f
      (some (statusWord (BitVec.ofNat 32 i) 0 false false false false d.cls 0))
  | _, d =>
    (s.results f [(f.ka, .cap c), (f.kb, .empty)]).doneWith f
      (some (statusWord 0 0 false false false false ((d.map (·.cls)).getD 0) 4))

/-- fuse (08 R278). -/
def State.changeFuse (s : State) (f : Flight) (c e : Cap) : State :=
  let cl := xlatCluster f.agent
  match s.descOf c, s.descOf e with
  | some d, some u =>
    let s := (s.traceLost c.part c.desc.toNat).traceLost e.part e.desc.toNat
    let whole := { d with lenm1 := BitVec.ofNat 35 ((d.len + u.len) / 32 - 1), watch := Vector.replicate 4 0 }
    let s := (s.dropDesc e.part e.desc.toNat).putDesc c.part c.desc.toNat (s.countPoison cl c.part whole)
    (s.results f [(f.ka, .cap c), (f.kb, .empty)]).doneWith f (some (statusWord 0 0 false false false false d.cls 0))
  | _, _ => s.emptyKd f (statusCode 0)

/-- The range that alloc takes (08 R268). -/
def State.allocRange (s : State) (f : Flight) : Option Nat :=
  let fmt : BitVec 4 := f.t.extractLsb' 11 4
  let n := allocLen f.o
  match fieldN f.t.toNat 8 3 with
  | 0 => if isCompute f.agent then s.localRange f.agent none fmt n else none
  | 1 => s.clusterRange (agentCluster f.agent) fmt n
  | _ => s.hbmRange f.res.part n

/-- alloc (08 R268). -/
def State.changeAlloc (s : State) (f : Flight) : State :=
  let part := f.res.part
  match s.allocRange f, s.freeDesc part with
  | some a, some i =>
    let d : Desc := {
      cls := f.t.extractLsb' 8 3
      fmt := f.t.extractLsb' 11 4
      owner := ownerReg f.agent f.kb
      owndev := s.dev
      base := BitVec.ofNat 64 a
      lenm1 := BitVec.ofNat 35 (allocLen f.o / 32 - 1) }
    let s := s.putDesc part i (s.countPoison (xlatCluster f.agent) part d)
    s.giveKd f ⟨.whole, part, BitVec.ofNat 32 i, f.t.extractLsb' 16 6, 0⟩
      (statusWord (BitVec.ofNat 32 i) 0 false false false false d.cls 0)
  | _, _ => s.emptyKd f (statusCode 4)

/-- free: the storage is free and the descriptor is cleared (08 R269). -/
def State.changeFree (s : State) (f : Flight) (c : Cap) : State :=
  ((s.traceLost c.part c.desc.toNat).dropDesc c.part c.desc.toNat).doneWith f none

/-! ### Placements and copies (08 R281, R282, R288) -/

/-- The cluster whose memory holds a LOCAL or CLUSTER buffer. -/
def Desc.cluster (d : Desc) : Nat :=
  match placeOf d.base.toNat with
  | .pad c _ => clusterOf c
  | .sram cl _ => cl
  | _ => 128

/-- A range for bytes that a mailbox's placement receives, and the class of that memory (08 R282, R288): for a mailbox of
a launch a local placement stands for the cluster's pool until the recv. -/
def State.placement (s : State) (cl : Nat) (m : Mailbox) (fmt : BitVec 4) (n : Nat) : Option (Nat × BitVec 3) :=
  let pool := (s.clusterRange cl fmt n).map (fun a => (a, (1 : BitVec 3)))
  match m.bound with
  | .cont _ _ => if m.place.getLsbD 4 then pool
      else (s.localRange m.core (some (m.place.toNat % 16)) fmt n).map (fun a => (a, 0))
  | _ => pool

/-- The placement, or the HBM pool of the receiving partition when it holds no free range (08 R282). -/
def State.copyTo (s : State) (cl : Nat) (m : Mailbox) (part : BitVec 4) (d : Desc) : CopyTo :=
  match s.placement cl m d.fmt d.len with
  | some (a, cls) => .place a cls
  | none => match s.hbmRange part d.len with
    | some va => .pool va
    | none => .full

/-- A copy is set out: the state, and its number. -/
def State.newHaul (s : State) (h : Haul) : State × Nat :=
  let i := firstGap 0 s.hauls
  ({ s with hauls := tabPut i h s.hauls }, i)

/-- The partition whose pool or core receives a copy's bytes: none for a mailbox that is unbound, which takes none (08 R283). -/
def State.haulPart (s : State) (h : Haul) : Option (BitVec 4) :=
  match h.goal with
  | .mailbox m => (s.mailbox (mboxCluster m) (mboxIndex m)).bound.part?
  | .pool p => some p
  | .bank _ _ => h.src.map (·.part)
  | .link => none

/-- The range that a copy takes: the mailbox's placement, or a pool, or a bank of the core that receives (08 R282, R285,
R288). -/
def State.haulPlace (s : State) (h : Haul) (part : BitVec 4) : CopyTo :=
  match h.goal with
  | .mailbox m => s.copyTo (mboxCluster m) (s.mailbox (mboxCluster m) (mboxIndex m)) part h.desc
  | .pool p => ((s.hbmRange p h.desc.len).map CopyTo.pool).getD .full
  | .bank cn n => ((s.localRange cn (some n) h.desc.fmt h.desc.len).map (fun a => CopyTo.place a 0)).getD .full
  | .link => .full

/-- A request of a copy: it is translated, where it must be, for the agent for whom the copy is made. -/
def State.haulReq (s : State) (i : Nat) (h : Haul) (part : BitVec 4) (cls : BitVec 3) (off : Nat) (acc : Access) : Req where
  src := .haul (xlatCluster h.agent) i
  path := 4
  part := part
  desc := (h.src.map (·.desc)).getD 0
  cls := cls
  off := off
  va := acc.addr
  xpart := part
  rm := 0
  xRead := true
  xWrite := true
  dev := s.dev
  core := agentCore h.agent
  nc := false
  home := 0
  kreg := none
  acc := acc

/-- The granules that a request may cover from an address on: up to the next boundary of 128 bytes (05 R178, R199). -/
def lineRoom (a : Nat) : Nat := 4 - a / 32 % 4

/-- A copy reads its next granules (08 R282). -/
def State.haulRead (s : State) (i : Nat) (h : Haul) (c : Cap) : State :=
  let off := 32 * h.data.length
  let a := h.desc.base.toNat + off
  (s.onHaul i (fun h => { h with busy := true })).send
    (s.haulReq i h c.part h.desc.cls off (.read a (min (32 * lineRoom a) (h.desc.len - off)) 0))

/-- A copy writes the next of the granules that it has read; the poison of one moves with it (08 R282). -/
def State.haulWrite (s : State) (i : Nat) (h : Haul) (base : Nat) (cls : BitVec 3) : State :=
  let off := 32 * h.put
  let gs := ((h.data.drop h.put).take (lineRoom (base + off))).takeWhile (fun g => !g.isEmpty)
  (s.onHaul i (fun h => { h with busy := true, moving := max gs.length 1 })).send
    (s.haulReq i h h.part cls off (.write (base + off) gs.flatten []))

/-- A copy takes its range; without one it is over, and but for a recv it has failed (08 R282, R283, R288). -/
def State.haulChoose (s : State) (i : Nat) (h : Haul) : State :=
  match s.haulPart h with
  | none => s.onHaul i (fun h => { h with over_ := true })
  | some part => match s.haulPlace h part, h.goal with
    | .full, .bank _ _ => s.onHaul i (fun h => { h with over_ := true })
    | .full, _ => s.onHaul i (fun h => { h with over_ := true, fault := some ⟨0x20, 0, 2⟩ })
    | p, _ => s.onHaul i (fun h => { h with place := some p, part := part })

/-- The next step of a copy: it takes its range, writes what it has read, reads on, or is over (01 R30; 08 R282). -/
def State.haulNext (s : State) (i : Nat) (h : Haul) : State :=
  if h.fault.isSome then s.onHaul i (fun h => { h with over_ := true })
  else match h.goal, h.place, h.src with
    | .link, _, some c =>
      if 32 * h.data.length < h.desc.len then s.haulRead i h c else s.onHaul i (fun h => { h with over_ := true })
    | _, none, _ => s.haulChoose i h
    | _, some p, src =>
      if h.put < h.data.length then match p with
        | .place a cls => s.haulWrite i h a cls
        | .pool va => s.haulWrite i h va 2
        | .full => s
      else match src, decide (32 * h.data.length < h.desc.len) with
        | some c, true => s.haulRead i h c
        | _, _ => s.onHaul i (fun h => { h with over_ := true })

/-- A copy that its engine may go on with: nothing of it is on its way. -/
def Haul.goes (h : Haul) : Bool := !h.busy && !h.over_

/-- The descriptor that copied bytes get: the buffer's own for a capability that owns it, a replica's for a fraction, a new one
for bytes of another device, with the capability that names it (08 R281, R284, R285). None when the table is full. -/
def State.copiedDesc (s : State) (h : Haul) (c : Cap) (part : BitVec 4) (base : Nat) (cls : BitVec 3) : Option (State × Cap) :=
  let put (s : State) (i : Nat) (d : Desc) : State × Cap :=
    (s.putDesc part i (s.countPoison (s.tableCluster part) part { d with base := BitVec.ofNat 64 base, cls := cls }),
      { c with part := part, desc := BitVec.ofNat 32 i })
  match h.src, s.descOf c with
  | none, _ => (s.freeDesc part).map (fun i => put s i { h.desc with homedev := 0 })
  | some _, some d => (s.freeDesc part).map (fun i =>
      let orig : BitVec 4 × BitVec 32 := if d.repl then (d.parentPart, d.parent) else (c.part, c.desc)
      let s := if d.repl then
          (if d.count ≤ c.count then s.dropDesc c.part c.desc.toNat
            else s.onDesc c.part c.desc.toNat (fun x => { x with count := x.count - c.count })) else s
      put s i { d with
        repl := true
        pin := false
        share := 0b01
        count := c.count
        parent := orig.2
        parentPart := orig.1
        watch := Vector.replicate 4 0
        retv := false })
  | some _, none => none

/-! ### send (08 R279, R281, R284, R285) -/

/-- What a send does with the bytes (08 R281, R285). -/
inductive SendMove where
  | rights
  | copy
  | refuse (reason : Word)
  deriving DecidableEq, Repr

/-- The move of a send to a mailbox, to another device (`far`) or to the host: the first matching row of 08 R281, with the
additions of 08 R285. -/
def sendMove (c : Cap) (d : Desc) (mbox : BitVec 17) (far host : Bool) : SendMove :=
  let inPlace := decide (d.cls.toNat < 2)
  if host && (d.cls == 4 || d.cls == 5 || (inPlace && d.pin)) then .refuse 3
  else if far && (d.cls == 3 || (inPlace && d.pin)) then .refuse 3
  else if d.pin || c.residual || !inPlace || c.kind == .grant then .rights
  else if far || host || mboxCluster mbox != d.cluster then .copy
  else .rights

/-- A message of a send sets out, behind the copy of its bytes where there is one (08 R279). -/
def State.sendMessage (s : State) (f : Flight) (c : Cap) (haul : Option Nat) : State :=
  let far := s.farDev (sendDev f.t)
  let s := s.setOwner c (ownerMsg (sendMbox f.t) (sendHost f.t))
  let s := if c.owns then s.onDesc c.part c.desc.toNat (fun d => { d with auto := false }) else s
  let s := s.onFlight f.agent f.seq (fun f => { f with phase := .message })
  { s with msgs := s.msgs ++ [{
      src := f.agent, seq := some f.seq, part := f.res.part, mbox := sendMbox f.t, host := sendHost f.t,
      dev := far, refused := false, pay := .cap c (f.o.extractLsb' 0 32) (haul.isSome && far.isSome) false,
      sender := some ⟨f.seq, f.res.launch, f.res.wid, f.pc⟩, haul := haul }] }

/-- The word of a send's flight that says that the sluice let it pass. -/
def Flight.passed (f : Flight) : Bool := f.index == 1

/-- Where a send's copied bytes go: to the mailbox's placement, to this device's own HBM pool for the host, or with the message
to another device (08 R281, R285). -/
def State.sendGoal (s : State) (f : Flight) : HaulTo :=
  if (s.farDev (sendDev f.t)).isSome then .link else if sendHost f.t then .pool f.res.part else .mailbox (sendMbox f.t)

/-- send: rights only, or a copy, or a refusal (08 R279 steps 2 and 5, R281). -/
def State.changeSend (s : State) (f : Flight) (c : Cap) : State :=
  match s.descOf c with
  | none => s.refuseSend f c 1
  | some d =>
    let far := (s.farDev (sendDev f.t)).isSome
    if !f.passed then s.refuseSend f c 1
    else match sendMove c d (sendMbox f.t) far (sendHost f.t) with
      | .refuse r => s.refuseSend f c r
      | .rights => (if far || sendHost f.t then s.writeBack c else s).sendMessage f c none
      | .copy =>
        let s := s.onFlight f.agent f.seq (fun g => { g with
          earliest := g.earliest + 8 * routeHops (agentCluster f.agent) (mboxCluster (sendMbox f.t)) + (d.len + 127) / 128 })
        let (s, i) := s.newHaul { agent := f.agent, goal := s.sendGoal f, src := some c, desc := d }
        s.sendMessage f c (some i)

/-! ### recv and peek (08 R288, R291, R292) -/

/-- `cap.k` as it stands now, in the core or in the frame of a continuation that is away (08 R291). -/
def State.capKNow (s : State) (f : Flight) : BitVec 5 :=
  if !isCompute f.agent || f.counted then (s.view f.agent).latchK f.op
  else match f.frame with
    | some a => BitVec.ofNat 5 (leNat (s.readBytes (a + 0x600 + 8 * (4 * f.op.unit + 1)) 1))
    | none => f.ka

/-- The event record can be written where k and `cap.o` say: the offset, when it can (08 R291). -/
def State.eventRoom (s : State) (f : Flight) (n : Nat) : Option (Cap × Desc × Nat) :=
  let off := fieldN f.o.toNat 0 40
  match s.flightK f (s.capKNow f) with
  | .cap c => match s.descOf c with
    | some d =>
      if c.kind = .whole ∧ c.writes ∧ d.localTo f.agent ∧ off % 32 = 0 ∧ off + n ≤ d.len then some (c, d, off) else none
    | none => none
  | _ => none

/-- A buffer that was copied for a launch's local placement is moved at the recv into bank n of the core that receives it
(08 R288): the copy that this takes. -/
def State.bankHaul (s : State) (f : Flight) (m : Mailbox) (c : Cap) (copied : Bool) : Option Haul :=
  match m.bound, s.descOf c with
  | .launch _ _, some d =>
    if copied && !m.place.getLsbD 4 && isCompute f.agent && d.cls != 0 then
      some { agent := f.agent, goal := .bank f.agent (m.place.toNat % 16), src := some c, desc := d }
    else none
  | _, _ => none

/-- The recv will move the buffer, since its bank has a free range (08 R288, R292). -/
def State.bankMoves (s : State) (f : Flight) (m : Mailbox) : Option Payload → Bool
  | some (.cap c _ copied _) => (s.bankHaul f m c copied).any (fun h => s.haulPlace h c.part != .full)
  | _ => false

/-- The status of a message at the head of a mailbox; `moved`: its buffer goes to a bank of the receiving core (08 R288,
R291, R292). -/
def State.headStatus (s : State) (room moved : Bool) (count : BitVec 16) : Option Payload → Word
  | none => statusWord 0 count false false false false 0 1
  | some (.cap c w copied demoted) =>
    statusWord w count false false (demoted && !moved) copied (if moved then 0 else ((s.descOf c).map (·.cls)).getD 0) 0
  | some (.notice i) => statusWord i count true false false false 0 0
  | some (.event _) => if room then statusWord 0 count false true false false 0 0
      else statusWord 0 count false false false false 0 6
  | some (.record _) => if room then statusWord 0 count false true false false 0 0
      else statusWord 0 count false false false false 0 6

/-- The bytes of a record that a recv writes to memory: a watch event, or a fault record (08 R291; log 35). -/
def Payload.bytes : Payload → List Byte
  | .event r => leBytes 32 r.toNat
  | .record r => leBytes 64 r.toNat
  | _ => []

/-- recv of a record into the event buffer, through the port (08 R291). -/
def State.recvRecord (s : State) (f : Flight) (cl i : Nat) (p : Payload) : State :=
  match s.eventRoom f p.bytes.length with
  | none => s.emptyKd f (s.headStatus false false 0 (some p))
  | some (c, d, off) =>
    let s := s.onMailbox cl i (fun m => { m with queue := m.queue.drop 1 })
    let s := s.results f [(f.kb, .empty)]
    let s := s.recordTouch f.agent ⟨c, true, off, p.bytes.length⟩
    let s := s.onFlight f.agent f.seq (fun g => { g with
      phase := .active, open_ := 1, result := some (s.headStatus true false 0 (some p)) })
    s.send (s.reqOf f 4 none c d off (.write 0 p.bytes []))

/-- A recv takes a capability: its buffer is first moved where a launch's local placement says so (08 R288, R291). -/
def State.recvCap (s : State) (f : Flight) (cl i : Nat) (c : Cap) (p : Payload) (copied : Bool) : State :=
  let m := s.mailbox cl i
  let s := (s.onMailbox cl i (fun m => { m with queue := m.queue.drop 1 }))
  match s.bankHaul f m c copied with
  | none => s.giveKd f c (s.headStatus true false 0 (some p))
  | some h =>
    let (s, n) := s.newHaul h
    (s.giveKd f c (s.headStatus true false 0 (some p))).onFlight f.agent f.seq (fun g => { g with phase := .copying, index := n })

/-- The copy of a recv is over: the buffer stands in the bank, with the status that says so, or where it stood (08 R288). -/
def State.recvMoved (s : State) (f : Flight) (h : Haul) : State :=
  let s : State := { s with hauls := tabDrop f.index s.hauls }
  match h.place, f.kres with
  | some (.place a _), (_, .cap c) :: _ => match s.descOf c, h.fault with
    | some d, none =>
      let s := s.putDesc c.part c.desc.toNat
        (s.countPoison (s.tableCluster c.part) c.part { d with base := BitVec.ofNat 64 a, cls := 0 })
      let s := s.seenWrite 4 c.part c.desc 0 0 d.len s.dev 0x7FF none f.agent (some f.seq)
      s.doneWith f (f.result.map (fun w => w &&& ~~~0x1700#64))
    | _, _ => s.doneWith f f.result
  | _, _ => s.doneWith f f.result

/-- HANDOVER_COPY of copy `i`, or of the first that may go on (01 R30; 08 R282). A recv whose copy is over goes on at once. -/
def State.haulStep (s : State) (i : Nat) : State :=
  let n := if (tabFind i s.hauls).any Haul.goes then some i else (s.hauls.find? (fun e => e.2.goes)).map (·.1)
  match n.bind (fun n => (tabFind n s.hauls).map (fun h => (n, h))) with
  | none => s
  | some (n, h) =>
    let s := s.haulNext n h
    match tabFind n s.hauls, s.flights.find? (fun f => f.phase == .copying && f.index == n) with
    | some h, some f => if h.over_ then s.recvMoved f h else s
    | _, _ => s

/-- recv (08 R291). -/
def State.changeRecv (s : State) (f : Flight) : State :=
  let cl := agentCluster f.agent
  let i := fieldN f.t.toNat 0 10
  let m := s.mailbox cl i
  if !m.bound.held f.res then s.emptyKd f (statusCode 3)
  else match m.queue.map Msg.pay with
    | [] => s.emptyKd f (statusCode 1)
    | .cap c w copied demoted :: _ => s.recvCap f cl i c (.cap c w copied demoted) copied
    | .notice n :: _ =>
      (s.onMailbox cl i (fun m => { m with queue := m.queue.drop 1 })).emptyKd f (s.headStatus true false 0 (some (.notice n)))
    | p :: _ => s.recvRecord f cl i p

/-- peek: the word that recv would deliver, with the number of messages (08 R292). -/
def State.changePeek (s : State) (f : Flight) : State :=
  let m := s.mailbox (agentCluster f.agent) (fieldN f.t.toNat 0 10)
  if !m.bound.held f.res then s.doneWith f (some (statusCode 3))
  else
    let head := m.queue.head?.map (·.pay)
    let room := (head.map (fun p => (s.eventRoom f p.bytes.length).isSome)).getD true
    s.doneWith f (some (s.headStatus room (s.bankMoves f m head) (BitVec.ofNat 16 m.queue.length) head))

/-! ### bindmb and closemb (08 R288, R289) -/

/-- The binding that an operation's continuation makes; a service or kernel core's operations have no record. -/
def Flight.binding (f : Flight) : Binding :=
  if isCompute f.agent then .cont f.res.record f.res.part else .launch f.res.launch f.res.part

/-- bindmb (08 R288). -/
def State.changeBind (s : State) (f : Flight) : State :=
  let cl := agentCluster f.agent
  let i := fieldN f.t.toNat 0 10
  let m := s.mailbox cl i
  if m.bound = .unbound ∨ m.bound = f.binding then
    (s.onMailbox cl i (fun m => { m with
      bound := f.binding, place := f.t.extractLsb' 16 5, core := f.agent })).doneWith f (some (statusCode 0))
  else s.doneWith f (some (statusCode 2))

end Sys2Proof.Machine
end

