-- ==== Sys2Proof/Machine/Records.lean ====
section
/-! DEFINITION. The scheduler's tables in memory: continuation records (04 R149), templates (10 R344 to R347), task control
blocks (10 R351, R352), futures (10 R362) and fault-area slots (10 R385). -/

namespace Sys2Proof.Machine

/-! ### Bit fields of memory -/

/-- Bits `lo .. lo+w-1` counted from the byte at a physical address. -/
def State.bitsIn (s : State) (a lo w : Nat) : Nat :=
  leNat (s.readBytes (a + lo / 8) ((lo % 8 + w + 7) / 8)) / 2 ^ (lo % 8) % 2 ^ w

/-- The same bits written. -/
def State.putBits (s : State) (a lo w v : Nat) : State :=
  let n := (lo % 8 + w + 7) / 8
  let old := leNat (s.readBytes (a + lo / 8) n)
  let sh := lo % 8
  s.writeBytes (a + lo / 8) (leBytes n (old - old / 2 ^ sh % 2 ^ w * 2 ^ sh + v % 2 ^ w * 2 ^ sh))

/-! ### PBLOCK (10 R357) -/

/-- A field of a partition's block. -/
def Partition.pfield (p : Partition) (lo w : Nat) : Nat := fieldN p.pblock.toNat lo w
/-- A cluster is eligible for the partition. -/
def Partition.inCmask (p : Partition) (cl : Nat) : Bool := p.pblock.getLsbD cl && decide (cl < 128)
/-- TCBBASE. -/
def Partition.tcbBase (p : Partition) : Nat := p.pfield 128 52
/-- TCBLEN. -/
def Partition.tcbLen (p : Partition) : Nat := p.pfield 192 24
/-- TMPLBASE. -/
def Partition.tmplBase (p : Partition) : Nat := p.pfield 256 52
/-- TMPLLEN. -/
def Partition.tmplLen (p : Partition) : Nat := p.pfield 320 16
/-- FUTBASE. -/
def Partition.futBase (p : Partition) : Nat := p.pfield 384 52
/-- FUTLEN. -/
def Partition.futLen (p : Partition) : Nat := p.pfield 448 32
/-- CONTBASE. -/
def Partition.contBase (p : Partition) : Nat := p.pfield 512 52
/-- CONTLEN. -/
def Partition.contLen (p : Partition) : Nat := p.pfield 576 32
/-- SVCQ. -/
def Partition.svcq (p : Partition) : Nat := p.pfield 608 8
/-- SPILL. -/
def Partition.spill (p : Partition) : Nat := p.pfield 640 52

/-! ### Continuation records (04 R149) -/

/-- The place of a field of a record. -/
def recPcoff : Nat × Nat := (0, 32)
/-- OVL. -/
def recOvl : Nat × Nat := (32, 16)
/-- WKIND. -/
def recWkind : Nat × Nat := (48, 2)
/-- FRAME. -/
def recFrame : Nat × Nat := (50, 1)
/-- RETRY. -/
def recRetry : Nat × Nat := (51, 1)
/-- WID. -/
def recWid : Nat × Nat := (64, 64)
/-- Gn, n = 0 to 3. -/
def recG (n : Nat) : Nat × Nat := (128 + 64 * n, 64)
/-- CSET. -/
def recCset : Nat × Nat := (384, 32)
/-- LAUNCH. -/
def recLaunch : Nat × Nat := (416, 32)
/-- WHANDLE. -/
def recWhandle : Nat × Nat := (448, 32)
/-- STATE. -/
def recState : Nat × Nat := (480, 8)
/-- QUEUE. -/
def recQueue : Nat × Nat := (488, 8)

/-- A field of the record, template, TCB or future at an address. -/
def State.fld (s : State) (a : Nat) (f : Nat × Nat) : Nat := s.bitsIn a f.1 f.2
/-- The field written. -/
def State.setFld (s : State) (a : Nat) (f : Nat × Nat) (v : Nat) : State := s.putBits a f.1 f.2 v

/-- A record as it is created (10 R349, R369, R372): where it starts, its work identifier, g0 to g3, set, launch and
queue; STATE is ready. -/
structure NewRecord where
  pc : CodePtr
  wid : Word
  g : List Word
  cset : Nat
  launch : Nat
  queue : Nat

/-- The 64 bytes of a new record (04 R149). -/
def NewRecord.bytes (r : NewRecord) : List Byte :=
  leBytes 4 r.pc.off.toNat ++ leBytes 2 r.pc.ovl.toNat ++ leBytes 2 3 ++ leBytes 8 r.wid.toNat ++
    ((List.range 4).flatMap (fun i => leBytes 8 ((r.g.getD i 0).toNat))) ++ leBytes 4 r.cset ++ leBytes 4 r.launch ++
    leBytes 4 0 ++ [1] ++ [BitVec.ofNat 8 r.queue] ++ [0, 0]

/-- Write a new record of a partition: its continuation has not run (10 R349). -/
def State.putRecord (s : State) (part : BitVec 4) (a : Nat) (r : NewRecord) : State :=
  (s.writeBytes a r.bytes).onPart part (fun p => { p with fresh := p.fresh.filter (· != a) ++ [a] })

/-- The lowest free records of a partition's store, up to a number of them (10 R487). -/
def State.freeRecords (s : State) (part : BitVec 4) (n : Nat) : List Nat :=
  let p := s.part part
  (((List.range p.contLen).map (fun i => p.contBase + 64 * i)).filter (fun a => s.fld a recState == 0)).take n

/-! ### Capability sets (08 R486) -/

/-- The lowest free sets of a partition, up to a number of them. -/
def freeSetsFrom : Nat → Nat → Nat → Tab (Vector KReg 32) → List Nat
  | 0, _, _, _ => []
  | n + 1, lim, i, t =>
    let j := firstGap i (t.filter (fun e => decide (i ≤ e.1)))
    if j < lim then j :: freeSetsFrom n lim (j + 1) t else []

/-- The lowest free sets of a partition. -/
def State.freeSets (s : State) (part : BitVec 4) (n : Nat) : List Nat :=
  let p := s.part part
  freeSetsFrom n p.cslen.toNat 0 p.sets

/-- An empty set. -/
def emptySet : Vector KReg 32 := Vector.replicate 32 .empty

/-- A set taken, with the capabilities of a list in slots 0, 1, … (08 R486; 10 R348). -/
def State.takeSet (s : State) (part : BitVec 4) (i : Nat) (caps : List Cap) : State :=
  s.onPart part (fun p => { p with
    sets := tabPut i (Vector.ofFn (fun j : Fin 32 => match caps[j.val]? with
      | some c => .cap c
      | none => .empty)) p.sets })

/-- A set freed. -/
def State.dropSet (s : State) (part : BitVec 4) (i : Nat) : State :=
  s.onPart part (fun p => { p with sets := tabDrop i p.sets })

/-- The capabilities of a set, in slot order. -/
def State.setCaps (s : State) (part : BitVec 4) (i : Nat) : List Cap :=
  match tabFind i (s.part part).sets with
  | some v => v.toList.filterMap KReg.cap?
  | none => []

/-- Capabilities go to a new return set: its index; to the orphan list when no set is free (08 R486). -/
def State.toReturnSet (s : State) (part : BitVec 4) (caps : List Cap) : State × Option Nat :=
  match s.freeSets part 1 with
  | i :: _ => ((caps.foldl (fun s c => s.setOwner c (ownerReturn i)) (s.takeSet part i caps)), some i)
  | [] => (caps.foldl (fun s c => s.orphan part c) s, none)

/-! ### Templates (10 R344 to R347) -/

/-- The address of a registered template of a partition; none when the index is beyond the table (10 R344). -/
def State.tmplAt (s : State) (part : BitVec 4) (i : Nat) : Option Nat :=
  let p := s.part part
  let a := p.tmplBase + 512 * i
  if i < p.tmplLen ∧ s.bitsIn a 0 4 ≠ 0 then some a else none

/-- NFIELD. -/
def State.tNfield (s : State) (t : Nat) : Nat := s.bitsIn t 0 4
/-- CL. -/
def State.tCl (s : State) (t : Nat) : Nat := s.bitsIn t 4 3
/-- TL. -/
def State.tTl (s : State) (t : Nat) : Nat := s.bitsIn t 7 3
/-- TRACE. -/
def State.tTrace (s : State) (t : Nat) : Bool := s.bitsIn t 10 1 == 1
/-- BATCH. -/
def State.tBatch (s : State) (t : Nat) : Bool := s.bitsIn t 11 1 == 1
/-- GBAR. -/
def State.tGbar (s : State) (t : Nat) : Nat := s.bitsIn t 16 6
/-- GBV. -/
def State.tGbv (s : State) (t : Nat) : Bool := s.bitsIn t 22 1 == 1
/-- RSVB. -/
def State.tRsvb (s : State) (t : Nat) : Nat := s.bitsIn t 24 7
/-- CODEK. -/
def State.tCodek (s : State) (t : Nat) : Nat := s.bitsIn t 32 5
/-- CODEV. -/
def State.tCodev (s : State) (t : Nat) : Bool := s.bitsIn t 37 1 == 1
/-- ENTRY. -/
def State.tEntry (s : State) (t : Nat) : CodePtr :=
  ⟨BitVec.ofNat 32 (s.bitsIn t 64 32), BitVec.ofNat 16 (s.bitsIn t 96 16)⟩
/-- XB. -/
def State.tXb (s : State) (t : Nat) : Nat := s.bitsIn t 128 64
/-- OVH. -/
def State.tOvh (s : State) (t : Nat) : Nat := s.bitsIn t 192 32
/-- The width of field f. -/
def State.tWidth (s : State) (t f : Nat) : Nat := s.bitsIn (t + 0x20) (8 * f) 8
/-- The extent of field f; 0 stands for 2^64 when its width is 64 (10 R345). -/
def State.tExtent (s : State) (t f : Nat) : Nat :=
  let e := s.bitsIn (t + 0x28) (64 * f) 64
  if e = 0 ∧ s.tWidth t f = 64 then 2 ^ 64 else e
/-- MINCHUNK. -/
def State.tMinchunk (s : State) (t : Nat) : Nat := s.bitsIn (t + 0x58) 0 32
/-- DIVISOR. -/
def State.tDivisor (s : State) (t : Nat) : Nat := s.bitsIn (t + 0x58) 32 16
/-- FAULT. -/
def State.tFault (s : State) (t : Nat) : Nat := s.bitsIn (t + 0x60) 0 64
/-- FSLOTS. -/
def State.tFslots (s : State) (t : Nat) : Nat := s.bitsIn (t + 0x68) 0 32
/-- Mailbox binding i: V, placement and index. -/
def State.tMbox (s : State) (t i : Nat) : Option (BitVec 5 × Nat) :=
  let x := s.bitsIn (t + 0x70) (16 * i) 16
  if x.testBit 15 then some (BitVec.ofNat 5 (fieldN x 10 5), fieldN x 0 10) else none
/-- BFn. -/
def State.tBf (s : State) (t n : Nat) : Word := BitVec.ofNat 64 (s.bitsIn (t + 0x80) (64 * n) 64)
/-- Capability entry i (10 R347). -/
def State.tEntryCap (s : State) (t i : Nat) : Nat := s.bitsIn (t + 0x100) (64 * i) 64
/-- The capability entries that are used. -/
def State.tCaps (s : State) (t : Nat) : List Nat :=
  ((List.range 16).map (s.tEntryCap t)).filter (fun e => e.testBit 21)

/-- SRC of a capability entry. -/
def entSrc (e : Nat) : Nat := fieldN e 0 5
/-- MODE. -/
def entMode (e : Nat) : Nat := fieldN e 5 3
/-- DST. -/
def entDst (e : Nat) : BitVec 5 := BitVec.ofNat 5 (fieldN e 8 5)
/-- FMT. -/
def entFmt (e : Nat) : BitVec 4 := BitVec.ofNat 4 (fieldN e 16 4)
/-- IMGV. -/
def entImgv (e : Nat) : Bool := e.testBit 20
/-- The length of a LOCAL entry in bytes. -/
def entLen (e : Nat) : Nat := 32 * (fieldN e 24 14 + 1)
/-- The image's offset in bytes. -/
def entImgoff (e : Nat) : Nat := 32 * fieldN e 38 26

/-! ### Work identifiers (10 R341, R342) -/

/-- Widths and extents of a template's fields, field 0 first. -/
def State.tFields (s : State) (t : Nat) : List (Nat × Nat) :=
  (List.range (s.tNfield t)).map (fun f => (s.tWidth t f, s.tExtent t f))

/-- Work items of fields. -/
def itemsOf (fs : List (Nat × Nat)) : Nat := (fs.map (·.2)).prod

/-- Items of a launch. -/
def State.tItems (s : State) (t : Nat) : Nat := itemsOf (s.tFields t)
/-- Items of a cluster group. -/
def State.tGroup (s : State) (t : Nat) : Nat := itemsOf ((s.tFields t).drop (s.tCl t))
/-- Items of a block. -/
def State.tBlock (s : State) (t : Nat) : Nat := itemsOf ((s.tFields t).drop (s.tTl t))

/-- The work identifier of an enumeration index: the last field varies fastest (10 R341). -/
def widOf : List (Nat × Nat) → Nat → Nat
  | [], _ => 0
  | (_, e) :: rest, n =>
    let inner := itemsOf rest
    (n / inner % e) * 2 ^ ((rest.map (·.1)).sum) + widOf rest (n % inner)

/-- The template keeps the rules of 10 R341, R342 and R346. -/
def State.tmplOk (s : State) (t : Nat) : Bool :=
  let fs := s.tFields t
  decide (s.tNfield t ≤ 6) && fs.all (fun x => decide (1 ≤ x.1) && decide (1 ≤ x.2) && decide (x.2 ≤ 2 ^ x.1)) &&
    decide ((fs.map (·.1)).sum ≤ 64) && decide (s.tCl t ≤ s.tNfield t) && decide (s.tCl t ≤ s.tTl t) &&
    decide (s.tTl t ≤ s.tNfield t) && (s.tGbv t || decide (s.tGroup t ≤ 1))

/-! ### Task control blocks (10 R351, R352) -/

/-- The address of a TCB. -/
def State.tcbAt (s : State) (part : BitVec 4) (h : Nat) : Nat := (s.part part).tcbBase + 128 * h

/-- KIND. -/
def tcbKind : Nat × Nat := (0, 4)
/-- STATE. -/
def tcbState : Nat × Nat := (4, 4)
/-- QUEUE. -/
def tcbQueue : Nat × Nat := (8, 8)
/-- COUNT. -/
def tcbCount : Nat × Nat := (16, 16)
/-- NSUCC. -/
def tcbNsucc : Nat × Nat := (32, 4)
/-- AFF. -/
def tcbAff : Nat × Nat := (48, 8)
/-- TMPL. -/
def tcbTmpl : Nat × Nat := (64, 16)
/-- CSET. -/
def tcbCset : Nat × Nat := (96, 32)
/-- FUT. -/
def tcbFut : Nat × Nat := (128, 32)
/-- FV. -/
def tcbFv : Nat × Nat := (160, 1)
/-- SUCCi. -/
def tcbSucc (i : Nat) : Nat × Nat := (256 + 32 * i, 32)
/-- LIVE of a launch. -/
def tcbLive : Nat × Nat := (512, 32)
/-- RSET of a launch. -/
def tcbRset : Nat × Nat := (544, 32)
/-- NEXT of a launch or a batch card. -/
def tcbNext : Nat × Nat := (576, 64)
/-- NREC of a batch card. -/
def tcbNrec : Nat × Nat := (512, 64)
/-- RSIZE of a batch card. -/
def tcbRsize : Nat × Nat := (640, 32)
/-- ARG of a batch card. -/
def tcbArg : Nat × Nat := (672, 64)

/-- The address of a single continuation's record: the TCB's payload (10 R352). -/
def State.tcbRecord (s : State) (part : BitVec 4) (h : Nat) : Nat := s.tcbAt part h + 64

/-- The lowest free TCB of a partition. -/
def State.freeTcb (s : State) (part : BitVec 4) : Option Nat :=
  (List.range (s.part part).tcbLen).find? (fun h => s.fld (s.tcbAt part h) tcbKind == 0)

/-- A field of a TCB. -/
def State.tcb (s : State) (part : BitVec 4) (h : Nat) (f : Nat × Nat) : Nat := s.fld (s.tcbAt part h) f
/-- A field of a TCB written. -/
def State.setTcb (s : State) (part : BitVec 4) (h : Nat) (f : Nat × Nat) (v : Nat) : State :=
  s.setFld (s.tcbAt part h) f v

/-- An absent set index in a TCB that was given no capabilities. -/
def noSet : Nat := 0xFFFFFFFF

/-- A TCB as it is created (10 R351). -/
structure NewTcb where
  kind : Nat
  count : Nat
  queue : Nat
  tmpl : Nat := 0
  cset : Nat := noSet
  aff : Nat := 0
  fut : Option Nat := none
  succ : List Nat := []

/-- A TCB written: pending, or ready when its count is 0 (10 R351, R353). -/
def State.putTcb (s : State) (part : BitVec 4) (h : Nat) (x : NewTcb) : State :=
  let a := s.tcbAt part h
  let lo := x.kind + (if x.count = 0 then 2 else 1) * 16 + x.queue % 256 * 256 + x.count * 2 ^ 16 +
    x.succ.length * 2 ^ 32 + x.aff * 2 ^ 48 + x.tmpl * 2 ^ 64 + x.cset * 2 ^ 96 +
    (match x.fut with
      | some f => f * 2 ^ 128 + 2 ^ 160
      | none => 0)
  s.writeBytes a (leBytes 32 lo ++ (List.range 8).flatMap (fun i => leBytes 4 (match x.succ[i]? with
    | some h => 2 ^ 31 + h % 2 ^ 24
    | none => 0)) ++ List.replicate 64 0)

/-! ### Futures (10 R362) -/

/-- The address of a future. -/
def State.futAt (s : State) (part : BitVec 4) (h : Nat) : Nat := (s.part part).futBase + 16 * h
/-- VALUE. -/
def futValue : Nat × Nat := (0, 64)
/-- WAITERS. -/
def futWaiters : Nat × Nat := (64, 32)
/-- FILLED. -/
def futFilled : Nat × Nat := (126, 1)
/-- ALLOC. -/
def futAlloc : Nat × Nat := (127, 1)
/-- A future is free: it keeps its value and that it has been filled, which a second fill is told (10 R362, R363). -/
def State.dropFut (s : State) (a : Nat) : State := (s.setFld a futAlloc 0).setFld a futWaiters 0
/-- The lowest free future of a partition. -/
def State.freeFut (s : State) (part : BitVec 4) : Option Nat :=
  (List.range (s.part part).futLen).find? (fun h => s.fld (s.futAt part h) futAlloc == 0)

end Sys2Proof.Machine
end

