-- ==== Sys2Proof/Machine/TraceLaunch.lean ====
section
/-! DEFINITION. Traced launches: what is checked and written when one is instantiated (11 R397 to R405), the close of a
block (11 R411) and the finish (11 R400, R413). -/

namespace Sys2Proof.Machine

/-! ### The trace block of a template (11 R397) -/

/-- TBSLOT. -/
def State.tbSlot (s : State) (t : Nat) : Nat := s.bitsIn (t + 0x180) 0 5
/-- The used traced slots of a template: slot, SRC, TSZ. -/
def State.tbUsed (s : State) (t : Nat) : List (Nat × Nat × Nat) :=
  ((List.range 16).filter (fun i => s.bitsIn (t + 0x180) (64 + 16 * i + 5) 1 == 1)).map (fun i =>
    (i, s.bitsIn (t + 0x180) (64 + 16 * i) 5, s.bitsIn (t + 0x180) (64 + 16 * i + 6) 4))

/-- Tiles of a buffer for a size code (11 R402). -/
def tilesOf (len tsz : Nat) : Nat := (len + 512 * 2 ^ tsz - 1) / (512 * 2 ^ tsz)

/-- DIRTYOFF for a number of blocks (11 R404). -/
def dirtyOff (nblk : Nat) : Nat := (256 + 256 * nblk + 4095) / 4096 * 4096

/-- Blocks of a launch (10 R342). -/
def State.tBlocks (s : State) (t : Nat) : Nat := s.tItems t / max 1 (s.tBlock t)

/-- A supplied capability with its descriptor. -/
def State.supplied (s : State) (slots : List (Option Cap)) (i : Nat) : Option (Cap × Desc) :=
  ((slots[i]?).getD none).bind (fun c => (s.descOf c).map (fun d => (c, d)))

/-- A supplied slot is one of MODE SLICE (10 R347). -/
def State.isSlice (s : State) (t i : Nat) : Bool := (s.tCaps t).any (fun e => entMode e == 3 && entSrc e == i)

/-- The end of the dirty area (11 R404). -/
def State.dirtyEnd (s : State) (t : Nat) (slots : List (Option Cap)) : Nat :=
  dirtyOff (s.tBlocks t) + ((s.tbUsed t).map (fun u => match s.supplied slots u.2.1 with
    | some (_, d) => 2 * bankBytes (tilesOf d.len u.2.2)
    | none => 0)).sum

/-- No element of a list occurs twice. -/
def distinct : List Nat → Bool
  | [] => true
  | x :: xs => !xs.contains x && distinct xs

/-- A feature of this stepping has been accepted (13 R481): 0 TRACE, 1 MCAST, 2 APERT, 3 BATCH. -/
def State.feature (s : State) (i : Nat) : Bool := (s.sec.accept[0]).getLsbD i

/-- The checks of a traced launch (11 R399; 13 R481). -/
def State.traceOk (s : State) (part : BitVec 4) (t : Nat) (slots : List (Option Cap)) : Bool :=
  let used := s.tbUsed t
  let bufs := used.map (fun u => (s.supplied slots u.2.1).bind (fun p => if p.1.part = part then some p.1.desc.toNat else none))
  match s.supplied slots (s.tbSlot t) with
  | none => false
  | some (c, d) =>
    s.feature 0 && c.kind == .whole && d.cls == 2 && c.has (rightR ||| rightW) && decide (c.desc.toNat < 2 ^ 26) &&
      !((tabFind c.desc.toNat (s.part part).traces).map (fun m => s.hdr m hdrBusy == 1)).getD false &&
      !used.isEmpty && bufs.all Option.isSome && used.all (fun u => decide (u.2.2 ≤ 11)) &&
      distinct (c.desc.toNat :: bufs.filterMap id) &&
      used.all (fun u => match s.supplied slots u.2.1 with
        | some (_, e) => e.cls != 5 && (!s.isSlice t u.2.1 || e.cls == 2) && decide (tilesOf e.len u.2.2 ≤ 2 ^ 29)
        | none => false) &&
      decide (s.dirtyEnd t slots ≤ d.len)

/-! ### Preparing a trace (11 R400, R401, R405) -/

/-- The translations of a range, one walk for each page or run; `fuel` bounds the walks. -/
def State.pagesOf (s : State) (cl : Nat) (part : BitVec 4) : Nat → Nat → Nat → List Xlate
  | 0, _, _ => []
  | fuel + 1, va, top =>
    if top ≤ va then []
    else match s.walk cl part va with
      | .ok x => x :: s.pagesOf cl part fuel (x.va + x.size) top
      | .error _ => s.pagesOf cl part fuel (va / 2 ^ 16 * 2 ^ 16 + 2 ^ 16) top

/-- A trace buffer as the engine reaches it (11 R404); its translation is cluster 0's (log 32). -/
def State.traceMapOf (s : State) (part : BitVec 4) (d : Desc) : TraceMap :=
  ⟨d.base.toNat, d.len, s.pagesOf 0 part (d.len / 2 ^ 16 + 2) d.base.toNat (d.base.toNat + d.len), []⟩

/-- The lowest watch slot of a descriptor that is not active. -/
def Desc.freeWatch (d : Desc) : Option Nat := (List.range 4).find? (fun i => !((d.watch[i]?).getD 0).getLsbD 31)

/-- A traced slot attaches to its buffer, or is degraded when the descriptor's slots are all active (11 R405). -/
def State.attachSlot (s : State) (part : BitVec 4) (index : BitVec 26) (m : TraceMap) (i : Nat) : State :=
  let b := s.hdr m (slotBuf i)
  match (s.bufDesc part b).bind Desc.freeWatch with
  | some w =>
    let s := s.onDesc part b (fun d => { d with watch := d.watch.setIfInBounds w (watchSlotVal index i) })
    (s.setHdr m (slotWslot i) w).setHdr m (slotDeg i) 0
  | none => s.setHdr m (slotDeg i) 1

/-- One slot entry of the header, with its tile count (11 R401, R402). -/
def State.putSlotEntry (s : State) (m : TraceMap) (slots : List (Option Cap)) (u : Nat × Nat × Nat) : State :=
  match s.supplied slots u.2.1 with
  | some (c, d) =>
    (((s.setHdr m (slotBuf u.1) c.desc.toNat).setHdr m (slotTsz u.1) u.2.2).setHdr m (slotV u.1) 1).setHdr m (slotNt u.1)
      (tilesOf d.len u.2.2)
  | none => s

/-- The first 32 bytes of a template's digest (11 R401). -/
def State.tmplDigest (s : State) (t : Nat) : Nat := leNat ((sha384 (s.readBytes t 512)).take 32)

/-- An accepted traced launch prepares its trace (11 R400). -/
def State.prepareTrace (s : State) (part : BitVec 4) (t tmpl handle : Nat) (slots : List (Option Cap)) : State :=
  match s.supplied slots (s.tbSlot t) with
  | none => s
  | some (c, d) =>
    let index : BitVec 26 := BitVec.ofNat 26 c.desc.toNat
    let s := s.detachBuffer part c.desc.toNat
    let m := s.traceMapOf part d
    let s := s.onPart part (fun p => { p with traces := tabPut c.desc.toNat m p.traces })
    let top := s.dirtyEnd t slots
    let s := s.setTraceBytes m 0 (List.replicate top 0)
    let s := s.setTraceField m 0 256 (s.tmplDigest t)
    let s := s.setHdr m hdrNblk (s.tBlocks t)
    let s := s.setHdr m hdrNslot (s.tbUsed t).length
    let s := s.setHdr m hdrLive 1
    let s := s.setHdr m hdrBusy 1
    let s := s.setHdr m hdrTmpl tmpl
    let s := s.setHdr m hdrLaunch handle
    let s := s.setHdr m hdrDirty (dirtyOff (s.tBlocks t))
    let s := (s.tbUsed t).foldl (fun s u => s.putSlotEntry m slots u) s
    (s.tbUsed t).foldl (fun s u => s.attachSlot part index m u.1) s

/-! ### The close of a block (11 R411) -/

/-- The state of an open block is written as its record, and the block is closed (11 R411). -/
def State.closeBlock (s : State) (cl : Nat) (b : OpenBlock) : State :=
  let s := s.onCluster cl (fun c => { c with
    blocks := c.blocks.filter (fun x => !(x.part == b.part && x.index == b.index && x.block == b.block)) })
  match s.trace? b.part b.index with
  | none => s
  | some m =>
    let (hulled, rs) := hullTo b.ranges.length 30 b.ranges
    let wide := decide (30 < rs.length)
    let s := s.setTraceBytes m (recordOff b.block)
      (recordBytes b.block (s.hdr m hdrGen) (b.ovf || hulled || wide) (rs.take 30))
    let w := m.wide.filter (· != b.block) ++ (if wide then [b.block] else [])
    s.onPart b.part (fun p => { p with traces := tabPut b.index.toNat { m with wide := w } p.traces })

/-- BLOCK_CLOSE: the first block of a cluster whose continuations have all retired (11 R411). -/
def State.closeNext (s : State) (cl : Nat) : State :=
  match (s.cluster cl).blocks.find? (fun b => b.live == 0) with
  | some b => s.closeBlock cl b
  | none => s

/-- Blocks of a trace that are open. -/
def State.traceOpen (s : State) (part : BitVec 4) (index : BitVec 26) : Bool :=
  s.clusters.any (fun c => c.2.blocks.any (fun b => b.part == part && b.index == index))

/-! ### The finish (11 R400, R413) -/

/-- The ranges of one kind that a block counts with: every tile of every used slot for one with too many pairs (11 R411,
R413). -/
def State.blockRanges (s : State) (m : TraceMap) (r : Nat) (write : Bool) : List TraceRange :=
  if m.wide.contains r then (s.usedSlots m).map (fun i => ⟨i, write, 0, s.hdr m (slotNt i)⟩)
  else (s.recRanges m r).filter (fun x => x.write == write)

/-- Block `r` has a read range that meets a write range of another block (11 R413). -/
def State.entangled (s : State) (m : TraceMap) (nblk r : Nat) : Bool :=
  let rd := s.blockRanges m r false
  (List.range nblk).any (fun y => y != r && (s.blockRanges m y true).any (fun w => rd.any w.meets))

/-- The check for entanglement, over every record (11 R413). -/
def State.checkEntangled (s : State) (m : TraceMap) : State :=
  let n := s.hdr m hdrNblk
  let es := (List.range n).filter (s.entangled m n)
  let s := (List.range n).foldl (fun s r =>
    s.setTraceField m (8 * recordOff r + 50) 1 (if es.contains r then 1 else 0)) s
  s.setHdr m hdrEnt (if es.isEmpty then 0 else 1)

/-- The finish of a traced launch or relaunch (11 R400). -/
def State.finishTrace (s : State) (part : BitVec 4) (index : BitVec 26) : State :=
  match s.trace? part index with
  | some m => (s.checkEntangled m).setHdr m hdrBusy 0
  | none => s

/-! ### Meanings -/

/-- BLOCK_CLOSE in cluster `focus.cluster` (11 R411). -/
def execBlockClose (s : State) : Host.Outcome State Fault Refusal := .next (s.closeNext s.focus.cluster)

end Sys2Proof.Machine
end

