-- ==== Sys2Proof/Machine/Sched.lean ====
section
/-! DEFINITION. The work scheduler: queues (10 R355 to R360), futures and waiting (10 R362 to R364), task control blocks
(10 R353, R354), instantiation of launches (10 R347, R348, R368) and their end. -/

namespace Sys2Proof.Machine

/-! ### Reports (04 R159, R167) -/

/-- A reported cause: it stops nothing and has a record (04 R167). -/
def State.report (s : State) (src : Nat) (part : BitVec 4) (launch : BitVec 32) (wid : Word) (cause : BitVec 8)
    (detail detail2 : Nat) : State :=
  s.postRecord src part
    (faultRecord cause 0b11 false false part 0 launch wid (s.agentCid src) 0 (BitVec.ofNat 64 detail)
      (BitVec.ofNat 64 detail2) 0 s.now)

/-- A reported cause of a request. -/
def State.reportReq (s : State) (r : Request) (cause : BitVec 8) (detail detail2 : Nat) : State :=
  s.report r.agent r.part r.launch r.wid cause detail detail2

/-! ### Queues (10 R355, R356, R359) -/

/-- A queue. -/
def State.queue (s : State) (q : Nat) : Queue := (tabFind q s.queues).getD {}

/-- A queue changed. -/
def State.onQueue (s : State) (q : Nat) (g : Queue → Queue) : State :=
  { s with queues := tabPut q (g (s.queue q)) s.queues }

/-- ACTIVE. -/
def Queue.active (q : Queue) : Bool := q.en && !q.units.isEmpty

/-- A change of a queue; one that becomes ACTIVE by it takes GPASS (10 R359). -/
def State.changeQueue (s : State) (q : Nat) (g : Queue → Queue) : State :=
  let x := s.queue q
  let y := g x
  s.onQueue q (fun _ => if y.active && !x.active then { y with pass := s.gpass } else y)

/-- A unit joins a queue. -/
def State.enqueue (s : State) (q : Nat) (u : Work) : State :=
  s.changeQueue q (fun x => { x with units := x.units ++ [u] })

/-- The unit of a TCB that has become ready (10 R353, R355). -/
def State.enqueueTcb (s : State) (part : BitVec 4) (h : Nat) : State :=
  let u : Work := match s.tcb part h tcbKind with
    | 1 => .groups h
    | 2 => .single h
    | 3 => .chunk h
    | _ => .service h
  s.enqueue (s.tcb part h tcbQueue) u

/-- A continuation made ready again re-enters its queue, for its cluster (10 R355, R364). -/
def State.requeue (s : State) (cluster : Nat) (record : Nat) (core : Option Nat) : State :=
  let s := s.setFld record recState 1
  s.enqueue (s.fld record recQueue) (.again record cluster core)

/-! ### Waiting (10 R363, R364; 08 R293; 10 R377) -/

/-- The waiter is parked on the object: a future of its partition, or a barrier or a mailbox of its cluster. -/
def Waiter.on (w : Waiter) (kind : BitVec 2) (part : BitVec 4) (cluster handle : Nat) : Bool :=
  w.kind == kind && (match kind.toNat with
    | 0 => w.part == part && w.handle.toNat == handle
    | 1 => w.cluster == cluster && w.handle.toNat % 64 == handle
    | _ => w.cluster == cluster && w.handle.toNat % 1024 == handle)

/-- A continuation parks: in its cluster's wait table, or on its object's overflow list when the table is full (10 R364). -/
def State.addWaiter (s : State) (part : BitVec 4) (cl : Nat) (kind : BitVec 2) (h : BitVec 32) (record : Nat) : State :=
  let w : Waiter := ⟨part, cl, kind, h, record, s.parks⟩
  let s := { s with parks := s.parks + 1 }
  if (s.cluster cl).waits.length < 256 then s.onCluster cl (fun c => { c with waits := c.waits ++ [w] })
  else s.onPart part (fun p => { p with chained := p.chained ++ [w] })

/-- The waiters of an object, in the table of any cluster or on its list, in the order in which they parked (10 R364). -/
def State.waitersOf (s : State) (kind : BitVec 2) (part : BitVec 4) (cluster handle : Nat) : List Waiter :=
  ((s.clusters.flatMap (fun e => e.2.waits) ++ s.parts.flatMap (fun e => e.2.chained)).filter
    (fun w => w.on kind part cluster handle)).mergeSort (fun a b => decide (a.no ≤ b.no))

/-- Waiters are parked no more. -/
def State.dropWaiters (s : State) (ws : List Waiter) : State :=
  let rest (xs : List Waiter) : List Waiter := xs.filter (fun w => !ws.contains w)
  { s with
    clusters := s.clusters.map (fun (i, c) => (i, { c with waits := rest c.waits }))
    parts := s.parts.map (fun (i, p) => (i, { p with chained := rest p.chained })) }

/-- Every waiter of an object is readied, in the order of parking (10 R364). -/
def State.wakeAll (s : State) (kind : BitVec 2) (part : BitVec 4) (cluster handle : Nat) : State :=
  let ws := s.waitersOf kind part cluster handle
  ws.foldl (fun s w => s.requeue w.cluster w.record none) (s.dropWaiters ws)

/-- The first waiter of a mailbox is readied (08 R293). -/
def State.wakeOne (s : State) (cluster i : Nat) : State :=
  match s.waitersOf 2 0 cluster i with
  | [] => s
  | w :: _ => (s.dropWaiters [w]).requeue w.cluster w.record none

/-! ### Futures (10 R362, R363) -/

/-- The service call whose future is a handle. -/
def State.callOf (s : State) (part : BitVec 4) (fut : Nat) : Option Nat :=
  (List.range (s.part part).tcbLen).find? (fun h => s.tcb part h tcbKind == 4 &&
    s.fld (s.tcbAt part h) (544, 32) == fut)

/-- A TCB finishes next (10 R354). -/
def State.willFinish (s : State) (part : BitVec 4) (h : Nat) : State :=
  if s.fins.contains (part, h) then s else { s with fins := s.fins ++ [(part, h)] }

/-- A fill: the value, the waiters with g3 := VALUE, and the end of a service call whose future it is (10 R354, R362,
R363). -/
def State.fillFuture (s : State) (r : Request) (h : Nat) (v : Word) : State :=
  let a := s.futAt r.part h
  if (s.part r.part).futLen ≤ h ∨ (s.fld a futAlloc = 0 ∧ s.fld a futFilled = 0) then s.reportReq r 0x31 h 3
  else if s.fld a futFilled = 1 then s.reportReq r 0x31 h 2
  else
    let s := (s.setFld a futValue v.toNat).setFld a futFilled 1
    let ws := s.waitersOf 0 r.part 0 h
    let s := ws.foldl (fun s w => s.setFld w.record (recG 3) v.toNat) s
    let s := if ws.isEmpty then s
      else (s.wakeAll 0 r.part 0 h).dropFut a
    match s.callOf r.part h with
    | some c => s.willFinish r.part c
    | none => s

/-! ### Dependence counters (10 R353) -/

/-- A decrement of a TCB's counter. -/
def State.decTcb (s : State) (r : Request) (h : Nat) : State :=
  if (s.part r.part).tcbLen ≤ h ∨ s.tcb r.part h tcbKind = 0 then s.reportReq r 0x31 h 3
  else if s.tcb r.part h tcbState ≠ 1 ∨ s.tcb r.part h tcbCount = 0 then s.reportReq r 0x31 h 1
  else
    let n := s.tcb r.part h tcbCount - 1
    let s := s.setTcb r.part h tcbCount n
    if n = 0 then (s.setTcb r.part h tcbState 2).enqueueTcb r.part h else s

/-! ### Mailboxes of launches (08 R283, R287, R289) -/

/-- A capability message that is not delivered: it is an orphan of the sender's partition, reported with 0x30, and its
send completes (08 R283). -/
def State.undelivered (s : State) (m : Msg) (c : Cap) : State :=
  let s := s.orphan m.part c
  let d := m.sender
  s.postRecord m.src m.part
    (faultRecord 0x30 0b11 false false m.part ((d.map (·.seq)).getD 0) ((d.map (·.launch)).getD 0)
      ((d.map (·.wid)).getD 0) (s.agentCid m.src) ((d.map (·.pc.word)).getD 0) (m.mbox.setWidth 64) 0 0 s.now)

/-- Subscriptions of a mailbox end with it; one to another device's core stays, as ended, until its prune is sent (08 R294). -/
def State.pruneMailbox (s : State) (cl i : Nat) : State :=
  { s with cores := s.cores.map (fun (k, c) => (k, if clusterOf k = cl
      then { c with
        subs := (c.subs.filter (fun x => x.mbox.toNat != i || x.dev != s.dev)).map (fun x =>
          if x.mbox.toNat = i then { x with joined := false } else x) }
      else c)) }

/-- A mailbox closes: capability messages are not delivered, records and notices are discarded, and every waiter is
readied (08 R289, R293). -/
def State.closeMailbox (s : State) (cl i : Nat) : State :=
  let m := s.mailbox cl i
  let s := s.onMailbox cl i (fun _ => {})
  let s := m.queue.foldl (fun s x => match x.pay with
    | .cap c _ _ _ => s.undelivered x c
    | _ => s) s
  (s.wakeAll 2 0 cl i).pruneMailbox cl i

/-- Every mailbox of a cluster that a binding holds closes. -/
def State.closeBound (s : State) (cl : Nat) (b : Binding) : State :=
  ((s.cluster cl).mbox.filter (fun e => e.2.bound == b)).foldl (fun s e => s.closeMailbox cl e.1) s

/-! ### Instantiating a launch (10 R347, R348, R368) -/

/-- A capability entry's source may be lent from or handed out as its mode says (10 R347). -/
def State.entryOk (s : State) (items : Nat) (slots : List (Option Cap)) (e : Nat) : Bool :=
  let src := s.supplied slots (entSrc e)
  decide ((entDst e).toNat < 30) && (match entMode e with
    | 0 => src.isSome
    | 1 => match src with
      | some (c, _) => c.has (rightS ||| rightR) && (c.kind == .whole || c.kind == .resFractions)
      | none => false
    | 2 => match src with
      | some (c, _) => c.has (rightS ||| rightA) && (c.kind == .whole || c.kind == .resGrants)
      | none => false
    | 3 => match src with
      | some (c, d) => c.kind == .whole && d.len % (32 * items) == 0
      | none => false
    | 4 => true
    | 5 => true
    | _ => false)

/-- The template's capability entries and code buffer agree with the supplied set (10 R347). -/
def State.entriesOk (s : State) (t : Nat) (slots : List (Option Cap)) : Bool :=
  (s.tCaps t).all (s.entryOk (s.tItems t) slots) &&
    (!s.tCodev t || (match s.supplied slots (s.tCodek t) with
      | some (c, d) => c.has rightX && decide (s.tXb t ≤ d.len)
      | none => false))

/-- Descriptors that cutting a buffer into `n` parts needs beyond its own. -/
def State.freeDescs (s : State) (part : BitVec 4) (n : Nat) : List Nat :=
  let p := s.part part
  (List.range n).foldl (fun acc _ =>
    let i := firstGap 0 ((acc.foldl (fun t j => tabPut j () t) (p.bufs.map (fun e => (e.1, ())))))
    if i < p.btlen.toNat then acc ++ [i] else acc) []

/-- A buffer is cut into one equal part per item: part 0 keeps the descriptor, and every part a copy of its active watch
slots (10 R347; 11 R406). -/
def State.cutSlices (s : State) (c : Cap) (d : Desc) (n : Nat) (idx : List Nat) : State :=
  let len := d.len / n
  let part (i : Nat) : Desc := { d with base := d.base + BitVec.ofNat 64 (i * len), lenm1 := BitVec.ofNat 35 (len / 32 - 1) }
  ((c.desc.toNat :: idx).zipIdx).foldl (fun s (k, i) => s.putDesc c.part k (s.countPoison 0 c.part (part i))) s

/-- A launch cuts the buffers of its SLICE entries; none when the buffer table has too few free descriptors (10 R347). -/
def State.makeSlices (s : State) (part : BitVec 4) (h t : Nat) (slots : List (Option Cap)) : Option State :=
  let n := s.tItems t
  ((s.tCaps t).filter (fun e => entMode e == 3)).foldlM (fun s e =>
    match s.supplied slots (entSrc e) with
    | none => some s
    | some (c, d) =>
      if (s.part part).slices.any (fun x => x.launch == h && x.src == entSrc e) then some s
      else
        let idx := s.freeDescs c.part (n - 1)
        if idx.length = n - 1 then
          some (((s.cutSlices c d n idx).putSlot part (s.tcb part h tcbCset) (BitVec.ofNat 5 (entSrc e)) .empty).onPart part
            (fun p => { p with
              slices := p.slices ++ [⟨h, entSrc e, c.rights, (c.desc.toNat :: idx).map (fun i => (i, true))⟩] }))
        else none) s

/-- A refused launch: its supplied capabilities go to a return set (10 R367). -/
def State.refuseLaunch (s : State) (part : BitVec 4) (slots : List (Option Cap)) : State × Nat :=
  let caps := slots.filterMap id
  if caps.isEmpty then (s, 0)
  else
    let (s, i) := s.toReturnSet part caps
    (s, i.getD 0)

/-- The code with which a launch is refused; 0 when it is not (10 R346, R347, R367; 11 R399). -/
def State.launchCode (s : State) (part : BitVec 4) (tmpl queue : Nat) (slots : List (Option Cap)) : Nat :=
  match s.tmplAt part tmpl with
  | none => 1
  | some t =>
    if !s.tmplOk t then 1
    else if (s.queue queue).part ≠ part then 4
    else if !s.entriesOk t slots || (s.tTrace t && !s.traceOk part t slots) then 3
    else if (s.freeTcb part).isNone || (!(slots.filterMap id).isEmpty && (s.freeSets part 1).isEmpty) then 2
    else 0

/-- A capability set's slots from a supplied set. -/
def slotVector (slots : List (Option Cap)) : Vector KReg 32 :=
  Vector.ofFn (fun j : Fin 32 => match (slots[j.val]?).getD none with
    | some c => .cap c
    | none => .empty)

/-- A new launch TCB with its supplied set (10 R348, R351, R368). -/
def State.newLaunch (s : State) (part : BitVec 4) (h tmpl queue : Nat) (slots : List (Option Cap)) (fut : Option Nat)
    (succ : List Nat) : State :=
  let caps := slots.filterMap id
  let i := if caps.isEmpty then noSet else ((s.freeSets part 1).head?).getD noSet
  let s := if caps.isEmpty then s else
    s.onPart part (fun p => { p with sets := tabPut i (slotVector slots) p.sets })
  let s := caps.foldl (fun s c => s.setOwner c (ownerSet i)) s
  s.putTcb part h { kind := 1, count := 0, queue := queue, tmpl := tmpl, cset := i, fut := fut, succ := succ }

/-- A launch is instantiated: the state, the code, and the handle or the return set (10 R367, R368; 11 R400). -/
def State.instantiate (s : State) (part : BitVec 4) (tmpl queue : Nat) (slots : List (Option Cap)) (fut : Option Nat)
    (succ : List Nat) : State × Nat × Nat :=
  match s.launchCode part tmpl queue slots, s.tmplAt part tmpl, s.freeTcb part with
  | 0, some t, some h =>
    let s1 := if s.tTrace t then s.prepareTrace part t tmpl h slots else s
    match (s1.newLaunch part h tmpl queue slots fut succ).makeSlices part h t slots with
    | some s2 => (s2.enqueueTcb part h, 0, h)
    | none => let (s, r) := s.refuseLaunch part slots; (s, 3, r)
  | code, _, _ => let (s, r) := s.refuseLaunch part slots; (s, if code = 0 then 1 else code, r)

/-! ### The end of a TCB (10 R347, R354) -/

/-- Parts of a cut buffer that stand with the launch, contiguous ones joined, as descriptors kept and dropped. -/
def joinParts (s : State) (part : BitVec 4) : List (Nat × Bool) → List (Nat × List Nat)
  | [] => []
  | (i, here) :: rest =>
    let out := joinParts s part rest
    if !here then out
    else match rest.head?, out, s.bufDesc part i with
      | some (j, true), (k, ds) :: more, some d =>
        if j = k && ((s.bufDesc part j).map (fun e => decide (d.base.toNat + d.len = e.base.toNat))).getD false
        then (i, k :: ds) :: more else (i, []) :: out
      | _, _, _ => (i, []) :: out

/-- The returned parts of a cut buffer are fused; the capabilities go to the return set (10 R347; 11 R406). -/
def State.fuseSlices (s : State) (part : BitVec 4) (x : Slices) : State × List Cap :=
  (joinParts s part x.parts).foldl (fun (s, cs) (i, ds) =>
    match s.bufDesc part i with
    | none => (s, cs)
    | some d =>
      let len := d.len + ((ds.filterMap (s.bufDesc part)).map Desc.len).sum
      let s := ds.foldl (fun s j => s.dropDesc part j) s
      let whole := { d with lenm1 := BitVec.ofNat 35 (len / 32 - 1) }
      (s.putDesc part i (s.countPoison 0 part whole), cs ++ [⟨.whole, part, BitVec.ofNat 32 i, x.rights, 0⟩])) (s, [])

/-- The slots of a launch's supplied set from which SLICE parts were cut. -/
def State.sliceSlots (s : State) (part : BitVec 4) (h : Nat) : List Nat :=
  ((s.part part).slices.filter (fun x => x.launch == h)).map (·.src)

/-- Capabilities that a launch still holds when it finishes: its supplied set, but for buffers that it cut, and the fused
parts of those (10 R347; 11 R397). -/
def State.launchHoldings (s : State) (part : BitVec 4) (h : Nat) : State × List Cap :=
  let set := s.tcb part h tcbCset
  let cut := s.sliceSlots part h
  let kept := match tabFind set (s.part part).sets with
    | some v => (v.toList.zipIdx).filterMap (fun (k, i) => if cut.contains i then none else k.cap?)
    | none => []
  let (s, fused) := ((s.part part).slices.filter (fun x => x.launch == h)).foldl (fun (s, cs) x =>
    let (s, more) := s.fuseSlices part x
    (s, cs ++ more)) (s, [])
  let s := s.onPart part (fun p => { p with slices := p.slices.filter (fun x => x.launch != h) })
  ((if set = noSet then s else s.dropSet part set), kept ++ fused)

/-- Capabilities join a launch's return set, which is taken when it first needs one (08 R486; 10 R352): slots in order;
what finds no slot or no set is an orphan. -/
def State.addReturns (s : State) (part : BitVec 4) (h : Nat) (caps : List Cap) : State :=
  if caps.isEmpty then s
  else
    let go (s : State) (i : Nat) : State :=
      caps.foldl (fun s c => match (tabFind i (s.part part).sets).bind (fun v =>
          (List.range 32).find? (fun j => v[j]? == some KReg.empty)) with
        | some j => (s.onPart part (fun p => match tabFind i p.sets with
            | some v => { p with sets := tabPut i (v.setIfInBounds j (.cap c)) p.sets }
            | none => p)).setOwner c (ownerReturn i)
        | none => s.orphan part c) s
    match tabFind h (s.part part).rsets, s.freeSets part 1 with
    | some i, _ => go s i
    | none, i :: _ =>
      let s := s.takeSet part i []
      let s := if s.tcb part h tcbKind = 1 then s.setTcb part h tcbRset i else s
      go (s.onPart part (fun p => { p with rsets := tabPut h i p.rsets })) i
    | none, [] => caps.foldl (fun s c => s.orphan part c) s

/-- The trace of a launch: the descriptor index of the buffer at its TBSLOT (11 R397). -/
def State.launchTrace (s : State) (part : BitVec 4) (h : Nat) : Option (BitVec 26) :=
  match s.tmplAt part (s.tcb part h tcbTmpl) with
  | some t =>
    if s.tTrace t && s.tcb part h tcbKind == 1 then
      match (tabFind (s.tcb part h tcbCset) (s.part part).sets).bind (fun v => v[s.tbSlot t]?) with
      | some (.cap c) => some (BitVec.ofNat 26 c.desc.toNat)
      | _ => none
    else none
  | none => none

/-- The successors of a TCB are decremented in order and its future is filled (10 R354). -/
def State.signalFinish (s : State) (part : BitVec 4) (h : Nat) (value : Word) : State :=
  let r : Request := ⟨.dec 0, part, 4095, none, BitVec.ofNat 32 h, 0⟩
  let succ := ((List.range 8).map (fun i => s.tcb part h (tcbSucc i))).filter (fun x => x.testBit 31)
  let fv := s.tcb part h tcbFv
  let fut := s.tcb part h tcbFut
  let s := succ.foldl (fun s x => s.decTcb r (x % 2 ^ 24)) s
  if fv = 1 then s.fillFuture r fut value else s

end Sys2Proof.Machine
end

