-- ==== Sys2Proof/Machine/Work.lean ====
section
/-! DEFINITION. The scheduler hands out work: eligible units, stride order, and what each unit creates (10 R343, R347,
R355 to R361, R369, R487). -/

namespace Sys2Proof.Machine

/-! ### Barriers as groups use them (10 R343, R346, R376) -/

/-- A barrier's state block. -/
def State.bar (s : State) (cl b : Nat) : BitVec 256 := (tabFind b (s.cluster cl).bars).getD 0

/-- A barrier's state block written. -/
def State.setBar (s : State) (cl b : Nat) (x : BitVec 256) : State :=
  s.onCluster cl (fun c => { c with bars := tabPut b x c.bars })

/-- COUNT. -/
def barCount (x : BitVec 256) : Nat := fieldN x.toNat 0 16
/-- BYTES. -/
def barBytes (x : BitVec 256) : Nat := fieldN x.toNat 16 40
/-- ARMED. -/
def barArmed (x : BitVec 256) : Bool := x.getLsbD 56
/-- FIRED. -/
def barFired (x : BitVec 256) : Bool := x.getLsbD 57
/-- DIS. -/
def barDis (x : BitVec 256) : Bool := x.getLsbD 59
/-- APART. -/
def barPart (x : BitVec 256) : BitVec 4 := x.extractLsb' 60 4

/-- The state block that an arm leaves, before it fires (10 R376, R377). -/
def armedBar (count bytes : Nat) (part : BitVec 4) (core : BitVec 11) (launch : BitVec 32) (wid : Word) : BitVec 256 :=
  0#64 ++ wid ++ launch ++ 0#21 ++ core ++ part ++ 0b0001#4 ++ BitVec.ofNat 40 bytes ++ BitVec.ofNat 16 count

/-- A barrier is free for a group: not armed, fired, or disarmed (10 R346). -/
def barFree (x : BitVec 256) : Bool := !barArmed x || barFired x || barDis x

/-- No operation in flight names a buffer and no request for it waits at its cluster's crossbar: the accesses that its
holders have issued have been performed (08 R300; 10 R347). -/
def State.resvQuiet (s : State) (part : BitVec 4) (i : Nat) : Bool :=
  let mine (c : Option Cap) : Bool := (c.map (Cap.among part [i])).getD false
  !s.flights.any (fun f => f.phase != .ready && f.phase != .message && (mine f.ca || mine f.cb || mine f.cx)) &&
    !s.clusters.any (fun e => e.2.xbar.any (fun r => r.part == part && r.desc.toNat == i))

/-- The reservation of a group is reclaimed: its descriptor is cleared, and capabilities for it go, wherever they stand
(10 R343, R347). It waits for accesses that its holders have issued (08 R300). -/
def State.reclaim (s : State) (part : BitVec 4) (g : Group) : State :=
  match g.resv with
  | none => s
  | some i =>
    let put (x : Group) (s : State) : State := s.onPart part (fun p => { p with
      groups := p.groups.map (fun y => if y = g then x else y) })
    if s.resvQuiet part i then ((s.removeCaps (Cap.among part [i])).dropDesc part i) |> put { g with resv := none, due := false }
    else put { g with due := true } s

/-- Groups whose reservations wait to be reclaimed and now may be. -/
def State.resvDue (s : State) : List (BitVec 4 × Group) :=
  s.parts.flatMap (fun e => (e.2.groups.filter (fun g =>
    g.due && (g.resv.map (s.resvQuiet (BitVec.ofNat 4 e.1))).getD false)).map (fun g => (BitVec.ofNat 4 e.1, g)))

/-- A group is over: it has no continuation, no barrier and no reservation left. -/
def Group.over (g : Group) : Bool := g.live == 0 && g.bar.isNone && g.resv.isNone

/-- A reservation that waited is reclaimed, and its group ends if that was all that was left of it. -/
def State.reclaimDue (s : State) (part : BitVec 4) (g : Group) : State :=
  (s.reclaim part g).onPart part (fun p => { p with groups := p.groups.filter (fun x => !(x.over && g.due)) })

/-- A barrier fires: FIRED is set, every waiter is readied, and a group that holds it gives it and its reservation up
(10 R343, R377). -/
def State.fire (s : State) (cl b : Nat) : State :=
  let s := s.setBar cl b (s.bar cl b ||| (1#256 <<< 57))
  let s := s.wakeAll 1 0 cl b
  s.parts.foldl (fun s e =>
    (e.2.groups.filter (fun g => g.cluster == cl && g.bar == some b)).foldl (fun s g =>
      let part : BitVec 4 := BitVec.ofNat 4 e.1
      let free : Group := { g with bar := none }
      (s.onPart part (fun p => { p with groups := p.groups.map (fun x => if x = g then free else x) })).reclaim part free) s) s

/-! ### Lending from the supplied set (10 R347) -/

/-- A fraction or a grant of count 1 is lent from a slot of a set, whose capability becomes the residual. -/
def State.lendFrom (s : State) (part : BitVec 4) (set slot : Nat) (grant : Bool) : State × Option Cap :=
  match s.setSlot part set (BitVec.ofNat 5 slot) with
  | .cap c =>
    let res : Cap := { c with kind := if grant then .resGrants else .resFractions }
    let s := s.putSlot part set (BitVec.ofNat 5 slot) (.cap res)
    let s := s.onDesc c.part c.desc.toNat (fun d => { d with
      share := if grant then 0b10 else 0b01, count := d.count + 1 })
    let rights := if grant then rightA ||| rightS else c.rights &&& (rightR ||| rightS ||| rightM ||| rightX)
    (s, some { c with kind := if grant then .grant else .fraction, rights := rights, count := 1 })
  | _ => (s, none)

/-- A continuation's set receives a capability in a slot. -/
def State.giveSet (s : State) (part : BitVec 4) (set : Nat) (k : BitVec 5) (c : Cap) : State :=
  (s.putSlot part set k (.cap c)).setOwner c (ownerSet set)

/-- What one capability entry gives an item at its dispatch: LOCAL buffers are made when the item starts (10 R347,
R349). `n` is the enumeration index, `first` that of the group's first item, `resv` its reservation. -/
def State.giveEntry (s : State) (part : BitVec 4) (h set n first : Nat) (resv : Option Nat) (e : Nat) : State :=
  let sup := s.tcb part h tcbCset
  let src := entSrc e
  match entMode e with
  | 0 =>
    if n ≠ 0 then s
    else match s.setSlot part sup (BitVec.ofNat 5 src) with
      | .cap c => (s.putSlot part sup (BitVec.ofNat 5 src) .empty).giveSet part set (entDst e) c
      | _ => s
  | 1 => let (s, c) := s.lendFrom part sup src false
    (c.map (s.giveSet part set (entDst e))).getD s
  | 2 => let (s, c) := s.lendFrom part sup src true
    (c.map (s.giveSet part set (entDst e))).getD s
  | 3 => match (s.part part).slices.find? (fun x => x.launch == h && x.src == src) with
    | some x => match x.parts[n]? with
      | some (i, _) =>
        let s := s.onPart part (fun p => { p with slices := p.slices.map (fun y =>
          if y.launch = h ∧ y.src = src then { y with parts := y.parts.modify n (fun q => (q.1, false)) } else y) })
        s.giveSet part set (entDst e) ⟨.whole, part, BitVec.ofNat 32 i, x.rights, 0⟩
      | none => s
    | none => s
  | 5 => match resv with
    | some i => if n = first then
        s.giveSet part set (entDst e) ⟨.whole, part, BitVec.ofNat 32 i, rightR ||| rightW ||| rightA ||| rightS, 0⟩ else s
    | none => s
  | _ => s

/-! ### Cluster groups (10 R343, R346, R347, R358, R487) -/

/-- The items of a group that are created: all, or those in the blocks that a relaunch chose (11 R418). -/
def State.groupItems (s : State) (part : BitVec 4) (h t first : Nat) : List Nat :=
  let all := (List.range (s.tGroup t)).map (first + ·)
  match tabFind h (s.part part).chosen with
  | none => all
  | some bs => all.filter (fun n => bs.contains (n / max 1 (s.tBlock t)))

/-- The first item of the next group to dispatch; none when every group has been (10 R358; 11 R418). -/
def State.nextGroup (s : State) (part : BitVec 4) (h t : Nat) : Option Nat :=
  let next := s.tcb part h tcbNext
  let g := max 1 (s.tGroup t)
  match tabFind h (s.part part).chosen with
  | none => if next < s.tItems t then some next else none
  | some bs => leastOf ((bs.map (fun b => b * s.tBlock t / g * g))) (fun a => decide (next ≤ a))

/-- The range of a reservation of `n` whole banks of a cluster's pool (10 R343, R347; log 36). -/
def State.resvRange (s : State) (cl n : Nat) : Option Nat :=
  leastOf ((List.range 64).map (fun b => sramBase cl + b * sramBank)) (fun a =>
    decide ((a - sramBase cl) / sramBank + n ≤ 64) &&
      (List.range n).all (fun i => (s.cluster cl).cpool.getLsbD ((a - sramBase cl) / sramBank + i)) &&
      !s.covered a (n * sramBank))

/-- Lending once more to every item would pass the limit of a count (08 R272). -/
def State.lendRoom (s : State) (part : BitVec 4) (h t n : Nat) : Bool :=
  (s.tCaps t).all (fun e => !(entMode e == 1 || entMode e == 2) ||
    (match s.setSlot part (s.tcb part h tcbCset) (BitVec.ofNat 5 (entSrc e)) with
      | .cap c => ((s.descOf c).map (fun d => decide (d.count.toNat + n ≤ 65535))).getD true
      | _ => true))

/-- Units queued: of a launch, its cluster groups that have not been dispatched (10 R355, R356). -/
def State.unitsQueued (s : State) (q : Queue) : Nat :=
  (q.units.map (fun u => match u with
    | .groups h => match s.tmplAt q.part (s.tcb q.part h tcbTmpl) with
      | some t =>
        let g := max 1 (s.tGroup t)
        let next := s.tcb q.part h tcbNext
        match tabFind h (s.part q.part).chosen with
        | none => (s.tItems t - next + g - 1) / g
        | some bs => ((bs.map (fun b => b * s.tBlock t / g * g)).eraseDups.filter (fun a => decide (next ≤ a))).length
      | none => 0
    | _ => 1)).sum

/-- A launch's next group may be dispatched to a cluster: barrier, reservation, records and sets (10 R346, R358, R487). -/
def State.groupEligible (s : State) (part : BitVec 4) (h cl : Nat) : Bool :=
  match s.tmplAt part (s.tcb part h tcbTmpl) with
  | none => false
  | some t => match s.nextGroup part h t with
    | none => false
    | some first =>
      let n := (s.groupItems part h t first).length
      (!s.tGbv t || barFree (s.bar cl (s.tGbar t))) &&
        (s.tRsvb t == 0 || ((s.resvRange cl (s.tRsvb t)).isSome && (s.freeDesc part).isSome)) &&
        (s.freeRecords part n).length == n && (s.freeSets part n).length == n && s.lendRoom part h t n

/-- The mailboxes of a launch are bound in a cluster before its continuations start there; one that another party holds
stays with it (08 R287). -/
def State.bindLaunch (s : State) (part : BitVec 4) (h t cl : Nat) : State :=
  ((List.range 8).filterMap (s.tMbox t)).foldl (fun s (place, i) =>
    if (s.mailbox cl i).bound = .unbound then
      s.onMailbox cl i (fun m => { m with bound := .launch (BitVec.ofNat 32 h) part, place := place })
    else s) s

/-- A continuation of a traced launch joins its block (11 R408, R411). -/
def State.joinBlock (s : State) (part : BitVec 4) (cl : Nat) (t : Option Traced) : State :=
  match t with
  | some t => s.onCluster cl (fun c => c.onBlock part t (fun b => { b with live := b.live + 1 }))
  | none => s

/-- A continuation on a cluster's ready list. -/
def State.pushReady (s : State) (cl : Nat) (part : BitVec 4) (record : Nat) (core : Option Nat) : State :=
  s.onCluster cl (fun c => { c with ready := c.ready ++ [⟨part, record, core⟩] })

/-- One item of a group is created: its record, its set and its capabilities (10 R343, R347, R487). -/
def State.createItem (s : State) (part : BitVec 4) (h t cl first : Nat) (resv : Option Nat) (x : Nat × Nat × Nat) : State :=
  let (n, a, set) := x
  let s := s.takeSet part set []
  let s := s.putRecord part a ⟨s.tEntry t, BitVec.ofNat 64 (widOf (s.tFields t) n), [], set, h, s.tcb part h tcbQueue⟩
  let s := (s.tCaps t).foldl (fun s e => s.giveEntry part h set n first resv e) s
  let s := s.joinBlock part cl ((s.launchTrace part h).map (fun ix => ⟨ix, n / max 1 (s.tBlock t)⟩))
  s.pushReady cl part a none

/-- A cluster group's reservation: a whole CLUSTER buffer of BYTES (10 R347; log 36). -/
def State.makeResv (s : State) (part : BitVec 4) (t cl : Nat) : State × Option Nat :=
  match s.tRsvb t, s.resvRange cl (s.tRsvb t), s.freeDesc part with
  | 0, _, _ => (s, none)
  | n, some a, some i => (s.putDesc part i {
      cls := 1, fmt := 0, owner := 0, owndev := s.dev, base := BitVec.ofNat 64 a,
      lenm1 := BitVec.ofNat 35 (n * sramBank / 32 - 1) }, some i)
  | _, _, _ => (s, none)

/-- CLUSTER_GROUP_DISPATCH: the next group of a launch is created in a cluster (10 R343). -/
def State.dispatchGroup (s : State) (part : BitVec 4) (h cl : Nat) : State :=
  match s.tmplAt part (s.tcb part h tcbTmpl) with
  | none => s
  | some t => match s.nextGroup part h t with
    | none => s
    | some first =>
      let items := s.groupItems part h t first
      let n := items.length
      let s := s.bindLaunch part h t cl
      let (s, resv) := s.makeResv part t cl
      let s := if s.tGbv t then s.setBar cl (s.tGbar t) (armedBar (min n 65535) 0 part 0x7FF (BitVec.ofNat 32 h) 0) else s
      let xs := items.zip ((s.freeRecords part n).zip (s.freeSets part n))
      let s := xs.foldl (fun s x => s.createItem part h t cl first resv x) s
      let s := s.setTcb part h tcbNext (first + s.tGroup t)
      let s := (s.setTcb part h tcbLive (s.tcb part h tcbLive + n)).setTcb part h tcbState 3
      s.onPart part (fun p => { p with
        groups := p.groups ++ [⟨h, first, cl, n, if s.tGbv t then some (s.tGbar t) else none, resv, false⟩] })

/-! ### Batch chunks and single continuations (10 R361, R369) -/

/-- The records of the next chunk (10 R361). -/
def State.chunkSize (s : State) (part : BitVec 4) (h t : Nat) : Nat :=
  let left := s.tcb part h tcbNrec - s.tcb part h tcbNext
  let e := 16 * ((List.range 128).filter (s.part part).inCmask).length
  let den := max 1 (s.tDivisor t) * e
  min left (max (max 1 (s.tMinchunk t)) ((left + den - 1) / max 1 den))

/-- A batch card's next chunk may be dealt: a record and a set are free (10 R487). -/
def State.chunkEligible (s : State) (part : BitVec 4) (h : Nat) : Bool :=
  (s.tmplAt part (s.tcb part h tcbTmpl)).isSome && decide (s.tcb part h tcbNext < s.tcb part h tcbNrec) &&
    !(s.freeRecords part 1).isEmpty && !(s.freeSets part 1).isEmpty &&
    (match s.setSlot part (s.tcb part h tcbCset) 0 with
      | .cap c => ((s.descOf c).map (fun d => decide (d.count.toNat < 65535))).getD true
      | _ => true)

/-- BATCH_CHUNK_DEAL (10 R361). -/
def State.dealChunk (s : State) (part : BitVec 4) (h cl : Nat) : State :=
  match s.tmplAt part (s.tcb part h tcbTmpl), s.freeRecords part 1, s.freeSets part 1 with
  | some t, a :: _, i :: _ =>
    let c := s.chunkSize part h t
    let next := s.tcb part h tcbNext
    let w (n : Nat) : Word := BitVec.ofNat 64 n
    let s := s.takeSet part i []
    let s := s.putRecord part a ⟨s.tEntry t, w next, [w next, w c, w (s.tcb part h tcbRsize), w (s.tcb part h tcbArg)], i, h,
      s.tcb part h tcbQueue⟩
    let (s, f) := s.lendFrom part (s.tcb part h tcbCset) 0 false
    let s := (f.map (s.giveSet part i 0)).getD s
    let s := (s.setTcb part h tcbNext (next + c)).setTcb part h tcbState 3
    let s := s.onPart part (fun p => { p with groups := p.groups ++ [⟨h, next, cl, 1, none, none, false⟩] })
    s.pushReady cl part a none
  | _, _, _ => s

/-- The continuation of a single-continuation TCB is handed out (10 R369). -/
def State.dispatchSingle (s : State) (part : BitVec 4) (h cl : Nat) : State :=
  let s := s.setTcb part h tcbState 3
  let s := s.onPart part (fun p => { p with groups := p.groups ++ [⟨h, 0, cl, 1, none, none, false⟩] })
  s.pushReady cl part (s.tcbRecord part h) none

/-! ### Asking for work (10 R358) -/

/-- The cores whose scratchpads hold LOCAL buffers that a capability set names (10 R365). -/
def State.boundCores (s : State) (part : BitVec 4) (cset : Nat) : List Nat :=
  (s.setCaps part cset).filterMap (fun c => match s.descOf c with
    | some d => if d.cls = 0 then (match placeOf d.base.toNat with
        | .pad k _ => some k
        | _ => none) else none
    | none => none)

/-- A unit is eligible for a cluster (10 R355, R358). -/
def State.eligible (s : State) (part : BitVec 4) (cl : Nat) (u : Work) : Bool :=
  match u with
  | .groups h => (s.part part).inCmask cl && s.groupEligible part h cl
  | .single h =>
    let aff := s.tcb part h tcbAff
    (if aff.testBit 7 then aff % 128 == cl else (s.part part).inCmask cl) &&
      (s.boundCores part (s.tcb part h tcbCset)).all (fun k => clusterOf k == cl)
  | .chunk h => (s.part part).inCmask cl && s.chunkEligible part h
  | .again _ c core => c == cl && core.all (fun k => clusterOf k == cl)
  | .service _ => false

/-- A compute core may take work of a partition: it is idle, belongs to it, and its sluice lets it issue (08 R301). -/
def Core.takes (c : Core) (part : BitVec 4) : Bool := c.mode == .idle && c.sluice.part == part && c.sluice.en

/-- An idle compute core of a cluster that belongs to a partition. -/
def State.idleCore (s : State) (cl : Nat) (part : BitVec 4) : Bool :=
  !(s.part part).out && (List.range 16).any (fun i => (s.core (16 * cl + i)).takes part)

/-- The queues that may be dispatched to a cluster (10 R358). -/
def State.candidates (s : State) (cl : Nat) : List (Nat × Queue) :=
  s.queues.filter (fun (_, q) => q.active && s.idleCore cl q.part && q.units.any (s.eligible q.part cl))

/-- A pass value precedes another (10 R359). -/
def passBefore (a b : BitVec 40) : Bool := decide (2 ^ 39 ≤ (a - b).toNat)

/-- The queue with the earliest pass; the lowest number of several (10 R358). -/
def earliestQueue (qs : List (Nat × Queue)) : Option (Nat × Queue) :=
  qs.foldl (fun b q => match b with
    | none => some q
    | some p => if passBefore q.2.pass p.2.pass then some q else some p) none

/-- The unit leaves its queue, but for a launch or a card with more to hand out. -/
def State.afterUnit (s : State) (q i : Nat) (part : BitVec 4) (u : Work) : State :=
  let more := match u with
    | .groups h => match s.tmplAt part (s.tcb part h tcbTmpl) with
      | some t => (s.nextGroup part h t).isSome
      | none => false
    | .chunk h => decide (s.tcb part h tcbNext < s.tcb part h tcbNrec)
    | _ => false
  if more then s else s.onQueue q (fun x => { x with units := x.units.eraseIdx i })

/-- A unit is handed to a cluster. -/
def State.handOut (s : State) (part : BitVec 4) (cl : Nat) (u : Work) : State :=
  match u with
  | .groups h => s.dispatchGroup part h cl
  | .single h => s.dispatchSingle part h cl
  | .chunk h => s.dealChunk part h cl
  | .again a _ core => s.pushReady cl part a core
  | .service _ => s

/-- ASK_FOR_WORK of a cluster with an idle core and an empty ready list (10 R358). -/
def State.askForWork (s : State) (cl : Nat) : State :=
  if !(s.cluster cl).ready.isEmpty then s
  else match earliestQueue (s.candidates cl) with
    | none => s
    | some (q, x) => match (x.units.zipIdx).find? (fun p => s.eligible x.part cl p.1) with
      | none => s
      | some (u, i) =>
        let s := { s with gpass := x.pass }
        let s := s.onQueue q (fun y => { y with pass := y.pass + BitVec.ofNat 40 (2 ^ 24 / max 1 y.tickets.toNat) })
        (s.handOut x.part cl u).afterUnit q i x.part u

/-! ### Meanings -/

/-- ASK_FOR_WORK of cluster `focus.cluster` (10 R358). -/
def execAskForWork (s : State) : Host.Outcome State Fault Refusal := .next (s.askForWork s.focus.cluster)

end Sys2Proof.Machine
end

