-- ==== Sys2Proof/Machine/Weir.lean ====
section
/-! DEFINITION. The weir (10 R376 to R380): barriers, the `wr` unit, and requests on their way to a weir or to the
scheduler (10 R353, R362). -/

namespace Sys2Proof.Machine

/-! ### Changes of a barrier (10 R377) -/

/-- The barrier's identity from a cluster and a number (10 R376). -/
def barId (cl b : Nat) : Nat := cl * 64 + b

/-- EXCESS after more arrivals or bytes were lost; it saturates. -/
def barLose (x : BitVec 256) (n : Nat) : BitVec 256 :=
  let e := min (fieldN x.toNat 192 64 + n) (2 ^ 64 - 1)
  ((BitVec.ofNat 64 e) ++ x.extractLsb' 0 192) ||| (1#256 <<< 58)

/-- COUNT and BYTES written. -/
def barPut (x : BitVec 256) (count bytes : Nat) : BitVec 256 :=
  x.extractLsb' 56 200 ++ BitVec.ofNat 40 bytes ++ BitVec.ofNat 16 count

/-- The report of an over-arrival, to the arming partition (10 R377). -/
def State.reportOver (s : State) (src cl b : Nat) (detail2 : Nat) : State :=
  let x := s.bar cl b
  s.report src (barPart x) (x.extractLsb' 96 32) (x.extractLsb' 128 64) 0x32 (barId cl b) detail2

/-- A barrier fires when nothing is expected any more and it has not fired (10 R377). -/
def State.fireIf (s : State) (cl b : Nat) : State :=
  let x := s.bar cl b
  if barCount x = 0 ∧ barBytes x = 0 ∧ !barFired x then s.fire cl b else s

/-- An arrival, or a byte decrement, of `n` (10 R377). -/
def State.weirTake (s : State) (r : Request) (cl b n : Nat) (bytes : Bool) : State :=
  let x := s.bar cl b
  if !barArmed x then s.reportReq r 0x32 (barId cl b) 3
  else
    let have_ := if bytes then barBytes x else barCount x
    let k := min n have_
    let s := s.setBar cl b (if bytes then barPut x (barCount x) (barBytes x - k) else barPut x (barCount x - k) (barBytes x))
    let s := if k < n then
        (s.setBar cl b (barLose (s.bar cl b) (n - k))).reportOver r.agent cl b ((if bytes then 2 else 1) + (n - k) * 256)
      else s
    s.fireIf cl b

/-- arm (10 R377). -/
def State.armBar (s : State) (cl b : Nat) (x : BitVec 256) : State := (s.setBar cl b x).fireIf cl b

/-- disarm (10 R377). -/
def State.disarmBar (s : State) (cl b : Nat) : State :=
  let x := s.bar cl b
  (s.setBar cl b ((x &&& ~~~(1#256 <<< 56)) ||| (1#256 <<< 59))).wakeAll 1 0 cl b

/-- BARMASK allows a partition to arm a barrier (10 R376). -/
def State.barAllowed (s : State) (part : BitVec 4) (cl b : Nat) : Bool :=
  (((s.cluster cl).barmask[part.toNat]?).getD 0).getLsbD b

/-- A barrier is of another partition: armed since reset by another, and not allowed (10 R379). -/
def State.barForeign (s : State) (part : BitVec 4) (cl b : Nat) : Bool :=
  let x := s.bar cl b
  (barArmed x || barFired x || barDis x) && barPart x != part && !s.barAllowed part cl b

/-! ### Requests of a core arrive in order (01 R19; 10 R353, R362, R377) -/

/-- A request is carried out; a query answers with the state block as it stands (10 R353, R362, R377, R379). -/
def State.carryOut (s : State) (r : Request) : State × Option Word :=
  match r.ask with
  | .dec h => (s.decTcb r h.toNat, none)
  | .fill h v => (s.fillFuture r h.toNat v, none)
  | .arrive b n => (s.weirTake r (b.toNat / 64) (b.toNat % 64) n false, none)
  | .bytes b n => (s.weirTake r (b.toNat / 64) (b.toNat % 64) n true, none)
  | .query b => (s, some ((s.bar (b.toNat / 64) (b.toNat % 64)).extractLsb' 0 64))

/-- A request has arrived: it is carried out, and the operation that made it has done its work. -/
def State.askArrives (s : State) (r : Request) : State :=
  let (s, v) := s.carryOut r
  match r.seq with
  | some q => s.ready r.agent q v
  | none => s

/-- The requests of an agent's earlier operations arrive before a later one does (01 R19). -/
def State.settleAsks (s : State) (a : Nat) : State :=
  let mine (r : Request) : Bool := r.agent == a && r.seq.isSome
  (s.asks.filter mine).foldl State.askArrives { s with asks := s.asks.filter (fun r => !mine r) }

/-! ### The `wr` unit (10 R379) -/

/-- The barrier that t names: its cluster and number. -/
def wrBar (op : WrOp) (x : Trig) : Nat × Nat :=
  match op with
  | .arm | .disarm => (agentCluster x.c, fieldN x.t.toNat 0 6)
  | _ => (if x.t.getLsbD 15 then agentCluster x.c else fieldN x.t.toNat 6 7, fieldN x.t.toNat 0 6)

/-- The bits of t that an operation names. -/
def wrTBits : WrOp → Word
  | .arm => 0xFFFF003F
  | .arrive => 0xFFFF9FFF
  | .query => 0x9FFF
  | .disarm => 0x3F

/-- The bits of `wr.o` that an operation may find set: it ignores a latch that it does not use (02 R90; 10 R379). -/
def wrOBits : WrOp → Word
  | .arm => 0xFFFFFFFFFF
  | _ => BitVec.allOnes 64

/-- The checks at issue (10 R379); `wr.o` is examined for arm alone (log 122). -/
def wrErr (op : WrOp) (_ : State) (x : Trig) : Option Err :=
  let o := wrOBits op
  require (x.t &&& ~~~wrTBits op == 0 && x.o &&& ~~~o == 0 && (op != .arrive || fieldN x.t.toNat 16 16 != 0)) ⟨0x12, x.t, 0⟩

/-- Cycles of a `wr` operation (10 R379). -/
def wrCycles (x : Trig) (cl : Nat) : Nat := 12 + 8 * routeHops (min (agentCluster x.c) 128) cl

/-- The refusal of an operation on a barrier of another partition (10 R379). -/
def barRefusal (cl b : Nat) : LateFault := ⟨0x20, BitVec.ofNat 64 (barId cl b), 9⟩

/-- The request of an operation in flight. -/
def Flight.request (f : Flight) (a : Ask) : Request := ⟨a, f.res.part, f.agent, some f.seq, f.res.launch, f.res.wid⟩

/-- What a `wr` trigger does (10 R377, R379): an arm and a disarm act at once, behind the core's earlier requests (01 R19),
an arrival and a query are on their way to the weir. -/
def wrPerform (op : WrOp) (s : State) (x : Trig) : State :=
  let (cl, b) := wrBar op x
  let s := if op = .arm ∨ op = .disarm then s.settleAsks x.c else s
  let part := s.partOf x.c
  let n := wrCycles x cl
  let done (r : Word) := x.detach n (fun f => { f with phase := .ready, result := some r })
  let refused := x.detach n (fun f => { f with phase := .ready, fault := some (barRefusal cl b) })
  match op with
  | .arm =>
    if !s.barAllowed part cl b then done 2 s
    else if barArmed (s.bar cl b) && !barFired (s.bar cl b) then done 1 s
    else
      let f := x.flight s n
      done 0 (s.armBar cl b
        (armedBar (fieldN x.t.toNat 16 16) (fieldN x.o.toNat 0 40) part (agentCore x.c) f.res.launch f.res.wid))
  | .arrive =>
    let f := x.flight s n
    if s.barForeign part cl b then refused s
    else
      let s := x.detach n (fun f => { f with phase := .request }) s
      { s with asks := s.asks ++ [f.request (.arrive (BitVec.ofNat 13 (barId cl b)) (fieldN x.t.toNat 16 16))] }
  | .query =>
    let f := x.flight s n
    if s.barForeign part cl b then refused s
    else
      let s := x.detach n (fun f => { f with phase := .request }) s
      { s with asks := s.asks ++ [f.request (.query (BitVec.ofNat 13 (barId cl b)))] }
  | .disarm =>
    if s.barForeign part cl b then refused s
    else if !s.barAllowed part cl b then done 2 s
    else done 0 (s.disarmBar cl b)

/-- A `wr` trigger (10 R379). -/
def trigWr (op : WrOp) : Trigger where
  check := wrErr op
  perform s x := x.throughSluice (wrCycles x (wrBar op x).1) (wrPerform op · x) s
  detached _ _ := true

/-! ### Requests arrive (10 R353, R362, R377) -/

/-- The kinds of request that the events of the scheduler and the weirs take. -/
inductive AskKind where
  | dec | fill | arrive | bytes
  deriving DecidableEq, Repr

/-- The kind of a request. -/
def Ask.kind : Ask → AskKind
  | .dec _ => .dec
  | .fill _ _ => .fill
  | .arrive _ _ | .query _ => .arrive
  | .bytes _ _ => .bytes

/-- No earlier request of the same agent is still on its way. -/
def firstOfAgent (rs : List Request) (i : Nat) : Bool :=
  match rs[i]? with
  | some r => !(rs.take i).any (fun x => x.agent == r.agent)
  | none => false

/-- The request of a kind that arrives: that at place `n`, or the first that may. -/
def pickAsk (rs : List Request) (k : AskKind) (n : Nat) : Option Nat :=
  let ok (i : Nat) : Bool := firstOfAgent rs i && ((rs[i]?).map (fun r => r.ask.kind == k)).getD false
  if ok n then some n else (List.range rs.length).find? ok

/-- A request arrives, and the operation that made it has done its work. -/
def State.takeAsk (s : State) (k : AskKind) (n : Nat) : State :=
  match pickAsk s.asks k n with
  | none => s
  | some i => match s.asks[i]? with
    | none => s
    | some r => ({ s with asks := s.asks.eraseIdx i } : State).askArrives r

/-! ### Meanings -/

/-- The word `-> wr.t.arm` (10 R379). -/
def execWrArm (m : Arg) (s : State) : Host.Outcome State Fault Refusal :=
  .next (issueOne (.wr .arm) (trigWr .arm) m s)

/-- The word `-> wr.t.arrive` (10 R379). -/
def execWrArrive (m : Arg) (s : State) : Host.Outcome State Fault Refusal :=
  .next (issueOne (.wr .arrive) (trigWr .arrive) m s)

/-- The word `-> wr.t.query` (10 R379). -/
def execWrQuery (m : Arg) (s : State) : Host.Outcome State Fault Refusal :=
  .next (issueOne (.wr .query) (trigWr .query) m s)

/-- The word `-> wr.t.disarm` (10 R379). -/
def execWrDisarm (m : Arg) (s : State) : Host.Outcome State Fault Refusal :=
  .next (issueOne (.wr .disarm) (trigWr .disarm) m s)

/-- TCB_DECREMENT: request `focus.n`, or the first decrement (10 R353). -/
def execTcbDecrement (s : State) : Host.Outcome State Fault Refusal := .next (s.takeAsk .dec s.focus.n)

/-- FUTURE_FILL: request `focus.n`, or the first fill (10 R362). -/
def execFutureFill (s : State) : Host.Outcome State Fault Refusal := .next (s.takeAsk .fill s.focus.n)

/-- WEIR_ARRIVAL: request `focus.n`, or the first arrival or query (10 R377, R379). -/
def execWeirArrival (s : State) : Host.Outcome State Fault Refusal := .next (s.takeAsk .arrive s.focus.n)

/-- WEIR_BYTE_DECREMENT: request `focus.n`, or the first decrement of bytes (10 R377). -/
def execWeirByteDecrement (s : State) : Host.Outcome State Fault Refusal := .next (s.takeAsk .bytes s.focus.n)

end Sys2Proof.Machine
end

