-- ==== Sys2Proof/Machine/Sq.lean ====
section
/-! DEFINITION. The `sq` unit but for the gang switch (10 R366 to R374), the retirement of a continuation (10 R347, R378)
and the end of a task control block (10 R354). -/

namespace Sys2Proof.Machine

/-! ### Operands (10 R367) -/

/-- The registers of the capability mask, in ascending order. -/
def sqMask (t : Word) : List (BitVec 5) := ((List.range 30).filter (fun n => t.getLsbD (34 + n))).map (BitVec.ofNat 5)

/-- The bits of t that an operation names. -/
def sqTBits : SqOp → Word
  | .launch => 0xFFFFFFFC00FFFFFF
  | .task => 0xFFFFFFFCFFFFFFFF
  | .dec => 0xFFFFFF
  | .call => 0x3FFFFF
  | .fillf => 0xFFFFFFFF
  | .spawn => 0xFFFFFFFFFFFFFFFF
  | .tickets => 0x1F1FFFFF
  | .gang => 0xFF01FF

/-- The bits of `sq.o` that an operation names. -/
def sqOBits : SqOp → Word
  | .launch => 0x3FFFFFFFFFFFFFF
  | .task => 0x1FFFFFFFFFFFFFF
  | .dec => 0
  | .call => 0xFFFFFFFFFFFFFFFF
  | .fillf => 0xFFFFFFFFFFFFFFFF
  | .spawn => 0xFFFFFFFFFFFF
  | .tickets => 0
  | .gang => 0xFFFFFFFFFFFFFFFF

/-- CV of call. -/
def callCv (t : Word) : Bool := t.getLsbD 21
/-- The service number of call. -/
def callService (t : Word) : Nat := fieldN t.toNat 0 16
/-- The capability register of call. -/
def callK (t : Word) : BitVec 5 := t.extractLsb' 16 5

/-- The registers that the operation takes capabilities from. -/
def sqRegs (op : SqOp) (t : Word) : List (BitVec 5) :=
  match op with
  | .launch | .task => sqMask t
  | .call => if callCv t then [callK t] else []
  | _ => []

/-- Every field lies in range (10 R366, R371, R387). -/
def sqRangeOk (op : SqOp) (t o : Word) : Bool :=
  match op with
  | .task | .spawn => fieldN o.toNat 0 2 == 0
  | .call => !(callCv t && callService t == 0)
  | .tickets => decide (1 ≤ fieldN t.toNat 8 13) && decide (fieldN t.toNat 8 13 ≤ 4096)
  | .gang => decide (fieldN t.toNat 16 8 ≤ 50)
  | _ => true

/-- The checks at issue, in order (10 R366). The spec gives 0x11 of check 2 no register: its DETAIL is free (log 4). -/
def sqErr (op : SqOp) (s : State) (x : Trig) : Option Err :=
  firstErr [
    require (x.t &&& ~~~sqTBits op == 0 && x.o &&& ~~~sqOBits op == 0 && sqRangeOk op x.t x.o) ⟨0x12, x.t, 0⟩,
    require (!(op == .tickets || op == .gang) || sluiceKind x.c == 0b10) ⟨0x11, s.free 0, 0x80⟩,
    ((sqRegs op x.t).find? (fun k => (x.at_.rk k).cap?.isNone)).map (fun k => ⟨0x10, kNum k, 0⟩)]

/-- The least cycles of an operation (10 R374). -/
def sqCycles (x : Trig) : Nat := 96 + 8 * routeHops (agentCluster x.c) 128

/-! ### Operations (10 R368 to R373) -/

/-- The named registers become empty, and what they held (10 R348). -/
def takeRegs (op : SqOp) (x : Trig) (s : State) : State :=
  (sqRegs op x.t).foldl (fun s k => match (x.at_.rk k).cap? with
    | some c => (s.setAgentK x.c k .empty).windowAway c
    | none => s) s

/-- What the named registers held. -/
def sqCaps (op : SqOp) (x : Trig) : List (Option Cap) := (sqRegs op x.t).map (fun k => (x.at_.rk k).cap?)

/-- g0 to g3 at the start of the trigger's cycle. -/
def sqG (x : Trig) : List Word := (List.range 4).map (fun i => (x.at_.g[i]?).getD 0)

/-- The operation in flight with its result. -/
def sqDone (f : Flight) (r : Word) (s : State) : State := s.launch { f with phase := .ready, result := some r }

/-- The result word of launch and task: handle, CODE, and the return set of a refusal (10 R367). -/
def sqWord (code handle set : Nat) : Word := BitVec.ofNat 64 (handle + code * 2 ^ 24 + set * 2 ^ 32)

/-- launch (10 R368). -/
def sqLaunch (s : State) (x : Trig) : State :=
  let f := x.flight s (sqCycles x)
  let fut := if x.o.getLsbD 32 then some (fieldN x.o.toNat 0 32) else none
  let succ := if x.o.getLsbD 57 then [fieldN x.o.toNat 33 24] else []
  let s := takeRegs .launch x s
  let (s, code, n) := s.instantiate f.res.part (fieldN x.t.toNat 0 16) (fieldN x.t.toNat 16 8) (sqCaps .launch x) fut succ
  sqDone f (if code = 0 then sqWord 0 n 0 else sqWord code 0 n) s

/-- The template of the launch that a continuation belongs to; none when there is no such task control block. -/
def State.launchTmpl (s : State) (part : BitVec 4) (launch : BitVec 32) : Option Nat :=
  let h := launch.toNat
  if h < (s.part part).tcbLen ∧ s.tcb part h tcbKind ≠ 0 then some (s.tcb part h tcbTmpl) else none

/-- The code with which a task is refused; 0 when it is not (10 R367, R369). -/
def State.taskCode (s : State) (part : BitVec 4) (launch : BitVec 32) (queue : Nat) : Nat :=
  match (s.launchTmpl part launch).bind (s.tmplAt part) with
  | none => 1
  | some _ =>
    if (s.queue queue).part ≠ part then 4
    else if (s.freeTcb part).isNone || (s.freeSets part 1).isEmpty then 2
    else 0

/-- A capability set with the capabilities taken (10 R369, R371). -/
def State.fillSet (s : State) (part : BitVec 4) (i : Nat) (caps : List Cap) : State :=
  caps.foldl (fun s c => s.setOwner c (ownerSet i)) (s.takeSet part i caps)

/-- task (10 R369). -/
def sqTask (s : State) (x : Trig) : State :=
  let f := x.flight s (sqCycles x)
  let part := f.res.part
  let queue := fieldN x.t.toNat 16 8
  let caps := (sqCaps .task x).filterMap id
  let code := s.taskCode part f.res.launch queue
  let s := takeRegs .task x s
  match code, s.freeTcb part, s.freeSets part 1 with
  | 0, some h, i :: _ =>
    let s := s.fillSet part i caps
    let s := s.putTcb part h {
      kind := 2
      count := fieldN x.t.toNat 0 16
      queue := queue
      tmpl := ((s.launchTmpl part f.res.launch)).getD 0
      cset := i
      aff := if x.t.getLsbD 31 then 128 + fieldN x.t.toNat 24 7 else 0
      succ := if x.o.getLsbD 56 then [fieldN x.o.toNat 32 24] else [] }
    let s := s.putRecord part (s.tcbRecord part h) ⟨⟨x.o.extractLsb' 0 32, 0⟩, 0, sqG x, i, h, queue⟩
    let s := if fieldN x.t.toNat 0 16 = 0 then s.enqueueTcb part h else s
    sqDone f (sqWord 0 h 0) s
  | code, _, _ =>
    let (s, n) := s.refuseLaunch part (caps.map some)
    sqDone f (sqWord code 0 n) s

/-- The lowest free future is allocated (10 R362). -/
def State.takeFut (s : State) (part : BitVec 4) (h : Nat) : State := s.writeBytes (s.futAt part h) (leBytes 16 (2 ^ 127))

/-- The task control block of a service call, on the partition's SVCQ (10 R352, R371). -/
def State.putCall (s : State) (x : Trig) (f : Flight) (h i fut : Nat) : State :=
  let part := f.res.part
  let s := s.putTcb part h { kind := 4, count := 0, queue := (s.part part).svcq, cset := i }
  let a := s.tcbAt part h + 64
  let s := s.writeBytes a (leBytes 4 (callService x.t) ++ leBytes 4 fut ++ leBytes 8 x.o.toNat ++
    leBytes 8 (s.agentCid x.c).toNat ++ leBytes 8 f.res.wid.toNat ++ leBytes 4 f.res.launch.toNat)
  s.enqueueTcb part h

/-- call (10 R371). -/
def sqCall (s : State) (x : Trig) : State :=
  let f := x.flight s (sqCycles x)
  let part := f.res.part
  let caps := (sqCaps .call x).filterMap id
  let full (s : State) : State :=
    let (s, n) := s.refuseLaunch part (caps.map some)
    sqDone f (BitVec.ofNat 64 (n + 2 * 2 ^ 32)) s
  let s := takeRegs .call x s
  match s.freeFut part with
  | none => full s
  | some fut =>
    if callService x.t = 0 then sqDone f (BitVec.ofNat 64 fut) (s.takeFut part fut)
    else match s.freeTcb part, s.freeSets part 1 with
      | some h, i :: _ =>
        sqDone f (BitVec.ofNat 64 fut) (((s.takeFut part fut).fillSet part i caps).putCall x f h i fut)
      | _, _ => full s

/-- The rank of a work identifier (10 R341). -/
def indexOf : List (Nat × Nat) → Nat → Nat
  | [], _ => 0
  | (w, _) :: rest, x =>
    let sh := (rest.map (·.1)).sum
    x / 2 ^ sh % 2 ^ w * itemsOf rest + indexOf rest (x % 2 ^ sh)

/-- The enumeration index of a continuation's item; that of the item it descends from for one made by spawn (10 R341,
R372). -/
def State.itemOf (s : State) (part : BitVec 4) (t record : Nat) (wid : Word) : Nat :=
  (tabFind record (s.part part).spawned).getD (indexOf (s.tFields t) wid.toNat)

/-- The first item of an item's cluster group. -/
def State.groupFirst (s : State) (t item : Nat) : Nat := item / max 1 (s.tGroup t) * max 1 (s.tGroup t)

/-- The live continuations of a group changed. -/
def State.onGroup (s : State) (part : BitVec 4) (h first : Nat) (g : Group → Group) : State :=
  s.onPart part (fun p => { p with groups := p.groups.map (fun x => if x.launch = h ∧ x.first = first then g x else x) })

/-- The launch in which a continuation may spawn: its template, when it has a group barrier (10 R372). -/
def State.spawnIn (s : State) (part : BitVec 4) (launch : BitVec 32) : Option Nat :=
  match s.launchTmpl part launch with
  | none => none
  | some n =>
    if s.tcb part launch.toNat tcbKind = 1 then (s.tmplAt part n).filter s.tGbv else none

/-- spawn (10 R372). -/
def sqSpawn (s : State) (x : Trig) : State :=
  let f := x.flight s (sqCycles x)
  let part := f.res.part
  let h := f.res.launch.toNat
  let cl := agentCluster x.c
  match s.spawnIn part f.res.launch with
  | none => sqDone f 1 s
  | some t => match s.freeRecords part 1, s.freeSets part 1 with
    | a :: _, i :: _ =>
      let item := s.itemOf part t f.res.record f.res.wid
      let s := s.takeSet part i []
      let s := s.putRecord part a ⟨CodePtr.ofWord x.o, x.t, sqG x, i, h, f.res.queue.toNat⟩
      let b := s.bar cl (s.tGbar t)
      let s := s.setBar cl (s.tGbar t) (barPut b (min 65535 (barCount b + 1)) (barBytes b))
      let s := s.setTcb part h tcbLive (s.tcb part h tcbLive + 1)
      let s := s.onGroup part h (s.groupFirst t item) (fun g => { g with live := g.live + 1 })
      let s := s.onPart part (fun p => { p with spawned := tabPut a item p.spawned })
      let s := s.joinBlock part cl f.res.trace
      sqDone f 0 (s.requeue cl a none)
    | _, _ => sqDone f 2 s

/-- A request of an `sq` operation sets out. -/
def sqAsk (a : Ask) (s : State) (x : Trig) : State :=
  let f := x.flight s (sqCycles x)
  let s := s.launch { f with phase := .request }
  { s with asks := s.asks ++ [f.request a] }

/-- tickets (10 R373). -/
def sqTickets (s : State) (x : Trig) : State :=
  let f := x.flight s (sqCycles x)
  sqDone f 0 (s.changeQueue (fieldN x.t.toNat 0 8) (fun q => { q with
    part := x.t.extractLsb' 24 4, en := x.t.getLsbD 28, tickets := x.t.extractLsb' 8 13 }))

/-- What an `sq` trigger other than gang does (10 R368 to R373). -/
def sqPerform (op : SqOp) (s : State) (x : Trig) : State :=
  match op with
  | .launch => sqLaunch s x
  | .task => sqTask s x
  | .dec => sqAsk (.dec (x.t.extractLsb' 0 32)) s x
  | .call => sqCall s x
  | .fillf => sqAsk (.fill (x.t.extractLsb' 0 32) x.o) s x
  | .spawn => sqSpawn s x
  | .tickets => sqTickets s x
  | .gang => s

/-- An `sq` trigger other than gang: every one is detached (10 R366). -/
def trigSq (op : SqOp) : Trigger where
  check := sqErr op
  perform s x := x.throughSluice (sqCycles x) (fun s => sqPerform op (if op = .dec ∨ op = .fillf then s else s.settleAsks x.c) x) s
  detached _ _ := true

/-! ### Retirement (10 R347, R378; 08 R287, R289; 11 R411) -/

/-- A part of a buffer that the launch has cut. -/
def State.sliceOf (s : State) (part : BitVec 4) (h : Nat) (c : Cap) : Bool :=
  c.kind == .whole && c.part == part &&
    (s.part part).slices.any (fun x => x.launch == h && x.parts.any (fun p => p.1 == c.desc.toNat))

/-- A part stands with the launch again. -/
def State.sliceBack (s : State) (part : BitVec 4) (h : Nat) (c : Cap) : State :=
  s.onPart part (fun p => { p with slices := p.slices.map (fun x =>
    if x.launch = h then { x with parts := x.parts.map (fun q => if q.1 = c.desc.toNat then (q.1, true) else q) } else x) })

/-- The capability was lent from a residual of the supplied set. -/
def State.lentBy (s : State) (part : BitVec 4) (h : Nat) (c : Cap) : Bool :=
  !c.owns && (s.setCaps part (s.tcb part h tcbCset)).any (fun x => x.same c && x.owns)

/-- What becomes of a capability that a continuation holds at its done (10 R347, R354). -/
def State.retireCap (s : State) (part : BitVec 4) (h : Nat) (c : Cap) : State :=
  if s.lentBy part h c then s.returnCap c
  else if s.sliceOf part h c then s.sliceBack part h c
  else if (s.part part).groups.any (fun g => g.resv == some c.desc.toNat) && c.part == part then s
  else match s.descOf c with
    | some d =>
      if d.auto && c.owns then (s.traceLost c.part c.desc.toNat).dropDesc c.part c.desc.toNat
      else s.addReturns part h [c]
    | none => s

/-- The group of a continuation of a launch, a task or a batch card. -/
def State.groupOf (s : State) (part : BitVec 4) (h cl record : Nat) (wid : Word) : Option Group :=
  (s.part part).groups.find? (fun g => g.launch == h && g.cluster == cl &&
    (match s.tcb part h tcbKind, s.tmplAt part (s.tcb part h tcbTmpl) with
      | 1, some t => g.first == s.groupFirst t (s.itemOf part t record wid)
      | 3, _ => g.first == wid.toNat
      | _, _ => true))

/-- A group loses a continuation; without a barrier to fire, it ends with its last one and gives up its reservation (10
R343; log 91). -/
def State.leaveGroup (s : State) (part : BitVec 4) (k : Group) : State :=
  match (s.part part).groups.find? (fun (x : Group) => x.launch == k.launch && x.first == k.first && x.cluster == k.cluster) with
  | none => s
  | some g =>
    let left : Group := { g with live := g.live - 1 }
    let s := s.onPart part (fun p => { p with groups := p.groups.map (fun x => if x = g then left else x) })
    if left.live = 0 ∧ g.bar = none then
      (s.reclaim part left).onPart part (fun p => { p with groups := p.groups.filter (fun x =>
        !(x.over && x.launch == g.launch && x.first == g.first && x.cluster == g.cluster)) })
    else s

/-- A continuation of a launch has retired: the launch's count, its block, and its done arrival (10 R346, R378). -/
def State.retireLaunch (s : State) (cn : Nat) (r : Resident) (h : Nat) : State :=
  let cl := clusterOf cn
  let s := s.setTcb r.part h tcbLive (s.tcb r.part h tcbLive - 1)
  let s := match r.trace with
    | some t => s.onCluster cl (fun c => c.onBlock r.part t (fun b => { b with live := b.live - 1 }))
    | none => s
  match s.tmplAt r.part (s.tcb r.part h tcbTmpl) with
  | some t =>
    let b := s.tGbar t
    if s.tGbv t then s.weirTake ⟨.arrive (BitVec.ofNat 13 (barId cl b)) 1, r.part, cn, none, r.launch, r.wid⟩ cl b 1 false
    else s
  | none => s

/-- The TCB finishes when nothing of it is left (10 R354). -/
def State.finishIfDone (s : State) (part : BitVec 4) (h : Nat) : State :=
  let all : Bool := match s.tcb part h tcbKind with
    | 1 => s.tcb part h tcbLive == 0 && (match s.tmplAt part (s.tcb part h tcbTmpl) with
        | some t => (s.nextGroup part h t).isNone
        | none => true)
    | 2 => true
    | 3 => decide (s.tcb part h tcbNrec ≤ s.tcb part h tcbNext) &&
        !(s.part part).groups.any (fun g => g.launch == h && g.live != 0)
    | _ => false
  if all then s.willFinish part h else s

/-- Mailboxes close that the continuation bound, and those of its launch when none of its continuations is left in the
cluster (08 R287, R289). -/
def State.closeFor (s : State) (cl : Nat) (r : Resident) : State :=
  let s := s.closeBound cl (.cont r.record r.part)
  if (s.part r.part).groups.any (fun g => g.launch == r.launch.toNat && g.cluster == cl && g.live != 0) then s
  else s.closeBound cl (.launch r.launch r.part)

/-- A retired continuation's set: that of a task control block stays, empty, until the block is freed; others are freed, after
their holdings have gone to the return set (08 R486). -/
def State.freeSetOf (s : State) (part : BitVec 4) (set h : Nat) : State :=
  if (s.tcb part h tcbKind = 2 ∨ s.tcb part h tcbKind = 4) ∧ s.tcb part h tcbCset = set then s.takeSet part set []
  else s.dropSet part set

/-- A continuation whose capabilities stand in its set retires from a core (10 R347, R354, R378, R487). -/
def State.retire (s : State) (cn : Nat) (r : Resident) : State :=
  let part := r.part
  let h := r.launch.toNat
  let cl := clusterOf cn
  if h < (s.part part).tcbLen then
    let caps := s.setCaps part r.cset.toNat
    let s := (caps.foldl (fun s c => s.retireCap part h c) s).freeSetOf part r.cset.toNat h
    let g := s.groupOf part h cl r.record r.wid
    let s := if s.tcb part h tcbKind = 1 then s.retireLaunch cn r h else s
    let s := match g with
      | some g => s.leaveGroup part g
      | none => s
    let s := s.setFld r.record recState 0
    let s := s.onPart part (fun p => { p with spawned := tabDrop r.record p.spawned })
    (s.closeFor cl r).finishIfDone part h
  else s

/-! ### The end of a task control block (10 R354) -/

/-- A task control block is free. -/
def State.clearTcb (s : State) (part : BitVec 4) (h : Nat) : State :=
  let s := (s.setTcb part h tcbKind 0).setTcb part h tcbState 0
  s.onPart part (fun p => { p with
    rsets := tabDrop h p.rsets, chosen := tabDrop h p.chosen, groups := p.groups.filter (fun g => g.launch != h) })

/-- A launch or a batch card finishes: what it still holds goes to its return set, its trace is checked, its successors
are decremented and its future filled (10 R354; 11 R400). Its TCB stays until the host has read its completion record or
its future has been filled; one with neither is free at once (log 37). -/
def State.finishLaunch (s : State) (part : BitVec 4) (h : Nat) : State :=
  let kind := s.tcb part h tcbKind
  let trace := s.launchTrace part h
  let (s, caps) := s.launchHoldings part h
  let s := s.addReturns part h caps
  let s := match trace with
    | some ix => s.finishTrace part ix
    | none => s
  let s := s.setTcb part h tcbState 4
  let s := s.signalFinish part h (if kind = 1 then BitVec.ofNat 64 (s.tcb part h tcbRset) else 0)
  if (tabFind h (s.part part).jobs).isSome && s.tcb part h tcbFv = 0 then s else s.clearTcb part h

/-- A single continuation or a service call finishes (10 R354). -/
def State.finishSmall (s : State) (part : BitVec 4) (h : Nat) : State :=
  let i := s.tcb part h tcbCset
  let caps := s.setCaps part i
  let s := s.addReturns part h caps
  let s := s.dropSet part i
  let s := s.setTcb part h tcbState 4
  (s.signalFinish part h 0).clearTcb part h

/-- A TCB that is due to finish does; one whose trace still has an open block waits for its close (10 R354; 11 R411). -/
def State.finishOne (s : State) (part : BitVec 4) (h : Nat) : State :=
  if ((s.launchTrace part h).map (s.traceOpen part)).getD false then s
  else
    let s := { s with fins := s.fins.erase (part, h) }
    match s.tcb part h tcbKind with
    | 1 => s.finishLaunch part h
    | 3 => s.finishLaunch part h
    | 0 => s
    | _ => s.finishSmall part h

/-- TCB_FINISH: the `n`-th that is due, or the first. -/
def State.finishNext (s : State) (n : Nat) : State :=
  match (s.fins[n]?).orElse (fun _ => s.fins.head?) with
  | some (p, h) => s.finishOne p h
  | none => s

/-! ### Meanings -/

/-- TCB_FINISH: the TCB at place `focus.n` (10 R354). -/
def execTcbFinish (s : State) : Host.Outcome State Fault Refusal := .next (s.finishNext s.focus.n)

/-- The word `-> sq.t.launch` (10 R368). -/
def execSqLaunch (m : Arg) (s : State) : Host.Outcome State Fault Refusal :=
  .next (issueOne (.sq .launch) (trigSq .launch) m s)

/-- The word `-> sq.t.task` (10 R369). -/
def execSqTask (m : Arg) (s : State) : Host.Outcome State Fault Refusal :=
  .next (issueOne (.sq .task) (trigSq .task) m s)

/-- The word `-> sq.t.dec` (10 R370). -/
def execSqDec (m : Arg) (s : State) : Host.Outcome State Fault Refusal :=
  .next (issueOne (.sq .dec) (trigSq .dec) m s)

/-- The word `-> sq.t.call` (10 R371). -/
def execSqCall (m : Arg) (s : State) : Host.Outcome State Fault Refusal :=
  .next (issueOne (.sq .call) (trigSq .call) m s)

/-- The word `-> sq.t.fillf` (10 R370). -/
def execSqFillf (m : Arg) (s : State) : Host.Outcome State Fault Refusal :=
  .next (issueOne (.sq .fillf) (trigSq .fillf) m s)

/-- The word `-> sq.t.spawn` (10 R372). -/
def execSqSpawn (m : Arg) (s : State) : Host.Outcome State Fault Refusal :=
  .next (issueOne (.sq .spawn) (trigSq .spawn) m s)

/-- The word `-> sq.t.tickets` (10 R373). -/
def execSqTickets (m : Arg) (s : State) : Host.Outcome State Fault Refusal :=
  .next (issueOne (.sq .tickets) (trigSq .tickets) m s)

end Sys2Proof.Machine
end

