-- ==== Sys2Proof/Machine/Messages.lean ====
section
/-! DEFINITION. A handover engine's changes one by one (08 R260), messages as they arrive (08 R283 to R293; 04 R174; 12
R469), multicast (08 R294 to R296) and the recall of register windows (08 R299, R300). -/

namespace Sys2Proof.Machine

/-! ### Changes (08 R260) -/

/-- closemb: a mailbox that the continuation holds closes (08 R289). -/
def State.changeClose (s : State) (f : Flight) : State :=
  let cl := agentCluster f.agent
  let i := fieldN f.t.toNat 0 10
  if (s.mailbox cl i).bound = f.binding then (s.closeMailbox cl i).doneWith f (some (statusCode 0))
  else s.doneWith f (some (statusCode 3))

/-- join without MERGE, and drop of a fraction or grant (08 R273, R274). -/
def State.changeJoin (s : State) (f : Flight) (c : Cap) : State :=
  s.afterWriteBack f c (fun s => (s.returnCap c).doneWith f none)

/-- The change of an operation whose turn at the descriptor it is (08 R260). -/
def State.change (s : State) (f : Flight) : State :=
  match f.op, f.ca with
  | .cap .alloc, _ => s.changeAlloc f
  | .cap .recv, _ => s.changeRecv f
  | .cap .peek, _ => s.changePeek f
  | .cap .bindmb, _ => s.changeBind f
  | .cap .closemb, _ => s.changeClose f
  | .cap .split, some c => s.changeSplit f c
  | .cap .join, some c => s.changeJoin f c
  | .cap .drop, some c => s.changeDrop f c
  | .cap .cut, some c => s.changeCut f c
  | .cap .fuse, some c => match f.cb with
    | some e => s.changeFuse f c e
    | none => s
  | .cap .free, some c => s.changeFree f c
  | .cap .send, some c => s.changeSend f c
  | .cp .copys, some c => s.changeSend f c
  | _, _ => s

/-- An uncorrectable error met in a descriptor poisons its buffer as a whole, and is recorded with the descriptor's index
(08 R304; log 128). -/
def State.descriptorError (s : State) (f : Flight) (c : Cap) : State :=
  match s.descOf c with
  | none => s
  | some d =>
    let gs := (s.capRanges c).flatMap (fun r => (List.range (r.2 / 32)).map (fun g => r.1 / 32 + g))
    let s := (gs.foldl State.addPoison s).onDesc c.part c.desc.toNat (fun d => { d with
      pois := true, pcount := BitVec.ofNat 16 (min (d.lenm1.toNat + 1) 0xFFFF), pfirst := 0 })
    s.postFor f 0b11 0x22 (BitVec.ofNat 64 (((gs.head?).map (32 * ·)).getD d.base.toNat)) (c.desc.setWidth 64)

/-- The capability whose descriptor an operation's change reads or writes first. -/
def State.changes (s : State) (f : Flight) : Option Cap :=
  match f.op with
  | .cap .recv => match ((s.mailbox (agentCluster f.agent) (fieldN f.t.toNat 0 10)).queue.head?).map Msg.pay with
    | some (.cap c _ _ _) => some c
    | _ => none
  | _ => f.ca

/-- DESCRIPTOR_CHANGE, with what the memory's error code finds in the descriptor (08 R260, R304). -/
def State.descriptorChange (s : State) (a : Nat) (q : BitVec 16) (e : Ecc) : State :=
  match s.flight? a q with
  | some f =>
    if f.phase = .change then
      (match e, s.changes f with
        | .uncorrectable, some c => s.descriptorError f c
        | _, _ => s).change f
    else s
  | none => s

/-! ### Snoops of the host (01 R54; 12 R472) -/

/-- BACK_INVALIDATE: every snoop of an operation has been answered. -/
def State.snoopsDone (s : State) (a : Nat) (q : BitVec 16) : State :=
  match s.flight? a q with
  | some f => if f.phase = .snoop then s.onFlight a q (fun f => { f with phase := .change }) else s
  | none => s

/-- Snoops that left at a time have stood unanswered for BISTALL µs of a port (12 R464, R472). -/
def State.snoopsLate (s : State) (port : Nat) (since : Word) : Bool :=
  ((s.ports[port]?).map (fun p => decide (since.toNat + 1000 * p.bistall.toNat ≤ s.now.toNat))).getD false

/-- BI_STALL: an operation whose snoops have stood unanswered for BISTALL µs of a port has its record written, once (12
R472). -/
def State.snoopStall (s : State) (port a : Nat) (q : BitVec 16) : State :=
  match s.flight? a q with
  | some f =>
    if f.phase = .snoop ∧ !f.stalled ∧ s.snoopsLate port f.snoopAt then
      (s.eventRecord 0x0A 0 false 0 f.res.part 0 0).onFlight a q (fun f => { f with stalled := true })
    else s
  | none => s

/-! ### A message at its mailbox (08 R290) -/

/-- Nothing of the same sender to the same mailbox stands before the message (08 R290). -/
def State.msgFirst (s : State) (i : Nat) : Bool :=
  match s.msgs[i]? with
  | some m => !(s.msgs.take i).any (fun x => x.src == m.src && x.mbox == m.mbox && x.host == m.host && x.dev == m.dev)
  | none => false

/-- Messages queued in a cluster. -/
def State.queued (s : State) (cl : Nat) : Nat := ((s.cluster cl).mbox.map (fun e => e.2.queue.length)).sum

/-- A mailbox has room for a message (08 R290). -/
def State.mboxRoom (s : State) (cl i : Nat) : Bool :=
  decide ((s.mailbox cl i).queue.length < 64) && decide (s.queued cl < 4096)

/-- The mailboxes of this device that subscribe to a tag of a core, in order of core and entry. -/
def State.subscribers (s : State) (core : BitVec 11) (tag : BitVec 16) : List (BitVec 17) :=
  s.cores.flatMap (fun (cn, c) =>
    (c.subs.filter (fun x => x.joined && x.dev == s.dev && x.core == core && x.tag == tag)).map (fun x =>
      BitVec.ofNat 17 (clusterOf cn * 1024 + x.mbox.toNat)))

/-- An earlier operation of the same sender will send to the mailbox, and its message has not set out: messages of one core to
one mailbox are queued in the order of their triggers (08 R290). -/
def State.sendsBefore (s : State) (m : Msg) : Bool :=
  match m.seq.bind (s.flight? m.src) with
  | none => false
  | some f => (s.before f).any (fun g => !g.retry &&
      (match g.phase with
        | .message | .signals | .ready => false
        | _ => true) &&
      (if g.op == .cap .mcast then
        !m.host && m.dev.isNone && (s.subscribers (agentCore g.agent) (g.t.extractLsb' 0 16)).contains m.mbox
      else g.sends && sendMbox g.t == m.mbox && sendHost g.t == m.host && s.farDev (sendDev g.t) == m.dev))

/-- The copy that a message waits for. -/
def State.haulOf (s : State) (m : Msg) : Option (Nat × Haul) :=
  m.haul.bind (fun i => (tabFind i s.hauls).map (fun h => (i, h)))

/-- The message may be dealt with now: it is first of its sender, its bytes have been copied, what it carries has been
written back, one that leaves the device finds a tag, and one that would wait finds room (08 R281, R290; 01 R51; 09 R323). -/
def State.msgReady (s : State) (i : Nat) : Bool :=
  match s.msgs[i]? with
  | some m =>
    s.msgFirst i && !s.sendsBefore m && (s.haulOf m).all (fun x => x.2.over_) && !(match m.pay with
        | .cap c _ _ _ => s.writeBacks c
        | _ => false) && (m.host || (m.dev.any (· != s.dev) && (s.freeTag (agentCore m.src).toNat).isSome) ||
      (let cl := mboxCluster m.mbox
       let j := mboxIndex m.mbox
       (s.mailbox cl j).bound == .unbound || s.mboxRoom cl j || (match m.pay with
         | .event _ => true
         | _ => false)))
  | none => false

/-- A command of the host has its outcome (12 R466). -/
def State.commandDone (s : State) (part : BitVec 4) (slot : Nat) (code : BitVec 8) (r r2 : Word) : State :=
  s.onPart part (fun p => match tabFind slot p.cmds with
    | some c => { p with cmds := tabPut slot { c with code := some code, result := r, result2 := r2 } p.cmds }
    | none => p)

/-- The sender's side of a message that has been queued or orphaned: the operation, the host's command, or the peer
(08 R279, R295; 09 R311; 12 R466). -/
def State.messageDone (s : State) (m : Msg) : State :=
  let s := match m.cmd with
    | some (p, i) => s.commandDone p i 0 0 0
    | none => s
  let s := match m.peer with
    | some (_, tag) => s.respond tag 8 []
    | none => s
  match m.seq with
  | none => s
  | some q => s.onFlight m.src q (fun f =>
      match f.op with
      | .cp _ => { f with phase := .signals, ca := none, cb := none }
      | .cap .mcast => let n := f.open_ - 1; { f with open_ := n, phase := if n = 0 then .ready else f.phase }
      | _ => { f with phase := .ready })

/-- A message is queued, and the first waiter is readied (08 R290, R293). -/
def State.queueMessage (s : State) (cl i : Nat) (m : Msg) : State :=
  ((s.onMailbox cl i (fun b => { b with queue := b.queue ++ [m] })).messageDone m).wakeOne cl i

/-- Every capability for one buffer names another descriptor. -/
def Cap.rename (p : BitVec 4) (i : Nat) (q : BitVec 4) (j : Nat) (c : Cap) : Cap :=
  if c.part = p ∧ c.desc.toNat = i then { c with part := q, desc := BitVec.ofNat 32 j } else c

/-- A request for one buffer names another descriptor. -/
def Req.renamed (p : BitVec 4) (i : Nat) (q : BitVec 4) (j : Nat) (r : Req) : Req :=
  if r.part = p ∧ r.desc.toNat = i then { r with part := q, desc := BitVec.ofNat 32 j } else r

/-- What else of the device names a buffer by its descriptor names another one: replicas of it, watches, walkers, batches and
requests of those to whom it is lent (08 R284). -/
def State.renameRefs (s : State) (p : BitVec 4) (i : Nat) (q : BitVec 4) (j : Nat) : State :=
  let new : BitVec 32 := BitVec.ofNat 32 j
  let hit (x : BitVec 4) (k : BitVec 32) : Bool := x == p && k.toNat == i
  let rs := List.map (Req.renamed p i q j)
  { s with
    parts := s.parts.map (fun (k, x) => (k, { x with
      bufs := x.bufs.map (fun (m, d) => (m, if d.repl && !d.foreign && hit d.parentPart d.parent
        then { d with parentPart := q, parent := new } else d)) }))
    cores := s.cores.map (fun (k, c) => (k, { c with
      watch := c.watch.map (fun w => if hit w.part w.buf then { w with part := q, buf := new } else w)
      walkers := c.walkers.map (fun w => if hit w.part w.buf then { w with part := q, buf := new } else w)
      batches := c.batches.map (fun b => if hit b.1 b.2 then (q, new) else b)
      port := rs c.port }))
    clusters := s.clusters.map (fun (k, c) => (k, { c with xbar := rs c.xbar, walks := rs c.walks }))
    llc := s.llc.map (fun (k, x) => (k, rs x))
    tableq := rs s.tableq
    hostq := rs s.hostq
    batches := s.batches.map (fun b =>
      if hit b.part b.desc then { b with part := q, desc := new, held := rs b.held } else b) }

/-- A capability that carries ownership moves its descriptor into another partition's table (08 R284; 11 R407): the state
and the capability; none when the table is full. -/
def State.moveDesc (s : State) (c : Cap) (part : BitVec 4) : Option (State × Cap) :=
  if c.part = part ∨ !c.owns then some (s, c)
  else match s.freeDesc part, s.descOf c with
    | some j, some _ =>
      let s := s.traceLost c.part c.desc.toNat
      match s.descOf c with
      | some d =>
        let s := (s.dropDesc c.part c.desc.toNat).putDesc part j d
        let s := s.renameRefs c.part c.desc.toNat part j
        some (s.mapCaps (Cap.rename c.part c.desc.toNat part j), c.rename c.part c.desc.toNat part j)
      | none => none
    | _, _ => none

/-- A capability that came from another device is not taken: what was made for it here goes (08 R283, R285). -/
def State.unarrive (s : State) (c : Cap) : State :=
  match s.descOf c with
  | some d => if d.cls != 2 then s.dropDesc c.part c.desc.toNat else s
  | none => s

/-- The copy of a message is forgotten. -/
def State.dropHaul (s : State) (m : Msg) : State :=
  match m.haul with
  | some i => { s with hauls := tabDrop i s.hauls }
  | none => s

/-- A capability message refused by its receiver (08 R283, R284): the send, or the delivery of a multicast, ends with the late
fault; a peer is told; a message of no operation leaves an orphan. -/
def State.refuseMessage (s : State) (m : Msg) (c : Cap) (e : LateFault) : State :=
  let s := s.dropHaul m
  match m.peer with
  | some (_, tag) => (s.unarrive c).respond tag 14 (refusalBytes e.cause e.detail e.detail2)
  | none =>
    let s := s.orphan m.part c
    let s := match m.cmd with
      | some (p, i) => s.commandDone p i 0 0 0
      | none => s
    match m.seq with
    | some q => match s.flight? m.src q with
      | some f =>
        if f.op = .cap .mcast then
          ({ m with cmd := none, peer := none } |> s.messageDone).onFlight m.src q (fun f => { f with fault := some e })
        else s.failInTime m.src q e.cause e.detail e.detail2
      | none => s
    | none => s

/-- Why a mailbox takes no capability: there is no space (08 R283). -/
def Msg.noSpace (m : Msg) : LateFault := ⟨0x20, m.mbox.setWidth 64, 2⟩

/-- The copied bytes of a message, as they stand in the range taken: a capability that owns the buffer has its descriptor
moved into the receiving partition and changed to that range; watches see the write (04 R173; 08 R281, R282, R284). -/
def State.settleCopy (s : State) (h : Haul) (c : Cap) (part : BitVec 4) (base : Nat) (cls : BitVec 3) : Option (State × Cap) :=
  (if c.owns && h.src.isSome then
    (s.moveDesc c part).map (fun (s, c) => match s.descOf c with
      | some d => (s.putDesc c.part c.desc.toNat
          (s.countPoison (s.tableCluster c.part) c.part { d with base := BitVec.ofNat 64 base, cls := cls }), c)
      | none => (s, c))
  else s.copiedDesc h c part base cls).map (fun (s, c) =>
    (s.seenWrite 4 c.part c.desc cls 0 h.desc.len s.dev 0x7FF none noAgent none, c))

/-- A capability comes into a partition: with its bytes where their copy took a range, else by its rights alone. None when the
partition's table is full. COPIED and DEMOTED are told as well (08 R281, R282, R284). -/
def State.takeIn (s : State) (m : Msg) (c : Cap) (copied demoted : Bool) (part : BitVec 4) :
    Option (State × Cap × Bool × Bool) :=
  match (s.haulOf m).bind (fun x => x.2.place.map (fun p => (x.2, p))) with
  | some (h, .place a cls) => (s.settleCopy h c part a cls).map (fun (s, c) => (s, c, true, false))
  | some (h, .pool va) => (s.settleCopy h c part va 2).map (fun (s, c) => (s, c, true, !m.host))
  | _ => (s.moveDesc c part).map (fun (s, c) => (s, c, copied, demoted))

/-- A capability reaches a mailbox of this device (08 R283, R284). -/
def State.capArrives (s : State) (m : Msg) (c : Cap) (w : BitVec 32) (copied demoted : Bool) : State :=
  let cl := mboxCluster m.mbox
  let i := mboxIndex m.mbox
  match (s.mailbox cl i).bound.part? with
  | none => match m.peer with
    | some _ => s.refuseMessage m c ⟨0x30, m.mbox.setWidth 64, 0⟩
    | none => ((s.dropHaul m).undelivered m c).messageDone m
  | some part => match s.takeIn m c copied demoted part with
    | some (t, e, copied, demoted) =>
      let t := if m.peer.isSome then t.setOwner e (ownerMsg m.mbox false) else t
      (t.dropHaul m).queueMessage cl i { m with pay := .cap e w copied demoted, haul := none }
    | none => s.refuseMessage m c m.noSpace

/-- The slot that a watch event came from, while it watches the buffer. -/
def State.slotOf (s : State) (src : Nat) (r : BitVec 256) : Option Watch :=
  ((s.core src).watch[fieldN r.toNat 0 2]?).filter (fun w => w.kind != 0 && w.buf == r.extractLsb' 32 32)

/-- The watch event's record with LOST as it stands at delivery (04 R174). -/
def State.lostNow (s : State) (src : Nat) (r : BitVec 256) : BitVec 256 :=
  match s.slotOf src r with
  | some w => (r &&& ~~~(0xFFFF#256 <<< 16)) ||| (w.lost.setWidth 256 <<< 16)
  | none => r

/-- A watch event that is lost is counted in the slot that it came from; the count saturates (04 R171, R174). -/
def State.eventLost (s : State) (src : Nat) (r : BitVec 256) : State :=
  match s.slotOf src r with
  | some w =>
    let v : Watch := { w with lost := if w.lost = 0xFFFF then 0xFFFF else w.lost + 1 }
    s.onCore src (fun c => { c with watch := c.watch.setIfInBounds (fieldN r.toNat 0 2) v })
  | none => s

/-- A watch event reaches its mailbox, be its slot armed still or not, or is lost (04 R174). -/
def State.eventArrives (s : State) (m : Msg) (r : BitVec 256) : State :=
  let cl := mboxCluster m.mbox
  let i := mboxIndex m.mbox
  if (s.mailbox cl i).bound = .unbound ∨ !s.mboxRoom cl i then s.eventLost m.src r
  else s.queueMessage cl i { m with pay := .event (s.lostNow m.src r) }

/-- A return notice or a fault record reaches its mailbox, or is discarded when that is unbound (08 R275; 13 R476). -/
def State.noticeArrives (s : State) (m : Msg) : State :=
  let cl := mboxCluster m.mbox
  let i := mboxIndex m.mbox
  if (s.mailbox cl i).bound = .unbound then s else s.queueMessage cl i m

/-! ### Messages to the host and to other devices (12 R469; 08 R285) -/

/-- A capability is put into the lowest free host slot of a partition, with the event record of the receipt; none when no
slot is free (12 R469). -/
def State.toHost (s : State) (c : Cap) (mbox : Nat) (w : BitVec 32) : Option State :=
  let part : BitVec 4 := BitVec.ofNat 4 (mbox / 256)
  let j := firstGap 0 (s.part part).slots
  if j < 256 then
    match s.moveDesc c part with
    | some (s, c) =>
      let s := s.onPart part (fun p => { p with slots := tabPut j c p.slots })
      let s := s.setOwner c (ownerHost part j)
      some (s.eventRecord 0x0C 0 false 0 part 0 (mbox % 4096 + j * 2 ^ 12 + w.toNat * 2 ^ 32))
    | none => none
  else none

/-- A capability sent to the host is received, with its bytes in this device's pool where they were copied (08 R285; 12
R469). -/
def State.hostReceives (s : State) (m : Msg) (c : Cap) (w : BitVec 32) : State :=
  match (s.takeIn m c false false c.part).bind (fun (t, e, _, _) => t.toHost e (m.mbox.toNat % 4096) w) with
  | some t => (t.dropHaul m).messageDone m
  | none => s.refuseMessage m c m.noSpace

/-- The data unit of a capability's message to another device: word, state, rights, count (the descriptor's for a
residual), class and format, whether its bytes were copied, home device, base and length (12 R436; log 38). -/
def messageBytes (c : Cap) (d : Desc) (home : BitVec 12) (w : BitVec 32) (copied : Bool) : List Byte :=
  leBytes 4 w.toNat ++ [(match c.kind with
    | .whole => 0
    | .resFractions => 1
    | .resGrants => 2
    | .fraction => 3
    | .grant => 4), c.rights.setWidth 8] ++ leBytes 2 (if c.residual then d.count else c.count).toNat ++
    [d.cls.setWidth 8, d.fmt.setWidth 8, if copied then 1 else 0, 0] ++ leBytes 2 home.toNat ++ leBytes 8 d.base.toNat ++
    leBytes 8 d.lenm1.toNat

/-- The request that waits for the peer's answer to a message. -/
def State.msgReq (s : State) (m : Msg) (c : Cap) (dev : BitVec 12) : Req where
  src := match m.seq with
    | some q => .op m.src q
    | none => .engine
  path := 4
  part := c.part
  desc := c.desc
  cls := 0
  off := 0
  va := 0
  xpart := c.part
  rm := 0
  xRead := false
  xWrite := false
  dev := s.dev
  core := agentCore m.src
  nc := false
  home := dev
  kreg := none
  acc := .read 0 0 0

/-- The granules that a copy has read go ahead of its message, each in a packet; a poisoned one has no bytes (08 R285; log
38). -/
def State.sendGranules (s : State) (gs : List (List Byte)) (p : Packet) : State :=
  gs.foldl (fun s bs => (s.sendPacket { p with op := 1, bytes := bs.length, data := bs }).getD s) s

/-- A capability leaves for another device (08 R285; 12 R436): its packet is sent behind the bytes that were copied; a
multicast's packet has OP 2 and names its mailboxes (08 R295; log 38). -/
def State.capLeaves (s : State) (m : Msg) (c : Cap) (w : BitVec 32) (copied : Bool) (dev : BitVec 12) : State :=
  match s.descOf c with
  | none => s
  | some d =>
    let tag := (s.freeTag (agentCore m.src).toNat).getD 0
    let far := d.cls == 4
    let p : Packet := {
      type := 9, seq := m.seq.getD 0, src := agentCore m.src, sdev := s.dev, ddev := dev, addr := m.mbox.toNat,
      desc := if far then d.parent else c.desc, rights := c.rights, rtag := BitVec.ofNat 12 tag }
    let s1 := match s.haulOf m with
      | some (_, h) => s.sendGranules h.data p
      | none => s
    let data := messageBytes c d (if far then d.homedev else s.dev) w copied ++ m.many.flatMap (fun b => leBytes 4 b.toNat)
    match s1.route? dev, s1.sendPacket { p with op := if m.many = [] then 0 else 2, bytes := data.length, data := data } with
    | some l, some s =>
      let s := s.dropHaul m
      let s := { s with
        abroad := s.abroad ++ [{ m with haul := none }]
        away := tabPut ((agentCore m.src).toNat * 4096 + tag)
          { req := s.msgReq m c dev, link := l, fill := none, left := max m.many.length 1 } s.away }
      if c.owns then s.onDesc c.part c.desc.toNat (fun d => { d with owndev := dev }) else s
    | _, _ => (List.range (max m.many.length 1)).foldl (fun s _ => s.refuseMessage m c ⟨0x20, m.mbox.setWidth 64, 4⟩) s

/-- The receiving device has taken a capability: bytes that were copied are freed here, and of another device's buffer
nothing stays (08 R281, R285). -/
def State.capGone (s : State) (c : Cap) (copied : Bool) : State :=
  match s.descOf c with
  | none => s
  | some d =>
    if c.owns then (if copied || d.cls == 4 then s.dropDesc c.part c.desc.toNat else s)
    else if d.foreign then s.returnCap c
    else s

/-- The receiving device has answered a message: it was queued there, its mailbox is unbound (0x30), or it was refused
(08 R279, R283, R285). -/
def State.messageAnswered (s : State) (m : Msg) (e : Option LateFault) : State :=
  match m.pay, e with
  | .cap c _ copied _, none => (s.capGone c copied).messageDone m
  | .cap c _ _ _, some e =>
    let s := if c.owns then s.onDesc c.part c.desc.toNat (fun d => { d with owndev := s.dev }) else s
    if e.cause = 0x30 then (s.undelivered m c).messageDone m else s.refuseMessage m c { e with detail := m.mbox.setWidth 64 }
  | _, _ => s.messageDone m

/-! ### MESSAGE_ARRIVAL -/

/-- A message is dealt with where it goes; one whose copy has failed is refused (08 R279, R282, R283, R290). -/
def State.deliver (s : State) (m : Msg) : State :=
  match m.pay with
  | .cap c w copied demoted => match (s.haulOf m).bind (fun x => x.2.fault) with
    | some e => s.refuseMessage m c (if e.cause = 0x20 then { e with detail := m.mbox.setWidth 64 } else e)
    | none => match s.farDev m.dev with
      | some d => s.capLeaves m c w copied d
      | none => if m.host then s.hostReceives m c w else s.capArrives { m with dev := none } c w copied demoted
  | .event r => s.eventArrives m r
  | .notice _ => s.noticeArrives m
  | .record _ => s.noticeArrives m

/-- The bytes of a message were copied for where its mailbox was bound then; when it is bound elsewhere now they are copied
again (08 R281 to R283). -/
def State.haulStale (s : State) (m : Msg) : Option Nat :=
  match s.haulOf m with
  | some (i, h) => match h.goal, s.haulPart h with
    | .mailbox _, some p => if h.fault.isNone && !(h.place.isSome && h.part == p) then some i else none
    | _, _ => none
  | none => none

/-- The message at place `n`, or the first that may be dealt with (08 R290). -/
def State.messageArrival (s : State) (n : Nat) : State :=
  let i := if s.msgReady n then some n else (List.range s.msgs.length).find? s.msgReady
  match i.bind (fun i => s.msgs[i]?.map (fun m => (i, m))) with
  | none => s
  | some (i, m) => match s.haulStale m with
    | some k => s.onHaul k (fun h => { h with place := none, put := 0, over_ := false })
    | none => ({ s with msgs := s.msgs.eraseIdx i } : State).deliver m

/-! ### Subscriptions (08 R294) -/

/-- One step of a mesh route, columns first (01 R19). -/
def meshStep (a b : Nat) : Nat :=
  if a % 4 < b % 4 then a + 1 else if b % 4 < a % 4 then a - 1 else if a / 4 < b / 4 then a + 4 else if b / 4 < a / 4 then a - 4
  else a

/-- Routers of a route within a die; `fuel` bounds the steps. -/
def meshPath : Nat → Nat → Nat → List Nat
  | 0, a, _ => [a]
  | fuel + 1, a, b => if a = b then [a] else a :: meshPath fuel (meshStep a b) b

/-- Routers on the way from cluster `a` to cluster `b`, die * 16 + cluster (01 R19, R20). -/
def routePath (a b : Nat) : List Nat :=
  let on (d : Nat) (xs : List Nat) := xs.map (fun x => 16 * d + x)
  if a / 16 = b / 16 then on (a / 16) (meshPath 6 (a % 16) (b % 16))
  else
    let up := (b / 16 + 8 - a / 16) % 8
    if up ≤ 4 then
      on (a / 16) (meshPath 6 (a % 16) 7) ++
        ((List.range (up - 1)).flatMap (fun i => on ((a / 16 + i + 1) % 8) (meshPath 6 8 7))) ++
        on (b / 16) (meshPath 6 8 (b % 16))
    else
      on (a / 16) (meshPath 6 (a % 16) 8) ++
        ((List.range (8 - up - 1)).flatMap (fun i => on ((a / 16 + 7 - i) % 8) (meshPath 6 7 8))) ++
        on (b / 16) (meshPath 6 7 (b % 16))

/-- The port of router `x` by which a packet from router `y` comes in: 0 and 1 a column below and above, 2 and 3 a row below
and above, 4 the ring or the hub. -/
def portFrom (x y : Nat) : Nat :=
  if x / 16 ≠ y / 16 then 4 else if x % 4 ≠ y % 4 then (if y % 4 < x % 4 then 0 else 1) else if y < x then 2 else 3

/-- The routers and ports that a join packet marks from cluster `a` to `b`: the first by its own cluster's port. -/
def joinMarks (a b : Nat) : List (Nat × Nat) :=
  let p := routePath a b
  (a, 5) :: (p.zip (p.drop 1)).map (fun (y, x) => (x, portFrom x y))

/-- The entry of a source and tag in a router's store. -/
def Branch.of (b : Branch) (dev : BitVec 12) (core : BitVec 11) (tag : BitVec 16) : Bool :=
  b.dev == dev && b.core == core && b.tag == tag

/-- A router's store has the entry, or room for it (08 R294). -/
def Cluster.branchRoom (c : Cluster) (dev : BitVec 12) (core : BitVec 11) (tag : BitVec 16) : Bool :=
  c.branches.any (·.of dev core tag) || decide (c.branches.length < 1024)

/-- A port's bit is set in a router's bitmap. -/
def Cluster.setBranch (c : Cluster) (dev : BitVec 12) (core : BitVec 11) (tag : BitVec 16) (port : Nat) : Cluster :=
  if c.branches.any (·.of dev core tag) then
    { c with branches := c.branches.map (fun b => if b.of dev core tag then { b with ports := b.ports ||| (1#6 <<< port) } else b) }
  else { c with branches := c.branches ++ [⟨dev, core, tag, 1#6 <<< port⟩] }

/-- The source's cluster as the route of a subscription ends: the hub port's router for another device. -/
def State.subEnd (s : State) (x : Subscription) (home : Nat) : Nat :=
  if x.dev = s.dev then x.core.toNat / 16 else home / 16 * 16 + 13

/-- The routers and ports that a join packet from another device marks, from the hub port's router of the source's die to its
cluster (08 R294). -/
def farMarks (core : BitVec 11) : List (Nat × Nat) :=
  let cl := core.toNat / 16
  let p := routePath (cl / 16 * 16 + 13) cl
  (cl / 16 * 16 + 13, 4) :: (p.zip (p.drop 1)).map (fun (y, x) => (x, portFrom x y))

/-- The bitmaps of every router from the subscriptions that stand: those of this device's mailboxes, and those of other
devices' to cores here (08 R294). -/
def State.rebuildBranches (s : State) : State :=
  let s : State := { s with clusters := s.clusters.map (fun e => (e.1, ({ e.2 with branches := [] } : Cluster))) }
  let mark (dev : BitVec 12) (core : BitVec 11) (tag : BitVec 16) (s : State) (x : Nat × Nat) : State :=
    s.onCluster x.1 (fun k => k.setBranch dev core tag x.2)
  let s := s.cores.foldl (fun s (cn, c) => c.subs.foldl (fun s x =>
    (joinMarks (clusterOf cn) (s.subEnd x (clusterOf cn))).foldl (mark x.dev x.core x.tag) s) s) s
  s.links.foldl (fun s (_, k) => k.subs.foldl (fun s (core, tag, _) => (farMarks core).foldl (mark s.dev core tag) s) s) s

/-- The subscription that an operation names. -/
def Flight.subOf (s : State) (f : Flight) : Subscription where
  dev := if f.t.getLsbD 39 then f.t.extractLsb' 27 12 else s.dev
  core := f.t.extractLsb' 16 11
  tag := f.t.extractLsb' 0 16
  mbox := f.o.extractLsb' 0 10
  joined := true

/-- The data of a subscription packet: tag, mailbox id, and whether it prunes (log 38). -/
def subBytes (x : Subscription) (cl : Nat) (prune : Bool) : List Byte :=
  leBytes 2 x.tag.toNat ++ leBytes 4 (cl * 1024 + x.mbox.toNat) ++ [if prune then 1 else 0]

/-- A subscription packet leaves for the source's device (08 R294): that of an operation waits there for the source's
acknowledgement, under a tag; one without an operation, after a mailbox's end, has none and OP 1 (log 38). None when the
device is unreachable or no tag is free. -/
def State.subLeaves (s : State) (a : Nat) (q : Option (BitVec 16)) (x : Subscription) (prune : Bool) : Option State :=
  let p : Packet := {
    type := 10, src := agentCore a, sdev := s.dev, ddev := x.dev, addr := x.core.toNat, bytes := 7
    data := subBytes x (agentCluster a) prune }
  match q, s.freeTag (agentCore a).toNat with
  | none, _ => s.sendPacket { p with op := 1 }
  | some q, some tag =>
    match s.route? x.dev, s.sendPacket { p with seq := q, rtag := BitVec.ofNat 12 tag } with
    | some l, some t =>
      let r : Req := {
        src := .op a q, path := 4, part := 0, desc := 0, cls := 0, off := 0, va := 0, xpart := 0, rm := 0, xRead := false,
        xWrite := false, dev := s.dev, core := agentCore a, nc := false, home := x.dev, kreg := none
        acc := .read x.mbox.toNat 0 0 }
      some (({ t with away := tabPut ((agentCore a).toNat * 4096 + tag) { req := r, link := l, fill := none } t.away } :
        State).onFlight a q (fun f => { f with phase := .request }))
    | _, _ => none
  | _, _ => none

/-- A subscription leaves the match table, and the bitmaps follow. -/
def State.unsubscribe (s : State) (a : Nat) (x : Subscription) : State :=
  (s.onCore a (fun c => { c with subs := c.subs.filter (fun y => y != x) })).rebuildBranches

/-- JOIN_PACKET of a sub: the subscription is entered, the routers on its way are marked, and the source acknowledges, on its
own device when that is another one (08 R294). For a mailbox that is not held the CODE is UNBOUND, also where MCAST is not
accepted, for which it would be FULL (13 R481): the spec gives no order (log 133). -/
def State.joinPacket (s : State) (a : Nat) (q : BitVec 16) : State :=
  match s.flight? a q with
  | none => s
  | some f =>
    if f.op ≠ .cap .sub ∨ f.phase ≠ .packets then s
    else if !(s.sluiceOf a).en then s.failInTime a q 0x20 0 1
    else
      let x := f.subOf s
      let cl := agentCluster a
      let full := decide (16 ≤ (s.core a).subs.length) || !isCompute a || !s.feature 1 ||
        (joinMarks cl (s.subEnd x cl)).any (fun (r, _) => !(s.cluster r).branchRoom x.dev x.core x.tag)
      if !(s.mailbox cl x.mbox.toNat).bound.held f.res then s.doneWith f (some (statusCode 3))
      else if full then s.doneWith f (some (statusCode 5))
      else
        let s1 := (s.onCore a (fun c => { c with subs := c.subs.filter (fun y => y != x) ++ [x] })).rebuildBranches
        if x.dev = s.dev then s1.doneWith f (some (statusCode 0))
        else match s1.subLeaves a (some q) x false with
          | some t => t
          | none => s.failInTime a q 0x20 (x.mbox.setWidth 64) 4

/-- The source's device has answered a sub or an unsub: a sub whose way there is full is taken back, and one that the link has
lost ends with its fault (08 R294; 12 R456). -/
def State.subAnswered (s : State) (a : Nat) (q : BitVec 16) (e : Option LateFault) : State :=
  match s.flight? a q with
  | none => s
  | some f =>
    let undo := if f.op = .cap .sub then s.unsubscribe a (f.subOf s) else s
    match e with
    | none => s.doneWith f (some (statusCode 0))
    | some e => if e.cause = 0x30 then undo.doneWith f (some (statusCode 5)) else undo.failInTime a q e.cause e.detail e.detail2

/-- Subscriptions to other devices' cores that have ended with their mailbox: the network interface sends their prunes, but
for those that stand again (08 R294). -/
def State.sendPrunes (s : State) : State :=
  s.cores.foldl (fun s (cn, c) => (c.subs.filter (fun x => !x.joined)).foldl (fun s x =>
    let s := s.onCore cn (fun c => { c with subs := c.subs.filter (fun y => y != x) })
    if c.subs.contains { x with joined := true } then s else (s.subLeaves cn none x true).getD s) s) s

/-- PRUNE_PACKET: an unsub removes its subscription; without one, what a mailbox's end has left is removed (08 R294). -/
def State.prunePacket (s : State) (a : Nat) (q : BitVec 16) : State :=
  match s.flight? a q with
  | none => s.sendPrunes.rebuildBranches
  | some f =>
    if f.op ≠ .cap .unsub ∨ f.phase ≠ .packets then s.sendPrunes.rebuildBranches
    else
      let x := f.subOf s
      if (s.view a).subs.contains x then
        let s := s.unsubscribe a x
        if x.dev = s.dev then s.doneWith f (some (statusCode 0))
        else match s.subLeaves a (some q) x true with
          | some t => t
          | none => s.failInTime a q 0x20 (x.mbox.setWidth 64) 4
      else s.doneWith f (some (statusCode 7))

/-! ### Multicast (08 R295, R296) -/

/-- The links that other devices' subscribers are reached by, with the mailboxes behind each. -/
def State.subLinks (s : State) (core : BitVec 11) (tag : BitVec 16) : List (BitVec 12 × List (BitVec 17)) :=
  (s.links.map (fun (_, k) => (k.peerDev,
    (k.subs.filter (fun x => x.1 == core && x.2.1 == tag)).map (fun x => x.2.2)))).filter (fun x => !x.2.isEmpty)

/-- The message of a multicast to one mailbox here, or to some of another device, behind a copy where there is one. -/
def Flight.mcastMsg (f : Flight) (c : Cap) (mbox : BitVec 17) (dev : Option (BitVec 12)) (many : List (BitVec 17))
    (haul : Option Nat) : Msg where
  src := f.agent
  seq := some f.seq
  part := f.res.part
  mbox := mbox
  host := false
  dev := dev
  refused := false
  pay := .cap c (f.o.extractLsb' 0 32) (haul.isSome && dev.isSome) false
  sender := some ⟨f.seq, f.res.launch, f.res.wid, f.pc⟩
  haul := haul
  many := many

/-- Deliveries of a multicast that may not be made: their fractions are orphans, as for sends (08 R283, R295, R302). -/
def State.mcastRefused (s : State) (f : Flight) (c : Cap) (bs : List (BitVec 17)) (reason : Word) : State :=
  bs.foldl (fun s b => s.refuseMessage (f.mcastMsg c b none [] none) c ⟨0x20, b.setWidth 64, reason⟩) s

/-- A message of a multicast sets out, behind the copy of its bytes when they have to be copied. -/
def State.mcastSend (s : State) (f : Flight) (c : Cap) (d : Desc) (mbox : BitVec 17) (dev : Option (BitVec 12))
    (many : List (BitVec 17)) (copy : Bool) : State :=
  if copy then
    let (s, i) := s.newHaul {
      agent := f.agent, goal := if dev.isSome then .link else .mailbox mbox, src := some c, desc := d }
    { s with msgs := s.msgs ++ [f.mcastMsg c mbox dev many (some i)] }
  else { s with msgs := s.msgs ++ [f.mcastMsg c mbox dev many none] }

/-- One delivery of an mcast on this device: the sluice lets it pass, and its message sets out (08 R281, R295, R302). -/
def State.mcastOne (f : Flight) (c : Cap) (d : Desc) (s : State) (mbox : BitVec 17) : State :=
  if !s.sluicePasses f.agent mbox none false then s.mcastRefused f c [mbox] 1
  else match sendMove c d mbox false false with
    | .refuse r => s.mcastRefused f c [mbox] r
    | .rights => s.mcastSend f c d mbox none [] false
    | .copy => s.mcastSend f c d mbox none [] true

/-- A list in parts of 16. -/
def parts16 {α : Type} : Nat → List α → List (List α)
  | 0, _ => []
  | _, [] => []
  | n + 1, xs => xs.take 16 :: parts16 n (xs.drop 16)

/-- The packets of an mcast for the subscribers behind one link, each for up to 16 of them (log 38): what the sluice lets pass
and may leave the device (08 R281, R285, R295, R302; 01 R51). -/
def State.mcastLink (f : Flight) (c : Cap) (d : Desc) (s : State) (x : BitVec 12 × List (BitVec 17)) : State :=
  let pass (b : BitVec 17) : Bool := s.sluicePasses f.agent b (some x.1) false
  let s := s.mcastRefused f c (x.2.filter (fun b => !pass b)) 1
  let bs := x.2.filter pass
  match sendMove c d 0 true false with
  | .refuse r => s.mcastRefused f c bs r
  | .rights => (parts16 bs.length bs).foldl (fun s b => s.mcastSend f c d (b.headD 0) (some x.1) b false) (s.writeBack c)
  | .copy => (parts16 bs.length bs).foldl (fun s b => s.mcastSend f c d (b.headD 0) (some x.1) b true) s

/-- An earlier mcast of the same core has not sent its packets: they leave in issue order (08 R296). -/
def State.mcastWaits (s : State) (f : Flight) : Bool :=
  (s.before f).any (fun g => g.op == .cap .mcast && (g.phase == .drain || g.phase == .packets))

/-- MULTICAST_PACKET: one packet goes to every subscriber whose join has reached the source; COUNT rises by the
deliveries (08 R295, R296). -/
def State.multicastPacket (s : State) (a : Nat) (q : BitVec 16) : State :=
  match s.flight? a q with
  | none => s
  | some f => if f.op ≠ .cap .mcast ∨ s.mcastWaits f then s else match f.phase, f.ca with
    | .packets, some c => match s.descOf c with
      | some d =>
        let tag : BitVec 16 := f.t.extractLsb' 0 16
        let subsHere := s.subscribers (agentCore a) tag
        let far := s.subLinks (agentCore a) tag
        let n := subsHere.length + (far.map (fun x => x.2.length)).sum
        let part : Cap := { c with kind := .fraction, rights := lentRights false c.rights, count := 1 }
        let s := s.onDesc c.part c.desc.toNat (fun d => { d with
          share := if d.count.toNat + n = 0 then 0 else 0b01, count := d.count + BitVec.ofNat 16 n })
        let s := s.onFlight a q (fun f => { f with
          phase := if n = 0 then .ready else .message
          open_ := n
          result := some (statusWord 0 (BitVec.ofNat 16 n) false false false false d.cls 0) })
        let s := subsHere.foldl (State.mcastOne f part d) s
        let s := far.foldl (State.mcastLink f part d) s
        if n = 0 then s.settle c.part c.desc.toNat else s
      | none => s
    | _, _ => s

/-! ### Register windows come home (08 R298 to R300) -/

/-- The WINDOW descriptors of a core's vector or accumulator window, lowest base first. -/
def State.windowDescs (s : State) (cn : Nat) (acc : Bool) : List (Nat × Desc) :=
  let part := (s.core cn).sluice.part
  ((s.part part).bufs.filter (fun e => e.2.cls == 5 && e.2.windowCore == cn &&
    decide (0x90000 ≤ e.2.base.toNat % 2 ^ 20) == acc)).mergeSort (fun a b => decide (a.2.base.toNat ≤ b.2.base.toNat))

/-- Base offset and length of a window (08 R298). -/
def windowSpan (acc : Bool) : Nat × Nat := if acc then (0x90000, 0x10000) else (0x80000, 0x2000)

/-- The parts of one window are fused into the whole capability of k30 or k31 (08 R298 to R300). -/
def State.fuseWindow (s : State) (cn : Nat) (acc : Bool) : State :=
  let part := (s.core cn).sluice.part
  match s.windowDescs cn acc with
  | [] => s
  | (i, d) :: rest =>
    let (off, len) := windowSpan acc
    let s := rest.foldl (fun s e => s.dropDesc part e.1) s
    let s := s.putDesc part i { d with
      base := BitVec.ofNat 64 (slotBase cn + off), lenm1 := BitVec.ofNat 35 (len / 32 - 1), share := 0, count := 0, retv := false
      owndev := s.dev }
    s.onCore cn (fun c => c.setK (if acc then 31 else 30)
      (.cap ⟨.whole, part, BitVec.ofNat 32 i, rightR ||| rightW ||| rightA ||| rightS, 0⟩))

/-- System software gives a core that enters a partition the descriptor of each window; the model makes it when a
continuation first needs it (08 R298; log 52). -/
def State.makeWindow (s : State) (cn : Nat) (acc : Bool) : State :=
  let part := (s.core cn).sluice.part
  match s.windowDescs cn acc, s.freeDesc part with
  | [], some i =>
    let (off, len) := windowSpan acc
    s.putDesc part i {
      cls := 5, fmt := Fmt.bytes.code, owner := ownerReg cn (if acc then 31 else 30)
      base := BitVec.ofNat 64 (slotBase cn + off), lenm1 := BitVec.ofNat 35 (len / 32 - 1), owndev := s.dev }
  | _, _ => s

/-- Both windows of a core are whole, in k30 and k31, and nothing of them is away (08 R298, R299). -/
def State.windowsHome (s : State) (cn : Nat) : State :=
  let part := (s.core cn).sluice.part
  let s := (s.makeWindow cn false).makeWindow cn true
  let is_ := ((s.windowDescs cn false) ++ (s.windowDescs cn true)).map (·.1)
  let s := s.removeCaps (Cap.among part is_)
  let s := (s.fuseWindow cn false).fuseWindow cn true
  s.onCore cn (fun c => { c with vaway := 0, taway := 0 })

/-- Every request that waits at a scratchpad's port names another buffer. -/
def State.portQuiet (s : State) (cn : Nat) (part : BitVec 4) (is_ : List Nat) : Bool :=
  !(s.core cn).port.any (fun r => r.part == part && is_.contains r.desc.toNat)

/-- No operation that names a part of the core's windows is still at work, no access of another device to one waits, and none
is on its way to another device: holders' accesses are performed (08 R300). -/
def State.windowsQuiet (s : State) (cn : Nat) : Bool :=
  let part := (s.core cn).sluice.part
  let is_ := ((s.windowDescs cn false) ++ (s.windowDescs cn true)).map (·.1)
  let mine (c : Option Cap) : Bool := (c.map (Cap.among part is_)).getD false
  !s.flights.any (fun f => !f.performed && f.phase != .message && (mine f.ca || mine f.cb || mine f.cx)) &&
    s.portQuiet cn part is_ && !s.abroad.any (fun m => match m.pay with
      | .cap c _ _ _ => Cap.among part is_ c
      | _ => false)

/-- WINDOW_RECALL of a core that stops: the parts that are away come back (08 R300). A send whose message held one is
over. -/
def State.recallWindows (s : State) (cn : Nat) : State :=
  match (s.core cn).mode with
  | .stopping _ =>
    if s.windowsQuiet cn then
      let part := (s.core cn).sluice.part
      let is_ := ((s.windowDescs cn false) ++ (s.windowDescs cn true)).map (·.1)
      let over_ := s.msgs.filter (fun m => match m.pay with
        | .cap c _ _ _ => Cap.among part is_ c
        | _ => false)
      over_.foldl State.messageDone (s.windowsHome cn)
    else s
  | _ => s

/-! ### Meanings -/

/-- DRAIN of operation `focus.seq` of agent `focus.core` (08 R280). -/
def execDrain (s : State) : Host.Outcome State Fault Refusal := .next (s.drainStep s.focus.core s.focus.seq)

/-- DESCRIPTOR_CHANGE of operation `focus.seq` of agent `focus.core` (08 R260). -/
def execDescriptorChange (s : State) : Host.Outcome State Fault Refusal :=
  .next (s.descriptorChange s.focus.core s.focus.seq s.focus.ecc)

/-- HANDOVER_COPY of copy `focus.n`, or of the first that may go on (08 R282). -/
def execHandoverCopy (s : State) : Host.Outcome State Fault Refusal := .next (s.haulStep s.focus.n)

/-- MESSAGE_ARRIVAL of the message at place `focus.n`, or the first that may (08 R290). -/
def execMessageArrival (s : State) : Host.Outcome State Fault Refusal := .next (s.messageArrival s.focus.n)

/-- JOIN_PACKET of operation `focus.seq` of agent `focus.core` (08 R294). -/
def execJoinPacket (s : State) : Host.Outcome State Fault Refusal := .next (s.joinPacket s.focus.core s.focus.seq)

/-- PRUNE_PACKET of operation `focus.seq` of agent `focus.core`, or of mailboxes that have closed (08 R294). -/
def execPrunePacket (s : State) : Host.Outcome State Fault Refusal := .next (s.prunePacket s.focus.core s.focus.seq)

/-- MULTICAST_PACKET of operation `focus.seq` of agent `focus.core` (08 R295). -/
def execMulticastPacket (s : State) : Host.Outcome State Fault Refusal :=
  .next (s.multicastPacket s.focus.core s.focus.seq)

/-- WINDOW_RECALL of core `focus.core` (08 R300). -/
def execWindowRecall (s : State) : Host.Outcome State Fault Refusal := .next (s.recallWindows s.focus.core)

end Sys2Proof.Machine
end

