-- ==== Sys2Proof/Machine/Mem.lean ====
section
/-! DEFINITION. The memories that serve requests (01 R29 to R31, R49 to R52, R65 to R69; 05 R178, R199; 09 R339): the ports of
scratchpads, the crossbars, the slices of the last-level cache, host memory, and what the source of a request is told. -/

namespace Sys2Proof.Machine

/-! ### What a request comes to -/

/-- What its source is told of a request. -/
inductive Reply where
  /-- performed; nothing to deliver -/
  | done
  /-- bytes read, for the operation's data from byte `at_` on -/
  | bytes (at_ : Nat) (bs : List Byte)
  /-- the same, with a scale byte for each -/
  | scaled (at_ : Nat) (bs sc : List Byte)
  /-- the old value of a fetch-and-op -/
  | old (v : Word)
  | fault (e : LateFault)
  /-- it has gone on to another unit or another device, which answers -/
  | gone
  /-- a piece has been performed, which read bytes for the operation's data; what is left stands in its place (05 R178, R199) -/
  | rest (at_ : Nat) (bs : List Byte) (r : Req)
  /-- it waits where it is -/
  | wait
  deriving DecidableEq, Repr

/-- Bytes put into data from a place on. -/
def splice (d : List Byte) (at_ : Nat) (bs : List Byte) : List Byte := d.take at_ ++ bs ++ d.drop (at_ + bs.length)

/-- A service or kernel core stops at its instruction: HALTED and CAUSE stand, and a record goes to the fault mailbox
(13 R476). -/
def State.svcStop (s : State) (x : Nat) (e : LateFault) : State :=
  let v := s.svc x
  let r := faultRecord e.cause 0b00 true true v.sluice.part 0 (s.svcResident x).launch 0 (s.agentCid x) v.pc e.detail e.detail2
    0 s.now
  (s.onSvc x (fun v => { v with halted := true, cause := e.cause, access := none })).postRecord x v.sluice.part r

/-- The bytes that a reply brings to a raw access. -/
def Reply.data : Reply → List Byte
  | .bytes _ bs => bs
  | .old v => leBytes 8 v.toNat
  | _ => []

/-- Bytes read for a piece of a copy: the request's place names the piece and the place in it (09 R310). -/
def Flight.takePiece (f : Flight) (at_ : Nat) (bs scales : List Byte) : Flight :=
  { f with pieces := f.pieces.map (fun p =>
      if p.pos = at_ / 65536 then
        { p with
          left := p.left - 1
          data := splice p.data (at_ % 65536) bs
          scales := splice p.scales (at_ % 65536) scales }
      else p) }

/-- The answer to an operation. -/
def State.answerOp (s : State) (a : Nat) (q : BitVec 16) (rep : Reply) : State :=
  match rep with
  | .done => s.answered a q id
  | .bytes i bs =>
    let s := match s.flight? a q with
      | some f => if f.op == Op.mx .ldscale then s.takeScales f i bs else s
      | none => s
    s.answered a q (fun f => { f with
      data := splice f.data i bs
      stage := if f.op = .cp .gath ∧ f.stage = 1 then 2 else f.stage })
  | .scaled i bs sc => s.answered a q (fun f => f.takePiece i bs sc)
  | .old v => s.answered a q (fun f => { f with result := some v })
  | .fault e => s.answeredFault a q e
  | .rest i bs _ => s.onFlight a q (fun f => { f with data := splice f.data i bs })
  | .gone | .wait => s

/-- Bytes that a copy has read, by granules; a poisoned one, whose bytes are marked, has none (08 R282). -/
def granulesOf (bs marks : List Byte) : List (List Byte) :=
  (List.range (bs.length / 32)).map (fun g =>
    if (marks[32 * g]?).getD 0 = 0 then (bs.drop (32 * g)).take 32 else [])

/-- An access of a copy has been answered (08 R282). -/
def Haul.answered (h : Haul) : Reply → Haul
  | .scaled _ bs marks => { h with busy := false, data := h.data ++ granulesOf bs marks }
  | .fault e => { h with busy := false, fault := some e }
  | _ => { h with busy := false, put := h.put + h.moving, moving := 0 }

/-- The answer to a request (02 R92; 12 R434, R456; 13 R476). -/
def State.answer (s : State) (r : Req) (rep : Reply) : State :=
  match rep with
  | .gone | .wait => s
  | rep => match r.src with
    | .op a q => s.answerOp a q rep
    | .walk cl id => match rep with
      | .fault e => s.walkPoisoned cl id e
      | rep => s.walkAnswer cl id rep.data
    | .raw x n => if n ≠ (s.svc x).starts then s else match rep with
      | .fault _ => s.svcStop x ⟨0x20, BitVec.ofNat 64 r.acc.addr, 1⟩
      | rep => s.onSvc x (fun v => { v with
        access := v.access.map (fun a => { a with reply := some (BitVec.ofNat 64 (leNat rep.data)) }) })
    | .peer l tag =>
      if 2 ^ 51 ≤ tag then
        s.onLink l (fun k => { k with inStreams := k.inStreams.map (fun x =>
          if streamTag x.num = tag then { x with written := x.written + 1, ok := x.ok && rep == .done } else x) })
      else match rep with
        | .fault e => s.respond tag 14 (refusalBytes e.cause e.detail e.detail2)
        | .done => s.respond tag 8 []
        | rep => s.respond tag 7 rep.data
    | .haul _ i => s.onHaul i (fun h => h.answered rep)
    | .engine | .marker _ => s

/-! ### Poison and errors (01 R52, R65, R67, R69) -/

/-- The granules that a range covers. -/
def granules (a n : Nat) : List Nat := (List.range ((a + n - 1) / 32 + 1 - a / 32)).map (fun i => a / 32 + i)

/-- The bit changes of bytes under bit masks; without masks all bits. -/
def maskedWrites (a : Nat) (bs ms : List Byte) : List BitWrite :=
  (bs.zipIdx.map (fun (b, i) => (⟨a + i, (ms[i]?).getD 0xFF, b⟩ : BitWrite))).filter (fun w => w.mask != 0)

/-- A saturating counter goes up. -/
def satInc (x : Word) : Word := if x = BitVec.allOnes 64 then x else x + 1

/-- The HBM stack that serves an address (01 R33). -/
def hbmStack (pa : Nat) : Nat := 2 * hbmDie pa + fieldN pa 12 1

/-- A corrected error is counted where a counter stands: per cluster SRAM, per slice, and per HBM stack for an access that
the slice does not hold (01 R69; 13 R480). -/
def State.countCorrected (s : State) (u : Nat) (pa : Nat) (held : Bool) : State :=
  if u < 2048 then s
  else if u < 4096 then s.onCluster (u - 2048) (fun c => { c with sramCorr := satInc c.sramCorr })
  else if held then
    { s with sec := { s.sec with llcCorr := s.sec.llcCorr.setIfInBounds (u - 4096) (satInc ((s.sec.llcCorr[u - 4096]?).getD 0)) } }
  else
    let k := hbmStack pa
    { s with sec := { s.sec with hbmCorr := s.sec.hbmCorr.setIfInBounds k (satInc ((s.sec.hbmCorr[k]?).getD 0)) } }

/-- The bytes that an access covers. -/
def Access.len : Access → Nat
  | .read _ n _ | .copyRead _ _ n _ => n
  | .write _ bs _ => if bs = [] then 32 else bs.length
  | .copyWrite _ _ bit _ take _ => (bit % 8 + take + 7) / 8
  | .lanesRead f _ i g | .lanesWrite f _ i g => footBytes (g.getD f) - i
  | .acc _ ty _ _ _ _ => accBytes ty
  | .batchOpen _ _ _ | .batchClose _ _ => 0
  | .rmw _ n _ _ => n

/-! ### Queues (01 R30; 05 R178, R199) -/

/-- The queue of a cluster's crossbar: queues 0 to 2047 are the ports of the cores. -/
def sramUnit (cl : Nat) : Nat := 2048 + cl
/-- The queue of a die's slice, and of the HBM controllers behind it. -/
def sliceUnit (d : Nat) : Nat := 4096 + d

/-- The requests at a unit. -/
def State.queueAt (s : State) (u : Nat) : List Req :=
  if u < 2048 then (s.core u).port
  else if u < 4096 then (s.cluster (u - 2048)).xbar
  else (tabFind (u - 4096) s.llc).getD []

/-- A request leaves its unit. -/
def State.unqueue (s : State) (u i : Nat) : State :=
  if u < 2048 then s.onCore u (fun c => { c with port := c.port.eraseIdx i })
  else if u < 4096 then s.onCluster (u - 2048) (fun c => { c with xbar := c.xbar.eraseIdx i })
  else { s with llc := tabPut (u - 4096) ((s.queueAt u).eraseIdx i) s.llc }

/-- What is left of a request stands in its place. -/
def State.keepQueued (s : State) (u i : Nat) (r : Req) : State :=
  if u < 2048 then s.onCore u (fun c => { c with port := c.port.set i r })
  else if u < 4096 then s.onCluster (u - 2048) (fun c => { c with xbar := c.xbar.set i r })
  else { s with llc := tabPut (u - 4096) ((s.queueAt u).set i r) s.llc }

/-- The requests that wait for room in the queue of a scratchpad's port, held back at their senders: the port takes 64
(05 R178). -/
def State.heldBack (s : State) (u : Nat) : List Req := if u < 2048 then (s.queueAt u).drop 64 else []

/-- Which step serves a request. -/
inductive Serve where
  | access | apply | hold | close
  deriving DecidableEq, Repr

/-- Accumulate packets, batch packets and close markers have steps of their own; those for a REMOTE buffer only pass the
slice on their way home (09 R330, R339). -/
def Req.serve (r : Req) : Serve :=
  if r.cls = 4 then .access
  else match r.acc with
    | .acc _ _ _ _ _ batch => if batch then .hold else .apply
    | .batchClose _ _ => .close
    | _ => .access

/-- Two requests are served in order of arrival: those of one bank, or of one line (05 R199; 01 R50). -/
def Req.meets (u : Nat) (a b : Req) : Bool :=
  let k := if u < 4096 then sramBank else 128
  let last (x : Req) : Nat := (x.acc.addr + x.acc.len - 1) / k
  decide (a.acc.addr / k ≤ last b) && decide (b.acc.addr / k ≤ last a) && a.home == b.home

/-- The core's own paths may use its banks: it issues words, feeds move, or stores of a suspension are performed (04 R150;
05 R177, R196). -/
def Mode.usesBanks : Mode → Bool
  | .run | .trapDue _ | .suspending _ _ => true
  | _ => false

/-- The bank that a request needs is free in this cycle: the one that the last word ended and, for a request that comes
after the next cycle's first accesses, that one (01 R31; 05 R177). A tile must not be in use by the matrix engine
(07 R249). -/
def State.bankFree (s : State) (u : Nat) (r : Req) : Bool :=
  match placeOf r.acc.addr with
  | .pad _ o => !((s.core u).mode.usesBanks && ((s.core u).busy ||| (s.core u).busyLast).getLsbD (bankAt o))
  | .awin _ o => !s.tileInUse u (o / 16384)
  | _ => true

/-- A request may be served now: at a port the head of the queue, when its bank is free; else one that no earlier request
of its core and path, or of its bank or line, stands before (05 R178, R199; 01 R58). -/
def State.mayServe (s : State) (u i : Nat) : Bool :=
  let q := s.queueAt u
  match q[i]? with
  | none => false
  | some r =>
    if u < 2048 then i == 0 && s.bankFree u r
    else !(q.take i).any (fun x => (x.src.agent == r.src.agent && x.path == r.path) || x.meets u r)

/-- The request at place `n`, or the first, that may be served by a step of a kind. -/
def State.pickReq (s : State) (u : Nat) (k : Serve) (n : Nat) : Option Nat :=
  let ok (i : Nat) : Bool := s.mayServe u i && ((s.queueAt u)[i]?.map Req.serve == some k)
  if ok n then some n else (List.range (s.queueAt u).length).find? ok

/-! ### Checks at the memory -/

/-- An access of bytes below a core's XB that 04 R146 does not allow. -/
def State.belowXb (s : State) (r : Req) (write : Bool) (a : Nat) : Option LateFault :=
  match placeOf a with
  | .pad c o =>
    if o < (s.core c).xb.toNat && !(if write then r.xWrite else r.xRead) then
      some ⟨0x20, BitVec.ofNat 64 (r.off + (a - r.acc.addr)), 7⟩ else none
  | _ => none

/-- Poison in a range that is read: late fault 0x22 (01 R66; 04 R168). Raw accesses belong to no buffer, and are charged
with none (log 51). -/
def State.readPoison (s : State) (r : Req) (a n : Nat) : Option LateFault :=
  match r.src with
  | .raw _ _ => none
  | _ => (s.poisoned? a n).map (fun g => ⟨0x22, BitVec.ofNat 64 (32 * g), r.desc.setWidth 64⟩)

/-- The first of two faults. -/
def orFault (a b : Option LateFault) : Option LateFault := a.orElse (fun _ => b)

/-- A write is seen by watches and dirty filters (04 R173; 11 R414). -/
def State.seenBy (s : State) (r : Req) (path : BitVec 4) (off n : Nat) : State :=
  s.seenWrite path r.part r.desc r.cls off n r.dev r.core r.trace r.src.agent (match r.src with
    | .op _ q => some q
    | _ => none)

/-- The bytes of a buffer that lie at physical addresses `a .. a+n-1`, within the first `len` of it from `start` on: first
offset and number. A translated buffer is looked up page by page. -/
def State.physHit (s : State) (cl : Nat) (part : BitVec 4) (d : Desc) (start len a n : Nat) : Option (Nat × Nat) :=
  let meet (base off m : Nat) : Option (Nat × Nat) :=
    if a < base + m ∧ base < a + n then some (off + (a - base), min (a + n) (base + m) - max a base) else none
  if !translated d.cls then meet (d.base.toNat + start) start len
  else if d.cls ≠ 2 then none
  else (pieces (d.base.toNat + start) len).findSome? (fun (va, m) => match s.walk cl part va with
    | .ok x => meet (x.pa + (va - x.va)) (va - d.base.toNat) m
    | .error _ => none)

/-- A write to physical memory that names no buffer, by a sluice or by the host: it is seen by the watches of the buffers that
hold its bytes (04 R173), and marks nothing (11 R414; 12 R471). -/
def State.seenRaw (s : State) (path : BitVec 4) (a n : Nat) (wcore : BitVec 11) : State :=
  s.cores.foldl (fun s (cn, c) => (c.watch.toList.zipIdx).foldl (fun s (w, i) =>
    if !w.kind.getLsbD 0 then s
    else match tabFind w.buf.toNat (s.part w.part).bufs with
      | none => s
      | some d => match s.physHit (clusterOf cn) w.part d w.start.toNat (32 * w.len.toNat) a n with
        | some (off, bytes) => s.watchEvent cn i path off bytes s.dev wcore
        | none => s) s) s

/-! ### Elements of a copy (09 R309, R310) -/

/-- The address of the scale byte that a copy uses for the element at a bit address, in a format fixed at its start. -/
def State.copyScaleAt (s : State) (f : Fmt) (bit : Nat) : Option Nat :=
  (s.bank? (bit / 8)).bind (fun b => scaleAddr b.first b.size b.reg f (bit - 8 * b.base))

/-- That scale: 2^0 outside banks (03 R119). -/
def State.copyScale (s : State) (f : Fmt) (bit : Nat) : Nat := ((s.copyScaleAt f bit).map (fun a => (s.byteAt a).toNat)).getD 127

/-- The bit changes of a piece of a converting copy: whole elements are converted, and the piece takes its bits (09 R309,
R310). -/
def State.copyWrites (s : State) (src dst : Fmt) (bit back take : Nat) (els : List Elem) (rm : BitVec 4) : List BitWrite :=
  let n := dst.size
  let img := packBits n (els.zipIdx.map (fun (e, i) =>
    (convertBits src dst e.scale (s.copyScale dst (bit - back + i * n)) e.bits (rmMode rm) (rmSat rm)).bits))
  elemWrites bit take (img / 2 ^ back % 2 ^ take)

/-! ### Accumulate packets (09 R328, R329) -/

/-- The smaller, or larger, of two signed numbers of `n` bits. -/
def pickSigned (n : Nat) (least : Bool) (a b : Nat) : Nat :=
  if (BitVec.ofNat n a).toInt ≤ (BitVec.ofNat n b).toInt then (if least then a else b) else (if least then b else a)

/-- The sum of two BF16 elements (09 R329). -/
def bf16Add (mode : BitVec 3) (sat : Bool) (a b : Nat) : Nat :=
  let x := Fmt.bf16.decode a
  let y := Fmt.bf16.decode b
  if x.isNan || y.isNan then 0x7FC0
  else match addNum? mode x y with
    | none => 0x7FC0
    | some v => (Fmt.bf16.round v mode sat).bits

/-- The new value of an element (09 R329). A BF16 value is the FP32 value whose upper half it is (03 R129). -/
def accNew (ty : BitVec 2) (op : BitVec 3) (rm : BitVec 4) (old x : Nat) : Nat :=
  let n := 8 * accBytes ty
  match op.toNat with
  | 3 => old ||| x
  | 4 => old &&& x
  | 0 => match ty with
    | 0b10 => (fpAdd (rmMode rm) old x).bits
    | 0b11 => bf16Add (rmMode rm) (rmSat rm) old x
    | _ => (old + x) % 2 ^ n
  | k => match ty with
    | 0b10 => (fpPick (k == 1) old x).bits
    | 0b11 => (fpPick (k == 1) (old * 2 ^ 16) (x * 2 ^ 16)).bits / 2 ^ 16
    | _ => pickSigned n (k == 1) old x

/-- What an rfop delivers of the old value (09 R329). -/
def accOld (ty : BitVec 2) (old : Nat) : Word :=
  if ty = 0b00 then (BitVec.ofNat 32 old).signExtend 64 else BitVec.ofNat 64 old

/-- A packet is applied in one indivisible step, or discarded at a poisoned granule (09 R329; 01 R68). -/
def State.applyAcc (s : State) (r : Req) : State × Reply :=
  match r.acc with
  | .acc a ty op x fetch _ =>
    let n := accBytes ty
    match orFault (s.belowXb r true a) (s.readPoison r a n) with
    | some e => (s, .fault e)
    | none =>
      let old := leNat (s.readBytes a n)
      let s := (s.unveil a n).writeBytes a (leBytes n (accNew ty op r.rm old (x.toNat % 2 ^ (8 * n))))
      (s.seenBy r 8 r.off n, if fetch then .old (accOld ty old) else .done)
  | _ => (s, .done)

/-! ### Batches (09 R332 to R336) -/

/-- The unit that applies packets to an address (09 R330). -/
def Req.unit (r : Req) : Nat :=
  match placeOf r.acc.addr with
  | .pad c _ | .vwin c _ | .awin c _ => c
  | .sram cl _ => sramUnit cl
  | _ => sliceUnit (hbmDie r.acc.addr) + (if r.nc then 16 else 0)

/-- The open batch of a buffer. -/
def State.batchOf (s : State) (part : BitVec 4) (desc : BitVec 32) : Option Batch :=
  s.batches.find? (fun b => b.part == part && b.desc == desc)

/-- A batch changed. -/
def State.onBatch (s : State) (part : BitVec 4) (desc : BitVec 32) (g : Batch → Batch) : State :=
  { s with batches := s.batches.map (fun b => if b.part == part && b.desc == desc then g b else b) }

/-- The buffer is served by one applying unit: a translated one by one die's slice, or that die's controllers
(09 R330, R332). -/
def State.oneUnit (s : State) (r : Req) : Bool :=
  match tabFind r.desc.toNat (s.part r.part).bufs with
  | none => false
  | some d =>
    if d.cls ≠ 2 then true
    else (List.range ((d.len + d.base.toNat % 65536 + 65535) / 65536)).all (fun i =>
      match s.walk r.src.cluster r.xpart (d.base.toNat / 65536 * 65536 + 65536 * i) with
      | .ok x => hbmDie (x.pa + (d.base.toNat / 65536 * 65536 + 65536 * i - x.va)) == hbmDie r.acc.addr && x.nc == r.nc
      | .error _ => false)

/-- A batch opens (09 R332). -/
def State.openBatch (s : State) (r : Req) (closes : Nat) (weir : Option (BitVec 13)) : State × Reply :=
  if (s.batchOf r.part r.desc).isSome then (s, .fault ⟨0x20, r.desc.setWidth 64, 8⟩)
  else if !s.oneUnit r then (s, .fault ⟨0x20, r.desc.setWidth 64, 10⟩)
  else ({ s with batches := s.batches ++ [⟨r.part, r.desc, r.unit, closes, weir, []⟩] }, .done)

/-- Packets that a unit holds over its open batches (09 R335). -/
def State.heldAt (s : State) (u : Nat) : Nat := ((s.batches.filter (fun b => b.unit == u)).map (fun b => b.held.length)).sum

/-- A batch packet is held, and answered when its batch closes; refused with no batch open, or without room (09 R334,
R335). -/
def State.holdPacket (s : State) (r : Req) : State × Reply :=
  match s.batchOf r.part r.desc with
  | none => (s, .fault ⟨0x20, BitVec.ofNat 64 r.off, 6⟩)
  | some b =>
    if 8192 ≤ s.heldAt b.unit then (s, .fault ⟨0x24, r.desc.setWidth 64, BitVec.ofNat 64 (s.heldAt b.unit)⟩)
    else (s.onBatch r.part r.desc (fun b => { b with held := b.held ++ [r] }), .gone)

/-- The order in which held packets are applied: by source device, then source core (09 R334). -/
def heldBefore (a b : Req) : Bool :=
  decide (a.dev.toNat < b.dev.toNat) || (a.dev == b.dev && decide (a.core.toNat ≤ b.core.toNat))

/-- A batch closes: its packets are applied in order and answered, and the weir arrival is made (09 R334). -/
def State.closeBatch (s : State) (b : Batch) : State :=
  let s : State := { s with batches := s.batches.filter (fun x => !(x.part == b.part && x.desc == b.desc)) }
  let s := (b.held.mergeSort heldBefore).foldl (fun s r =>
    let (t, rep) := s.applyAcc r
    t.answer r rep) s
  match b.weir with
  | some w => { s with asks := s.asks ++ [⟨.arrive w 1, b.part, 4095, none, 0, 0⟩] }
  | none => s

/-- A close marker counts; the owner's closes at once (09 R333, R334). -/
def State.closeMarker (s : State) (r : Req) (owner : Bool) : State × Reply :=
  match s.batchOf r.part r.desc with
  | none => (s, .fault ⟨0x20, BitVec.ofNat 64 r.off, 6⟩)
  | some b =>
    if owner || b.closes ≤ 1 then (s.closeBatch b, .done)
    else (s.onBatch r.part r.desc (fun b => { b with closes := b.closes - 1 }), .done)

/-! ### Accesses to banks, HBM and host memory -/

/-- Why a piece of a vector access to banks is refused: bytes below XB at active elements (04 R146), poison among those
that are read (01 R66). -/
def State.pieceErr (s : State) (r : Req) (f : Flight) (p : LanePiece) (store : Bool) : Option LateFault :=
  match (p.active f.mask).findSome? (fun i => s.belowXb r store (p.bytes i).1) with
  | some e => some e
  | none => if store then none
      else (s.lanesPoisoned p f.mask).map (fun g => ⟨0x22, BitVec.ofNat 64 (32 * g), r.desc.setWidth 64⟩)

/-- What is left of a vector access to banks after a piece; nothing is left behind the last one. -/
def Req.after (r : Req) (p : LanePiece) : Option Req :=
  if p.bit / 8 + footBytes p.fmt ≤ p.stop then none
  else
    let gone := p.stop - p.bit / 8
    some { r with
      off := r.off + (p.stop - p.first)
      acc := match r.acc with
        | .lanesRead c b _ _ => .lanesRead c b gone (some p.fmt)
        | .lanesWrite c b _ _ => .lanesWrite c b gone (some p.fmt)
        | x => x }

/-- One piece of a vector load or store at banks (05 R178, R199; 06 R223, R226). A footprint whose format was not known at
issue takes its further cycles with its first piece. -/
def State.performPiece (s : State) (r : Req) (f : Flight) (p : LanePiece) (store first : Bool) : State × Reply :=
  match s.pieceErr r f p store with
  | some e => (s, .fault e)
  | none =>
    let s := if first && r.cls == 0 then
        s.onFlight f.agent f.seq (fun f => { f with earliest := f.earliest + footCycles p.fmt }) else s
    if store then
      let ws := s.lanesWrites p f
      let t := (s.unveil p.first (p.stop - p.first)).writeCovering ws
      let t := ws.foldl (fun t w => t.seenBy r r.path (r.off + (w.addr - p.first)) 1) t
      (t, match r.after p with
        | some x => .rest 0 [] x
        | none => .done)
    else
      let (i, bs) := s.lanesRead p f
      (s, match r.after p with
        | some x => .rest i bs x
        | none => .bytes i bs)

/-- A vector load or store at banks: its footprint is checked with its first piece (06 R226, R227). -/
def State.performLanes (s : State) (r : Req) (f : Flight) : State × Reply :=
  let go (chk : Fmt) (bit gone : Nat) (begun : Option Fmt) (store : Bool) : State × Reply :=
    match if begun.isNone then s.lanesErr r chk (bit / 8) else none with
    | some e => (s, .fault e)
    | none => s.performPiece r f (s.lanePiece bit gone begun) store begun.isNone
  match r.acc with
  | .lanesRead chk bit gone begun => go chk bit gone begun false
  | .lanesWrite chk bit gone begun => go chk bit gone begun true
  | _ => (s, .done)

/-- What an atomic operation of a service or kernel core leaves in `n` bytes (13 R474). -/
def rmwNew (n : Nat) (op : RmwOp) (old : Nat) (x : Word) : Nat :=
  let v := x.toNat % 2 ^ (8 * n)
  match op with
  | .add => (old + v) % 2 ^ (8 * n)
  | .swap => v
  | .xor => old ^^^ v
  | .and => old &&& v
  | .or => old ||| v
  | .min => pickSigned (8 * n) true old v
  | .max => pickSigned (8 * n) false old v
  | .minu => min old v
  | .maxu => max old v
  | .ifIs w => if old = w.toNat % 2 ^ (8 * n) then v else old

/-- A read or a write of a copy that a handover engine makes: poison raises no fault and moves with the bytes, and watches
see the copy when it is whole (01 R66; 08 R282). -/
def State.performHaul (s : State) (r : Req) : State × Reply :=
  match r.acc with
  | .read a n _ =>
    (s, .scaled 0 (s.readBytes a n) ((List.range n).map (fun i => if s.poison.contains ((a + i) / 32) then 1 else 0)))
  | .write a [] _ => (s.addPoison (a / 32), .done)
  | .write a bs _ => ((s.unveil a bs.length).writeBytes a bs, .done)
  | _ => (s, .done)

/-- An access of any other source is performed at memory of this device or of the host. -/
def State.performAccess (s : State) (r : Req) : State × Reply :=
  match r.acc with
  | .read a n i => match orFault (s.belowXb r false a) (s.readPoison r a n) with
    | some e => (s, .fault e)
    | none => (s, .bytes i (s.readBytes a n))
  | .write a bs ms => match s.belowXb r true a with
    | some e => (s, .fault e)
    | none =>
      if bs = [] then (s.poisonGranule (a / 32), .done)
      else
        let s := s.unveil a bs.length
        let t := if ms = [] then s.writeBytes a bs else s.writeCovering (maskedWrites a bs ms)
        (t.seenBy r r.path r.off bs.length, .done)
  | .copyRead f a n i =>
    let scs := (List.range n).map (fun j => s.copyScaleAt f (8 * (a + j)))
    match orFault (s.belowXb r false a) (orFault (s.readPoison r a n)
        (scs.findSome? (fun x => x.bind (fun b => s.readPoison r b 1)))) with
    | some e => (s, .fault e)
    | none => (s, .scaled i (s.readBytes a n) ((List.range n).map (fun j => BitVec.ofNat 8 (s.copyScale f (8 * (a + j))))))
  | .copyWrite f g bit back take els => match s.belowXb r true (bit / 8) with
    | some e => (s, .fault e)
    | none =>
      let ws := s.copyWrites f g bit back take els r.rm
      let n := (take + bit % 8 + 7) / 8
      (((s.unveil (bit / 8) n).writeCovering ws).seenBy r r.path r.off n, .done)
  | .lanesRead _ _ _ _ | .lanesWrite _ _ _ _ => match r.src with
    | .op a q => match s.flight? a q with
      | some f => s.performLanes r f
      | none => (s, .done)
    | _ => (s, .done)
  | .acc _ _ _ _ _ batch => if batch then s.holdPacket r else s.applyAcc r
  | .batchOpen _ n w => s.openBatch r n.toNat w
  | .batchClose _ owner => s.closeMarker r owner
  | .rmw a n op x => match s.belowXb r true a with
    | some e => (s, .fault e)
    | none =>
      let old := leNat (s.readBytes a n)
      ((((s.unveil a n).writeBytes a (leBytes n (rmwNew n op old x))).seenRaw 5 a n r.core), .old (BitVec.ofNat 64 old))

/-- A request is performed at memory of this device or of the host. -/
def State.performHere (s : State) (r : Req) : State × Reply :=
  match r.src with
  | .haul _ _ => s.performHaul r
  | _ => s.performAccess r

/-! ### Lines of the last-level cache (01 R49 to R51; 09 R339, R340) -/

/-- A line of a slice. -/
def State.lineOf (s : State) (die : Nat) (remote : Option (BitVec 12)) (num : Nat) : Option Line :=
  s.lines.find? (fun l => l.die == die && l.remote == remote && l.num == num)

/-- A sector is present. -/
def State.sectorIn (s : State) (die : Nat) (remote : Option (BitVec 12)) (g : Nat) : Bool :=
  ((s.lineOf die remote (g / 4)).map (fun l => l.valid.getLsbD (g % 4))).getD false

/-- The bank of a slice in which a line lies: the bits of its virtual address are those of its physical one (01 R20). -/
def lineBank (num : Nat) : Nat := fieldN (128 * num) 10 4

/-- The lines that a slice bank of 12 MiB holds (01 R20). -/
def bankLines : Nat := 98304

/-- A full slice bank gives up its oldest line for a new one (01 R17, R20, R49; log 126). -/
def State.makeRoom (s : State) (die num : Nat) : State :=
  match s.lines.filter (fun l => l.die == die && lineBank l.num == lineBank num) with
  | [] => s
  | l :: ls => if ls.length + 1 < bankLines then s
      else ({ s with lines := s.lines.filter (· != l) } : State).writeBackLine l

/-- A sector becomes present, or dirty as well; its line is allocated (09 R339). -/
def State.putSector (s : State) (die : Nat) (remote : Option (BitVec 12)) (part : BitVec 4) (desc : BitVec 32) (dirty : Bool)
    (g : Nat) : State :=
  let bit : BitVec 4 := 1#4 <<< (g % 4)
  let put (l : Line) : Line := { l with
    part := part, desc := desc, valid := l.valid ||| bit, dirty := if dirty then l.dirty ||| bit else l.dirty }
  match s.lineOf die remote (g / 4) with
  | some _ => { s with lines := s.lines.map (fun l =>
      if l.die == die && l.remote == remote && l.num == g / 4 then put l else l) }
  | none =>
    let s := s.makeRoom die (g / 4)
    { s with lines := s.lines ++ [put ⟨die, remote, g / 4, part, desc, 0, 0⟩] }

/-- The sectors of an access are present after it (09 R339). -/
def State.allocate (s : State) (die : Nat) (remote : Option (BitVec 12)) (r : Req) : State :=
  (granules r.acc.addr r.acc.len).foldl (State.putSector · die remote r.part r.desc r.acc.writes ·) s

/-- A byte of a REMOTE line as the slice holds it. -/
def State.farByte (s : State) (home : BitVec 12) (a : Nat) : Byte := Memory.byte s.far (farKey home a)

/-- A sector must be fetched from its home before the access: it is not present, and the access does not write all of it
(09 R339). -/
def State.needsFetch (s : State) (die : Nat) (r : Req) (g : Nat) : Bool :=
  !s.sectorIn die (some r.home) g && !(match r.acc with
    | .write a bs ms => decide (a ≤ 32 * g) && decide (32 * g + 32 ≤ a + bs.length) &&
        (List.range 32).all (fun i => (ms[32 * g + i - a]?).getD 0xFF == 0xFF)
    | _ => false)

/-- The fetch of a sector is on its way. -/
def State.fetching (s : State) (die : Nat) (home : BitVec 12) (g : Nat) : Bool :=
  s.away.any (fun (_, p) => p.fill == some die && p.req.home == home && p.req.acc.addr == 32 * g)

/-- The home device can be reached (12 R452, R457). -/
def State.reachable (s : State) (d : BitVec 12) : Bool :=
  match s.route? d with
  | some l => (s.link l).takes
  | none => false

/-- A request for a REMOTE line that the slice holds is performed there (01 R50). -/
def State.performFar (s : State) (die : Nat) (r : Req) : State × Reply :=
  let key := farKey r.home r.acc.addr
  match r.acc with
  | .read _ n i => match s.readPoison r key n with
    | some e => (s, .fault e)
    | none => (s, .bytes i (Memory.load s.far key n))
  | .copyRead _ _ n i => match s.readPoison r key n with
    | some e => (s, .fault e)
    | none => (s, .scaled i (Memory.load s.far key n) (List.replicate n 127))
  | .write _ bs ms =>
    let old := Memory.load s.far key bs.length
    let new := bs.zipIdx.map (fun (b, i) => (⟨0, (ms[i]?).getD 0xFF, b⟩ : BitWrite).apply ((old[i]?).getD 0))
    let t := { s with far := Memory.store s.far key new, poison := clearPoison s.poison key bs.length }
    ((t.allocate die (some r.home) r).seenBy r r.path r.off bs.length, .done)
  | .copyWrite f g bit back take els =>
    let n := r.acc.len
    let img := packBits g.size (els.map (fun e => (convertBits f g e.scale 127 e.bits (rmMode r.rm) (rmSat r.rm)).bits))
    let ws := elemWrites (8 * key + bit % 8) take (img / 2 ^ back % 2 ^ take)
    let t : State := ws.foldl (fun (t : State) w =>
      { t with far := Memory.store t.far w.addr [w.apply (Memory.byte t.far w.addr)] }) s
    let t := { t with poison := clearPoison t.poison key n }
    ((t.allocate die (some r.home) r).seenBy r r.path r.off n, .done)
  | _ => (s, .done)

/-- A request for a REMOTE buffer that no slice caches goes home: elements are converted here, and a wide write under bit
masks takes two packets, cut at a granule (01 R29; 12 R436; log 38). -/
def State.sendHome (s : State) (r : Req) : State :=
  match r.acc with
  | .copyWrite f g bit back take els =>
    s.sendAway { r with acc := .write (bit / 8) (leBytes r.acc.len
      (packBits g.size (els.map (fun e => (convertBits f g e.scale 127 e.bits (rmMode r.rm) (rmSat r.rm)).bits)) /
        2 ^ back % 2 ^ take)) [] } none
  | .write a bs (m :: ms) =>
    if bs.length ≤ 64 then s.sendAway r none
    else
      let n := 64 - a % 32
      let s := match r.src with
        | .op x q => s.onFlight x q (fun f => { f with open_ := f.open_ + 1 })
        | _ => s
      (s.sendAway { r with acc := .write a (bs.take n) ((m :: ms).take n) } none).sendAway
        { r with off := r.off + n, va := r.va + n, acc := .write (a + n) (bs.drop n) ((m :: ms).drop n) } none
  | _ => s.sendAway r none

/-- A request for a REMOTE buffer at its slice: packets and uncached accesses go home; the others wait until their sectors
are present (01 R50; 09 R330, R339). -/
def State.performRemote (s : State) (die : Nat) (r : Req) : State × Reply :=
  let homeward : Bool := r.nc || (match r.acc with
    | .acc _ _ _ _ _ _ | .batchOpen _ _ _ | .batchClose _ _ => true
    | _ => false)
  if homeward then (s.sendHome r, .gone)
  else
    match (granules r.acc.addr r.acc.len).filter (s.needsFetch die r) with
    | [] => s.performFar die r
    | gs =>
      if !s.reachable r.home then (s, .fault ⟨0x20, BitVec.ofNat 64 r.acc.addr, 4⟩)
      else
        (gs.foldl (fun s g =>
          if s.fetching die r.home g then s
          else s.sendAway { r with src := .engine, acc := .read (32 * g) 32 0 } (some die)) s, .wait)

/-- A sector that a fetch brings is filled (01 R49). -/
def State.fillSector (s : State) (die : Nat) (r : Req) (bs : List Byte) : State :=
  let t := { s with far := Memory.store s.far (farKey r.home r.acc.addr) bs }
  t.putSector die (some r.home) r.part r.desc false (r.acc.addr / 32)

/-- An uncorrectable error found at an eviction: the granule is poisoned, and a record goes to the partition of each buffer
that holds it (01 R67; 09 R340). -/
def State.badEviction (s : State) (l : Line) (i : Nat) : State :=
  let g := l.key / 32 + i
  let s := s.poisonGranule g
  (s.holdersOf g).foldl (fun s (p, k) =>
    s.postRecord 4095 (BitVec.ofNat 4 p) (faultRecord 0x22 0b01 false false (BitVec.ofNat 4 p) 0 0 0 0 0
      (BitVec.ofNat 64 (128 * l.num + 32 * i)) (BitVec.ofNat 64 k) 0 s.now)) s

/-- A line leaves its slice: dirty sectors of a REMOTE line travel home. An error found then is in the dirty sector `n`, or
in the first one (01 R67, R69; 09 R340). -/
def State.evict (s : State) (die num n : Nat) (e : Ecc) : State :=
  match s.lines.find? (fun l => l.die == die && l.num == num) with
  | none => s
  | some l =>
    let s : State := { s with lines := s.lines.filter (· != l) }
    let at_ := if l.dirty.getLsbD n then some n else (List.range 4).find? (fun i => l.dirty.getLsbD i)
    (match e, at_ with
      | .uncorrectable, some i => s.badEviction l i
      | .corrected, some _ => s.countCorrected (sliceUnit die) 0 true
      | _, _ => s).writeBackLine l

/-! ### The steps -/

/-- The granule `n` of an access, by its place: that of a REMOTE line among those that slices hold. -/
def Req.granule (r : Req) (n : Nat) : Nat :=
  (if r.cls = 4 then farKey r.home r.acc.addr else r.acc.addr) / 32 + min n ((granules r.acc.addr r.acc.len).length - 1)

/-- The memory's error code finds something in granule `n` of the access (01 R52, R65, R69): a REMOTE sector is looked at
when the slice holds it. -/
def State.eccOf (s : State) (u : Nat) (r : Req) (e : Ecc) (n : Nat) : State :=
  let g := r.granule n
  let held := s.sectorIn (u - 4096) (if r.cls = 4 then some r.home else none) (r.acc.addr / 32 + (g - r.granule 0))
  if r.cls = 4 && !held then s
  else match e with
    | .clean => s
    | .corrected => s.countCorrected u (32 * g) held
    | .uncorrectable => match placeOf r.acc.addr with
      | .vwin _ _ | .awin _ _ => s
      | _ => s.poisonGranule g

/-- A unit serves one request. -/
def State.serveOne (s : State) (u : Nat) (k : Serve) (n : Nat) (e : Ecc) (gran : Nat) : State :=
  match s.pickReq u k n with
  | none => s
  | some i => match (s.queueAt u)[i]? with
    | none => s
    | some r =>
      let s := s.eccOf u r e gran
      let (t, rep) := if r.cls = 4 then s.performRemote (u - 4096) r else s.performHere r
      let t := t.recountPoison s.poison
      match rep with
      | .wait => t
      | .rest _ _ x => (t.keepQueued u i x).answer r rep
      | rep =>
        let t := if 4096 ≤ u && !r.nc && r.cls != 4 then t.allocate (u - 4096) none r else t
        (t.unqueue u i).answer r rep

/-- Requests of an agent to host memory are performed in order; the host answers them when it will (09 R317). -/
def State.serveHost (s : State) (n : Nat) : State :=
  match s.hostq[n]? with
  | none => s
  | some r =>
    if (s.hostq.take n).any (fun x => x.src.agent == r.src.agent && x.path == r.path) then s
    else
      let (t, rep) := s.performHere r
      let t := t.recountPoison s.poison
      ({ t with hostq := t.hostq.eraseIdx n } : State).answer r rep

/-- The host answers every request of an operation that waits at its port (09 R317). -/
def State.serveHostOf (s : State) (a : Nat) (q : BitVec 16) : State :=
  (List.range s.hostq.length).foldl (fun s _ =>
    match s.hostq.findIdx? (fun r => r.src == .op a q) with
    | some i => match s.hostq.findIdx? (fun r => r.src.agent == a && r.path == (s.hostq[i]?.map (·.path)).getD 0) with
      | some j => s.serveHost j
      | none => s
    | none => s) s

/-- PORT_ACCESS at the port of core `focus.core` (05 R178). -/
def execPortAccess (s : State) : Host.Outcome State Fault Refusal :=
  .next (s.serveOne s.focus.core .access 0 s.focus.ecc s.focus.gran)

/-- CROSSBAR_ACCESS in cluster `focus.cluster`: the request at place `focus.n`, or the first that may (05 R199). -/
def execCrossbarAccess (s : State) : Host.Outcome State Fault Refusal :=
  .next (s.serveOne (sramUnit s.focus.cluster) .access s.focus.n s.focus.ecc s.focus.gran)

/-- LLC_ACCESS at the slice of die `focus.die`: the request at place `focus.n`, or the first that may; with `focus.data` = 1
the line `focus.addr / 128` is evicted instead, to make room (01 R49, R67; 09 R339). -/
def execLlcAccess (s : State) : Host.Outcome State Fault Refusal :=
  .next (if s.focus.data = 1 then s.evict s.focus.die (s.focus.addr / 128) s.focus.n s.focus.ecc
    else s.serveOne (sliceUnit s.focus.die) .access s.focus.n s.focus.ecc s.focus.gran)

/-- ACCUMULATE_APPLY at unit `focus.addr` (a port's core, 2048 + cluster, or 4096 + die): the packet at place `focus.n`, or
the first that may (09 R329). -/
def execAccumulateApply (s : State) : Host.Outcome State Fault Refusal :=
  .next (s.serveOne s.focus.addr .apply s.focus.n s.focus.ecc s.focus.gran)

/-- BATCH_PACKET_HOLD at unit `focus.addr` (09 R334, R335). -/
def execBatchPacketHold (s : State) : Host.Outcome State Fault Refusal :=
  .next (s.serveOne s.focus.addr .hold s.focus.n s.focus.ecc s.focus.gran)

/-- CLOSE_MARKER at unit `focus.addr` (09 R333, R334). -/
def execCloseMarker (s : State) : Host.Outcome State Fault Refusal :=
  .next (s.serveOne s.focus.addr .close s.focus.n s.focus.ecc s.focus.gran)

end Sys2Proof.Machine
end

