-- ==== Sys2Proof/Machine/Copy.lean ====
section
/-! DEFINITION. The copy engine (09 R305 to R322) and the streams that it sends (12 R437). -/

namespace Sys2Proof.Machine

/-! ### Trigger values (09 R306) -/

/-- DOFF of copy and fill, in t. -/
def cpTOff (t : Word) : Nat := fieldN t.toNat 0 40
/-- SOFF of copy and DOFF of gath, in `cp.o`; TOFF of sig. -/
def cpOOff (o : Word) : Nat := fieldN o.toNat 0 40
/-- LEN of copy and fill, in bytes: 0 means 2^24 granules. -/
def cpLen (t : Word) : Nat := 32 * (if fieldN t.toNat 40 24 = 0 then 2 ^ 24 else fieldN t.toNat 40 24)
/-- DK of copy, copys and gath, and TK of sig. -/
def cpDk (o : Word) : BitVec 5 := o.extractLsb' 40 5
/-- SFMT. -/
def cpSfmt (o : Word) : Fmt := Fmt.ofCode (o.extractLsb' 45 4)
/-- DFMT. -/
def cpDfmt (o : Word) : Fmt := Fmt.ofCode (o.extractLsb' 49 4)
/-- XK. -/
def cpXk (t : Word) : BitVec 5 := t.extractLsb' 0 5
/-- IOFF in bytes. -/
def cpIoff (t : Word) : Nat := 32 * fieldN t.toNat 8 24
/-- ROWS. -/
def cpRows (t : Word) : Nat := fieldN t.toNat 32 16
/-- RLEN in bytes. -/
def cpRlen (t : Word) : Nat := 32 * fieldN t.toNat 48 16

/-- The operation moves bytes. -/
def cpMoves (op : CpOp) : Bool := op == .copy || op == .copys || op == .fill || op == .gath

/-- The bits of `cp.o` that the table names (09 R306, R307); stat names none. -/
def cpOBits : CpOp → Word
  | .copy => 0x1FFFFFFFFFFFFF
  | .copys => 0x1FFF00FFFFFFFF
  | .fill => 0xFFFFFFFFFFFFFFFF
  | .gath => 0x1FFFFFFFFFFF
  | .sig => 0x3FFFFFFFFFFF
  | .stat => 0

/-- The bits of t that the table names. -/
def cpTBits : CpOp → Word
  | .copy | .fill => 0xFFFFFFFFFFFFFFFF
  | .copys => 0x3FFF1FFFF
  | .gath => 0xFFFFFFFFFFFFFF1F
  | .sig => 0xFFFFFFFFFF
  | .stat => 0

/-! ### Checks (09 R307, R308) -/

/-- A register that an operation names, and the right it needs there. -/
structure CpReg where
  k : BitVec 5
  cap : Option Cap
  need : BitVec 6

/-- The registers of an operation: source, destination, index list, token (09 R306). -/
def cpReg (x : Trig) (k : BitVec 5) (need : BitVec 6) : CpReg := ⟨k, (x.at_.rk k).cap?, need⟩

/-- The register of the destination. -/
def cpDstK (op : CpOp) (x : Trig) : BitVec 5 := if op = .fill then x.k else cpDk x.o

/-- The registers that must hold capabilities, in order (09 R307 check 2). -/
def cpRegs (op : CpOp) (x : Trig) : List CpReg :=
  match op with
  | .copy | .copys => [cpReg x x.k rightR, cpReg x (cpDk x.o) rightW]
  | .fill => [cpReg x x.k rightW]
  | .gath => [cpReg x x.k rightR, cpReg x (cpDk x.o) rightW, cpReg x (cpXk x.t) rightR]
  | .sig => if x.o.getLsbD 45 then [cpReg x (cpDk x.o) rightW] else []
  | .stat => []

/-- The source carries X and not R: it may then write below XB at its destination (04 R146; 09 R308). -/
def Cap.executes (c : Cap) : Bool := c.has rightX && !c.has rightR

/-- A source may be copied (09 R308). -/
def cpSrcOk (a : Nat) (c : Cap) (d dst : Desc) : Bool :=
  c.kind != .grant && decide (d.cls.toNat ≤ 4) && (c.has rightR || (c.executes && dst.localTo a))

/-- A destination may be written (09 R308); a residual is refused by check 6. -/
def cpDstOk (c : Cap) (d : Desc) : Bool := decide (d.cls.toNat ≤ 5) && c.writes && (c.kind == .whole || c.residual)

/-- The length of the destination range of a copy, by its formats (09 R309): elements and bits of one. -/
def cpShape (fs fd : Fmt) (len : Nat) : Nat × Nat × Nat :=
  if fs = fd ∨ fs = .bytes ∨ fd = .bytes then (len, 8, 8) else (8 * len / fs.size, fs.size, fd.size)

/-- Two ranges meet. -/
def rangesMeet (a n b m : Nat) : Bool := decide (a < b + m) && decide (b < a + n)

/-- Check 3 (09 R307, R308). -/
def cpRightsErr (op : CpOp) (s : State) (x : Trig) : Option Err :=
  let held (k : BitVec 5) : Option (Cap × Desc) := (x.at_.rk k).cap?.bind (fun c => (s.descOf c).map (fun d => (c, d)))
  let src := held x.k
  let dst := held (cpDstK op x)
  let e (k : BitVec 5) (need : BitVec 6) : Err := ⟨0x11, kNum k, need.setWidth 64⟩
  let srcErr := match src, dst with
    | some (c, d), some (_, dd) => require (cpSrcOk x.c c d dd) (e x.k rightR)
    | _, _ => none
  let dstErr := match dst with
    | some (c, d) => require (cpDstOk c d) (e (cpDstK op x) rightW)
    | none => none
  match op with
  | .copy | .copys => firstErr [srcErr, dstErr]
  | .fill => dstErr
  | .gath => firstErr [srcErr, dstErr, (match held (cpXk x.t) with
      | some (c, d) => require (d.localTo x.c && c.reads) (e (cpXk x.t) rightR)
      | none => none)]
  | .sig => if x.o.getLsbD 45 then (match held (cpDk x.o) with
      | some (c, d) => require (c.kind == .whole && c.writes && decide (d.cls.toNat ≤ 4) && d.cls != 3) (e (cpDk x.o) rightW)
      | none => none) else none
  | .stat => none

/-- Checks 4 to 6 (09 R307). -/
def cpRangeErr (op : CpOp) (x : Trig) (ds dd dx : Option Desc) (dst : Option Cap) : Option Err :=
  let len (d : Option Desc) : Nat := (d.map Desc.len).getD 0
  let sk := kNum x.k
  let dk := kNum (cpDstK op x)
  let at_ (n : Nat) : Word := BitVec.ofNat 64 n
  let held (off : Nat) := require (!((dst.map Cap.residual).getD false)) ⟨0x16, at_ off, dk⟩
  match op with
  | .copy =>
    let so := cpOOff x.o
    let d0 := cpTOff x.t
    let (n, _, sd) := cpShape (cpSfmt x.o) (cpDfmt x.o) (cpLen x.t)
    let same := (match (x.at_.rk x.k).cap?, dst with
      | some a, some b => a.same b
      | _, _ => false) && (match ds with
      | some d => d.cls == 2 || d.cls == 3 || d.cls == 4
      | none => false)
    firstErr [require (decide (so + cpLen x.t ≤ len ds)) ⟨0x12, at_ so, sk⟩,
      require (decide (d0 < len dd)) ⟨0x12, at_ d0, dk⟩,
      require (!(same && rangesMeet so (cpLen x.t) d0 (n * sd / 8))) ⟨0x12, at_ d0, dk⟩,
      require (so % 32 == 0) ⟨0x13, at_ so, sk⟩, require (d0 % 32 == 0) ⟨0x13, at_ d0, dk⟩, held d0]
  | .copys => firstErr [require (decide (len ds ≤ len dd)) ⟨0x12, at_ (len ds), dk⟩, held 0]
  | .fill =>
    let d0 := cpTOff x.t
    firstErr [require (decide (d0 + cpLen x.t ≤ len dd)) ⟨0x12, at_ d0, dk⟩, require (d0 % 32 == 0) ⟨0x13, at_ d0, dk⟩, held d0]
  | .gath =>
    let d0 := cpOOff x.o
    firstErr [require (decide (cpIoff x.t + 4 * cpRows x.t ≤ len dx)) ⟨0x12, at_ (cpIoff x.t), kNum (cpXk x.t)⟩,
      require (decide (d0 + cpRows x.t * cpRlen x.t ≤ len dd)) ⟨0x12, at_ d0, dk⟩,
      require (d0 % 32 == 0) ⟨0x13, at_ d0, dk⟩, held d0]
  | .sig =>
    let o := cpOOff x.o
    if x.o.getLsbD 45 then firstErr [require (decide (o + 8 ≤ len dd)) ⟨0x12, at_ o, dk⟩, require (o % 8 == 0) ⟨0x13, at_ o, dk⟩]
    else none
  | .stat => none

/-- The checks of a `cp` trigger, in order (09 R307). -/
def cpErr (op : CpOp) (s : State) (x : Trig) : Option Err :=
  let desc (k : BitVec 5) : Option Desc := (x.at_.rk k).cap?.bind s.descOf
  firstErr ([
    require (x.o &&& ~~~cpOBits op == 0) ⟨0x12, x.o, 0⟩,
    require (x.t &&& ~~~cpTBits op == 0) ⟨0x12, x.t, 0⟩,
    require (op != .gath || (cpRows x.t != 0 && cpRlen x.t != 0)) ⟨0x12, x.t, 0⟩] ++
    (cpRegs op x).map (fun r => require (r.cap.bind s.descOf).isSome ⟨0x10, kNum r.k, r.need.setWidth 64⟩) ++
    [cpRightsErr op s x,
     cpRangeErr op x (desc x.k) (desc (cpDstK op x)) (desc (cpXk x.t)) (x.at_.rk (cpDstK op x)).cap?])

/-! ### What a trigger does -/

/-- The signals that a sig arms (09 R314). -/
def cpSig (x : Trig) : Sig where
  token := if x.o.getLsbD 45 then (x.at_.rk (cpDk x.o)).cap?.map (fun c => (c, cpOOff x.o)) else none
  tcb := if x.t.getLsbD 24 then some (x.t.extractLsb' 0 24) else none
  weir := if x.t.getLsbD 38 then some (x.t.extractLsb' 25 13) else none
  ord := x.t.getLsbD 39

/-- The armed signals of an agent are set. -/
def State.setSig (s : State) (a : Nat) (g : Option Sig) : State :=
  if isCompute a then s.onCore a (fun c => { c with sig := g }) else s.onSvc a (fun v => { v with sig := g })

/-- A copy-like operation has been triggered under number `q`: it has taken the armed signals, and is the last one (09
R314, R316). -/
def State.copyTaken (s : State) (a : Nat) (q : BitVec 16) : State :=
  if isCompute a then s.onCore a (fun c => { c with sig := none, lastCopy := some q })
  else s.onSvc a (fun v => { v with sig := none, lastCopy := some q })

/-- A copy-like operation as its trigger leaves it: the source in `ca`, the destination in `cb`, the index list in `cx`, the
armed signals, and the operation before it (09 R306, R314, R316). -/
def cpFlight (op : CpOp) (x : Trig) (f : Flight) : Flight :=
  let dst := cpDstK op x
  { f with
    ka := x.k
    ca := if op = .fill then none else (x.at_.rk x.k).cap?
    kb := dst
    cb := (x.at_.rk dst).cap?
    cx := if op = .gath then (x.at_.rk (cpXk x.t)).cap? else none
    sigs := x.at_.sig
    prev := x.at_.lastCopy }

/-- A `cp` trigger (09 R306, R311, R314, R320). -/
def cpPerform (op : CpOp) (s : State) (x : Trig) : State :=
  match op with
  | .stat => x.detach 4 (fun f => { f with phase := .ready }) s
  | .sig => (x.detach 1 (fun f => { f with phase := .ready }) s).setSig x.c (some (cpSig x))
  | .copys =>
    let pass := s.sluicePasses x.c (sendMbox x.t) (sendDev x.t) (sendHost x.t)
    let s := (x.detach 4 (fun f => { cpFlight op x f with index := if pass then 1 else 0 }) s).copyTaken x.c (s.view x.c).seq
    match (x.at_.rk (cpDk x.o)).cap? with
    | some c => (s.setAgentK x.c (cpDk x.o) .empty).windowAway c
    | none => s
  | _ => (x.detach 4 (cpFlight op x) s).copyTaken x.c (s.view x.c).seq

/-- The ranges that traces record at the trigger; rows of a gath are recorded as they are read (11 R408). -/
def cpTouches (op : CpOp) (s : State) (x : Trig) : List Touch :=
  let cap (k : BitVec 5) : Option Cap := (x.at_.rk k).cap?
  let t (k : BitVec 5) (w : Bool) (off n : Nat) : List Touch := (cap k).toList.map (fun c => ⟨c, w, off, n⟩)
  let dst := cpDstK op x
  let size (k : BitVec 5) : Nat := (((cap k).bind s.descOf).map Desc.len).getD 0
  let fmt (k : BitVec 5) (off : Nat) (g : Fmt) : Fmt := match (cap k).bind s.descOf with
    | some d => if d.cls.toNat < 2 then s.fmtAt (d.base.toNat + off) else if d.cls = 5 then .bytes else g
    | none => g
  let wide (so d0 n : Nat) : Nat :=
    let (k, _, sd) := cpShape (fmt x.k so (cpSfmt x.o)) (fmt dst d0 (cpDfmt x.o)) n
    min (k * sd / 8) (size dst - d0)
  let token := match op, x.at_.sig.bind (·.token) with
    | .sig, _ => []
    | .stat, _ => []
    | _, some (c, off) => [⟨c, true, off, 8⟩]
    | _, none => []
  (match op with
    | .copy => t x.k false (cpOOff x.o) (cpLen x.t) ++ t dst true (cpTOff x.t) (wide (cpOOff x.o) (cpTOff x.t) (cpLen x.t))
    | .copys => t x.k false 0 (size x.k) ++ t dst true 0 (wide 0 0 (size x.k))
    | .fill => t dst true (cpTOff x.t) (cpLen x.t)
    | .gath => t (cpXk x.t) false (cpIoff x.t) (4 * cpRows x.t) ++ t dst true (cpOOff x.o) (cpRows x.t * cpRlen x.t)
    | _ => []) ++ token

/-- A `cp` trigger: every one is detached (09 R305). -/
def trigCp (op : CpOp) : Trigger where
  check := cpErr op
  perform := cpPerform op
  touches := cpTouches op
  detached _ _ := true

/-! ### The status word (09 R320) -/

/-- The copy-like operation of a flight. -/
def Flight.cpOp? (f : Flight) : Option CpOp :=
  match f.op with
  | .cp op => if cpMoves op then some op else none
  | _ => none

/-- `cp.r` of a stat (09 R320). -/
def State.cpStatus (s : State) (a : Nat) : Word :=
  let mine := s.flights.filter (fun f => f.agent == a)
  let copies := mine.filter (fun f => f.cpOp?.isSome)
  let active := (copies.filter (fun f => f.phase == .active || f.phase == .flush)).length
  let queued := (copies.filter (fun f => f.phase == .issued)).length
  BitVec.ofNat 64 (min queued 255 + 2 ^ 8 * min active 255 + (if (s.view a).sig.isSome then 2 ^ 16 else 0) +
    2 ^ 32 * min (s.tableUsed a) 4096)

/-! ### Ranges of an operation -/

/-- Source offset, source length and destination offset. -/
def Flight.cpSpan (s : State) (f : Flight) : Nat × Nat × Nat :=
  match f.op with
  | .cp .copy => (cpOOff f.o, cpLen f.t, cpTOff f.t)
  | .cp .copys => (0, ((f.ca.bind s.descOf).map Desc.len).getD 0, 0)
  | .cp .fill => (0, cpLen f.t, cpTOff f.t)
  | _ => (0, cpRows f.t * cpRlen f.t, cpOOff f.o)

/-- Bytes that the operation writes at its destination. -/
def Flight.cpTotal (s : State) (f : Flight) : Nat :=
  let (_, n, _) := f.cpSpan s
  let (k, _, sd) := cpShape f.fs f.fd n
  k * sd / 8

/-- The format of one side of a copy (09 R309). -/
def State.sideFmt (s : State) (d : Desc) (off : Nat) (named : Fmt) : Fmt :=
  if d.cls.toNat < 2 then s.fmtAt (d.base.toNat + off) else if d.cls = 5 then .bytes else named

/-- A bank that a range touches has another format: the format found (09 R309). -/
def State.otherFmt (s : State) (d : Desc) (off n : Nat) (f : Fmt) : Option Fmt :=
  if d.cls.toNat < 2 then
    ((pieces (d.base.toNat + off) n).map (fun p => s.fmtAt p.1)).find? (· != f)
  else none

/-- The checks of a copy's start: the format code that DETAIL2 names (09 R309). -/
def State.startErr (s : State) (f : Flight) (fs fd : Fmt) (a b : Cap) (ds dd : Desc) : Option Fmt :=
  let (so, len, d0) := f.cpSpan s
  let (n, ss, sd) := cpShape fs fd len
  let m := n * sd / 8
  if n * ss ≠ 8 * len then some fs
  else if n * sd % 256 ≠ 0 then some fd
  else if dd.len < d0 + m then some fd
  else if a.same b && rangesMeet so len d0 m then some fd
  else (s.otherFmt ds so len fs).orElse (fun _ => s.otherFmt dd d0 m fd)

/-! ### Pieces (09 R310) -/

/-- The length of the next piece: it ends at a multiple of `most` bytes of the destination's memory, and within `goal`
bytes of the range. -/
def Flight.pieceLen (s : State) (f : Flight) (d : Desc) (goal most : Nat) : Nat :=
  let (_, _, d0) := f.cpSpan s
  min (goal - f.pos) (most - (d.base.toNat + d0 + f.pos) % most)

/-- The source of a piece of a copy: the byte in which its first element begins and the bit there, elements, and how many
bits before the piece the first one begins (09 R309). -/
def Flight.sourceOf (s : State) (f : Flight) (pos len : Nat) : Nat × Nat × Nat × Nat :=
  let (so, n, _) := f.cpSpan s
  let (_, ss, sd) := cpShape f.fs f.fd n
  let i0 := 8 * pos / sd
  let i1 := (8 * (pos + len) - 1) / sd
  (so + i0 * ss / 8, i0 * ss % 8, i1 + 1 - i0, 8 * pos - i0 * sd)

/-- The row of a gath that a byte of its destination range belongs to. -/
def Flight.rowAt (f : Flight) (pos : Nat) : Nat := pos / cpRlen f.t

/-- The ranges of the source that a piece reads, each with its place in what is read: a gath's rows, or one range (09 R309,
R313). -/
def Flight.reads (s : State) (f : Flight) (pos len : Nat) : List (Nat × Nat × Nat) :=
  match f.op with
  | .cp .gath =>
    let n := cpRlen f.t
    let r0 := f.rowAt pos
    (f.rows.take (f.rowAt (pos + len - 1) + 1 - r0)).zipIdx.map (fun (x, i) =>
      let a := max pos ((r0 + i) * n)
      (n * x + (a - (r0 + i) * n), min (pos + len) ((r0 + i + 1) * n) - a, a - pos))
  | _ =>
    let (_, ss, _) := cpShape f.fs f.fd (f.cpSpan s).2.1
    let (a, bit, k, _) := f.sourceOf s pos len
    [(a, (bit + k * ss + 7) / 8, 0)]

/-- A request of a copy-like operation: its own source may be read below XB when its capability carries X, and its
destination written there when that carries X and not R (01 R27; 04 R146). -/
def State.copyReq (s : State) (f : Flight) (k : Option (BitVec 5)) (c : Cap) (d : Desc) (off : Nat) (acc : Access) : Req :=
  let src := f.ca
  { s.reqOf f 3 k c d off acc with
    xRead := (src.map (fun x => x.same c && x.has rightX)).getD false
    xWrite := (src.map Cap.executes).getD false }

/-- The register through which a capability's translation is cached, while it still holds it (01 R45). -/
def State.throughK (s : State) (f : Flight) (k : BitVec 5) (c : Cap) : Option (BitVec 5) :=
  if f.counted && (s.agentK f.agent k).cap? == some c then some k else none

/-- The operation moves bits unchanged, so that no scale is read (03 R121; 09 R309). -/
def Flight.moveRaw (f : Flight) : Bool := f.fs == f.fd || f.fs == .bytes || f.fd == .bytes

/-- The next piece is issued, and its source read (09 R310). -/
def State.readPiece (s : State) (f : Flight) (len : Nat) : State :=
  match f.ca with
  | none => s
  | some c => match s.descOf c with
    | none => s
    | some d =>
      let rs := f.reads s f.pos len
      let ps := rs.flatMap (fun (a, n, i) =>
        (pieces (d.base.toNat + a) n).map (fun (b, m) => (b - d.base.toNat, m, i + (b - (d.base.toNat + a)))))
      let n := (rs.map (fun x => x.2.1)).sum
      let f := { f with
        pos := f.pos + len
        rows := f.rows.drop (f.rowAt (f.pos + len) - f.rowAt f.pos)
        open_ := f.open_ + ps.length
        pieces := f.pieces ++ [⟨f.pos, len, ps.length, List.replicate n 0, List.replicate n 127⟩] }
      (s.setFlight f).sendAll (ps.map (fun (off, m, i) =>
        s.copyReq f (s.throughK f f.ka c) c d off (.copyRead (if f.moveRaw then .bytes else f.fs) 0 m ((f.pos - len) * 65536 + i))))

/-- The elements that have been read for a piece. -/
def CopyPiece.elems (p : CopyPiece) (bit n ss : Nat) : List Elem :=
  let x := leNat p.data
  (List.range n).map (fun i => ⟨fieldN x (bit + i * ss) ss, ((p.scales[(bit + i * ss) / 8]?).getD 127).toNat⟩)

/-- The pattern of a fill from byte `j` of its range (09 R312). -/
def fillBytes (pat : Word) (j n : Nat) : List Byte := (List.range n).map (fun i => imageByte pat ((j + i) % 8))

/-- What a piece of a copy or a gath writes: raw bytes, or elements to convert. -/
def Flight.pieceWrite (s : State) (f : Flight) (p : CopyPiece) : Access :=
  if f.moveRaw then .write 0 (p.data.take p.len) []
  else
    let (_, ss, _) := cpShape f.fs f.fd (f.cpSpan s).2.1
    let (_, bit, k, back) := f.sourceOf s p.pos p.len
    .copyWrite f.fs f.fd 0 back (8 * p.len) (p.elems bit k ss)

/-- The bytes of a piece, for a stream: its destination has no banks (12 R437). -/
def Flight.streamBytes (s : State) (f : Flight) (p : CopyPiece) : List Byte :=
  match f.pieceWrite s p with
  | .copyWrite src dst _ back take els =>
    leBytes p.len (packBits dst.size (els.map (fun e =>
      (convertBits src dst e.scale 127 e.bits (rmMode f.rm) (rmSat f.rm)).bits)) / 2 ^ back % 2 ^ take)
  | .write _ bs _ => bs
  | _ => []

/-- The copy engine of an agent moves a piece of the destination, 128 bytes a cycle (09 R310). -/
def State.engineMoves (s : State) (f : Flight) (len : Nat) : State :=
  let k := s.view f.agent
  let t := max k.copyCyc k.cyc + (len + 127) / 128
  let s := if isCompute f.agent then s.onCore f.agent (fun c => { c with copyCyc := t })
    else s.onSvc f.agent (fun v => { v with copyCyc := t })
  s.onFlight f.agent f.seq (fun g => { g with earliest := max g.earliest t })

/-! ### Streams (12 R437) -/

/-- The translation of a byte of a destination, as the agent's cluster walks it. -/
def State.destXlate (s : State) (f : Flight) (c : Cap) (d : Desc) (off : Nat) : Option Xlate :=
  match s.walk (xlatCluster f.agent) c.part (d.base.toNat + off) with
  | .ok x => if x.allows d.cls true then some x else none
  | .error _ => none

/-- A run of at least 1 KiB of a REMOTE destination in one leaf page, on a route of one hop: its length in whole flits, the
home device and the address there (12 R437). -/
def State.streamRun (s : State) (f : Flight) (c : Cap) (d : Desc) : Option (Nat × BitVec 12 × Nat) :=
  if d.cls ≠ 4 ∨ f.op = .cp .gath then none
  else
    let (_, _, d0) := f.cpSpan s
    let off := d0 + f.pos
    match s.destXlate f c d off with
    | none => none
    | some x =>
      let va := d.base.toNat + off
      let n := min (f.cpTotal s - f.pos) (x.va + x.size - va) / 256 * 256
      if 1024 ≤ n ∧ s.oneHop x.dev then some (n, x.dev, x.pa + (va - x.va)) else none

/-- Lines of the range leave the slice before the stream's first flit (12 R437). -/
def State.dropLines (s : State) (home : BitVec 12) (a n : Nat) : State :=
  let hit (l : Line) : Bool := l.remote == some home && rangesMeet (128 * l.num) 128 a n
  let s := (s.lines.filter hit).foldl State.writeBackLine s
  { s with lines := s.lines.filter (fun l => !hit l) }

/-- A stream opens: its open packet leaves, and the operation is the stream's (12 R437); none when the home cannot be
reached. -/
def State.openStream (s : State) (f : Flight) (c : Cap) (d : Desc) (n : Nat) (home : BitVec 12) (a : Nat) : Option State :=
  match s.route? home with
  | none => none
  | some l =>
    let num := (s.link l).nextStream
    let s := s.dropLines home a n
    (s.sendPacket {
      type := 12, seq := f.seq, src := agentCore f.agent, sdev := s.dev, ddev := home, rm := f.rm, addr := a,
      desc := d.parent, rights := c.rights, trace := f.res.trace.map (·.index)
      data := leBytes 32 (num.toNat + 2 ^ 16 * (n / 256)) }).map (fun s =>
        (s.onLink l (fun k => { k with
          nextStream := num + 1, outStreams := k.outStreams ++ [⟨num, f.agent, f.seq, n / 256, 0, a⟩] })).onFlight f.agent f.seq
            (fun g => { g with stream := some (l, num) }))

/-- One flit of a stream leaves; after the last the operation waits for the stream's done packet (12 R437). -/
def State.streamFlit (s : State) (f : Flight) (l : BitVec 6) (o : OutStream) (bs : List Byte) : State :=
  let last : Bool := o.sent + 1 == o.flits
  let s := (s.setFlight { f with open_ := if last then 1 else 0 }).engineMoves f 256
  let s := s.onLink l (fun k => { k with
    outStreams := k.outStreams.map (fun x => if x.num = o.num then { x with sent := x.sent + 1 } else x) })
  s.offer l (.stream o.num o.sent bs)

/-! ### Steps between the pieces -/

/-- Its last write done, an operation whose destination is host memory waits for its flush read (09 R317). -/
def State.flushRead (s : State) (f : Flight) (c : Cap) (d : Desc) (off : Nat) : State :=
  let f := { f with phase := .flush, open_ := 1 }
  (s.setFlight f).send (s.copyReq f none c d off (.read 0 32 0))

/-- Every write of the operation has been performed: the send of a copys comes next, or the signals of a copy-like
operation (09 R311, R315). -/
def State.afterWrites (s : State) (f : Flight) : State :=
  match f.op with
  | .cp .copys => s.setFlight { f with phase := .drain, ca := f.cb, cb := none, stage := 0, open_ := 0 }
  | .cp _ => s.setFlight { f with phase := .signals, stage := 0, open_ := 0 }
  | _ => s.setFlight { f with phase := .ready, open_ := 0 }

/-- The whole destination range has been written. -/
def State.rangeDone (s : State) (f : Flight) (c : Cap) (d : Desc) : State :=
  if d.cls = 3 then
    let (_, _, d0) := f.cpSpan s
    s.flushRead f c d ((d0 + f.pos - 1) / 32 * 32)
  else s.afterWrites f

/-- The row of a gath whose index has been read and which lies outside the source, with that index (09 R313). -/
def Flight.badRow (s : State) (f : Flight) : Option (Nat × Nat) :=
  match (f.ca.bind s.descOf).map Desc.len, f.rows.getLast? with
  | some n, some x => if cpRlen f.t * x + cpRlen f.t ≤ n then none else some (f.rowAt f.pos + f.rows.length - 1, x)
  | _, _ => none

/-- The bytes of its destination that an operation writes: a gath with a row outside its source ends before that row (09
R313). -/
def Flight.goal (s : State) (f : Flight) : Nat :=
  match f.op, f.badRow s with
  | .cp .gath, some (i, _) => i * cpRlen f.t
  | _, _ => f.cpTotal s

/-! ### The order of the Copy path (01 R58; 09 R310; log 40) -/

/-- The memory that a buffer's accesses go to, as the order of the Copy path knows it: one scratchpad, one cluster's SRAM,
HBM, host memory, or the memory of other devices. -/
def Desc.memory (d : Desc) : Nat × Nat :=
  if translated d.cls then (d.cls.toNat, 0)
  else (if d.cls = 5 then 0 else d.cls.toNat, match placeOf d.base.toNat with
    | .pad c _ | .vwin c _ | .awin c _ => c
    | .sram cl _ => cl
    | _ => 0)

/-- The memories of a capability. -/
def State.memoriesOf (s : State) (c : Option Cap) : List (Nat × Nat) := ((c.bind s.descOf).map Desc.memory).toList

/-- The memories that a copy-like operation has still to read or write. -/
def State.copyDue (s : State) (f : Flight) : List (Nat × Nat) :=
  match f.cpOp?, f.phase with
  | some _, .issued => s.memoriesOf f.ca ++ s.memoriesOf f.cx ++ s.memoriesOf f.cb
  | some _, .active =>
    (if f.pos < f.goal s ∨ f.pieces.any (fun p => p.left != 0) then s.memoriesOf f.ca else []) ++
      (if f.stage = 1 ∨ f.rowAt f.pos + f.rows.length < cpRows f.t then s.memoriesOf f.cx else []) ++ s.memoriesOf f.cb
  | _, _ => []

/-- An earlier copy-like operation of the agent has still to read or write the memory of a capability (log 40). -/
def State.copyBehind (s : State) (f : Flight) (c : Option Cap) : Bool :=
  (s.before f).any (fun g => (s.copyDue g).any (fun m => (s.memoriesOf c).contains m))

/-- A copy may start, that is, make its first access: those that the agent triggered earlier have started, fewer than
eight are at work, and none before it has accesses to make to the memory that it reads first (09 R309, R310; log 40). -/
def State.copyMayStart (s : State) (f : Flight) : Bool :=
  !(s.before f).any (fun g => g.cpOp?.isSome && g.phase == .issued) &&
    decide (((s.before f).filter (fun g => g.cpOp?.isSome && (g.phase == .active || g.phase == .flush))).length < 8) &&
    !s.copyBehind f (f.cx.orElse (fun _ => f.ca.orElse (fun _ => f.cb)))

/-- COPY_START: formats are fixed and checked (09 R309). -/
def State.copyStart (s : State) (a : Nat) (q : BitVec 16) : State :=
  match s.flight? a q with
  | none => s
  | some f => match f.cpOp?, f.phase with
    | some op, .issued =>
      if !s.copyMayStart f then s
      else
        let go (fs fd : Fmt) : State :=
          let f := { f with phase := .active, fs := fs, fd := fd }
          s.setFlight { f with earliest := max f.earliest (f.born + 4 + f.cpTotal s / 128) }
        if op = .fill ∨ op = .gath then go .bytes .bytes
        else match f.ca, f.cb with
          | some ca, some cb => match s.descOf ca, s.descOf cb with
            | some ds, some dd =>
              let (so, _, d0) := f.cpSpan s
              let fs := s.sideFmt ds so (cpSfmt f.o)
              let fd := s.sideFmt dd d0 (cpDfmt f.o)
              match s.startErr f fs fd ca cb ds dd with
              | some g => s.fail a q 0x23 (BitVec.ofNat 64 f.op.code) (g.code.setWidth 64)
              | none => go fs fd
            | _, _ => s
          | _, _ => s
    | _, _ => s

/-! ### One move of an operation -/

/-- A row that a gath reads is recorded (11 R408). -/
def State.touchRow (s : State) (f : Flight) (c : Cap) (index : Nat) : State :=
  if isCompute f.agent && f.counted then s.recordTouch f.agent ⟨c, false, cpRlen f.t * index, cpRlen f.t⟩ else s

/-- A capability with its descriptor. -/
def State.withDesc (s : State) (c : Option Cap) : Option (Cap × Desc) := c.bind (fun c => (s.descOf c).map (fun d => (c, d)))

/-- A piece whose source has been read is written, in ascending order (09 R310). -/
def State.writePiece (s : State) (f : Flight) (c : Cap) (d : Desc) (pos : Nat) (acc : Access) : State :=
  let (_, _, d0) := f.cpSpan s
  let r := s.copyReq f (s.throughK f f.kb c) c d (d0 + pos) acc
  ((s.setFlight { f with open_ := f.open_ + 1 }).engineMoves f 128).send r

/-- The next index of a gath is read, through the core's port (09 R313). -/
def State.readIndex (s : State) (f : Flight) : State :=
  match s.withDesc f.cx with
  | none => s
  | some (c, d) =>
    let i := f.rowAt f.pos + f.rows.length
    (s.setFlight { f with stage := 1, open_ := f.open_ + 1, data := List.replicate 4 0 }).send
      (s.copyReq f none c d (cpIoff f.t + 4 * i) (.read 0 4 0))

/-- An index has come: its row, inside the source, is recorded (09 R313; 11 R408). -/
def State.takeIndex (s : State) (f : Flight) : State :=
  let x := leNat (f.data.take 4)
  let f := { f with stage := 0, rows := f.rows ++ [x] }
  let s := s.setFlight f
  match f.ca, f.badRow s with
  | some c, none => s.touchRow f c x
  | _, _ => s

/-- The index that a gath may read next: that of each row in turn, up to one that lies outside the source. -/
def State.indexDue (s : State) (f : Flight) : Bool :=
  f.op == .cp .gath && f.stage == 0 && !s.copyBehind f f.cx && (f.badRow s).isNone && decide (f.rowAt f.pos + f.rows.length < cpRows f.t)

/-- An operation that sends a stream makes its next move (12 R437). -/
def State.streamMove (s : State) (f : Flight) (l : BitVec 6) (num : BitVec 16) : State :=
  match (s.link l).outStreams.find? (fun o => o.num == num) with
  | none => s
  | some o => match f.pieces with
    | p :: _ => if p.left = 0 then s.streamFlit { f with pieces := [] } l o (f.streamBytes s p) else s
    | [] =>
      if o.flits ≤ o.sent then s
      else if f.op = .cp .fill then s.streamFlit { f with pos := f.pos + 256 } l o (fillBytes f.o f.pos 256)
      else s.readPiece f 256

/-- The piece that comes next is issued: a fill's is written at once, and a gath's when the indices of its rows have been
read; a stream opens where one may (09 R310, R312, R313; 12 R437). Nothing, while requests wait for the request table. -/
def State.issuePiece (s : State) (f : Flight) (c : Cap) (d : Desc) : Option State :=
  let goal := f.goal s
  if goal ≤ f.pos ∨ s.tableWaits f.agent ≠ 0 ∨ s.copyBehind f (f.ca.orElse (fun _ => f.cb)) then none
  else
    let len := f.pieceLen s d goal 128
    let piece : Option State :=
      if f.op = .cp .fill then some (s.writePiece { f with pos := f.pos + len } c d f.pos (.write 0 (fillBytes f.o f.pos len) []))
      else if f.op = .cp .gath ∧ f.rows.length < f.rowAt (f.pos + len - 1) + 1 - f.rowAt f.pos then none
      else some (s.readPiece f len)
    match s.streamRun f c d with
    | some (n, home, a) =>
      if f.pieces.isEmpty && f.open_ == 0 && !s.copyBehind f f.cb then (s.openStream f c d n home a).orElse (fun _ => piece) else none
    | none => piece

/-- The oldest piece is written when its source has been read. -/
def State.writeOldest (s : State) (f : Flight) (c : Cap) (d : Desc) : Option State :=
  match f.pieces with
  | p :: rest => if p.left = 0 ∧ !s.copyBehind f f.cb then some (s.writePiece { f with pieces := rest } c d p.pos (f.pieceWrite s p)) else none
  | [] => none

/-- Nothing is left to issue and nothing in flight: the operation goes on to its flush, its send or its signals, or ends
with the late fault of a row outside its source (09 R313). -/
def State.piecesDone (s : State) (f : Flight) (c : Cap) (d : Desc) : State :=
  if f.pos < f.goal s ∨ !f.pieces.isEmpty ∨ f.open_ ≠ 0 then s
  else match f.op, f.badRow s with
    | .cp .gath, some (i, x) => s.fail f.agent f.seq 0x20 (BitVec.ofNat 64 i) (BitVec.ofNat 64 x)
    | _, _ => s.rangeDone f c d

/-- One of the moves that an operation may make at the destination `d`: `pick` 0 writes a piece where one has been read, 1
issues the next piece, 2 reads the next index of a gath; where there is none of the kind asked for, another (09 R310,
R312, R313). -/
def State.pieceMove (s : State) (f : Flight) (c : Cap) (d : Desc) (pick : Nat) : State :=
  match f.stream with
  | some (l, num) => s.streamMove f l num
  | none =>
    if f.stage = 2 then s.takeIndex f
    else
      let write := s.writeOldest f c d
      let issue := s.issuePiece f c d
      let index := if s.indexDue f then some (s.readIndex f) else none
      let moves := match pick with
        | 0 => [write, issue, index]
        | 1 => [issue, index, write]
        | _ => [index, issue, write]
      ((moves.findSome? id)).getD (s.piecesDone f c d)

/-- COPY_PIECE: the operation makes a move; host memory answers what it waits for (09 R310, R317). -/
def State.copyPiece (s : State) (a : Nat) (q : BitVec 16) (pick : Nat) : State :=
  let s := s.serveHostOf a q
  match s.flight? a q with
  | none => s
  | some f => match f.cpOp?, f.phase, s.withDesc f.cb with
    | some _, .active, some (c, d) => if f.fault.isSome then s else s.pieceMove f c d pick
    | _, _, _ => s

/-- HOST_FLUSH_READ: the read of the last written granule completes, so the writes count as performed (09 R317). -/
def State.hostFlush (s : State) (a : Nat) (q : BitVec 16) : State :=
  let s := s.serveHostOf a q
  match s.flight? a q with
  | some f => if f.phase = .flush ∧ f.open_ = 0 then s.afterWrites f else s
  | none => s

/-! ### Completion signals (09 R315, R316) -/

/-- The previous copy-like operation of the agent has not raised its signals (09 R316). -/
def State.ordWaits (s : State) (f : Flight) : Bool :=
  match f.prev with
  | some q => (s.before f ++ s.marked.filter (fun g => g.agent == f.agent)).any (fun g =>
      g.seq == q && g.cpOp?.isSome && g.phase != .ready)
  | none => false

/-- The token word (09 R315). -/
def State.tokenWord (s : State) (f : Flight) : Word := 1#1 ++ s.now.extractLsb' 0 47 ++ f.seq

/-- The counter and weir decrements are raised; a barrier of another partition is reported instead (09 R315). -/
def State.raiseDecs (s : State) (f : Flight) (g : Sig) : State :=
  let ask (a : Ask) : Request := ⟨a, f.res.part, f.agent, none, f.res.launch, f.res.wid⟩
  let s := match g.tcb with
    | some h => { s with asks := s.asks ++ [ask (.dec (h.setWidth 32))] }
    | none => s
  match g.weir with
  | some w =>
    if s.barForeign f.res.part (w.toNat / 64) (w.toNat % 64) then s.postFor f 0b01 0x20 (w.setWidth 64) 9
    else { s with asks := s.asks ++ [ask (.bytes w f.pos)] }
  | none => s

/-- COMPLETION_SIGNALS: the token, then the decrements (09 R315). -/
def State.raiseSignals (s : State) (a : Nat) (q : BitVec 16) : State :=
  match s.flight? a q with
  | none => s
  | some f =>
    if f.phase ≠ .signals ∨ f.open_ ≠ 0 ∨ f.fault.isSome then s
    else match f.sigs with
      | none => s.setFlight { f with phase := .ready }
      | some g =>
        if f.stage = 0 ∧ g.ord ∧ s.ordWaits f then s
        else match f.stage, s.withDesc (g.token.map (·.1)) with
          | 0, some (c, d) =>
            let f := { f with stage := 1, open_ := 1 }
            (s.setFlight f).send (s.reqOf f 3 none c d ((g.token.map (·.2)).getD 0) (.write 0 (leBytes 8 (s.tokenWord f).toNat) []))
          | _, _ => (s.raiseDecs f g).setFlight { f with phase := .ready }

/-! ### Meanings: the word whose one move triggers the operation (02 R85), and the engine's steps -/

/-- The word `-> cp.t.copy` (09 R306 to R310). -/
def execCpCopy (m : Arg) (s : State) : Host.Outcome State Fault Refusal := .next (issueOne (.cp .copy) (trigCp .copy) m s)

/-- The word `-> cp.t.copys` (09 R311). -/
def execCpCopys (m : Arg) (s : State) : Host.Outcome State Fault Refusal := .next (issueOne (.cp .copys) (trigCp .copys) m s)

/-- The word `-> cp.t.fill` (09 R312). -/
def execCpFill (m : Arg) (s : State) : Host.Outcome State Fault Refusal := .next (issueOne (.cp .fill) (trigCp .fill) m s)

/-- The word `-> cp.t.gath` (09 R313). -/
def execCpGath (m : Arg) (s : State) : Host.Outcome State Fault Refusal := .next (issueOne (.cp .gath) (trigCp .gath) m s)

/-- The word `-> cp.t.sig` (09 R314). -/
def execCpSig (m : Arg) (s : State) : Host.Outcome State Fault Refusal := .next (issueOne (.cp .sig) (trigCp .sig) m s)

/-- The word `-> cp.t.stat` (09 R320). -/
def execCpStat (m : Arg) (s : State) : Host.Outcome State Fault Refusal := .next (issueOne (.cp .stat) (trigCp .stat) m s)

/-- COPY_START of operation `focus.seq` of agent `focus.core` (09 R309). -/
def execCopyStart (s : State) : Host.Outcome State Fault Refusal := .next (s.copyStart s.focus.core s.focus.seq)

/-- COPY_PIECE of operation `focus.seq` of agent `focus.core`: the move that `focus.n` asks for (09 R310). -/
def execCopyPiece (s : State) : Host.Outcome State Fault Refusal := .next (s.copyPiece s.focus.core s.focus.seq s.focus.n)

/-- COMPLETION_SIGNALS of operation `focus.seq` of agent `focus.core` (09 R315). -/
def execCompletionSignals (s : State) : Host.Outcome State Fault Refusal := .next (s.raiseSignals s.focus.core s.focus.seq)

/-- HOST_FLUSH_READ of operation `focus.seq` of agent `focus.core` (09 R317). -/
def execHostFlushRead (s : State) : Host.Outcome State Fault Refusal := .next (s.hostFlush s.focus.core s.focus.seq)

end Sys2Proof.Machine
end

