-- ==== Sys2Proof/Machine/Remote.lean ====
section
/-! DEFINITION. The remote memory unit (09 R324 to R338). -/

namespace Sys2Proof.Machine

/-! ### The forms of `rm` -/

/-- The operation moves 32 to 128 raw bytes. -/
def rmMoves (op : RmOp) : Bool := op == .rld || op == .rst
/-- The operation sends an accumulate packet. -/
def rmPacket (op : RmOp) : Bool := op == .racc || op == .rfop

/-- The fields of rld and rst fit (09 R326). -/
def rmMoveOk (t : Word) : Bool :=
  fieldN t.toNat 53 11 == 0 && fieldN t.toNat 40 2 != 3 &&
    (if rmV t then !t.getLsbD 48 && decide (32 * rmBlk t + rmSize t ≤ 512)
      else decide (rmReg t + rmSize t / 8 ≤ 64) && rmBlk t == 0)

/-- The batch-mode table of a core takes an entry for the buffer (09 R333). -/
def Core.batchRoom (c : Core) (cap : Cap) : Bool :=
  c.batches.contains (cap.part, cap.desc) || decide (c.batches.length < 4)

/-- Check 1 of 09 R325; the form of batch depends on what k holds (09 R332, R333), and rld is not for the port page
(13 R478). -/
def rmFieldsOk (op : RmOp) (x : Trig) : Bool :=
  match op with
  | .rld => rmMoveOk x.t && isCompute x.c
  | .rst => rmMoveOk x.t
  | .racc | .rfop => fieldN x.t.toNat 45 19 == 0 && decide ((rmOp x.t).toNat ≤ 4)
  | .unbatch => x.t == 0
  | .batch => match (x.at_.rk x.k).cap? with
    | some cap => if cap.kind = .grant then x.t == 0 && x.at_.batchRoom cap
        else fieldN x.t.toNat 26 38 == 0 && fieldN x.t.toNat 0 12 != 0
    | none => fieldN x.t.toNat 26 38 == 0

/-! ### Checks (09 R324, R325) -/

/-- The right that k needs. -/
def rmNeeds (op : RmOp) : BitVec 6 :=
  match op with
  | .rld => rightR
  | .rst => rightW
  | _ => rightA

/-- The right and the state of 09 R324, and the class (01 R27; 09 R325 check 3; 08 R276). -/
def rmCapOk (op : RmOp) (cap : Cap) (d : Desc) : Bool :=
  decide (d.cls.toNat ≤ 5) && (match op with
    | .rld => cap.reads
    | .rst => cap.writes && cap.kind != .grant
    | .racc | .rfop => cap.has rightA && d.cls != 3
    | .batch | .unbatch => cap.has rightA && d.cls != 3 &&
        (cap.kind == .whole || cap.kind == .resGrants || cap.kind == .grant))

/-- The bytes of the access. -/
def rmLen (op : RmOp) (t : Word) : Nat := if rmMoves op then rmSize t else accBytes (rmTy t)

/-- The place of the access is aligned (09 R325 check 5). -/
def rmAligned (op : RmOp) (t : Word) : Bool :=
  if rmMoves op then rmOff t % 32 == 0 && decide (rmOff t % 128 + rmSize t ≤ 128) else rmOff t % accBytes (rmTy t) == 0

/-- The checks of an `rm` trigger, in order (09 R325); the last but one also keeps packets from a buffer whose fractions are out
(01 R26, R60; 08 R254). -/
def rmErr (op : RmOp) (s : State) (x : Trig) : Option Err :=
  let k := kNum x.k
  if !rmFieldsOk op x then some ⟨0x12, x.t, 0⟩
  else match (x.at_.rk x.k).cap? with
    | none => some ⟨0x10, k, (rmNeeds op).setWidth 64⟩
    | some cap => match s.descOf cap with
      | none => some ⟨0x10, k, (rmNeeds op).setWidth 64⟩
      | some d =>
        let at_ := BitVec.ofNat 64 (rmOff x.t)
        let acc := rmMoves op || rmPacket op
        firstErr [
          require (rmCapOk op cap d) ⟨0x11, k, (rmNeeds op).setWidth 64⟩,
          require (!acc || decide (rmOff x.t + rmLen op x.t ≤ d.len)) ⟨0x12, at_, k⟩,
          require (!acc || rmAligned op x.t) ⟨0x13, at_, k⟩,
          require (!((op == .rst && cap.residual) || (rmPacket op && cap.kind == .resFractions))) ⟨0x16, at_, k⟩,
          if rmMoves op && rmV x.t then x.at_.absentErr [rmVec x.t] else none]

/-! ### What a trigger does -/

/-- The bytes that rst reads at its trigger (09 R326, R327); a service or kernel core has no such registers, and what it
stores is free (log 39). -/
def rmData (s : State) (x : Trig) : List Byte :=
  let n := rmSize x.t
  if !isCompute x.c then (List.range (n / 8)).flatMap (fun i => leBytes 8 (s.free i).toNat)
  else if rmV x.t then ((imageBytes (x.at_.rv (rmVec x.t))).drop (32 * rmBlk x.t)).take n
  else (List.range (n / 8)).flatMap (fun i => leBytes 8 ((x.at_.g[rmReg x.t + i]?).getD 0).toNat)

/-- The operand of a packet: the element's bits of `rm.o` (09 R328). -/
def rmOperand (x : Trig) : Word := BitVec.ofNat 64 (fieldN x.o.toNat 0 (8 * accBytes (rmTy x.t)))

/-- What the request of an operation does at memory. -/
def rmAccess (op : RmOp) (s : State) (x : Trig) (cap : Cap) : Access :=
  match op with
  | .rld => .read 0 (rmSize x.t) 0
  | .rst => .write 0 (rmData s x) []
  | .racc => .acc 0 (rmTy x.t) (rmOp x.t) (rmOperand x) false (x.at_.batches.contains (cap.part, cap.desc))
  | .rfop => .acc 0 (rmTy x.t) (rmOp x.t) (rmOperand x) true false
  | .batch => .batchOpen 0 (x.t.extractLsb' 0 12) (if x.t.getLsbD 25 then some (x.t.extractLsb' 12 13) else none)
  | .unbatch => .batchClose 0 (cap.kind != .grant)

/-- The requests of an operation: place in the buffer, and access. The bytes of rld and rst lie in one line of 128 bytes,
or in two when the buffer does not begin at a line (09 R323, R325). -/
def rmPieces (op : RmOp) (s : State) (x : Trig) (cap : Cap) (d : Desc) : List (Nat × Access) :=
  let off := rmOff x.t
  match rmAccess op s x cap with
  | .read _ n _ => (pieces (d.base.toNat + off) n).map (fun (a, m) =>
      (a - d.base.toNat, .read 0 m (a - (d.base.toNat + off))))
  | .write _ bs _ => (pieces (d.base.toNat + off) bs.length).map (fun (a, m) =>
      (a - d.base.toNat, .write 0 ((bs.drop (a - (d.base.toNat + off))).take m) []))
  | acc => [(if rmPacket op then off else 0, acc)]

/-- An operation sets out (09 R323). -/
def rmGo (op : RmOp) (x : Trig) (cap : Cap) (d : Desc) (s : State) : State :=
  let ps := rmPieces op s x cap d
  let f : Flight := { x.flight s 0 with
    ka := x.k, ca := some cap, phase := .active, open_ := ps.length
    data := if op = .rld then List.replicate (rmSize x.t) 0 else [] }
  (s.launch f).sendAll (ps.map (fun (off, a) => s.reqOf f 2 (some x.k) cap d off a))

/-- An operation that has nothing to do: it completes at once. -/
def rmNothing (x : Trig) (cap : Cap) (s : State) : State :=
  x.detach 1 (fun f => { f with ka := x.k, ca := some cap, phase := .ready }) s

/-- An `rm` trigger (09 R324 to R333). The batch feature must be accepted (13 R481). -/
def rmPerform (op : RmOp) (s : State) (x : Trig) : State :=
  match (x.at_.rk x.k).cap? with
  | none => s
  | some cap => match s.descOf cap with
    | none => s
    | some d =>
      let inTable := x.at_.batches.contains (cap.part, cap.desc)
      if op = .batch ∧ !s.feature 3 then
        let q := (s.view x.c).seq
        (rmNothing x cap s).failInTime x.c q 0x20 (cap.desc.setWidth 64) 12
      else if op = .batch ∧ cap.kind = .grant then
        let s := if inTable || !isCompute x.c then s
          else s.onCore x.c (fun c => { c with batches := c.batches ++ [(cap.part, cap.desc)] })
        rmNothing x cap s
      else if op = .unbatch ∧ cap.kind = .grant then
        if inTable then
          (rmGo op x cap d s).onCore x.c (fun c => { c with batches := c.batches.filter (fun b => b != (cap.part, cap.desc)) })
        else rmNothing x cap s
      else rmGo op x cap d s

/-- The ranges that traces record (11 R408). -/
def rmTouches (op : RmOp) (_ : State) (x : Trig) : List Touch :=
  match (x.at_.rk x.k).cap? with
  | none => []
  | some cap =>
    let t (w : Bool) : Touch := ⟨cap, w, rmOff x.t, rmLen op x.t⟩
    match op with
    | .rld => [t false]
    | .rst | .racc => [t true]
    | .rfop => [t false, t true]
    | _ => []

/-- An `rm` trigger: every one is detached (09 R324). -/
def trigRm (op : RmOp) : Trigger where
  check := rmErr op
  perform := rmPerform op
  touches := rmTouches op
  detached _ _ := true

/-- The registers that an rld writes when it completes (09 R327). -/
def Core.takeRld (c : Core) (f : Flight) : Core :=
  if rmV f.t then
    let lo := 256 * rmBlk f.t
    let n := 8 * rmSize f.t
    let mask := (BitVec.ofNat 4096 (2 ^ n - 1)) <<< lo
    c.setV (rmVec f.t) ((c.rv (rmVec f.t) &&& ~~~mask) ||| ((imageOf 4096 f.data <<< lo) &&& mask))
  else
    (List.range (rmSize f.t / 8)).foldl (fun c i =>
      { c with g := c.g.setIfInBounds (rmReg f.t + i) (BitVec.ofNat 64 (leNat ((f.data.drop (8 * i)).take 8))) }) c

/-! ### Meanings: the word whose one move triggers the operation (02 R85) -/

/-- The word `-> rm.t.rld` (09 R324 to R327). -/
def execRmRld (m : Arg) (s : State) : Host.Outcome State Fault Refusal := .next (issueOne (.rm .rld) (trigRm .rld) m s)

/-- The word `-> rm.t.rst` (09 R324 to R327). -/
def execRmRst (m : Arg) (s : State) : Host.Outcome State Fault Refusal := .next (issueOne (.rm .rst) (trigRm .rst) m s)

/-- The word `-> rm.t.racc` (09 R328 to R331). -/
def execRmRacc (m : Arg) (s : State) : Host.Outcome State Fault Refusal := .next (issueOne (.rm .racc) (trigRm .racc) m s)

/-- The word `-> rm.t.rfop` (09 R328 to R331). -/
def execRmRfop (m : Arg) (s : State) : Host.Outcome State Fault Refusal := .next (issueOne (.rm .rfop) (trigRm .rfop) m s)

/-- The word `-> rm.t.batch` (09 R332, R333). -/
def execRmBatch (m : Arg) (s : State) : Host.Outcome State Fault Refusal :=
  .next (issueOne (.rm .batch) (trigRm .batch) m s)

/-- The word `-> rm.t.unbatch` (09 R333). -/
def execRmUnbatch (m : Arg) (s : State) : Host.Outcome State Fault Refusal :=
  .next (issueOne (.rm .unbatch) (trigRm .unbatch) m s)

end Sys2Proof.Machine
end

