-- ==== Sys2Proof/Machine/Control.lean ====
section
/-! DEFINITION. The control unit (04 R137 to R143, R150 to R156, R169, R170): one trigger and one meaning for each
operation. A control trigger delivers no value, and its counter is decremented at the end of its cycle. -/

namespace Sys2Proof.Machine

/-! ### Shared parts -/

/-- A trigger that makes its word owe a delay word (02 R83). -/
def oweTrigger (check : State → Trig → Option Err) (owe : State → Trig → Owe) : Trigger where
  check := check
  perform s x := let o := owe s x; s.onCore x.c (fun c => { c with owe := some o })
  sbAtOnce := true

/-- A trigger that changes a setting of the core from the next word on. -/
def setTrigger (check : State → Trig → Option Err) (f : Trig → Core → Core) : Trigger where
  check := check
  perform s x := s.onCore x.c (f x)
  sbAtOnce := true

/-- The alignment of a transfer target's offset (04 R139). -/
def targetErr (off : Nat) (t : Word) : Option Err := require (off % 4 == 0) ⟨0x13, t, 0⟩

/-- NewPC(t) (04 R139). -/
def newPc (c : Core) (t : Word) : CodePtr :=
  ⟨t.extractLsb' 0 32, if t.getLsbD 63 then t.extractLsb' 32 16 else c.pc.ovl⟩

/-- The target of a displacement from the word (04 R139). -/
def dispPc (c : Core) (t : Word) : CodePtr := { c.pc with off := c.pc.off + t.extractLsb' 0 32 }

/-- The length of the word at an offset of the core's scratchpad (02 R70). -/
def State.lenAt (s : State) (cn off : Nat) : Nat := wordLen (s.byteAt (slotBase cn + off))

/-- What call writes to lnk: the word after the delay word, with bit 63 set (04 R139). The delay word's length is taken from
the byte that stands there, be it at or above XB (log 118). -/
def State.linkValue (s : State) (x : Trig) : Word :=
  let after := x.at_.pc.plus x.len
  1#1 ++ 0#15 ++ (after.plus (s.lenAt x.c after.off.toNat)).word.extractLsb' 0 48

/-- The end flag that bre tests (04 R141). -/
def breFlag (x : Trig) : Bool :=
  (x.at_.walker (x.t.extractLsb' 0 2)).fin.getLsbD (fieldN x.t.toNat 2 2)

/-- The scratchpad offset of the entry that jtab reads (04 R140). -/
def jtabEntry (x : Trig) : Nat := fieldN x.o.toNat 0 32 + 4 * x.t.toNat

/-- The index is in the table (04 R140). -/
def jtabIn (x : Trig) : Bool := decide (x.t.toNat < fieldN x.o.toNat 48 16)

/-- The table word (04 R140). -/
def State.jtabWord (s : State) (x : Trig) : Nat := s.localNat x.at_ (slotBase x.c + jtabEntry x) 4

/-- The faults of jtab (04 R140, R168). -/
def jtabErr (s : State) (x : Trig) : Option Err :=
  let a := jtabEntry x
  let e : Err := ⟨0x08, BitVec.ofNat 64 a, x.t⟩
  if !jtabIn x then none
  else if decide (x.at_.xb.toNat < a + 4) then some { e with detail := (x.o.extractLsb' 0 32).setWidth 64 }
  else if fieldN x.o.toNat 0 32 % 4 != 0 then some e
  else if (s.poisoned? (slotBase x.c + a) 4).isSome then some e
  else require (s.jtabWord x % 4 == 0) e

/-- The checks of a suspension point: not inside a handler, and no part of either window away (04 R150, R168; 08
R299). -/
def suspendErr (_ : State) (x : Trig) : Option Err :=
  let v := x.at_.vaway != 0
  let a := x.at_.taway != 0
  if x.at_.inHandler then some ⟨0x01, 0, 0⟩
  else if v || a then some ⟨0x15, if v then 30 else 31, (0#62 ++ BitVec.ofBool a ++ BitVec.ofBool v)⟩
  else none

/-- The fields of `ctl.o` for watch (04 R169). -/
def watchK (x : Trig) : BitVec 5 := x.o.extractLsb' 0 5

/-- The start offset of a watch, rounded down to a granule (04 R169). -/
def watchStart (x : Trig) : Nat := fieldN x.t.toNat 0 40 / 32 * 32

/-- The checks of watch; KIND 0b00 disarms, as unwatch does, and makes none (04 R169; log 26). -/
def watchErr (s : State) (x : Trig) : Option Err :=
  if fieldN x.o.toNat 7 2 = 0 then none
  else match (x.at_.rk (watchK x)).cap? with
    | none => some ⟨0x10, kNum (watchK x), 0⟩
    | some cap =>
      let len := 32 * fieldN x.o.toNat 26 38
      let have_ := ((s.descOf cap).map Desc.len).getD 0
      require (len != 0 && decide (watchStart x + len ≤ have_)) ⟨0x12, BitVec.ofNat 64 (watchStart x), kNum (watchK x)⟩

/-- Arm or disarm a watch slot (04 R169). -/
def watchSet (x : Trig) (c : Core) : Core :=
  let n := fieldN x.o.toNat 5 2
  let kind : BitVec 2 := x.o.extractLsb' 7 2
  match if kind = 0 then none else (x.at_.rk (watchK x)).cap? with
  | none => { c with watch := c.watch.setIfInBounds n ({} : Watch) }
  | some cap =>
    let w : Watch :=
      ⟨cap.part, cap.desc, x.o.extractLsb' 9 17, kind, BitVec.ofNat 40 (watchStart x), x.o.extractLsb' 26 38, 0⟩
    { c with watch := c.watch.setIfInBounds n w }

/-! ### Triggers (04 R138) -/

/-- jmp (04 R139). -/
def trigJmp : Trigger :=
  oweTrigger (fun _ x => targetErr (fieldN x.t.toNat 0 32) x.t) (fun _ x => ⟨.transfer, some (newPc x.at_ x.t), 0⟩)

/-- bra (04 R139). -/
def trigBra : Trigger :=
  oweTrigger (fun _ x => targetErr (dispPc x.at_ x.t).off.toNat x.t)
    (fun _ x => ⟨.transfer, some (dispPc x.at_ x.t), 0⟩)

/-- call: as jmp, and lnk at the end of this cycle (04 R139). -/
def trigCall : Trigger where
  check := trigJmp.check
  perform s x := let v := s.linkValue x; (trigJmp.perform s x).onCore x.c (fun c => { c with lnk := v })
  sbAtOnce := true

/-- ret (04 R139). -/
def trigRet : Trigger :=
  oweTrigger (fun _ _ => none) (fun _ x => ⟨.transfer, some (.ofWord x.at_.lnk), 0⟩)

/-- jtab (04 R140). -/
def trigJtab : Trigger :=
  oweTrigger jtabErr (fun s x => ⟨.transfer,
    if jtabIn x then some { x.at_.pc with off := BitVec.ofNat 32 (s.jtabWord x) } else none, 0⟩)

/-- bre (04 R141). -/
def trigBre : Trigger :=
  oweTrigger (fun _ x => targetErr (dispPc x.at_ x.o).off.toNat x.o)
    (fun _ x => ⟨.transfer, if breFlag x then some (dispPc x.at_ x.o) else none, 0⟩)

/-- sbwait (04 R142). -/
def trigSbwait : Trigger :=
  setTrigger (fun _ _ => none) (fun x c => { c with hold := .sbwait (x.t.extractLsb' 0 3) (x.t.extractLsb' 4 12) })

/-- drain (04 R142). -/
def trigDrain : Trigger := setTrigger (fun _ _ => none) (fun x c => { c with hold := .drain x.order })

/-- yield (04 R150). -/
def trigYield : Trigger := oweTrigger suspendErr (fun _ _ => ⟨.yield, none, 0⟩)

/-- wait: the handle and the kind are owed with it (04 R150). -/
def trigWait : Trigger := oweTrigger suspendErr (fun _ x => ⟨.wait, none, (x.t.extractLsb' 0 34).setWidth 64⟩)

/-- done (04 R150). -/
def trigDone : Trigger := oweTrigger suspendErr (fun _ _ => ⟨.done, none, 0⟩)

/-- trap (04 R152). -/
def trigTrap : Trigger := oweTrigger (fun _ _ => none) (fun _ x => ⟨.trap, none, (x.t.extractLsb' 0 8).setWidth 64⟩)

/-- rett (04 R156). -/
def trigRett : Trigger :=
  oweTrigger (fun _ x => if x.at_.inHandler then targetErr (fieldN x.t.toNat 0 32) x.t else some ⟨0x01, 0, 0⟩)
    (fun _ x => ⟨.rett, some (.ofWord x.t), 0⟩)

/-- setrm (04 R143). -/
def trigSetrm : Trigger :=
  setTrigger (fun _ x => require (decide (fieldN x.t.toNat 0 3 < 6)) ⟨0x17, 0, 0⟩)
    (fun x c => { c with rm := x.t.extractLsb' 0 4 })

/-- setxb (04 R143). -/
def trigSetxb : Trigger :=
  setTrigger (fun _ x => firstErr [
      require (x.t.toNat % 4096 == 0) ⟨0x13, x.t, 0⟩,
      require (decide (x.t.toNat ≤ 262144)) ⟨0x12, x.t, 0⟩])
    (fun x c => { c with xb := x.t })

/-- setovh (04 R143). -/
def trigSetovh : Trigger :=
  setTrigger (fun _ x => require (x.t.toNat % 4 == 0) ⟨0x13, x.t, 0⟩)
    (fun x c => { c with ovh := x.t.extractLsb' 0 32 })

/-- watch (04 R169). -/
def trigWatch : Trigger := setTrigger watchErr watchSet

/-- unwatch (04 R170). -/
def trigUnwatch : Trigger :=
  setTrigger (fun _ _ => none) (fun x c => { c with watch := c.watch.setIfInBounds (fieldN x.t.toNat 0 2) ({} : Watch) })

/-- brk (04 R152). -/
def trigBrk : Trigger := oweTrigger (fun _ _ => none) (fun _ x => ⟨.brk, none, (x.t.extractLsb' 0 8).setWidth 64⟩)

/-! ### Meanings: the word whose one move triggers the operation (02 R85) -/

/-- The word `-> ctl.t.jmp` (04 R138). -/
def execCtlJmp (m : Arg) (s : State) : Host.Outcome State Fault Refusal :=
  .next (issueOne (.ctl .jmp) trigJmp m s)

/-- The word `-> ctl.t.bra` (04 R138). -/
def execCtlBra (m : Arg) (s : State) : Host.Outcome State Fault Refusal :=
  .next (issueOne (.ctl .bra) trigBra m s)

/-- The word `-> ctl.t.call` (04 R138). -/
def execCtlCall (m : Arg) (s : State) : Host.Outcome State Fault Refusal :=
  .next (issueOne (.ctl .call) trigCall m s)

/-- The word `-> ctl.t.ret` (04 R138). -/
def execCtlRet (m : Arg) (s : State) : Host.Outcome State Fault Refusal :=
  .next (issueOne (.ctl .ret) trigRet m s)

/-- The word `-> ctl.t.jtab` (04 R138). -/
def execCtlJtab (m : Arg) (s : State) : Host.Outcome State Fault Refusal :=
  .next (issueOne (.ctl .jtab) trigJtab m s)

/-- The word `-> ctl.t.bre` (04 R138). -/
def execCtlBre (m : Arg) (s : State) : Host.Outcome State Fault Refusal :=
  .next (issueOne (.ctl .bre) trigBre m s)

/-- The word `-> ctl.t.sbwait` (04 R138). -/
def execCtlSbwait (m : Arg) (s : State) : Host.Outcome State Fault Refusal :=
  .next (issueOne (.ctl .sbwait) trigSbwait m s)

/-- The word `-> ctl.t.drain` (04 R138). -/
def execCtlDrain (m : Arg) (s : State) : Host.Outcome State Fault Refusal :=
  .next (issueOne (.ctl .drain) trigDrain m s)

/-- The word `-> ctl.t.yield` (04 R138). -/
def execCtlYield (m : Arg) (s : State) : Host.Outcome State Fault Refusal :=
  .next (issueOne (.ctl .yield) trigYield m s)

/-- The word `-> ctl.t.wait` (04 R138). -/
def execCtlWait (m : Arg) (s : State) : Host.Outcome State Fault Refusal :=
  .next (issueOne (.ctl .wait) trigWait m s)

/-- The word `-> ctl.t.done` (04 R138). -/
def execCtlDone (m : Arg) (s : State) : Host.Outcome State Fault Refusal :=
  .next (issueOne (.ctl .done) trigDone m s)

/-- The word `-> ctl.t.trap` (04 R138). -/
def execCtlTrap (m : Arg) (s : State) : Host.Outcome State Fault Refusal :=
  .next (issueOne (.ctl .trap) trigTrap m s)

/-- The word `-> ctl.t.rett` (04 R138). -/
def execCtlRett (m : Arg) (s : State) : Host.Outcome State Fault Refusal :=
  .next (issueOne (.ctl .rett) trigRett m s)

/-- The word `-> ctl.t.setrm` (04 R138). -/
def execCtlSetrm (m : Arg) (s : State) : Host.Outcome State Fault Refusal :=
  .next (issueOne (.ctl .setrm) trigSetrm m s)

/-- The word `-> ctl.t.setxb` (04 R138). -/
def execCtlSetxb (m : Arg) (s : State) : Host.Outcome State Fault Refusal :=
  .next (issueOne (.ctl .setxb) trigSetxb m s)

/-- The word `-> ctl.t.setovh` (04 R138). -/
def execCtlSetovh (m : Arg) (s : State) : Host.Outcome State Fault Refusal :=
  .next (issueOne (.ctl .setovh) trigSetovh m s)

/-- The word `-> ctl.t.watch` (04 R138). -/
def execCtlWatch (m : Arg) (s : State) : Host.Outcome State Fault Refusal :=
  .next (issueOne (.ctl .watch) trigWatch m s)

/-- The word `-> ctl.t.unwatch` (04 R138). -/
def execCtlUnwatch (m : Arg) (s : State) : Host.Outcome State Fault Refusal :=
  .next (issueOne (.ctl .unwatch) trigUnwatch m s)

/-- The word `-> ctl.t.brk` (04 R138). -/
def execCtlBrk (m : Arg) (s : State) : Host.Outcome State Fault Refusal :=
  .next (issueOne (.ctl .brk) trigBrk m s)

end Sys2Proof.Machine
end

