-- ==== Sys2Proof/Machine/GangPost.lean ====
section
/-! DEFINITION. The post of a gang switch by `sq.t.gang` (10 R387, R389). -/

namespace Sys2Proof.Machine

/-- CMASK of a partition (10 R357). -/
def Partition.cmask (p : Partition) : BitVec 128 := p.pblock.extractLsb' 0 128

/-- A switch is refused: the incoming partition covers other clusters, or a switch is in progress (10 R387; log 42). -/
def State.gangRefused (s : State) (t : Word) : Bool :=
  s.gang.isSome || (t.getLsbD 8 && (s.part (t.extractLsb' 0 4)).cmask != (s.part (t.extractLsb' 4 4)).cmask)

/-- The switch that a trigger value and TG describe (10 R387). -/
def gangOf (t o : Word) : Gang :=
  ⟨t.extractLsb' 0 4, t.extractLsb' 4 4, t.getLsbD 8, fieldN t.toNat 16 8, o, .posted, [], []⟩

/-- gang: GSTAT is delivered as the post leaves it (10 R387, R389). -/
def sqGang (s : State) (x : Trig) : State :=
  let f := x.flight s (sqCycles x)
  if s.gangRefused x.t then sqDone f ((s.gstat &&& ~~~0xFF#64) ||| 5#64) s
  else
    let s : State := { s with gang := some (gangOf x.t x.o), gstat := (s.gstat &&& ~~~0x1FF#64) ||| 0x100#64 }
    sqDone f s.gstat s

/-- gang (10 R387). -/
def trigSqGang : Trigger where
  check := sqErr .gang
  perform := sqGang
  detached _ _ := true

/-- The word `-> sq.t.gang` (10 R387). -/
def execSqGang (m : Arg) (s : State) : Host.Outcome State Fault Refusal :=
  .next (issueOne (.sq .gang) trigSqGang m s)

end Sys2Proof.Machine
end

