-- ==== Sys2Proof/Machine/Integer.lean ====
section
/-! DEFINITION. The integer units and the multiplier/divider (04 R144, R145). -/

namespace Sys2Proof.Machine

/-! ### The integer units (04 R144) -/

/-- The number of zero bits above the highest set bit; 64 for 0 (04 R144). -/
def clz64 (t : Word) : Nat := ((List.range 64).find? (fun i => t.getLsbD (63 - i))).getD 64

/-- The number of zero bits below the lowest set bit; 64 for 0 (04 R144). -/
def ctz64 (t : Word) : Nat := ((List.range 64).find? (fun i => t.getLsbD i)).getD 64

/-- The number of set bits (04 R144). -/
def popc64 (t : Word) : Nat := ((List.range 64).filter (fun i => t.getLsbD i)).length

/-- The eight bytes in reverse order (04 R144). -/
def bswap64 (t : Word) : Word := imageOf 64 (imageBytes t).reverse

/-- A signed value clamped to 64 bits (04 R144). -/
def clamp64 (x : Int) : Word := BitVec.ofInt 64 (max (-(2 ^ 63)) (min x (2 ^ 63 - 1)))

/-- 1 or 0 (04 R144). -/
def flag (b : Bool) : Word := if b then 1 else 0

/-- The result of an integer operation from the latch `o` and the trigger value `t` (04 R144). -/
def iaResult (op : IaOp) (o t : Word) : Word :=
  let n := fieldN t.toNat 0 6
  let w := fieldN o.toNat 0 7
  match op with
  | .add => o + t
  | .sub => o - t
  | .and => o &&& t
  | .or => o ||| t
  | .xor => o ^^^ t
  | .andn => o &&& ~~~t
  | .shl => o <<< n
  | .shr => o >>> n
  | .sar => o.sshiftRight n
  | .rol => o.rotateLeft n
  | .min => if o.slt t then o else t
  | .max => if o.slt t then t else o
  | .minu => if o.ult t then o else t
  | .maxu => if o.ult t then t else o
  | .eq => flag (o == t)
  | .ne => flag (o != t)
  | .lt => flag (o.slt t)
  | .ltu => flag (o.ult t)
  | .le => flag (o.sle t)
  | .leu => flag (o.ule t)
  | .sext => if w = 0 then 0 else if 64 ≤ w then t else signExt w t.toNat
  | .zext => if w = 0 then 0 else if 64 ≤ w then t else BitVec.ofNat 64 (t.toNat % 2 ^ w)
  | .clz => BitVec.ofNat 64 (clz64 t)
  | .ctz => BitVec.ofNat 64 (ctz64 t)
  | .popc => BitVec.ofNat 64 (popc64 t)
  | .bswap => bswap64 t
  | .adds => clamp64 (o.toInt + t.toInt)
  | .subs => clamp64 (o.toInt - t.toInt)
  | .bfx => BitVec.ofNat 64 (fieldN o.toNat n (fieldN t.toNat 6 7))
  | .pass => t

/-- An integer operation: `iaN.r` after one cycle (04 R144). -/
def trigIa (op : IaOp) : Trigger where
  perform s x := x.start 1 false (.port (4 * x.op.unit + 2) (iaResult op x.o x.t)) s

/-! ### The multiplier/divider (04 R145) -/

/-- A 128-bit value as its low and high words. -/
def splitWide (x : Int) : Word × Word :=
  let b := BitVec.ofInt 128 x
  (b.extractLsb' 0 64, b.extractLsb' 64 64)

/-- Signed quotient and remainder, truncated toward zero, with the two corners the spec defines (04 R145). -/
def divSigned (o t : Word) : Word × Word :=
  if t = 0 then (BitVec.allOnes 64, o)
  else (BitVec.ofInt 64 (o.toInt.tdiv t.toInt), BitVec.ofInt 64 (o.toInt.tmod t.toInt))

/-- Unsigned quotient and remainder (04 R145). -/
def divUnsigned (o t : Word) : Word × Word :=
  if t = 0 then (BitVec.allOnes 64, o) else (o / t, o % t)

/-- The pair (`im.r`, `im.h`) of an operation (04 R145). -/
def imResult (op : ImOp) (o p t : Word) : Word × Word :=
  match op with
  | .mul => splitWide (o.toInt * t.toInt)
  | .mulh => (splitWide (o.toInt * t.toInt)).swap
  | .mulhu => (splitWide (o.toNat * t.toNat)).swap
  | .mad => splitWide (o.toInt * t.toInt + p.toInt)
  | .div => divSigned o t
  | .divu => divUnsigned o t
  | .rem => (divSigned o t).swap
  | .remu => (divUnsigned o t).swap

/-- The divider operations, which are not pipelined (04 R145). -/
def ImOp.slow : ImOp → Bool
  | .div | .divu | .rem | .remu => true
  | _ => false

/-- A multiplier or divider operation: `im.r` and `im.h` together (04 R145). -/
def trigIm (op : ImOp) : Trigger where
  perform s x :=
    let r := imResult op x.o x.p x.t
    x.start (if ImOp.slow op then 20 else 3) (ImOp.slow op) (.product r.1 r.2) s

/-! ### Meanings: the word whose one move triggers the operation (02 R85) -/

/-- The word `-> iaN.t.add` (04 R144). -/
def execIaAdd (u : BitVec 1) (m : Arg) (s : State) : Host.Outcome State Fault Refusal :=
  .next (issueOne (.ia u .add) (trigIa .add) m s)

/-- The word `-> iaN.t.sub` (04 R144). -/
def execIaSub (u : BitVec 1) (m : Arg) (s : State) : Host.Outcome State Fault Refusal :=
  .next (issueOne (.ia u .sub) (trigIa .sub) m s)

/-- The word `-> iaN.t.and` (04 R144). -/
def execIaAnd (u : BitVec 1) (m : Arg) (s : State) : Host.Outcome State Fault Refusal :=
  .next (issueOne (.ia u .and) (trigIa .and) m s)

/-- The word `-> iaN.t.or` (04 R144). -/
def execIaOr (u : BitVec 1) (m : Arg) (s : State) : Host.Outcome State Fault Refusal :=
  .next (issueOne (.ia u .or) (trigIa .or) m s)

/-- The word `-> iaN.t.xor` (04 R144). -/
def execIaXor (u : BitVec 1) (m : Arg) (s : State) : Host.Outcome State Fault Refusal :=
  .next (issueOne (.ia u .xor) (trigIa .xor) m s)

/-- The word `-> iaN.t.andn` (04 R144). -/
def execIaAndn (u : BitVec 1) (m : Arg) (s : State) : Host.Outcome State Fault Refusal :=
  .next (issueOne (.ia u .andn) (trigIa .andn) m s)

/-- The word `-> iaN.t.shl` (04 R144). -/
def execIaShl (u : BitVec 1) (m : Arg) (s : State) : Host.Outcome State Fault Refusal :=
  .next (issueOne (.ia u .shl) (trigIa .shl) m s)

/-- The word `-> iaN.t.shr` (04 R144). -/
def execIaShr (u : BitVec 1) (m : Arg) (s : State) : Host.Outcome State Fault Refusal :=
  .next (issueOne (.ia u .shr) (trigIa .shr) m s)

/-- The word `-> iaN.t.sar` (04 R144). -/
def execIaSar (u : BitVec 1) (m : Arg) (s : State) : Host.Outcome State Fault Refusal :=
  .next (issueOne (.ia u .sar) (trigIa .sar) m s)

/-- The word `-> iaN.t.rol` (04 R144). -/
def execIaRol (u : BitVec 1) (m : Arg) (s : State) : Host.Outcome State Fault Refusal :=
  .next (issueOne (.ia u .rol) (trigIa .rol) m s)

/-- The word `-> iaN.t.min` (04 R144). -/
def execIaMin (u : BitVec 1) (m : Arg) (s : State) : Host.Outcome State Fault Refusal :=
  .next (issueOne (.ia u .min) (trigIa .min) m s)

/-- The word `-> iaN.t.max` (04 R144). -/
def execIaMax (u : BitVec 1) (m : Arg) (s : State) : Host.Outcome State Fault Refusal :=
  .next (issueOne (.ia u .max) (trigIa .max) m s)

/-- The word `-> iaN.t.minu` (04 R144). -/
def execIaMinu (u : BitVec 1) (m : Arg) (s : State) : Host.Outcome State Fault Refusal :=
  .next (issueOne (.ia u .minu) (trigIa .minu) m s)

/-- The word `-> iaN.t.maxu` (04 R144). -/
def execIaMaxu (u : BitVec 1) (m : Arg) (s : State) : Host.Outcome State Fault Refusal :=
  .next (issueOne (.ia u .maxu) (trigIa .maxu) m s)

/-- The word `-> iaN.t.eq` (04 R144). -/
def execIaEq (u : BitVec 1) (m : Arg) (s : State) : Host.Outcome State Fault Refusal :=
  .next (issueOne (.ia u .eq) (trigIa .eq) m s)

/-- The word `-> iaN.t.ne` (04 R144). -/
def execIaNe (u : BitVec 1) (m : Arg) (s : State) : Host.Outcome State Fault Refusal :=
  .next (issueOne (.ia u .ne) (trigIa .ne) m s)

/-- The word `-> iaN.t.lt` (04 R144). -/
def execIaLt (u : BitVec 1) (m : Arg) (s : State) : Host.Outcome State Fault Refusal :=
  .next (issueOne (.ia u .lt) (trigIa .lt) m s)

/-- The word `-> iaN.t.ltu` (04 R144). -/
def execIaLtu (u : BitVec 1) (m : Arg) (s : State) : Host.Outcome State Fault Refusal :=
  .next (issueOne (.ia u .ltu) (trigIa .ltu) m s)

/-- The word `-> iaN.t.le` (04 R144). -/
def execIaLe (u : BitVec 1) (m : Arg) (s : State) : Host.Outcome State Fault Refusal :=
  .next (issueOne (.ia u .le) (trigIa .le) m s)

/-- The word `-> iaN.t.leu` (04 R144). -/
def execIaLeu (u : BitVec 1) (m : Arg) (s : State) : Host.Outcome State Fault Refusal :=
  .next (issueOne (.ia u .leu) (trigIa .leu) m s)

/-- The word `-> iaN.t.sext` (04 R144). -/
def execIaSext (u : BitVec 1) (m : Arg) (s : State) : Host.Outcome State Fault Refusal :=
  .next (issueOne (.ia u .sext) (trigIa .sext) m s)

/-- The word `-> iaN.t.zext` (04 R144). -/
def execIaZext (u : BitVec 1) (m : Arg) (s : State) : Host.Outcome State Fault Refusal :=
  .next (issueOne (.ia u .zext) (trigIa .zext) m s)

/-- The word `-> iaN.t.clz` (04 R144). -/
def execIaClz (u : BitVec 1) (m : Arg) (s : State) : Host.Outcome State Fault Refusal :=
  .next (issueOne (.ia u .clz) (trigIa .clz) m s)

/-- The word `-> iaN.t.ctz` (04 R144). -/
def execIaCtz (u : BitVec 1) (m : Arg) (s : State) : Host.Outcome State Fault Refusal :=
  .next (issueOne (.ia u .ctz) (trigIa .ctz) m s)

/-- The word `-> iaN.t.popc` (04 R144). -/
def execIaPopc (u : BitVec 1) (m : Arg) (s : State) : Host.Outcome State Fault Refusal :=
  .next (issueOne (.ia u .popc) (trigIa .popc) m s)

/-- The word `-> iaN.t.bswap` (04 R144). -/
def execIaBswap (u : BitVec 1) (m : Arg) (s : State) : Host.Outcome State Fault Refusal :=
  .next (issueOne (.ia u .bswap) (trigIa .bswap) m s)

/-- The word `-> iaN.t.adds` (04 R144). -/
def execIaAdds (u : BitVec 1) (m : Arg) (s : State) : Host.Outcome State Fault Refusal :=
  .next (issueOne (.ia u .adds) (trigIa .adds) m s)

/-- The word `-> iaN.t.subs` (04 R144). -/
def execIaSubs (u : BitVec 1) (m : Arg) (s : State) : Host.Outcome State Fault Refusal :=
  .next (issueOne (.ia u .subs) (trigIa .subs) m s)

/-- The word `-> iaN.t.bfx` (04 R144). -/
def execIaBfx (u : BitVec 1) (m : Arg) (s : State) : Host.Outcome State Fault Refusal :=
  .next (issueOne (.ia u .bfx) (trigIa .bfx) m s)

/-- The word `-> iaN.t.pass` (04 R144). -/
def execIaPass (u : BitVec 1) (m : Arg) (s : State) : Host.Outcome State Fault Refusal :=
  .next (issueOne (.ia u .pass) (trigIa .pass) m s)

/-- The word `-> im.t.mul` (04 R145). -/
def execImMul (m : Arg) (s : State) : Host.Outcome State Fault Refusal :=
  .next (issueOne (.im .mul) (trigIm .mul) m s)

/-- The word `-> im.t.mulh` (04 R145). -/
def execImMulh (m : Arg) (s : State) : Host.Outcome State Fault Refusal :=
  .next (issueOne (.im .mulh) (trigIm .mulh) m s)

/-- The word `-> im.t.mulhu` (04 R145). -/
def execImMulhu (m : Arg) (s : State) : Host.Outcome State Fault Refusal :=
  .next (issueOne (.im .mulhu) (trigIm .mulhu) m s)

/-- The word `-> im.t.mad` (04 R145). -/
def execImMad (m : Arg) (s : State) : Host.Outcome State Fault Refusal :=
  .next (issueOne (.im .mad) (trigIm .mad) m s)

/-- The word `-> im.t.div` (04 R145). -/
def execImDiv (m : Arg) (s : State) : Host.Outcome State Fault Refusal :=
  .next (issueOne (.im .div) (trigIm .div) m s)

/-- The word `-> im.t.divu` (04 R145). -/
def execImDivu (m : Arg) (s : State) : Host.Outcome State Fault Refusal :=
  .next (issueOne (.im .divu) (trigIm .divu) m s)

/-- The word `-> im.t.rem` (04 R145). -/
def execImRem (m : Arg) (s : State) : Host.Outcome State Fault Refusal :=
  .next (issueOne (.im .rem) (trigIm .rem) m s)

/-- The word `-> im.t.remu` (04 R145). -/
def execImRemu (m : Arg) (s : State) : Host.Outcome State Fault Refusal :=
  .next (issueOne (.im .remu) (trigIm .remu) m s)

end Sys2Proof.Machine
end

