-- ==== Sys2Proof/Machine/ScalarFloat.lean ====
section
/-! DEFINITION. The scalar float unit (06 R204 to R206). -/

namespace Sys2Proof.Machine

/-- FP32 to an integer: bit 0 of o selects INT64 (06 R206). -/
def fcvti (mode : BitVec 3) (o : Word) (t : Nat) : Word × Flags :=
  let r := roundInt (if o.getLsbD 0 then 64 else 32) (decodeFp32 t) mode
  (BitVec.ofInt 64 r.1, r.2)

/-- An integer to FP32: bit 0 of o selects INT64 (06 R206). -/
def fcvtf (mode : BitVec 3) (o t : Word) : Rounded :=
  roundFp32 (Num.ofInt (if o.getLsbD 0 then t.toInt else (t.extractLsb' 0 32).toInt)) mode

/-- The value and flags of a scalar operation (06 R205). -/
def fsResult (op : FsOp) (mode : BitVec 3) (o p t : Word) : Word × Flags :=
  let a := fieldN o.toNat 0 32
  let b := fieldN t.toNat 0 32
  let fp (r : Rounded) : Word × Flags := (BitVec.ofNat 64 r.bits, r.flags)
  match op with
  | .fadd => fp (fpAdd mode a b)
  | .fsub => fp (fpSub mode a b)
  | .fmul => fp (fpMul mode a b)
  | .fma => fp (fpFma mode a b (fieldN p.toNat 0 32))
  | .fmin => fp (fpMin a b)
  | .fmax => fp (fpMax a b)
  | .fdiv => fp (fpDiv mode a b)
  | .fsqrt => fp (fpSqrt mode b)
  | .feq => fp (fpEq a b)
  | .flt => fp (fpLt a b)
  | .fle => fp (fpLe a b)
  | .fcvti => fcvti mode o b
  | .fcvtf => fp (fcvtf mode o t)
  | .fclass => (BitVec.ofNat 64 (fpClass b), 0)
  | .fexp2 => fp (fpExp2 mode b)
  | .flog2 => fp (fpLog2 mode b)
  | .frcp => fp (fpRcp mode b)
  | .frsq => fp (fpRsq mode b)
  | .fsigm => fp (fpSigm mode b)

/-- The latency of a scalar operation (06 R205). -/
def fsLatency : FsOp → Nat
  | .fdiv | .fsqrt => 12
  | .fexp2 | .flog2 | .frcp | .frsq | .fsigm => 8
  | _ => 4

/-- The operations that are not pipelined (06 R204). -/
def fsSlow : FsOp → Bool
  | .fdiv | .fsqrt => true
  | _ => false

/-- A scalar operation: `fs.r` and its flags, after its latency (06 R205). -/
def trigFs (op : FsOp) : Trigger where
  perform s x :=
    let r := fsResult op x.mode x.o x.p x.t
    x.start (fsLatency op) (fsSlow op) (.scalar r.1 r.2) s

/-! ### Meanings: the word whose one move triggers the operation (02 R85) -/

/-- The word `-> fs.t.fadd` (06 R205). -/
def execFsFadd (m : Arg) (s : State) : Host.Outcome State Fault Refusal :=
  .next (issueOne (.fs .fadd) (trigFs .fadd) m s)

/-- The word `-> fs.t.fsub` (06 R205). -/
def execFsFsub (m : Arg) (s : State) : Host.Outcome State Fault Refusal :=
  .next (issueOne (.fs .fsub) (trigFs .fsub) m s)

/-- The word `-> fs.t.fmul` (06 R205). -/
def execFsFmul (m : Arg) (s : State) : Host.Outcome State Fault Refusal :=
  .next (issueOne (.fs .fmul) (trigFs .fmul) m s)

/-- The word `-> fs.t.fma` (06 R205). -/
def execFsFma (m : Arg) (s : State) : Host.Outcome State Fault Refusal :=
  .next (issueOne (.fs .fma) (trigFs .fma) m s)

/-- The word `-> fs.t.fmin` (06 R205). -/
def execFsFmin (m : Arg) (s : State) : Host.Outcome State Fault Refusal :=
  .next (issueOne (.fs .fmin) (trigFs .fmin) m s)

/-- The word `-> fs.t.fmax` (06 R205). -/
def execFsFmax (m : Arg) (s : State) : Host.Outcome State Fault Refusal :=
  .next (issueOne (.fs .fmax) (trigFs .fmax) m s)

/-- The word `-> fs.t.fdiv` (06 R205). -/
def execFsFdiv (m : Arg) (s : State) : Host.Outcome State Fault Refusal :=
  .next (issueOne (.fs .fdiv) (trigFs .fdiv) m s)

/-- The word `-> fs.t.fsqrt` (06 R205). -/
def execFsFsqrt (m : Arg) (s : State) : Host.Outcome State Fault Refusal :=
  .next (issueOne (.fs .fsqrt) (trigFs .fsqrt) m s)

/-- The word `-> fs.t.feq` (06 R205). -/
def execFsFeq (m : Arg) (s : State) : Host.Outcome State Fault Refusal :=
  .next (issueOne (.fs .feq) (trigFs .feq) m s)

/-- The word `-> fs.t.flt` (06 R205). -/
def execFsFlt (m : Arg) (s : State) : Host.Outcome State Fault Refusal :=
  .next (issueOne (.fs .flt) (trigFs .flt) m s)

/-- The word `-> fs.t.fle` (06 R205). -/
def execFsFle (m : Arg) (s : State) : Host.Outcome State Fault Refusal :=
  .next (issueOne (.fs .fle) (trigFs .fle) m s)

/-- The word `-> fs.t.fcvti` (06 R205). -/
def execFsFcvti (m : Arg) (s : State) : Host.Outcome State Fault Refusal :=
  .next (issueOne (.fs .fcvti) (trigFs .fcvti) m s)

/-- The word `-> fs.t.fcvtf` (06 R205). -/
def execFsFcvtf (m : Arg) (s : State) : Host.Outcome State Fault Refusal :=
  .next (issueOne (.fs .fcvtf) (trigFs .fcvtf) m s)

/-- The word `-> fs.t.fclass` (06 R205). -/
def execFsFclass (m : Arg) (s : State) : Host.Outcome State Fault Refusal :=
  .next (issueOne (.fs .fclass) (trigFs .fclass) m s)

/-- The word `-> fs.t.fexp2` (06 R205). -/
def execFsFexp2 (m : Arg) (s : State) : Host.Outcome State Fault Refusal :=
  .next (issueOne (.fs .fexp2) (trigFs .fexp2) m s)

/-- The word `-> fs.t.flog2` (06 R205). -/
def execFsFlog2 (m : Arg) (s : State) : Host.Outcome State Fault Refusal :=
  .next (issueOne (.fs .flog2) (trigFs .flog2) m s)

/-- The word `-> fs.t.frcp` (06 R205). -/
def execFsFrcp (m : Arg) (s : State) : Host.Outcome State Fault Refusal :=
  .next (issueOne (.fs .frcp) (trigFs .frcp) m s)

/-- The word `-> fs.t.frsq` (06 R205). -/
def execFsFrsq (m : Arg) (s : State) : Host.Outcome State Fault Refusal :=
  .next (issueOne (.fs .frsq) (trigFs .frsq) m s)

/-- The word `-> fs.t.fsigm` (06 R205). -/
def execFsFsigm (m : Arg) (s : State) : Host.Outcome State Fault Refusal :=
  .next (issueOne (.fs .fsigm) (trigFs .fsigm) m s)

end Sys2Proof.Machine
end

