-- ==== Sys2Proof/Machine/TimeUnit.lean ====
section
/-! DEFINITION. The `tm` unit (10 R382 to R384): moves armed for a device time. -/

namespace Sys2Proof.Machine

/-- The move that `tm.o` holds (10 R382). -/
def tmMove (x : Trig) : Move := Move.ofBits (x.o.extractLsb' 0 30)

/-- A move alone in a 32-bit word (10 R382). -/
def Move.alone (m : Move) : IssueWord := (SWord.one m).issue

/-- A move that may not be armed: it triggers a transfer or the time unit (10 R382). -/
def Slot.untimed (m : Slot) : Bool :=
  match m.tgt.op? with
  | some (.tm _) => true
  | some op => op.transfers
  | none => false

/-- The checks of at (10 R382). -/
def tmAtErr (_ : State) (x : Trig) : Option Err :=
  let w := Move.alone (tmMove x)
  firstErr [
    require (x.o.extractLsb' 30 34 == 0) ⟨0x12, x.o, 0⟩,
    (wordErr w false).map (fun e => ⟨e.2, 0, 0⟩),
    require (!w.moves.any Slot.untimed) ⟨0x01, 0, 0⟩]

/-- The lowest slot that is not armed. -/
def Core.freeSlot (c : Core) : Option Nat := (List.range 8).find? (fun i => !((c.timed[i]?).getD {}).armed)

/-- A value for the result port of the unit, one cycle after the trigger (10 R382). -/
def tmResult (x : Trig) (n : Nat) (s : State) : State :=
  x.start 1 false (.port (4 * x.op.unit + 2) (BitVec.ofNat 64 n)) s

/-- at (10 R382): the lowest free slot is armed; 8 when none is free. -/
def tmAt (s : State) (x : Trig) : State :=
  match (s.core x.c).freeSlot with
  | some i => tmResult x i (s.onCore x.c (fun c =>
      { c with timed := c.timed.setIfInBounds i ⟨x.t, x.o.extractLsb' 0 30, true⟩ }))
  | none => tmResult x 8 s

/-- The slots that cancel names. -/
def cancelSlots (t : Word) : List Nat := if t.getLsbD 8 then List.range 8 else [fieldN t.toNat 0 3]

/-- cancel (10 R382): the slots named are disarmed, and those that were armed are counted. -/
def tmCancel (s : State) (x : Trig) : State :=
  let c := s.core x.c
  let armed := (cancelSlots x.t).filter (fun i => ((c.timed[i]?).getD {}).armed)
  tmResult x armed.length (s.onCore x.c (fun c =>
    { c with timed := armed.foldl (fun t i => t.setIfInBounds i {}) c.timed }))

/-- at. -/
def trigTmAt : Trigger where
  check := tmAtErr
  perform := tmAt

/-- cancel. -/
def trigTmCancel : Trigger where
  perform := tmCancel

/-- The word `-> tm.t.at` (10 R382). -/
def execTmAt (m : Arg) (s : State) : Host.Outcome State Fault Refusal := .next (issueOne (.tm .arm) trigTmAt m s)

/-- The word `-> tm.t.cancel` (10 R382). -/
def execTmCancel (m : Arg) (s : State) : Host.Outcome State Fault Refusal :=
  .next (issueOne (.tm .cancel) trigTmCancel m s)

end Sys2Proof.Machine
end

