-- ==== Sys2Proof/Machine/TraceUnit.lean ====
section
/-! DEFINITION. The `tr` unit (11 R416 to R429): relaunches with their snapshot point, marks, and the slots and header of a
trace. -/

namespace Sys2Proof.Machine

/-! ### Checks at issue (11 R422) -/

/-- The bits of t that an operation names. -/
def trTBits : TrOp → Word
  | .relaunch => 0xFFFFFFFC00FF0000
  | .mark => 0xFFFFFFFFFF
  | .slot => 0xF
  | .unslot => 0x1F
  | .info => 0x1F

/-- The bits of `tr.o` that an operation names. -/
def trOBits : TrOp → Word
  | .relaunch => 0x3FFFFFFFFFFFFFF
  | .mark => 0x1FFFFFFFFFF
  | _ => 0

/-- Offset and length of mark. -/
def markRange (t o : Word) : Nat × Nat := (fieldN t.toNat 0 40, fieldN o.toNat 0 41)

/-- The fields of check 1 that must hold more than zeros (11 R422). -/
def trFieldsOk (op : TrOp) (t o : Word) : Bool :=
  match op with
  | .mark => (markRange t o).2 != 0
  | .unslot => !(t.getLsbD 4 && fieldN t.toNat 0 4 != 0)
  | _ => true

/-- The rights that `tr.k` needs. -/
def trNeeds : TrOp → BitVec 6
  | .mark => rightW
  | _ => rightR ||| rightW

/-- The registers that a relaunch takes capabilities from, in ascending order. -/
def trRegs (op : TrOp) (t : Word) : List (BitVec 5) :=
  match op with
  | .relaunch => sqMask t
  | _ => []

/-- The checks on the capability in `tr.k` (11 R422 checks 3 to 5). -/
def trCapErr (op : TrOp) (x : Trig) (cap : Cap) (d : Desc) : Option Err :=
  let need := trNeeds op
  let wrong : Err := ⟨0x11, kNum x.k, need.setWidth 64⟩
  let (off, n) := markRange x.t x.o
  match op with
  | .mark => firstErr [
      require (cap.has rightW) wrong,
      require (decide (off + n ≤ d.len)) ⟨0x12, x.t, kNum x.k⟩,
      require (off % 32 == 0 && n % 32 == 0) ⟨0x13, if off % 32 = 0 then x.o else x.t, kNum x.k⟩]
  | .relaunch => firstErr [
      require (cap.kind == .whole && d.cls == 2 && cap.has need) wrong,
      require ((trRegs op x.t).contains x.k) { wrong with detail2 := wrong.detail2 ||| 0x80 }]
  | _ => require (cap.kind == .whole && d.cls == 2 && cap.has need) wrong

/-- The checks at issue, in order (11 R422). -/
def trErr (op : TrOp) (s : State) (x : Trig) : Option Err :=
  if !(x.t &&& ~~~trTBits op == 0 && x.o &&& ~~~trOBits op == 0 && trFieldsOk op x.t x.o) then some ⟨0x12, x.t, 0⟩
  else match (x.at_.rk x.k).cap?.bind (fun c => (s.descOf c).map (fun d => (c, d))) with
    | none => some ⟨0x10, kNum x.k, (trNeeds op).setWidth 64⟩
    | some (cap, d) => firstErr [
        ((trRegs op x.t).find? (fun k => (x.at_.rk k).cap?.isNone)).map (fun k => ⟨0x10, kNum k, 0⟩),
        trCapErr op x cap d]

/-! ### The trace that a buffer holds (11 R401, R404) -/

/-- The trace of a buffer: as a launch has prepared it, or the buffer's own bytes when none has since it was made. -/
def State.traceIn (s : State) (part : BitVec 4) (i : Nat) (d : Desc) : TraceMap :=
  match tabFind i (s.part part).traces with
  | some m => if m.base = d.base.toNat ∧ m.len = d.len then m else s.traceMapOf part d
  | none => s.traceMapOf part d

/-- The router of a trace's home slice (11 R415). -/
def TraceMap.home (m : TraceMap) : Nat :=
  let pa := (m.pa 0).getD 0
  16 * hbmDie pa + fieldN pa 10 4

/-- Hops from an agent to the home slices of the traces of a buffer, the farthest. -/
def State.markHops (s : State) (a : Nat) (part : BitVec 4) (d : Desc) : Nat :=
  (d.traces.filterMap (fun t => (s.trace? part t.1).map (fun m => routeHops (agentCluster a) m.home))).foldl max 0

/-- The least cycles of an operation (11 R427). -/
def State.trCycles (s : State) (op : TrOp) (x : Trig) (cap : Cap) (d : Desc) : Nat :=
  let hops := match op with
    | .mark => s.markHops x.c cap.part d
    | _ => routeHops (agentCluster x.c) (s.traceIn cap.part cap.desc.toNat d).home
  8 * hops + (match op with
    | .info => 20
    | .mark => 24
    | .slot | .unslot => 40
    | .relaunch => 96)

/-! ### Triggers (11 R421, R422) -/

/-- The supplied capabilities of a relaunch are kept in a capability set until the snapshot point; with no set free they
are orphans, and the relaunch is refused (11 R417; 08 R486). -/
def trHold (s : State) (part : BitVec 4) (slots : List (Option Cap)) : State × Nat :=
  match s.freeSets part 1 with
  | i :: _ =>
    let s := s.onPart part (fun p => { p with sets := tabPut i (slotVector slots) p.sets })
    ((slots.filterMap id).foldl (fun s c => s.setOwner c (ownerSet i)) s, i)
  | [] => ((slots.filterMap id).foldl (fun s c => s.orphan part c) s, noSet)

/-- The named registers become empty in the cycle of the trigger (11 R422). -/
def trTake (op : TrOp) (x : Trig) (s : State) : State :=
  (trRegs op x.t).foldl (fun s k => match (x.at_.rk k).cap? with
    | some c => (s.setAgentK x.c k .empty).windowAway c
    | none => s) s

/-- What a `tr` trigger does: the operation sets out for the home slice, a relaunch with its supplied set (11 R421). -/
def trPerform (op : TrOp) (s : State) (x : Trig) : State :=
  match (x.at_.rk x.k).cap?.bind (fun c => (s.descOf c).map (fun d => (c, d))) with
  | none => s
  | some (cap, d) =>
    let f := (x.flight s (s.trCycles op x cap d)).withCap x.k (some cap)
    match op with
    | .relaunch =>
      let slots := (trRegs op x.t).map (fun k => (x.at_.rk k).cap?)
      let (s, i) := trHold (trTake op x s) f.res.part slots
      s.launch { f with pos := i }
    | _ => s.launch f

/-- A `tr` trigger: every one is detached (11 R421). -/
def trigTr (op : TrOp) : Trigger where
  check := trErr op
  perform s x := x.throughSluice 0 (trPerform op · x) s
  detached _ _ := true

/-! ### Operations at the home slice (11 R423 to R426) -/

/-- Slot s is tried again (11 R423). -/
def State.trSlot (s : State) (part : BitVec 4) (index : BitVec 26) (m : TraceMap) (i : Nat) : State × Nat :=
  if s.hdr m (slotV i) = 0 ∨ s.hdr m hdrLive = 0 ∨ s.hdr m hdrBusy = 1 then (s, 5)
  else if s.hdr m (slotDeg i) = 0 then (s, 7)
  else
    let s' := s.attachSlot part index m i
    if s'.hdr m (slotDeg i) = 0 then (s'.setHdr m (slotAlld i) 1, 0) else (s, 6)

/-- Watch slots are given up (11 R424). -/
def State.trUnslot (s : State) (part : BitVec 4) (m : TraceMap) (i : Nat) (all : Bool) : State × Nat :=
  if s.hdr m hdrLive = 0 ∨ s.hdr m hdrBusy = 1 then (s, 5)
  else if all then (s.detachTrace part m, 0)
  else if s.hdr m (slotV i) = 0 ∨ s.hdr m (slotDeg i) = 1 then (s, 7)
  else
    let s := s.onDesc part (s.hdr m (slotBuf i)) (fun d =>
      { d with watch := d.watch.setIfInBounds (s.hdr m (slotWslot i)) 0 })
    (s.setHdr m (slotDeg i) 1, 0)

/-- An operation other than relaunch is performed at its home slice (11 R423 to R426). -/
def State.trServe (s : State) (f : Flight) (op : TrOp) : State :=
  match f.ca.bind (fun c => (s.descOf c).map (fun d => (c, d))) with
  | none => s.ready f.agent f.seq (some 5)
  | some (cap, d) =>
    let m := s.traceIn cap.part cap.desc.toNat d
    let index := BitVec.ofNat 26 cap.desc.toNat
    let done (r : State × Nat) : State := r.1.ready f.agent f.seq (some (BitVec.ofNat 64 r.2))
    match op with
    | .mark =>
      let (off, n) := markRange f.t f.o
      (s.markWrite cap.part cap.desc off n none f.agent (some f.seq)).ready f.agent f.seq none
    | .slot => done (s.trSlot cap.part index m (fieldN f.t.toNat 0 4))
    | .unslot => done (s.trUnslot cap.part m (fieldN f.t.toNat 0 4) (f.t.getLsbD 4))
    | .info => done (s, s.traceField m (64 * fieldN f.t.toNat 0 5) 64)
    | .relaunch => s

/-- The writes of an operation's core by its Local path that precede it have been performed, and every mark of the core
has been applied (11 R415). -/
def State.trMayServe (s : State) (f : Flight) : Bool :=
  !s.marksOf f.agent && !(isCompute f.agent && (s.core f.agent).stores.any (fun x => decide (x.order < f.order)))

/-! ### Relaunch (11 R416 to R420) -/

/-- A relaunch: its partition, the trace buffer's capability, the capability set that holds its supplied capabilities,
the queue, the future and the successors. -/
structure Relaunch where
  part : BitVec 4
  cap : Cap
  set : Nat
  queue : Nat
  fut : Option Nat
  succ : List Nat

/-- The supplied capabilities of a relaunch, by slot. -/
def State.relaunchSlots (s : State) (r : Relaunch) : List (Option Cap) :=
  match tabFind r.set (s.part r.part).sets with
  | some v => v.toList.map KReg.cap?
  | none => []

/-- A supplied capability of a used slot names the recorded buffer, with the recorded number of tiles (11 R417). -/
def State.slotMatches (s : State) (part : BitVec 4) (m : TraceMap) (slots : List (Option Cap)) (u : Nat × Nat × Nat) : Bool :=
  match s.supplied slots u.2.1 with
  | some (c, d) => c.part == part && c.desc.toNat == s.hdr m (slotBuf u.1) &&
      tilesOf d.len (s.hdr m (slotTsz u.1)) == s.hdr m (slotNt u.1)
  | none => false

/-- The reason with which a relaunch is refused; 0 when it is not (11 R417, R420; 13 R481). A supplied set that the
template's capability entries do not accept matches neither. -/
def State.relaunchReason (s : State) (r : Relaunch) (m : TraceMap) : Nat :=
  let slots := s.relaunchSlots r
  if s.hdr m hdrLive = 0 ∨ !s.feature 0 then 1
  else if s.hdr m hdrStale = 1 then 2
  else match s.tmplAt r.part (s.hdr m hdrTmpl) with
    | none => 3
    | some t =>
      if s.tmplDigest t ≠ s.traceField m 0 256 then 3
      else if s.hdr m hdrBusy = 1 then 4
      else if !((s.tbUsed t).all (s.slotMatches r.part m slots)) then 5
      else if (s.supplied slots (s.tbSlot t)).map (fun p => p.1.desc) ≠ some r.cap.desc then 5
      else if !s.entriesOk t slots then 5
      else 0

/-- The bits of a slot's bitmap bank, as a number. -/
def State.dirtyBank (s : State) (m : TraceMap) (i b : Nat) : Nat :=
  leNat (s.traceBytes m (s.bitmapOff m i b) (bankBytes (s.hdr m (slotNt i))))

/-- A slot is treated as wholly dirty (11 R405, R423). -/
def State.wholeDirty (s : State) (m : TraceMap) (i : Nat) : Bool :=
  s.hdr m (slotDeg i) == 1 || s.hdr m (slotAlld i) == 1

/-- A block is selected, with the snapshot's bits of each slot (11 R417). -/
def State.blockSelected (s : State) (m : TraceMap) (d : Tab Nat) (r : Nat) : Bool :=
  s.recField m r 48 1 == 0 || s.recField m r 49 1 == 1 || (s.recRanges m r).any (fun e =>
    s.wholeDirty m e.slot || ((tabFind e.slot d).getD 0) / 2 ^ e.first % 2 ^ e.count != 0)

/-- The blocks that a relaunch selects (11 R417). -/
def State.relaunchBlocks (s : State) (m : TraceMap) : List Nat :=
  let all := List.range (s.hdr m hdrNblk)
  if s.hdr m hdrEnt = 1 then all
  else
    let d := (s.usedSlots m).map (fun i => (i, s.dirtyBank m i (s.hdr m hdrCur)))
    all.filter (s.blockSelected m d)

/-- The snapshot: the bank that marks go to changes, the other bank is cleared, and the selected blocks are open again
(11 R417). -/
def State.snapshot (s : State) (m : TraceMap) (sel : List Nat) : State :=
  let old := s.hdr m hdrCur
  let s := s.setHdr m hdrBusy 1
  let s := s.setHdr m hdrGen (s.hdr m hdrGen + 1)
  let s := s.setHdr m hdrCur (1 - old)
  let s := (s.usedSlots m).foldl (fun s i =>
    (s.setTraceBytes m (s.bitmapOff m i old) (List.replicate (bankBytes (s.hdr m (slotNt i))) 0)).setHdr m (slotAlld i) 0) s
  sel.foldl (fun s r => s.setTraceField m (8 * recordOff r + 48) 1 0) s

/-- A relaunch that is not made: its supplied set is a return set, and the code with the set's index (11 R420). -/
def State.refuseRelaunch (s : State) (r : Relaunch) (code : Nat) : State × Nat × Nat :=
  if r.set = noSet then (s, code, 0)
  else ((s.relaunchSlots r).foldl (fun s c => match c with
    | some c => s.setOwner c (ownerReturn r.set)
    | none => s) s, code, r.set)

/-- The report of a refused relaunch (11 R420). -/
def State.reportRelaunch (s : State) (src : Nat) (r : Relaunch) (launch : BitVec 32) (wid : Word) (reason : Nat) : State :=
  s.report src r.part launch wid 0x33 r.cap.desc.toNat reason

/-- The TCB of a relaunch, over the blocks selected (11 R417, R418). -/
def State.newRelaunch (s : State) (r : Relaunch) (h tmpl : Nat) (sel : List Nat) : State :=
  let s := s.putTcb r.part h
    { kind := 1, count := 0, queue := r.queue, tmpl := tmpl, cset := r.set, fut := r.fut, succ := r.succ }
  s.onPart r.part (fun p => { p with chosen := tabPut h sel p.chosen })

/-- A relaunch at its home slice: the code, the handle or the return set, and the blocks selected (11 R417 to R420). With
no block selected it finishes at once (11 R418). -/
def State.relaunch (s : State) (src : Nat) (launch : BitVec 32) (wid : Word) (r : Relaunch) :
    State × Nat × Nat × Nat :=
  let refuse (code : Nat) (s : State) : State × Nat × Nat × Nat :=
    let (s, c, i) := s.refuseRelaunch r code
    (s, c, i, 0)
  match s.bufDesc r.part r.cap.desc.toNat with
  | none => refuse 5 (s.reportRelaunch src r launch wid 1)
  | some d =>
    let m := s.traceIn r.part r.cap.desc.toNat d
    let reason := s.relaunchReason r m
    if reason ≠ 0 then refuse 5 (s.reportRelaunch src r launch wid reason)
    else if (s.queue r.queue).part ≠ r.part then refuse 4 s
    else match s.freeTcb r.part, s.tmplAt r.part (s.hdr m hdrTmpl) with
      | some h, some t =>
        let sel := s.relaunchBlocks m
        let slots := s.relaunchSlots r
        match (s.newRelaunch r h (s.hdr m hdrTmpl) sel).makeSlices r.part h t slots with
        | some s' =>
          let s := (s'.snapshot m sel).setHdr m hdrLaunch h
          (if sel.isEmpty then s.willFinish r.part h else s.enqueueTcb r.part h, 0, h, sel.length)
        | none => refuse 5 (s.reportRelaunch src r launch wid 5)
      | _, _ => refuse 2 s

/-- What an `sq`-like operand asks for: the future of bits 31:0 with its flag, and the successor of bits 56:33 with its
flag (10 R367; 11 R421). -/
def optFut (o : Word) : Option Nat := if o.getLsbD 32 then some (fieldN o.toNat 0 32) else none
/-- The successor of such an operand. -/
def optSucc (o : Word) : List Nat := if o.getLsbD 57 then [fieldN o.toNat 33 24] else []

/-- The cycles that a relaunch scans bitmaps and reads records for (11 R427). -/
def State.scanCycles (s : State) (part : BitVec 4) (cap : Cap) : Nat :=
  match s.bufDesc part cap.desc.toNat with
  | none => 0
  | some d =>
    let m := s.traceIn part cap.desc.toNat d
    (((s.usedSlots m).map (fun i => bankBytes (s.hdr m (slotNt i)))).sum * 8 + 255) / 256 + s.hdr m hdrNblk

/-- SNAPSHOT_POINT of the relaunch that an agent has in flight (11 R417): its result is NSEL with the handle, or the
return set with the code. -/
def State.snapshotOf (s : State) (f : Flight) : State :=
  match f.ca with
  | none => s
  | some cap =>
    let r : Relaunch := ⟨f.res.part, cap, f.pos, fieldN f.t.toNat 16 8, optFut f.o, optSucc f.o⟩
    let n := s.scanCycles r.part cap
    let (s, code, x, nsel) :=
      if f.pos = noSet then (s, 2, 0, 0) else s.relaunch f.agent f.res.launch f.res.wid r
    let w := if code = 0 then nsel + x * 2 ^ 32 else x + code * 2 ^ 56
    (s.onFlight f.agent f.seq (fun f => { f with earliest := f.earliest + n })).ready f.agent f.seq (some (BitVec.ofNat 64 w))

/-- The relaunch that comes to its snapshot point: that of operation `n` in flight, or the first that may. -/
def State.nextSnapshot (s : State) (n : Nat) : Option Flight :=
  let ok (f : Flight) : Bool := f.op == .tr .relaunch && f.phase == .issued && s.trMayServe f
  match s.flights[n]? with
  | some f => if ok f then some f else s.flights.find? ok
  | none => s.flights.find? ok

/-! ### Meanings -/

/-- SNAPSHOT_POINT: of the operation at place `focus.n` among those in flight (11 R417). -/
def execSnapshotPoint (s : State) : Host.Outcome State Fault Refusal :=
  match s.nextSnapshot s.focus.n with
  | some f => .next (s.snapshotOf f)
  | none => .next s

/-- The word `-> tr.t.relaunch` (11 R417). -/
def execTrRelaunch (m : Arg) (s : State) : Host.Outcome State Fault Refusal :=
  .next (issueOne (.tr .relaunch) (trigTr .relaunch) m s)

/-- The word `-> tr.t.mark` (11 R425). -/
def execTrMark (m : Arg) (s : State) : Host.Outcome State Fault Refusal :=
  .next (issueOne (.tr .mark) (trigTr .mark) m s)

/-- The word `-> tr.t.slot` (11 R423). -/
def execTrSlot (m : Arg) (s : State) : Host.Outcome State Fault Refusal :=
  .next (issueOne (.tr .slot) (trigTr .slot) m s)

/-- The word `-> tr.t.unslot` (11 R424). -/
def execTrUnslot (m : Arg) (s : State) : Host.Outcome State Fault Refusal :=
  .next (issueOne (.tr .unslot) (trigTr .unslot) m s)

/-- The word `-> tr.t.info` (11 R426). -/
def execTrInfo (m : Arg) (s : State) : Host.Outcome State Fault Refusal :=
  .next (issueOne (.tr .info) (trigTr .info) m s)

end Sys2Proof.Machine
end

