-- ==== Sys2Proof/Machine/Triggers.lean ====
section
/-! DEFINITION. The trigger of every operation, and the words that are no single trigger (02 R70 to R76, R85). -/

namespace Sys2Proof.Machine

/-- The trigger of a control operation (04 R138). -/
def ctlTrigger : CtlOp → Trigger
  | .jmp => trigJmp | .bra => trigBra | .call => trigCall | .ret => trigRet | .jtab => trigJtab | .bre => trigBre
  | .sbwait => trigSbwait | .drain => trigDrain | .yield => trigYield | .wait => trigWait | .done => trigDone
  | .trap => trigTrap | .rett => trigRett | .setrm => trigSetrm | .setxb => trigSetxb | .setovh => trigSetovh
  | .watch => trigWatch | .unwatch => trigUnwatch | .brk => trigBrk

/-- The vector operation is one of memory (06 R221). -/
def vxMemory (op : VxOp) : Bool := op == .vld || op == .vst || op == .vldx || op == .vstx

/-- The trigger of an operation (02 R99). -/
def trigger : Op → Trigger
  | .ctl o => ctlTrigger o
  | .ia _ o => trigIa o
  | .im o => trigIm o
  | .fs o => trigFs o
  | .ls o => trigLs o
  | .sw n o => trigSw n o
  | .tm .arm => trigTmAt
  | .tm .cancel => trigTmCancel
  | .wr o => trigWr o
  | .vx o => if vxMemory o then trigVxMem o else trigVx o
  | .mx o => trigMx o
  | .cap o => trigCap o
  | .cp o => trigCp o
  | .rm o => trigRm o
  | .sq .gang => trigSqGang
  | .sq o => trigSq o
  | .tr o => trigTr o

/-- A 32-bit word whose move is a NOP (02 R76). -/
def nopWord : IssueWord := ⟨[], false, 0, 4⟩

/-! ### Meanings -/

/-- WORD_ISSUE: a word of any form issues on the core whose turn it is (02 R85). -/
def execWordIssue (w : SWord) (s : State) : Host.Outcome State Fault Refusal := .next (s.issue trigger s.turn w.issue)

/-- The word whose one move is a NOP (02 R76). -/
def execNop (_ : BitVec 4) (_ _ : BitVec 11) (s : State) : Host.Outcome State Fault Refusal :=
  .next (s.issue trigger s.turn nopWord)

end Sys2Proof.Machine
end

