-- ==== Sys2Proof/Machine/Frame.lean ====
section
/-! DEFINITION. Stop frames and core images: the 128 KiB layout of 04 R162, its bytes as a core writes them, and the core
that they give back. The areas of pipeline stages are opaque: they hold the number of a copy of the core's state
(log 7). -/

namespace Sys2Proof.Machine

/-- A number made of fields: first bit, width, value. -/
def packFields (fs : List (Nat × Nat × Nat)) : Nat := (fs.map (fun f => f.2.2 % 2 ^ f.2.1 * 2 ^ f.1)).sum

/-- A block of `n` bytes of fields. -/
def fieldBlock (n : Nat) (fs : List (Nat × Nat × Nat)) : List Byte := leBytes n (packFields fs)

/-- Bytes filled up with zeros to `n`. -/
def padTo (n : Nat) (bs : List Byte) : List Byte := bs.take n ++ List.replicate (n - bs.length) 0

/-- A bit as a number. -/
def bit (b : Bool) : Nat := if b then 1 else 0

/-! ### The header (04 R163; 10 R392) -/

/-- What a frame header says beside the stop (04 R163), and what a core image adds (10 R392). -/
structure FrameHead where
  due : StopDue
  exact_ : Bool
  intrap : Bool
  wid : Word
  cset : BitVec 32
  launch : BitVec 32
  time : Word
  out : Nat
  cid : Word
  live : BitVec 16 := 0
  res : Bool := false
  record : BitVec 512 := 0

/-- The 256 bytes of a frame header (04 R163; 10 R392). -/
def FrameHead.bytes (h : FrameHead) : List Byte :=
  fieldBlock 256 [(0, 64, h.due.pc.word.toNat), (64, 8, h.due.cause.toNat), (72, 2, h.due.kind.toNat),
    (74, 1, bit h.exact_), (75, 1, bit h.intrap), (76, 2, h.due.slot.toNat), (80, 16, h.due.seq.toNat),
    (96, 11, h.due.tgt.toNat), (107, 11, h.due.org.toNat), (118, 8, h.due.info.toNat), (128, 64, h.due.detail.toNat),
    (192, 64, h.due.detail2.toNat), (256, 64, h.wid.toNat), (320, 32, h.cset.toNat), (352, 32, h.launch.toNat),
    (384, 64, h.time.toNat), (448, 16, h.out), (512, 64, h.cid.toNat), (576, 16, h.live.toNat), (592, 1, bit h.res),
    (1152, 512, h.record.toNat)]

/-! ### Control state (04 R164) -/

/-- OWEK. -/
def OweKind.code : OweKind → Nat
  | .transfer => 0 | .yield => 1 | .wait => 2 | .done => 3 | .trap => 4 | .brk => 5 | .rett => 6

/-- The owed effect that OWEK names; a reserved code stands for none. -/
def OweKind.ofCode (n : Nat) : Option OweKind :=
  match n with
  | 1 => some .yield | 2 => some .wait | 3 => some .done | 4 => some .trap | 5 => some .brk | 6 => some .rett
  | _ => none

/-- OWEPC: bit 63 for a transfer or a rett, bit 62 for an overlay check, and the target. -/
def owePc (o : Option Owe) (check : Bool) : Nat :=
  let t := o.bind (fun o => match o.kind with
    | .transfer => o.target
    | .rett => o.target
    | _ => none)
  bit t.isSome * 2 ^ 63 + bit check * 2 ^ 62 + ((t.map (fun p => p.word.toNat)).getD 0) % 2 ^ 48

/-- The fields of the control state that a shadow holds too (04 R154, R164). -/
def controlFields (q : BitVec 8) (lnk : Word) (rm : BitVec 4) (vflags : Flags) (o : Option Owe) (check : Bool) :
    List (Nat × Nat × Nat) :=
  [(1, 7, q.toNat / 2), (192, 64, lnk.toNat), (384, 4, rm.toNat), (576, 64, owePc o check), (648, 5, vflags.toNat),
    (656, 4, (o.map (fun o => o.kind.code)).getD 0), (664, 64, (o.map (fun o => o.arg.toNat)).getD 0)]

/-- The 256 bytes of a core's control state (04 R164). -/
def Core.controlBytes (c : Core) : List Byte :=
  fieldBlock 256 (controlFields c.q c.lnk c.rm c.vflags c.owe (c.check != 0) ++
    ((List.range 8).map (fun i => (64 + 16 * i, 12, (c.rsb (BitVec.ofNat 3 i)).toNat))) ++
    [(256, 64, c.epc.toNat), (320, 64, c.cause.toNat), (448, 64, c.xb.toNat), (512, 32, c.ovh.toNat),
      (640, 8, (c.owedTrap.map (fun t => t.cause.toNat)).getD 0)])

/-- The owed effect that a control state describes; `old` is the one that was saved, whose target an untaken branch
lacks (04 R164; log 7). -/
def oweOf (owepc owek owearg : Nat) (old : Option Owe) : Option Owe :=
  let target := CodePtr.ofWord (BitVec.ofNat 64 (owepc % 2 ^ 48))
  match OweKind.ofCode owek with
  | some .rett => some ⟨.rett, some target, 0⟩
  | some k => some ⟨k, none, BitVec.ofNat 64 owearg⟩
  | none =>
    if owepc.testBit 63 then some ⟨.transfer, some target, 0⟩
    else match old with
      | some ⟨.transfer, none, a⟩ => some ⟨.transfer, none, a⟩
      | _ => none

/-! ### The blocks of units (04 R165, R171; 05 R197; 07 R253; 10 R384; 02 R94) -/

/-- The 1 KiB of unit ports; `fs.x` is shown as origin `fs.x` reads (04 R165). -/
def Core.portBytes (c : Core) : List Byte :=
  padTo 1024 ((c.setPort (portIdx .fsX) c.fsx).ports.toList.flatMap imageBytes)

/-- A watch register (04 R171). -/
def Watch.bytes (w : Watch) : List Byte :=
  fieldBlock 32 [(0, 32, w.buf.toNat), (32, 17, w.mbox.toNat), (49, 2, w.kind.toNat), (64, 40, w.start.toNat),
    (128, 38, w.len.toNat), (192, 16, w.lost.toNat)]

/-- A walker (05 R197). -/
def Walker.bytes (w : Walker) : List Byte :=
  fieldBlock 128 [(0, 512, w.desc.toNat), (512, 32, w.i0.toNat), (544, 32, w.i1.toNat), (576, 32, w.i2.toNat),
    (608, 32, w.i3.toNat), (640, 8, w.status.toNat), (648, 1, bit w.fifoB), (656, 8, w.badCause.toNat),
    (704, 64, w.feedLeft.toNat), (768, 32, w.buf.toNat)]

/-- A ring entry (02 R94). -/
def RingEntry.bytes (e : RingEntry) : List Byte :=
  fieldBlock 16 [(0, 16, e.seq.toNat), (16, 32, e.pc.toNat), (48, 16, e.ovl.toNat), (64, 11, e.tgt.toNat),
    (75, 2, e.slot.toNat), (77, 4, e.sbf.toNat), (81, 3, e.state.toNat), (88, 8, e.cause.toNat)]

/-- A time-unit slot (10 R384). -/
def TimedSlot.bytes (t : TimedSlot) : List Byte :=
  fieldBlock 32 [(0, 64, t.time.toNat), (64, 30, t.move.toNat), (94, 1, bit t.armed)]

/-- The matrix engine's block, with the count of 07 R240 as it stands (07 R253). -/
def Core.mxBytes (c : Core) (waiting : Bool) : List Byte :=
  let m := c.mx
  fieldBlock 256 [(0, 41, m.ecfg.toNat), (64, 41, m.icfg.toNat), (128, 16, m.hseq.toNat), (144, 1, bit m.hvalid),
    (160, 17, m.kdone.toNat), (192, 21, if waiting then c.mxStall else m.stall.toNat), (224, 14, m.fifoA.length),
    (240, 14, m.fifoB.length)]

/-- The 4 KiB of a shadow (04 R162, R164); its stages are opaque. -/
def Shadow.bytes (sh : Shadow) (key : Nat) : List Byte :=
  fieldBlock 256 (controlFields sh.q sh.lnk sh.rm sh.vflags sh.owe sh.check) ++
    padTo 1024 ((sh.ports.setIfInBounds (portIdx .fsX) (0#51 ++ sh.vflags ++ 0#3 ++ sh.sflags)).toList.flatMap imageBytes) ++
    padTo 2048 (leBytes 8 key) ++ List.replicate 768 0

/-- The 128 KiB of a frame (04 R162). `key` stands in the opaque areas (log 7). -/
def Core.frameBytes (c : Core) (h : FrameHead) (key : Nat) (waiting : Bool) : List Byte :=
  h.bytes ++ c.g.toList.flatMap imageBytes ++ c.controlBytes ++ c.bf.toList.flatMap imageBytes ++
    ((List.range 8).flatMap (fun i => imageBytes (c.rmask (BitVec.ofNat 3 i)))) ++
    c.watch.toList.flatMap Watch.bytes ++ List.replicate 128 0 ++ c.portBytes ++ padTo 2048 (leBytes 8 key) ++
    c.walkers.toList.flatMap Walker.bytes ++ c.ring.toList.flatMap RingEntry.bytes ++
    ((c.shadow.map (fun sh => sh.bytes key)).getD (List.replicate 4096 0)) ++ c.mxBytes waiting ++
    c.timed.toList.flatMap TimedSlot.bytes ++ List.replicate 5632 0 ++ c.v.toList.flatMap imageBytes ++
    padTo 8192 c.mx.fifoA ++ padTo 8192 c.mx.fifoB ++ imageBytes c.mx.scale ++ c.mx.acc.toList.flatMap imageBytes

/-! ### A frame read back (04 R164, R166; 05 R197; 10 R386) -/

/-- A field of a frame, as a bit vector: bit `lo` counted from the frame's byte `off`. -/
def State.frameField (s : State) (a off lo n : Nat) : BitVec n := BitVec.ofNat n (s.bitsIn (a + off) lo n)

/-- The copy of the core that the opaque area names; a frame that this device did not write gives empty pipelines. -/
def State.frameCopy (s : State) (a : Nat) : Core := (tabFind (s.bitsIn (a + 0xA00) 0 64) s.frames).getD Core.reset

/-- A watch register of a frame; the partition is that of the one saved, or the core's (04 R171). -/
def State.frameWatch (s : State) (a i : Nat) (old : Watch) : Watch where
  part := old.part
  buf := s.frameField a (0x500 + 32 * i) 0 32
  mbox := s.frameField a (0x500 + 32 * i) 32 17
  kind := s.frameField a (0x500 + 32 * i) 49 2
  start := s.frameField a (0x500 + 32 * i) 64 40
  len := s.frameField a (0x500 + 32 * i) 128 38
  lost := s.frameField a (0x500 + 32 * i) 192 16

/-- A walker of a frame; times and the place of its feed are those saved (05 R197). -/
def State.frameWalker (s : State) (a i : Nat) (old : Walker) : Walker :=
  let f (lo n : Nat) : BitVec n := s.frameField a (0x1200 + 128 * i) lo n
  let status : BitVec 8 := f 640 8
  { old with
    desc := f 0 512
    i0 := f 512 32
    i1 := f 544 32
    i2 := f 576 32
    i3 := f 608 32
    fin := status.extractLsb' 0 4
    feeding := status.getLsbD 4
    bound := status.getLsbD 5
    exh := status.getLsbD 6
    bad := status.getLsbD 7
    fifoB := f 648 1 == 1
    badCause := f 656 8
    feedLeft := f 704 64
    buf := f 768 32 }

/-- A ring entry of a frame (02 R94). -/
def State.frameRing (s : State) (a i : Nat) : RingEntry where
  seq := s.frameField a (0x1400 + 16 * i) 0 16
  pc := s.frameField a (0x1400 + 16 * i) 16 32
  ovl := s.frameField a (0x1400 + 16 * i) 48 16
  tgt := s.frameField a (0x1400 + 16 * i) 64 11
  slot := s.frameField a (0x1400 + 16 * i) 75 2
  sbf := s.frameField a (0x1400 + 16 * i) 77 4
  state := s.frameField a (0x1400 + 16 * i) 81 3
  cause := s.frameField a (0x1400 + 16 * i) 88 8

/-- A time-unit slot of a frame (10 R384). -/
def State.frameTimed (s : State) (a i : Nat) : TimedSlot where
  time := s.frameField a (0x2900 + 32 * i) 0 64
  move := s.frameField a (0x2900 + 32 * i) 64 30
  armed := s.frameField a (0x2900 + 32 * i) 94 1 == 1

/-- The matrix engine of a frame; its times count from the core's cycle (07 R253). -/
def State.frameMx (s : State) (a cyc : Nat) : Mx where
  acc := Vector.ofFn (fun i => imageOf 131072 (s.readBytes (a + 0x10000 + 16384 * i.val) 16384))
  fifoA := s.readBytes (a + 0x8000) (min 8192 (s.bitsIn (a + 0x2800) 224 14))
  fifoB := s.readBytes (a + 0xA000) (min 8192 (s.bitsIn (a + 0x2800) 240 14))
  scale := imageOf 131072 (s.readBytes (a + 0xC000) 16384)
  icfg := s.frameField a 0x2800 64 41
  ecfg := s.frameField a 0x2800 0 41
  hseq := s.frameField a 0x2800 128 16
  hvalid := s.bitsIn (a + 0x2800) 144 1 == 1
  kdone := s.frameField a 0x2800 160 17
  stall := s.frameField a 0x2800 192 21
  startAt := cyc
  groupAt := cyc

/-- The words of the unit-port area of a frame, `n` of them from byte `off` on. -/
def State.framePorts (s : State) (a off n : Nat) : Vector Word n :=
  Vector.ofFn (fun i => s.frameField a off (64 * i.val) 64)

/-- The shadow of a frame with INTRAP = 1 (04 R162). -/
def State.frameShadow (s : State) (a : Nat) (old : Option Shadow) : Option Shadow :=
  if s.bitsIn a 75 1 = 0 then none
  else
    let sh := old.getD ⟨[], [], Vector.replicate 24 0, 0, 0, 0, 0, 0, none, false⟩
    let owepc := s.bitsIn (a + 0x1800) 576 64
    some { sh with
      ports := s.framePorts a 0x1900 24
      sflags := s.frameField a 0x1900 (64 * portIdx .fsX) 5
      vflags := s.frameField a 0x1800 648 5
      q := s.frameField a 0x1800 0 8 &&& 0xFE
      lnk := s.frameField a 0x1800 192 64
      rm := s.frameField a 0x1800 384 4
      owe := oweOf owepc (s.bitsIn (a + 0x1800) 656 4) (s.bitsIn (a + 0x1800) 664 64) sh.owe
      check := owepc.testBit 62 }

/-- A core with the state of a frame in place of its own; its identity, its capabilities, its clock and what belongs to
the core and not to the continuation stay; the first fetch outside overlay 0 takes the overlay trap (04 R147, R166; 10
R386). -/
def State.frameCore (s : State) (a : Nat) (c : Core) : Core :=
  let old := s.frameCopy a
  let owepc := s.bitsIn (a + 0x300) 576 64
  let trap := s.bitsIn (a + 0x300) 640 8
  { c with
    order := max c.order old.order
    pc := CodePtr.ofWord (s.frameField a 0 0 64)
    owe := oweOf owepc (s.bitsIn (a + 0x300) 656 4) (s.bitsIn (a + 0x300) 664 64) old.owe
    check := if owepc.testBit 62 then 2 else if (s.frameField a 0 32 16 : BitVec 16) = 0 then 0 else 3
    g := s.framePorts a 0x100 64
    q := s.frameField a 0x300 0 8 &&& 0xFE
    sb := Vector.ofFn (fun i => s.frameField a 0x300 (64 + 16 * i.val) 12)
    ports := s.framePorts a 0x600 76
    sflags := s.frameField a 0x600 (64 * portIdx .fsX) 5
    vflags := s.frameField a 0x300 648 5
    lnk := s.frameField a 0x300 192 64
    epc := s.frameField a 0x300 256 64
    cause := s.frameField a 0x300 320 64
    rm := s.frameField a 0x300 384 4
    xb := s.frameField a 0x300 448 64
    ovh := s.frameField a 0x300 512 32
    bf := (s.framePorts a 0x400 16).map (· &&& localBankMask)
    stages := old.stages
    stores := old.stores
    shadow := s.frameShadow a old.shadow
    owedTrap := if trap = 0 then none
      else some (match old.owedTrap with
        | some t => { t with cause := BitVec.ofNat 8 trap }
        | none => ⟨BitVec.ofNat 8 trap, 0, 0, CodePtr.ofWord (s.frameField a 0 0 64)⟩)
    owedSusp := old.owedSusp
    stops := []
    watch := Vector.ofFn (fun i => s.frameWatch a i.val ((old.watch[i.val]?).getD {}))
    walkers := Vector.ofFn (fun i => s.frameWalker a i.val ((old.walkers[i.val]?).getD {}))
    v := Vector.ofFn (fun i => imageOf 4096 (s.readBytes (a + 0x4000 + 512 * i.val) 512))
    m := Vector.ofFn (fun i => s.frameField a 0x480 (128 * i.val) 128)
    mx := s.frameMx a c.cyc
    ring := Vector.ofFn (fun i => s.frameRing a i.val)
    timed := Vector.ofFn (fun i => s.frameTimed a i.val)
    hold := old.hold }

/-- Every walker's descriptor is checked again, and one that fails becomes bad (05 R197). -/
def State.recheckWalkers (s : State) (cn : Nat) : State :=
  (List.range 4).foldl (fun s i =>
    let n : BitVec 2 := BitVec.ofNat 2 i
    let w := (s.core cn).walker n
    if w.bound && !w.bad && w.checkIn.isNone then
      match s.walkerContents cn w with
      | some cause => s.onCore cn (fun c => c.setWalker n { c.walker n with bad := true, badCause := cause })
      | none => s
    else s) s

end Sys2Proof.Machine
end

