-- ==== Sys2Proof/Machine/Spill.lean ====
section
/-! DEFINITION. What falls out at the close of a gang switch's window (10 R388 to R391): packet records and the places of
fall-out buffers. A request falls out where it waits to be served: at the router of its memory (log 46). -/

namespace Sys2Proof.Machine

/-- The router number of the hub and of link engines (10 R390). -/
def hubAt : Nat := 0x7F

/-- KIND of a request (10 R390). -/
def Access.kind : Access → Nat
  | .read _ _ _ | .copyRead _ _ _ _ | .lanesRead _ _ _ _ => 1
  | .write _ _ _ | .copyWrite _ _ _ _ _ _ | .lanesWrite _ _ _ _ => 2
  | .acc _ _ _ _ fetch batch => if batch then 5 else if fetch then 4 else 3
  | .batchOpen _ _ _ => 5
  | .batchClose _ _ => 6
  | .rmw _ _ _ _ => 4

/-- The payload that a request carries: the bytes of a copy that converts at its target are those of its source. -/
def Access.payload : Access → List Byte
  | .write _ bs _ => bs
  | .copyWrite f g _ back take els =>
    let img := packBits f.size (els.map (·.bits))
    if f = g then leBytes ((take + 7) / 8) (img / 2 ^ back % 2 ^ take) else leBytes ((els.length * f.size + 7) / 8) img
  | .acc _ ty _ x _ _ => leBytes (match ty with
      | 0b01 => 8
      | 0b11 => 2
      | _ => 4) x.toNat
  | _ => []

/-- OP and TY of a request. -/
def Access.opTy : Access → Nat × Nat
  | .acc _ ty op _ _ _ => (op.toNat, ty.toNat)
  | _ => (0, 0)

/-- A packet record (10 R390): KIND, PATH, PORT, AT, SEQ, SRC, TADDR, SDEV, RM, OP and TY, payload, ORDER, LINK, TIME. -/
def spillRecord (kind path port at_ seq src addr sdev rm op ty : Nat) (bs : List Byte) (order link : Nat) (time : Word) :
    BitVec 2048 :=
  let pay := bs.take 128
  BitVec.ofNat 2048 (packFields [(0, 8, kind), (8, 4, path), (12, 3, port), (15, 1, 1), (16, 7, at_), (32, 16, seq),
    (48, 11, src), (64, 52, addr), (128, 12, sdev), (140, 4, rm), (144, 3, op), (147, 2, ty), (152, 8, pay.length),
    (160, 16, order), (176, 6, link), (192, 64, time.toNat), (512, 1024, leNat pay)])

/-- The buffer into which something falls: AT and LINK. -/
def State.fallPlace (s : State) (x : FallItem) : Nat × Nat :=
  match x with
  | .queued u r =>
    if u < 2048 then (clusterOf u, 0)
    else if u < 4096 then (u - 2048, 0)
    else ((u - 4096) * 16 + fieldN (if r.cls = 4 then r.va else r.acc.addr) 10 4, 0)
  | .walking cl _ => (min cl hubAt, 0)
  | .host _ => (hubAt, 0)
  | .mark k => (((tabFind k.index.toNat (s.part k.part).traces).map (fun m => min m.home hubAt)).getD hubAt, 0)
  | .leaving l _ => (hubAt, l.toNat)
  | .arriving l _ => (hubAt, l.toNat)

/-- The output port that it waited for (10 R390). -/
def FallItem.port : FallItem → Nat
  | .host _ => 6
  | .leaving _ _ => 7
  | _ => 0

/-- The record of something that falls out (10 R390). -/
def State.fallRecord (s : State) (x : FallItem) (at_ link order : Nat) : BitVec 2048 :=
  let bytes (r : Req) : List Byte := match r.acc, r.src with
    | .lanesWrite _ bit gone begun, .op a q =>
      ((s.flight? a q).map (s.laneBytes (s.lanePiece bit gone begun))).getD []
    | acc, _ => acc.payload
  let ofReq (r : Req) : BitVec 2048 :=
    spillRecord r.acc.kind (if r.acc.kind = 3 then 8 else r.path.toNat) x.port at_ r.src.seq.toNat r.core.toNat r.acc.addr
      r.dev.toNat r.rm.toNat r.acc.opTy.1 r.acc.opTy.2 (bytes r) order link s.now
  let ofPacket (p : Packet) : BitVec 2048 :=
    spillRecord p.type.toNat (if p.type = 3 then 8 else 2) x.port at_ p.seq.toNat p.src.toNat p.addr p.sdev.toNat p.rm.toNat
      p.op.toNat p.ty.toNat (p.data.take p.bytes) order link s.now
  match x with
  | .queued _ r => ofReq r
  | .walking _ r => ofReq r
  | .host r => ofReq r
  | .mark k => spillRecord 0x0B 4 0 at_ ((k.seq.map BitVec.toNat).getD 0) k.agent 0 s.dev.toNat 0 0 0
      (leBytes 16 (k.index.toNat + 2 ^ 32 * k.slot + 2 ^ 36 * k.first + 2 ^ 72 * k.last)) order link s.now
  | .leaving _ p => ofPacket p
  | .arriving _ p => ofPacket p

/-- Packets that the fall-out buffer of a router or a link engine holds: at most 256 (10 R390). -/
def State.fallHeld (s : State) (at_ link : Nat) : Nat := (s.falls.filter (fun f => f.at_ == at_ && f.link == link)).length

/-- Something of a partition falls out into its buffer, which has room (10 R390). -/
def State.fallIn (s : State) (part : BitVec 4) (x : FallItem) : State :=
  let (at_, link) := s.fallPlace x
  let order := ((s.falls ++ s.spilled).filter (fun f => f.part == part && f.at_ == at_ && f.link == link)).length
  { s with falls := s.falls ++ [⟨part, at_, link, order, s.fallRecord x at_ link order, x⟩] }

/-- Something waits in place at the buffer of another that falls out. -/
def State.fallBehind (s : State) (x : FallItem) : Bool := s.stuck.any (fun y => s.fallPlace y.2 == s.fallPlace x)

/-- Something of a partition falls out, behind what its buffer holds; a full buffer holds it in place until it has room (10
R390). -/
def State.fallOut (s : State) (part : BitVec 4) (x : FallItem) : State :=
  let (at_, link) := s.fallPlace x
  if s.fallBehind x || decide (256 ≤ s.fallHeld at_ link) then { s with stuck := s.stuck ++ [(part, x)] } else s.fallIn part x

/-- What waits in place falls out where buffers have room again. -/
def State.fallRest (s : State) : State :=
  s.stuck.foldl (fun s e => s.fallOut e.1 e.2) { s with stuck := [] }

/-- The partition is switched out, or its window has closed (10 R388). -/
def State.closed (s : State) (part : BitVec 4) : Bool :=
  (s.part part).out || (match s.gang with
    | some g => g.out == part && g.phase == .saving
    | none => false)

/-- The order of records in a spill area: AT, then LINK, then ORDER (10 R391). -/
def FallOut.before (a b : FallOut) : Bool :=
  decide (a.at_ < b.at_) || (a.at_ == b.at_ && (decide (a.link < b.link) || (a.link == b.link && decide (a.order ≤ b.order))))

/-- The packet records of a partition's spill area are written, and how many there are (10 R391). -/
def State.putSpill (s : State) (part : BitVec 4) : State :=
  let base := (s.part part).spill
  let xs := (s.spilled.filter (fun f => f.part == part)).mergeSort FallOut.before
  let s := (xs.zipIdx).foldl (fun s (x, i) => s.writeBytes (base + 0x1000 + 256 * i) (imageBytes x.record)) s
  s.putBits base 0 32 xs.length

/-- FALL_OUT_SPILL: up to 256 of what has fallen out is written to the spill area, while it holds fewer than 65,536 records
(10 R390, R391). -/
def State.spillFalls (s : State) : State :=
  match s.falls.head? with
  | none => s
  | some x =>
    let held := (s.spilled.filter (fun f => f.part == x.part)).length
    let now := (s.falls.filter (fun f => f.part == x.part)).take (min 256 (65536 - held))
    if now.isEmpty then s
    else
      let s := { s with
        falls := s.falls.filter (fun f => !now.contains f)
        spilled := s.spilled ++ now }
      (s.putSpill x.part).fallRest

/-! ### Meanings -/

/-- FALL_OUT_SPILL (10 R390). -/
def execFallOutSpill (s : State) : Host.Outcome State Fault Refusal := .next s.spillFalls

end Sys2Proof.Machine
end

