-- ==== Sys2Proof/Machine/Fabric.lean ====
section
/-! DEFINITION. The fabric's events (12 R431 to R461): flits as they are received and the packets in them, requests and
messages of other devices, resends, lanes, training, quiescing and job keys. -/

namespace Sys2Proof.Machine

/-! ### Requests of other devices (12 R456; 08 R285; 09 R330, R337) -/

/-- The byte of a buffer that stands at a physical address of this device, with the NC bit of its page; a translated
buffer is walked in cluster 0 (log 32). -/
def State.offsetOf (s : State) (part : BitVec 4) (d : Desc) (pa : Nat) : Option (Nat × Bool) :=
  if translated d.cls then
    let first := d.base.toNat / 65536 * 65536
    (List.range ((d.base.toNat + d.len - first + 65535) / 65536)).findSome? (fun i =>
      let va := first + 65536 * i
      match s.walk 0 part va with
      | .ok x =>
        let at_ := x.pa + (va - x.va)
        if x.kind = 0 ∧ at_ ≤ pa ∧ pa < at_ + 65536 ∧ d.base.toNat ≤ va + (pa - at_) then
          some (va + (pa - at_) - d.base.toNat, x.nc) else none
      | .error _ => none)
  else if d.base.toNat ≤ pa then some (pa - d.base.toNat, false) else none

/-- The right that an access of another device needs (12 R456). -/
def Packet.needs (p : Packet) : BitVec 6 :=
  match p.type.toNat with
  | 1 => rightR
  | 2 | 12 => rightW
  | _ => rightA

/-- What a packet asks of memory (12 R436; log 38). -/
def Packet.access (p : Packet) : Access :=
  let n := p.bytes
  let bs := p.data.take n
  let word := leNat (p.data.take 8)
  match p.type.toNat with
  | 1 => .read p.addr n 0
  | 2 => .write p.addr bs (if p.op = 1 then (p.data.drop n).take n else [])
  | 6 => .batchClose p.addr (p.op == 1)
  | 5 =>
    if n = 0 then .batchOpen p.addr (BitVec.ofNat 12 word) (if word.testBit 25 then some (BitVec.ofNat 13 (word / 2 ^ 12)) else none)
    else .acc p.addr p.ty p.op (BitVec.ofNat 64 word) false true
  | k => .acc p.addr p.ty p.op (BitVec.ofNat 64 word) (k == 4) false

/-- A packet for an applying unit, with an element. -/
def Packet.adds (p : Packet) : Bool := (p.type == 3 || p.type == 4 || p.type == 5) && p.bytes != 0

/-- A register window none of which is away: a capability for it on another device has been recalled (08 R300). -/
def State.recalled (s : State) (d : Desc) : Bool := d.cls == 5 && d.owndev == s.dev && d.count == 0

/-- The request of a packet, or how it is refused: its operation is not one that this stepping applies (09 R337), or its
descriptor, bytes or rights fail the check (12 R456). -/
def State.peerReq (s : State) (l : BitVec 6) (p : Packet) (tag n : Nat) (acc : Access) : Except LateFault Req :=
  let part := (s.link l).part
  let no : LateFault := ⟨0x20, BitVec.ofNat 64 p.addr, 11⟩
  if p.adds && decide (4 < p.op.toNat) then
    .error ⟨0x23, BitVec.ofNat 64 ((if p.type = 4 then 0x225 else 0x224) + 2 ^ 11 * p.op.toNat), BitVec.ofNat 64 (p.ty.toNat + 2)⟩
  else match tabFind p.desc.toNat (s.part part).bufs with
    | none => .error no
    | some d => match s.offsetOf part d p.addr with
      | none => .error no
      | some (off, nc) =>
        if d.cls = 3 ∨ d.cls = 4 ∨ d.len < off + n ∨ p.rights &&& p.needs ≠ p.needs ∨ s.recalled d then .error no
        else .ok {
          src := .peer l tag, path := if p.adds then 8 else 7, part := part, desc := p.desc, cls := d.cls, off := off
          va := d.base.toNat + off, xpart := part, rm := p.rm, xRead := false, xWrite := false, dev := p.sdev, core := p.src, nc := nc
          home := 0, kreg := none, trace := p.trace, acc := acc }

/-- REMOTE_REQUEST_CHECK: a request of another device goes to the memory that serves it, or is refused. -/
def State.takeRequest (s : State) (l : BitVec 6) (p : Packet) : State :=
  let n := if p.type = 2 ∧ p.bytes = 0 then 32 else p.bytes
  match s.peerReq l p p.tag n p.access with
  | .ok r => s.dispatch r
  | .error e => s.respond p.tag 14 (refusalBytes e.cause e.detail e.detail2)

/-! ### Answers of other devices (12 R456; 01 R49, R50) -/

/-- The late fault that a refusal carries. -/
def refusalFault (bs : List Byte) : LateFault :=
  let word (i : Nat) : Word := BitVec.ofNat 64 (leNat ((bs.drop (8 * i)).take 8))
  ⟨(word 0).setWidth 8, word 1, word 2⟩

/-- A request waits at a slice for a sector of a REMOTE line. -/
def Req.waitsFor (r : Req) (home : BitVec 12) (g : Nat) : Bool :=
  r.cls == 4 && !r.nc && r.home == home && (granules r.acc.addr r.acc.len).contains g && (match r.acc with
    | .acc _ _ _ _ _ _ | .batchOpen _ _ _ | .batchClose _ _ => false
    | _ => true)

/-- The fetch of a sector has failed: so do the requests that wait for it; `fuel` bounds them. -/
def State.fillFails (die : Nat) (r : Req) (e : LateFault) : Nat → State → State
  | 0, s => s
  | fuel + 1, s =>
    let u := sliceUnit die
    match (s.queueAt u).findIdx? (fun x => x.waitsFor r.home (r.acc.addr / 32)) with
    | none => s
    | some i => match (s.queueAt u)[i]? with
      | none => s
      | some x => State.fillFails die r e fuel ((s.unqueue u i).answer x (.fault e))

/-- The message that a pending request stands for. -/
def State.abroadOf (s : State) (p : Pending) : Option (Msg × Nat) :=
  (s.abroad.zipIdx).find? (fun (m, _) => agentCore m.src == p.req.core && m.dev == some p.req.home &&
    (match p.req.src, m.seq with
      | .op a q, some x => a == m.src && q == x
      | .engine, none => true
      | _, _ => false))

/-- A pending request is over: with bytes, or with a late fault. That of a message is over for every answer still to come; one
of no message is that of a subscription. -/
def State.settleAway (s : State) (p : Pending) (bs : List Byte) (e : Option LateFault) : State :=
  if p.req.cls ≠ 4 then
    match s.abroadOf p, p.req.src with
    | some (m, i), _ => (List.range p.left).foldl (fun s _ => s.messageAnswered m e) { s with abroad := s.abroad.eraseIdx i }
    | none, .op a q => s.subAnswered a q e
    | none, _ => s
  else match p.fill, e with
    | some die, none => s.fillSector die p.req bs
    | some die, some e => State.fillFails die p.req e (s.queueAt (sliceUnit die)).length s
    | none, some e => s.answer p.req (.fault e)
    | none, none => s.answer p.req (match p.req.acc with
      | .read _ n i => .bytes i (bs.take n)
      | .copyRead _ _ n i => .scaled i (bs.take n) (List.replicate n 127)
      | .acc _ _ _ _ true _ => .old (BitVec.ofNat 64 (leNat bs))
      | _ => .done)

/-- The late fault of what a link's end, or a missing route, leaves unanswered (12 R452, R456). -/
def Pending.lost (p : Pending) : LateFault := ⟨0x20, BitVec.ofNat 64 p.req.acc.addr, 4⟩

/-- A stream that this device sends is over (12 R437). -/
def State.streamOver (s : State) (l : BitVec 6) (num : BitVec 16) (e : Option LateFault) : State :=
  match (s.link l).outStreams.find? (fun o => o.num == num) with
  | none => s
  | some o =>
    let s := s.onLink l (fun k => { k with outStreams := k.outStreams.filter (fun x => x.num != num) })
    let s := s.onFlight o.agent o.seq (fun f => { f with stream := none })
    match e with
    | none => s.answered o.agent o.seq id
    | some e =>
      let s := if o.sent = o.flits then s else s.onFlight o.agent o.seq (fun f => { f with open_ := f.open_ + 1 })
      s.answeredFault o.agent o.seq e

/-- A response, an acknowledgement, a refusal or a stream's end arrives (12 R434, R437, R456). A refusal with OP 1 is of
the stream that DESC numbers (log 38). -/
def State.takeAnswer (s : State) (l : BitVec 6) (p : Packet) : State :=
  let bs := p.data.take p.bytes
  let e := if p.type = 14 then some (refusalFault bs) else none
  if p.type = 13 ∨ p.op = 1 then s.streamOver l (p.desc.setWidth 16) e
  else
    let key := p.src.toNat * 4096 + p.rtag.toNat
    match tabFind key s.away with
    | some x =>
      if x.req.home ≠ p.sdev then s
      else if x.left ≤ 1 then (s.dropTag key).settleAway x bs e
      else
        let s : State := { s with away := tabPut key { x with left := x.left - 1 } s.away }
        match s.abroadOf x with
        | some (m, _) => s.messageAnswered m e
        | none => s
    | none => s

/-! ### Messages of other devices (08 R285, R294, R295; 12 R436; log 38) -/

/-- The kind of a capability as a message carries it. -/
def kindOf (b : Nat) : CapKind :=
  match b with
  | 0 => .whole
  | 1 => .resFractions
  | 2 => .resGrants
  | 3 => .fraction
  | _ => .grant

/-- The capability that a message of another device brings, with its descriptor here: its own when its home is this device,
else a REMOTE one; one whose bytes came ahead gets its descriptor when they have been copied into the mailbox's placement, and
names none until then (08 R281, R285). None when there is no room. -/
def State.bringCap (s : State) (l : BitVec 6) (p : Packet) (mbox : BitVec 17) (gs : List (List Byte)) :
    Option (State × Cap × Option Nat) :=
  let bs := p.data
  let num (i n : Nat) : Nat := leNat ((bs.drop i).take n)
  let kind := kindOf (num 4 1)
  let count := BitVec.ofNat 16 (num 6 2)
  let cls := BitVec.ofNat 3 (num 8 1)
  let home := BitVec.ofNat 12 (num 12 2)
  let cl := mboxCluster mbox
  let m := s.mailbox cl (mboxIndex mbox)
  let part := (m.bound.part?).getD (s.link l).part
  let cap (i : BitVec 4 × Nat) : Cap := ⟨kind, i.1, BitVec.ofNat 32 i.2, p.rights, count⟩
  let owned := (cap (part, 0)).owns
  let d : Desc := {
    cls := 4, fmt := BitVec.ofNat 4 (num 9 1), owner := 0, base := BitVec.ofNat 64 (num 14 8)
    lenm1 := BitVec.ofNat 35 (num 22 8), homedev := home, parent := p.desc, owndev := if owned then s.dev else p.sdev
    foreign := !owned, repl := !owned
    share := (match kind with
      | .whole => 0
      | .fraction | .resFractions => 0b01
      | _ => 0b10)
    count := if kind = .whole then 0 else count }
  if cls = 4 ∧ home = s.dev then
    let here := (s.link l).part
    (s.bufDesc here p.desc.toNat).map (fun _ =>
      let s := if owned then s.onDesc here p.desc.toNat (fun x => { x with owndev := s.dev, count := d.count }) else s
      (s, cap (here, p.desc.toNat), none))
  else if num 10 1 = 0 then (s.freeDesc part).map (fun i => (s.putDesc part i d, cap (part, i), none))
  else
    let (s, i) := s.newHaul { agent := 16 * cl, goal := .mailbox mbox, src := none, desc := d, data := gs }
    some (s, cap (part, 2 ^ 32 - 1), some i)

/-- A message for one mailbox sets out on its last part here. -/
def State.bringTo (s : State) (l : BitVec 6) (p : Packet) (mbox : BitVec 17) (gs : List (List Byte)) : State :=
  match s.bringCap l p mbox gs with
  | none => s.respond p.tag 14 (refusalBytes 0x20 (mbox.setWidth 64) 2)
  | some (s, c, haul) =>
    let s := s.setOwner c (ownerMsg mbox false)
    let m : Msg := {
      src := 4096 + p.sdev.toNat * 2048 + p.src.toNat, seq := none, part := c.part, mbox := mbox, host := false, dev := none
      refused := false, pay := .cap c (BitVec.ofNat 32 (leNat (p.data.take 4))) haul.isSome false
      peer := some (l, p.tag), haul := haul }
    { s with msgs := s.msgs ++ [m] }

/-- The mailboxes that a multicast's packet names (log 38). -/
def Packet.mailboxes (p : Packet) : List (BitVec 17) :=
  (List.range ((p.bytes - 30) / 4)).map (fun i => BitVec.ofNat 17 (leNat ((p.data.drop (30 + 4 * i)).take 4)))

/-- A message packet arrives: OP 1 is a granule ahead of its message, OP 2 a multicast, each of whose deliveries has an answer
(log 38). -/
def State.takeMessage (s : State) (l : BitVec 6) (p : Packet) : State :=
  let gs := (tabFind p.tag (s.link l).copied).getD []
  if p.op = 1 then
    s.onLink l (fun k => { k with copied := tabPut p.tag (gs ++ [p.data.take p.bytes]) k.copied })
  else
    let s := s.onLink l (fun k => { k with copied := tabDrop p.tag k.copied })
    if p.op = 2 then p.mailboxes.foldl (fun s b => s.bringTo l p b gs) s
    else s.bringTo l p (BitVec.ofNat 17 p.addr) gs

/-- A subscription of another device, or its end: the routers on its way here are marked, and it is acknowledged, or refused
when a router's store is full; one with OP 1 has no answer (08 R294; log 38). -/
def State.takeSubscription (s : State) (l : BitVec 6) (p : Packet) : State :=
  let core := BitVec.ofNat 11 p.addr
  let tag := BitVec.ofNat 16 (leNat (p.data.take 2))
  let key := (core, tag, BitVec.ofNat 17 (leNat ((p.data.drop 2).take 4)))
  let answer (s : State) (type : BitVec 8) (bs : List Byte) : State := if p.op = 1 then s else s.respond p.tag type bs
  if leNat ((p.data.drop 6).take 1) ≠ 0 then
    answer (s.onLink l (fun k => { k with subs := k.subs.erase key })).rebuildBranches 8 []
  else if (farMarks core).any (fun (r, _) => !(s.cluster r).branchRoom s.dev core tag) then
    answer s 14 (refusalBytes 0x30 (BitVec.ofNat 64 key.2.2.toNat) 5)
  else answer (s.onLink l (fun k => { k with subs := k.subs.erase key ++ [key] })).rebuildBranches 8 []

/-- Dirty marks of another device (11 R415; log 38). -/
def State.takeMarks (s : State) (l : BitVec 6) (p : Packet) : State :=
  let x := leNat (p.data.take 16)
  { s with marks := s.marks ++ [⟨(s.link l).part, BitVec.ofNat 26 x, fieldN x 32 4, fieldN x 36 36, fieldN x 72 36, p.desc,
    4095, none⟩] }

/-! ### Packets handed on (12 R440, R453, R456; 10 R388) -/

/-- The packet answers another. -/
def Packet.answers (p : Packet) : Bool := packetClass p.type == 1

/-- The packet answers a fetch-and-op. -/
def State.answersFetch (s : State) (p : Packet) : Bool :=
  match tabFind (p.src.toNat * 4096 + p.rtag.toNat) s.away with
  | some x => (match x.req.acc with
    | .acc _ _ _ _ f _ => f
    | _ => false)
  | none => false

/-- A packet that arrives for a partition whose window has closed falls out, but for fetch-and-ops, messages and
subscriptions (10 R388, R389). -/
def State.fallsHere (s : State) (p : Packet) : Bool :=
  match p.type.toNat with
  | 1 | 2 | 3 | 5 | 6 | 0xB => true
  | 7 | 8 => !s.answersFetch p
  | _ => false

/-- The source of a stream that has arrived is told that it is over (12 R437), or refused (log 38). -/
def State.tellStream (s : State) (p : Packet) (num : BitVec 16) (e : Option LateFault) : State :=
  let bs := (e.map (fun e => refusalBytes e.cause e.detail e.detail2)).getD []
  (s.sendPacket {
    type := if e.isSome then 14 else 13, op := 1, seq := p.seq, src := p.src, sdev := s.dev, ddev := p.sdev
    desc := num.setWidth 32, bytes := bs.length, data := bs }).getD s

/-- The number of the stream that a packet opens. -/
def Packet.streamNum (p : Packet) : BitVec 16 := BitVec.ofNat 16 (leNat (p.data.take 2))

/-- A packet is refused because this device cannot pass it on (12 R453). -/
def State.cannotForward (s : State) (p : Packet) : State :=
  let e : LateFault := ⟨0x20, BitVec.ofNat 64 p.addr, 4⟩
  if p.answers then s
  else if p.type = 12 then s.tellStream p p.streamNum (some e)
  else s.respond p.tag 14 (refusalBytes e.cause e.detail e.detail2)

/-- A packet for another device is forwarded once (12 R453). -/
def State.forward (s : State) (p : Packet) : State :=
  if p.fwd ∨ p.type = 12 then s.cannotForward p else (s.sendPacket { p with fwd := true }).getD (s.cannotForward p)

/-- A packet for this device is acted on. -/
def State.takePacket (s : State) (l : BitVec 6) (p : Packet) : State :=
  match p.type.toNat with
  | 1 | 2 | 3 | 4 | 5 | 6 => s.takeRequest l p
  | 7 | 8 | 13 | 14 => s.takeAnswer l p
  | 9 => s.takeMessage l p
  | 0xA => s.takeSubscription l p
  | 0xB => s.takeMarks l p
  | 12 => s.onLink l (fun k => { k with inq := k.inq ++ [.open_ p] })
  | _ => s

/-- A packet is handed on. -/
def State.handOn (l : BitVec 6) (s : State) (p : Packet) : State :=
  if p.ddev ≠ s.dev then s.forward p
  else if s.closed (s.link l).part && s.fallsHere p then s.fallOut (s.link l).part (.arriving l p)
  else s.takePacket l p

/-! ### A link that goes down, and keys (12 R439, R456, R457, R460) -/

/-- The event records of a link. -/
def State.linkRecord (s : State) (kind : BitVec 8) (l : BitVec 6) (rx : Bool) (lanes : BitVec 16) (detail : Nat) : State :=
  let k := s.link l
  s.eventRecord kind l rx lanes k.part k.peerDev detail

/-- The key of a link is zeroised (12 R460). -/
def State.dropKey (s : State) (l : BitVec 6) : State :=
  let s := if (s.link l).key.isSome || (s.link l).newKey.isSome then s.linkRecord 0x08 l false 0 0 else s
  s.onLink l (fun k => { k with key := none, newKey := none, state := if k.state = linkUp then 2 else k.state })

/-- Every operation with a request or a stream on a link ends with late fault 0x20, reason 4 (12 R456). -/
def State.failLink (s : State) (l : BitVec 6) : State :=
  let lost := s.away.filter (fun e => e.2.link == l)
  let s := lost.foldl (fun s e => (s.dropTag e.1).settleAway e.2 [] (some e.2.lost)) s
  (s.link l).outStreams.foldl (fun s o => s.streamOver l o.num (some ⟨0x20, BitVec.ofNat 64 o.addr, 4⟩)) s

/-- The packets that wait to leave. -/
def Link.waiting (k : Link) : List Packet := k.outq.filterMap (fun o => match o with
  | .packet p => some p
  | _ => none)

/-- A link goes DOWN; what it held of other devices' packets is refused to their sources (12 R456, R460). -/
def State.linkDown (s : State) (l : BitVec 6) (reason : Nat) : State :=
  let k := s.link l
  if k.state = 0 then s
  else
    let s := s.linkRecord 0x05 l false 0 reason
    let s := (s.dropKey l).onLink l (fun k => { (k.sendOn 0).receiveOn 0 with
      state := 0, txout := 0, rxtrain := 0, held := [], outq := [], inq := [], inStreams := [], slot := [], relaned := false
      resend := none, tries := 0, trains := 0, naked := false, nakDue := false, pause := 0, quietSent := false,
      peerQuiet := false, subs := [], copied := [], noted := 0, upSent := 0 })
    ((k.held.flatMap (fun e => e.2.2) ++ k.waiting).filter Packet.fwd).foldl State.cannotForward (s.failLink l)

/-- What waits to leave on a link without a key ends as R457 says. -/
def State.keyless (s : State) (l : BitVec 6) : State :=
  let ps := (s.link l).waiting
  let s := s.onLink l (fun k => { k with outq := k.outq.filter (fun o => match o with
    | .control _ => true
    | _ => false) })
  ps.foldl (fun s p =>
    let key := p.src.toNat * 4096 + p.rtag.toNat
    if p.fwd then s.cannotForward p
    else match tabFind key s.away with
      | some x => if x.link = l then (s.dropTag key).settleAway x [] (some x.lost) else s
      | none => s) s

/-- LK_ZERO: the key of a link is zeroised, and it returns to UP without key (12 R457, R460). -/
def State.zeroise (s : State) (l : BitVec 6) : State := (s.dropKey l).keyless l

/-! ### Flits as they are received (12 R433, R438 to R441, R459) -/

/-- The link runs, or is quiesced. -/
def Link.runs (k : Link) : Bool := k.state == 2 || k.state == linkUp || k.state == 4

/-- The fields of a flit. -/
def flitField (f : Flit) (lo n : Nat) : BitVec n := f.raw.extractLsb' lo n

/-- KIND. -/
def flitKind (f : Flit) : BitVec 4 := flitField f 40 4
/-- CLASS. -/
def flitCls (f : Flit) : BitVec 3 := flitField f 45 3
/-- ACK. -/
def flitAck (f : Flit) : BitVec 16 := flitField f 16 16

/-- Every beat is good, the CRC matches, and KIND and CLASS are not reserved (12 R433, R434, R438). -/
def flitSound (f : Flit) : Bool :=
  !f.bad && (flitKind f).toNat ≤ 3 && (flitCls f).toNat ≤ 4 &&
    (flitField f 96 32) == crc32 (imageBytes (flitField f 0 96) ++ imageBytes (flitField f 256 2048))

/-- The payload as its sender wrote it: a keyed link's must pass its tag; a link without a key takes control flits alone
(12 R438, R457, R459). The fault is true when the tag has failed. -/
def Link.payload (k : Link) (f : Flit) : Except Bool (BitVec 2048) :=
  match k.key with
  | none => if flitKind f = 3 then .ok (flitField f 256 2048) else .error false
  | some (key, salt) =>
    match gcmOpen key (flitIv salt k.peerDev k.peerLink k.rxEpoch (flitField f 0 16)) (flitAad (flitField f 0 96)) (flitField f 256 2048)
      (flitField f 128 128) with
    | some x => .ok x
    | none => .error true

/-- An ACK covers held flits (12 R433, R439). -/
def Link.acked (k : Link) (now : Word) (ack : BitVec 16) : Link :=
  let held := k.held.filter (fun e => !(decide (0 < (ack - e.1).toNat) && decide ((ack - e.1).toNat < 2 ^ 15)))
  if held.length < k.held.length then { k with held := held, tries := 0, trains := 0, ackAt := now } else k

/-- What any flit that passes its checks says of the other direction. -/
def Link.heard (now : Word) (f : Flit) (k : Link) : Link :=
  let k := k.acked now (flitAck f)
  { k with pause := (flitField f 32 8), resend := if f.raw.getLsbD 44 then some (flitAck f) else k.resend }

/-- A flit is discarded: a sequenced one sets NAK, once for the SEQ that is waited for (12 R439). -/
def Link.discard (f : Flit) (k : Link) : Link :=
  if flitKind f = 0 ∨ k.naked then k else { k with naked := true, nakDue := true }

/-- The link sends what may leave, or an idle flit when nothing may: so the peer learns what has been accepted (12 R434,
R439). -/
def State.replyFlit (s : State) (l : BitVec 6) : State :=
  let q := (s.link l).txSeq
  (s.pumpLink l).onLink l (fun k => if k.txSeq = q then k.putIdle else k)

/-- The corrected and the uncorrectable codewords that come with a flit are counted (12 R450). -/
def Link.count (k : Link) (n corr : Nat) (bad : Bool) : Link :=
  let c := (k.corr[n]?).getD 0
  let u := (k.uncorr[n]?).getD 0
  { k with
    corr := k.corr.setIfInBounds n (BitVec.ofNat 32 (min (c.toNat + corr) (2 ^ 32 - 1)))
    uncorr := if bad && u != 0xFFFF then k.uncorr.setIfInBounds n (u + 1) else k.uncorr }

/-- The contents of an accepted flit are handed on in order (12 R440). -/
def State.contents (s : State) (l : BitVec 6) (f : Flit) (x : BitVec 2048) : State :=
  match (flitKind f).toNat with
  | 1 => (packetsOf 8 (imageBytes x)).foldl (State.handOn l) s
  | 2 => s.onLink l (fun k => { k with inq := k.inq ++ [.stream (flitField f 48 16) (flitField f 64 32).toNat (imageBytes x)] })
  | _ => s.onLink l (fun k => { k with inq := k.inq ++ [.control x] })

/-- The control flit names an operation (12 R445). -/
def controlOk (f : Flit) (x : BitVec 2048) : Bool :=
  flitKind f != 3 || (x.extractLsb' 0 8 != 0 && decide ((x.extractLsb' 0 8).toNat ≤ 7))

/-- LANES of a control flit. -/
def ctlLanes (x : BitVec 2048) : BitVec 16 := x.extractLsb' 8 16

/-- STRIPE: the receiver switches; lanes that go are retrained, and lanes that come back are recorded (12 R443, R444). -/
def stripeIn (l : BitVec 6) (x : BitVec 2048) (s : State) : State :=
  let k := s.link l
  let set := ctlLanes x
  let back := set &&& ~~~k.rxact
  let gone := k.rxact &&& ~~~set
  let s := s.onLink l (fun k => { k.receiveOn set with
    rxtrain := (k.rxtrain &&& ~~~set) ||| (gone &&& ~~~k.dark &&& k.lmask), upSent := k.upSent &&& ~~~back
    noted := k.noted &&& ~~~back })
  if back = 0 then s else s.linkRecord 0x03 l true back 0

/-- The payload of an accepted control flit that names an operation. -/
def InItem.control? (op : BitVec 8) : InItem → Option (BitVec 2048)
  | .control x => if x.extractLsb' 0 8 = op then some x else none
  | _ => none

/-- A STRIPE that has been accepted is acted on before the flit that follows it is received (12 R443). -/
def State.settleStripe (s : State) (l : BitVec 6) : State :=
  let q := (s.link l).inq
  match q.findIdx? (fun o => (o.control? 4).isSome) with
  | none => s
  | some i => match (q[i]?).bind (InItem.control? 4) with
    | none => s
    | some x => stripeIn l x (s.onLink l (fun k => { k with inq := k.inq.eraseIdx i }))

/-- A slot has been received: the next flit's beats follow its own; after lanes have gone, the first sound flit is the first that
the peer has sent without them (12 R435, R442). -/
def Link.tookSlot (sound : Bool) (k : Link) : Link :=
  if k.relaned && !sound then k else { k with rxPos := afterFlit k.rxact k.rxPos, relaned := false }

/-- A lane has a bad beat in a slot. -/
def badOn (lanes : List (List (Option (BitVec 64)))) (n : Nat) : Bool := ((lanes[n]?).getD []).any Option.isNone

/-- FLIT_RECEIVE. -/
def State.receiveFlit (s : State) (l : BitVec 6) (lanes : List (List (Option (BitVec 64)))) (n corr : Nat) : State :=
  if !(s.link l).runs then s
  else
    let s := s.settleStripe l
    let k := s.link l
    let f := k.assemble lanes
    let s := s.onLink l (fun k => (k.count n corr (badOn lanes n)).tookSlot (flitSound f))
    let drop (s : State) : State := (s.onLink l (Link.discard f)).replyFlit l
    if !(flitSound f) then drop s
    else if flitKind f = 0 then (s.onLink l (Link.heard s.now f)).replyFlit l
    else if (flitField f 0 16) ≠ k.rxSeq then drop s
    else match k.payload f with
      | .error true =>
        let s := s.onLink l (fun k => { k with authFails := k.authFails + 1 })
        (s.linkRecord 0x07 l true 0 0).linkDown l 2
      | .error false => drop s
      | .ok x =>
        if controlOk f x then
          let s := s.onLink l (fun k => { Link.heard s.now f k with
            naked := false
            rxSeq := k.rxSeq + 1
            rxEpoch := if k.rxSeq = 0xFFFF then k.rxEpoch + 1 else k.rxEpoch })
          (s.contents l f x).replyFlit l
        else drop s

/-! ### Resends and retraining (12 R439, R444) -/

/-- Held flits, all of which an ACK does not cover, are sent again in SEQ order (12 R439). -/
def Link.sendAgain (k : Link) : Link :=
  if k.held.isEmpty then { k with resend := none }
  else k.held.foldl (fun k e => k.putAgain e.2.1) { k with resend := none, resends := k.resends + 1, tries := k.tries + 1 }

/-- The whole link is taken out of service for training (12 R444). -/
def Link.retrain (k : Link) : Link :=
  { (k.sendOn 0).receiveOn 0 with
    state := 5, rxtrain := 0, laneFails := Vector.replicate 16 0, retrains := k.retrains + 1,
    resend := none, tries := 0, noted := 0, upSent := 0, relaned := false }

/-- A resend is due: after 8 of one flit without progress the link is retrained instead, and after three retrains it goes down
(12 R439). -/
def State.resendOn (s : State) (l : BitVec 6) : State :=
  let k := s.link l
  if k.tries < 8 then (s.onLink l (fun k => { k.sendAgain with ackAt := s.now })).pumpLink l
  else if k.trains < 3 then s.onLink l (fun k => { k.retrain with trains := k.trains + 1, ackAt := s.now })
  else s.linkDown l 1

/-- NAK: at the next flit boundary held flits from ACK on are sent again. -/
def State.nakDone (s : State) (l : BitVec 6) : State := if (s.link l).resend.isSome then s.resendOn l else s

/-- REPLAY_TIMEOUT: without an advance of ACK for 2 µs the oldest held flit and those after it are sent again. -/
def State.replayTimeout (s : State) (l : BitVec 6) : State :=
  let k := s.link l
  if !k.runs || k.held.isEmpty || decide (s.now.toNat < k.ackAt.toNat + 2000) then s else s.resendOn l

/-! ### Training (12 R431, R444, R448, R455) -/

/-- The lanes of a link that may be used (12 R431, R444). -/
def laneSet (wide : Bool) (lmask bad : BitVec 16) : BitVec 16 := (if wide then 0xFFFF else 0x00FF) &&& lmask &&& ~~~bad

/-- HUB_IDENT of stepping A0 (00 R10). -/
def hubIdent : Word := 0x0000000120480000

/-- The FEATURE payload (12 R455): every OP and TY is applied, and every format converted. -/
def State.featurePayload (s : State) : BitVec 2048 :=
  payloadOf (leBytes 8 5 ++ leBytes 8 hubIdent.toNat ++ s.sec.accept.toList.flatMap (fun x => leBytes 8 x.toNat) ++
    leBytes 4 0xFFFFF ++ leBytes 2 0xFFFF ++ leBytes 2 s.dev.toNat ++ List.replicate 200 0)

/-- An odd engine whose even neighbour runs a wide link is disabled (12 R431). -/
def State.linkOff (s : State) (l : BitVec 6) : Bool := l.getLsbD 0 && (s.link (l - 1)).wideNow

/-- All lanes that can be have been trained together: the link runs, and says its FEATURE word (12 R444, R455). -/
def State.linkRuns (s : State) (l : BitVec 6) (lanes : BitVec 16) : State :=
  let s := s.onLink l (fun k => { (k.sendOn lanes).receiveOn lanes with
    txout := 0, rxtrain := 0
    state := if k.quiesce && k.quietSent && k.peerQuiet then 4 else if k.key.isSome then linkUp else 2 })
  s.offer l (.control s.featurePayload)

/-- The number that the fabric manager has given this device comes with the training of a link: bits 43:32 when bit 44 is set
(00 R7; 12 R451; log 131). -/
def State.takeNumber (s : State) (x : Word) : State :=
  if x.getLsbD 44 then { s with dev := x.extractLsb' 32 12 } else s

/-- LINK_TRAINING: a link with EN begins to train; then it is up, over the lanes that could be trained (all but `bad`), with
peer link engine `peer` (12 R431, R444, R448, R455). -/
def State.linkTraining (s : State) (l : BitVec 6) (bad : BitVec 16) (peer : Nat) : State :=
  let k := s.link l
  if !k.en || s.linkOff l then s
  else if k.state = 0 then
    let wide := k.wide && !l.getLsbD 0
    let s := s.onLink l (fun k => { k with
      state := 1, wideNow := wide, txSeq := 0, rxSeq := 0, txEpoch := 0, rxEpoch := 0, dark := 0
      laneFails := Vector.replicate 16 0 })
    if wide then s.linkDown (l + 1) 3 else s
  else if k.state = 1 then
    let lanes := laneSet k.wideNow k.lmask bad
    if lanes = 0 then s
    else
      let s := s.takeNumber s.focus.data
      let s := s.onLink l (fun k => { k with peerLink := BitVec.ofNat 6 peer })
      (s.linkRecord 0x06 l false lanes 0).linkRuns l lanes
  else s

/-- LINK_RETRAIN: the training of a whole link ends; when no lane could be trained it has failed (12 R439, R444). -/
def State.linkRetrained (s : State) (l : BitVec 6) (bad : BitVec 16) : State :=
  let k := s.link l
  if k.state ≠ 5 then s
  else
    let wide := k.wide && !l.getLsbD 0
    let lanes := laneSet wide k.lmask bad
    if lanes = 0 then
      if 3 ≤ k.trains + 1 then s.linkDown l 1 else s.onLink l (fun k => { k with trains := k.trains + 1 })
    else
      let s := s.onLink l (fun k => { (k.sendOn lanes).sendAgain with wideNow := wide, tries := 0, ackAt := s.now })
      s.linkRuns l lanes

/-! ### Lanes (12 R442 to R446) -/

/-- A STRIPE leaves on the old lanes, before any resend, and what follows it on those that it names (12 R443, R446). -/
def State.sendStripe (s : State) (l : BitVec 6) (lanes out : BitVec 16) : State :=
  (s.onLink l (fun k =>
    let k : Link := { k with outq := .control (controlWord 4 lanes 0) :: k.outq }
    { (k.emit s.dev l).sendOn lanes with txout := out })).pumpLink l

/-- LOSS_OF_LIGHT on receive lanes (12 R442, R446). -/
def State.lightLost (s : State) (l : BitVec 6) (lanes : BitVec 16) : State :=
  let k := s.link l
  let active := lanes &&& k.rxact
  let hit := lanes &&& (k.rxact ||| k.rxtrain)
  if hit = 0 then s
  else
    let s := s.onLink l (fun k =>
      let k := if active = 0 then k else { k.receiveOn (k.rxact &&& ~~~hit) with relaned := true }
      { k with rxtrain := k.rxtrain &&& ~~~hit, dark := k.dark ||| hit, upSent := k.upSent &&& ~~~hit })
    let s := s.linkRecord 0x01 l true hit k.rxSeq.toNat
    if active = 0 then s else s.offer l (.control (controlWord 1 active k.rxSeq))

/-- LIGHT_RETURN: lanes whose light is back are retrained in the background, but for those that have failed for good and
those never used (12 R444). -/
def State.lightBack (s : State) (l : BitVec 6) (lanes : BitVec 16) : State :=
  s.onLink l (fun k =>
    let back := lanes &&& k.dark
    let train := (lanesIn (back &&& k.lmask)).filter (fun i => decide ((k.laneFails[i]?).getD 0 < 4))
    { k with
      dark := k.dark &&& ~~~back
      rxtrain := k.rxtrain ||| train.foldl (fun m i => m ||| (1#16 <<< i)) 0 })

/-- LANE_WITHDRAWAL: lanes whose corrected bits exceed THRESH are named in one LANEOUT, unless none would be left
(12 R443, R446). -/
def State.withdrawLanes (s : State) (l : BitVec 6) : State :=
  let k := s.link l
  let over_ := (lanesIn (k.rxact &&& ~~~k.noted)).filter (fun i => decide (k.thresh.toNat < ((k.corr[i]?).getD 0).toNat))
  let out := over_.foldl (fun m i => m ||| (1#16 <<< i)) (0#16)
  let corr := (((k.corr[over_.headD 0]?).getD 0)).toNat
  if out = 0 ∨ !k.runs then s
  else
    let s := s.onLink l (fun k => { k with noted := k.noted ||| out })
    if k.rxact &&& ~~~out = 0 then s.linkRecord 0x02 l true out (corr + 2 ^ 63)
    else
      let s := s.onLink l (fun k => { k with wdrawn := over_.foldl (fun v i =>
        let w := (v[i]?).getD 0
        if w = 0xFF then v else v.setIfInBounds i (w + 1)) k.wdrawn })
      (s.linkRecord 0x02 l true out corr).offer l (.control (controlWord 2 out 0))

/-- CORR_WINDOW_END: the window of a lane ends (12 R443). -/
def State.windowEnd (s : State) (l : BitVec 6) (n : Nat) : State :=
  s.onLink l (fun k => { k with
    corr := k.corr.setIfInBounds n 0
    noted := if k.rxact.getLsbD n then k.noted &&& ~~~(1#16 <<< n) else k.noted })

/-- LANE_TRAINING_CHECK of a receive lane, with the corrected bits of its verification (12 R444). -/
def State.laneCheck (s : State) (l : BitVec 6) (n corr : Nat) : State :=
  let k := s.link l
  let bit := 1#16 <<< n
  if !k.rxtrain.getLsbD n || k.upSent.getLsbD n then s
  else if corr ≤ 1 then
    (s.onLink l (fun k => { k with laneFails := k.laneFails.setIfInBounds n 0, upSent := k.upSent ||| bit })).offer l
      (.control (controlWord 3 bit 0))
  else
    let fails := (k.laneFails[n]?).getD 0 + 1
    let s := s.onLink l (fun k => { k with laneFails := k.laneFails.setIfInBounds n fails })
    if fails < 4 then s
    else (s.onLink l (fun k => { k with rxtrain := k.rxtrain &&& ~~~bit })).linkRecord 0x04 l true bit 0

/-- The control flit at the head of what a link has accepted. -/
def Link.control? (k : Link) (op : BitVec 8) : Option (BitVec 2048) :=
  k.inq.head?.bind (InItem.control? op)

/-- A control flit is acted on. -/
def State.withControl (s : State) (l : BitVec 6) (op : BitVec 8) (g : BitVec 2048 → State → State) : State :=
  match (s.link l).control? op with
  | some x => g x (s.onLink l (fun k => { k with inq := k.inq.drop 1 }))
  | none => s

/-- LANEDOWN: the lanes are removed, and held flits are sent again from NEXT on (12 R442). -/
def laneDown (l : BitVec 6) (x : BitVec 2048) (s : State) : State :=
  let next : BitVec 16 := x.extractLsb' 24 16
  let s := s.onLink l (fun k => { ((k.acked s.now next).sendOn (k.txact &&& ~~~ctlLanes x)).sendAgain with
    txout := k.txout ||| ctlLanes x })
  (s.linkRecord 0x01 l false (ctlLanes x) next.toNat).pumpLink l

/-- LANEOUT: a STRIPE names the lanes that are left (12 R443). -/
def laneOut (l : BitVec 6) (x : BitVec 2048) (s : State) : State :=
  let k := s.link l
  let left := k.txact &&& ~~~ctlLanes x
  if left = 0 ∨ !k.runs then s
  else (s.sendStripe l left (k.txout ||| ctlLanes x)).linkRecord 0x02 l false (ctlLanes x) 0

/-- LANEUP: a STRIPE hands the lanes back, but for those never used (12 R444). -/
def laneUp (l : BitVec 6) (x : BitVec 2048) (s : State) : State :=
  let k := s.link l
  let back := ctlLanes x &&& k.lmask
  if !k.runs then s
  else (s.sendStripe l (k.txact ||| back) (k.txout &&& ~~~back)).linkRecord 0x03 l false back 0

/-- A STRIPE is due when the control flit at the head is a LANEOUT or a LANEUP; it needs a place in the replay buffer (12 R439,
R443). -/
def State.withLanes (s : State) (l : BitVec 6) (op : BitVec 8) (g : BitVec 2048 → State → State) : State :=
  if 1024 ≤ (s.link l).held.length then s else s.withControl l op g

/-- FEATURE: the payload is stored (12 R449, R455). -/
def featureIn (l : BitVec 6) (x : BitVec 2048) (s : State) : State :=
  s.onLink l (fun k => { k with pfeat := x.extractLsb' 0 512, peerDev := x.extractLsb' 432 12 })

/-! ### Device time (12 R451; 10 R381) -/

/-- This device is the group's master: no device that its links and routes name has a lower number. -/
def State.master (s : State) : Bool :=
  !s.links.any (fun (_, k) => k.pfeat != 0 && decide (k.peerDev.toNat < s.dev.toNat)) &&
    !s.routes.toList.any (fun r => r.getLsbD 19 && decide ((r.extractLsb' 0 12).toNat < s.dev.toNat))

/-- DT_SYNC of an estimated offset: LOCK while it is at most 20 ns. -/
def syncWord (err : BitVec 16) : Word := 0#32 ++ err ++ 0#15 ++ BitVec.ofBool (decide (err.toNat ≤ 20))

/-- TIMESYNC: one that has come is noted, and the offset from the master estimated (how is free: log 4); without one, this
device's own is sent (12 R451). -/
def State.timeSync (s : State) (l : BitVec 6) : State :=
  match (s.link l).control? 6 with
  | some _ =>
    let s := s.onLink l (fun k => { k with inq := k.inq.drop 1, peerTime := s.now })
    { s with dtSync := if s.master then syncWord 0 else syncWord ((s.free 0).setWidth 16) }
  | none =>
    let k := s.link l
    if k.runs then s.offer l (.control (0#1856 ++ k.peerTime ++ s.now ++ 6#64)) else s

/-! ### Quiescing (12 R454) -/

/-- Every stream of the link has completed. -/
def Link.streamless (k : Link) : Bool := k.inStreams.isEmpty && k.outStreams.isEmpty

/-- LK_QUIESCE: QUIESCE is set, or cleared. -/
def State.setQuiesce (s : State) (l : BitVec 6) (on : Bool) : State :=
  if (s.link l).quiesce = on then s
  else if on then s.onLink l (fun k => { k with quiesce := true })
  else (s.onLink l (fun k => { k with
    quiesce := false, quietSent := false, peerQuiet := false
    state := if k.state = 4 then (if k.key.isSome then linkUp else 2) else k.state })).pumpLink l

/-- QUIESCED: the peer's flit answers this device's, or is answered; a link whose streams are over sends its own, and is
QUIESCED when the replay buffer is empty and the peer has answered. -/
def State.quiescedStep (s : State) (l : BitVec 6) : State :=
  let k := s.link l
  match k.control? 7 with
  | some _ =>
    let s := s.onLink l (fun k => { k with inq := k.inq.drop 1 })
    if k.quietSent && !k.peerQuiet then s.onLink l (fun k => { k with peerQuiet := true })
    else s.offer l (.control (controlWord 7 0 0))
  | none =>
    if !k.quiesce || k.state == 4 || !k.runs || !k.streamless then s
    else if !k.quietSent then (s.onLink l (fun k => { k with quietSent := true })).offer l (.control (controlWord 7 0 0))
    else if k.held.isEmpty && k.peerQuiet then s.onLink l (fun k => { k with state := 4 })
    else s

/-! ### Streams that arrive (12 R437, R456) -/

/-- STREAM_OPEN: a stream is announced; its range is checked at the home. -/
def State.openIn (s : State) (l : BitVec 6) : State :=
  match (s.link l).inq with
  | .open_ p :: rest =>
    let n := leNat (p.data.take 8) / 2 ^ 16
    let ok := (s.peerReq l p 0 (256 * n) p.access).toOption.isSome
    s.onLink l (fun k => { k with
      inq := rest, inStreams := k.inStreams ++ [⟨p.streamNum, p, n, 0, ok⟩] })
  | _ => s

/-- A write of 128 bytes of a stream goes to its memory, or counts as refused. -/
def State.streamWrite (s : State) (l : BitVec 6) (x : InStream) (a : Nat) (bs : List Byte) : State :=
  match s.peerReq l { x.head with addr := a } (streamTag x.num) 128 (.write a bs []) with
  | .ok r => s.dispatch r
  | .error _ => s.onLink l (fun k => { k with inStreams := k.inStreams.map (fun y =>
      if y.num = x.num then { y with written := y.written + 1, ok := false } else y) })

/-- STREAM_DATA: 256 bytes are written at their offset. -/
def State.dataIn (s : State) (l : BitVec 6) : State :=
  match (s.link l).inq with
  | .stream num off bs :: rest =>
    let s := s.onLink l (fun k => { k with inq := rest })
    match (s.link l).inStreams.find? (fun x => x.num == num) with
    | none => s
    | some x =>
      let a := x.head.addr + 256 * off
      (s.streamWrite l x a (bs.take 128)).streamWrite l x (a + 128) (bs.drop 128)
  | _ => s

/-- STREAM_DONE: a stream whose every byte has been performed is over: its source is told. -/
def State.streamEnd (s : State) (l : BitVec 6) : State :=
  match (s.link l).inStreams.find? (fun x => decide (2 * x.flits ≤ x.written)) with
  | none => s
  | some x =>
    let s := s.onLink l (fun k => { k with inStreams := k.inStreams.filter (fun y => y.num != x.num) })
    s.tellStream x.head x.num (if x.ok then none else some ⟨0x20, BitVec.ofNat 64 x.head.addr, 11⟩)

/-! ### Job keys (12 R458, R461) -/

/-- KL_GO: the load starts. -/
def State.klGo (s : State) : State := { s with sec := { s.sec with klBusy := true, klFailed := false } }

/-- A link whose replay buffer is empty takes the key that waits for it (12 R461). -/
def State.installKey (s : State) (l : BitVec 6) : State :=
  let k := s.link l
  if k.newKey.isNone || !k.held.isEmpty then s
  else
    let s := s.onLink l (fun k => { k with
      key := k.newKey, newKey := none, txSeq := 0, txEpoch := 0, rxSeq := 0, rxEpoch := 0
      state := if k.state = 2 then linkUp else k.state })
    (s.linkRecord 0x09 l false 0 0).pumpLink l

/-- KEY_INSTALL: the key is unwrapped and given to the links named, or the load has failed; each link takes it when it can. -/
def State.keyInstall (s : State) : State :=
  let x := s.sec
  let all := List.range 64
  let s :=
    if x.klBusy then
      match unwrapKey x.klEpub x.klWrap (x.klJob.setWidth 32) with
      | none => { s with sec := { x with klBusy := false, klFailed := true } }
      | some key =>
        let s := { s with sec := { x with klBusy := false } }
        (all.filter (fun l => x.klLinks.getLsbD l)).foldl (fun s l =>
          s.onLink (BitVec.ofNat 6 l) (fun k => { k with newKey := some (key, x.klJob.extractLsb' 32 16) })) s
    else s
  all.foldl (fun s l => s.installKey (BitVec.ofNat 6 l)) s

/-! ### Meanings -/

/-- FLIT_RECEIVE of the beats `focus.beats` on `focus.link`; a codeword of lane `focus.n` ends with them, with `focus.data` bits
corrected (12 R432, R435, R438). -/
def execFlitReceive (s : State) : Host.Outcome State Fault Refusal :=
  .next (s.receiveFlit s.focus.link s.focus.beats s.focus.n s.focus.data.toNat)

/-- NAK on `focus.link` (12 R439). -/
def execNak (s : State) : Host.Outcome State Fault Refusal := .next (s.nakDone s.focus.link)

/-- REPLAY_TIMEOUT on `focus.link` (12 R439). -/
def execReplayTimeout (s : State) : Host.Outcome State Fault Refusal := .next (s.replayTimeout s.focus.link)

/-- LINK_RETRAIN of `focus.link`: all lanes but those of `focus.data` have been trained (12 R444). -/
def execLinkRetrain (s : State) : Host.Outcome State Fault Refusal :=
  .next (s.linkRetrained s.focus.link (s.focus.data.setWidth 16))

/-- LOSS_OF_LIGHT on the receive lanes `focus.data` of `focus.link` (12 R442). -/
def execLossOfLight (s : State) : Host.Outcome State Fault Refusal :=
  .next (s.lightLost s.focus.link (s.focus.data.setWidth 16))

/-- LIGHT_RETURN on the receive lanes `focus.data` of `focus.link` (12 R444). -/
def execLightReturn (s : State) : Host.Outcome State Fault Refusal :=
  .next (s.lightBack s.focus.link (s.focus.data.setWidth 16))

/-- LANEDOWN accepted on `focus.link` (12 R442). -/
def execLanedown (s : State) : Host.Outcome State Fault Refusal := .next (s.withControl s.focus.link 1 (laneDown s.focus.link))

/-- LANEOUT accepted on `focus.link` (12 R443). -/
def execLaneout (s : State) : Host.Outcome State Fault Refusal := .next (s.withLanes s.focus.link 2 (laneOut s.focus.link))

/-- LANEUP accepted on `focus.link` (12 R444). -/
def execLaneup (s : State) : Host.Outcome State Fault Refusal := .next (s.withLanes s.focus.link 3 (laneUp s.focus.link))

/-- STRIPE accepted on `focus.link` (12 R443, R444). -/
def execStripe (s : State) : Host.Outcome State Fault Refusal := .next (s.withControl s.focus.link 4 (stripeIn s.focus.link))

/-- FEATURE accepted on `focus.link` (12 R455). -/
def execFeature (s : State) : Host.Outcome State Fault Refusal := .next (s.withControl s.focus.link 5 (featureIn s.focus.link))

/-- TIMESYNC on `focus.link` (12 R451). -/
def execTimesync (s : State) : Host.Outcome State Fault Refusal := .next (s.timeSync s.focus.link)

/-- QUIESCED on `focus.link` (12 R454). -/
def execQuiesced (s : State) : Host.Outcome State Fault Refusal := .next (s.quiescedStep s.focus.link)

/-- LANE_WITHDRAWAL on `focus.link` (12 R443). -/
def execLaneWithdrawal (s : State) : Host.Outcome State Fault Refusal := .next (s.withdrawLanes s.focus.link)

/-- CORR_WINDOW_END of lane `focus.n` of `focus.link` (12 R443). -/
def execCorrWindowEnd (s : State) : Host.Outcome State Fault Refusal := .next (s.windowEnd s.focus.link s.focus.n)

/-- LANE_TRAINING_CHECK of lane `focus.n` of `focus.link`, with `focus.data` bits corrected (12 R444). -/
def execLaneTrainingCheck (s : State) : Host.Outcome State Fault Refusal :=
  .next (s.laneCheck s.focus.link s.focus.n s.focus.data.toNat)

/-- STREAM_OPEN on `focus.link` (12 R437). -/
def execStreamOpen (s : State) : Host.Outcome State Fault Refusal := .next (s.openIn s.focus.link)

/-- STREAM_DATA on `focus.link` (12 R437). -/
def execStreamData (s : State) : Host.Outcome State Fault Refusal := .next (s.dataIn s.focus.link)

/-- STREAM_DONE on `focus.link` (12 R437). -/
def execStreamDone (s : State) : Host.Outcome State Fault Refusal := .next (s.streamEnd s.focus.link)

/-- LINK_DOWN of `focus.link`: EN has been cleared, or the engine is off beside a wide link (12 R431, R448, R456). -/
def execLinkDown (s : State) : Host.Outcome State Fault Refusal :=
  .next (if !(s.link s.focus.link).en || s.linkOff s.focus.link then s.linkDown s.focus.link 3 else s)

/-- LINK_TRAINING of `focus.link`: peer engine `focus.n`, and all lanes but those of `focus.data` can be trained (12 R448,
R455). -/
def execLinkTraining (s : State) : Host.Outcome State Fault Refusal :=
  .next (s.linkTraining s.focus.link (s.focus.data.setWidth 16) s.focus.n)

/-- LK_RETRAIN of `focus.link` (12 R444, R448). -/
def execLkRetrain (s : State) : Host.Outcome State Fault Refusal :=
  .next (if (s.link s.focus.link).runs then s.onLink s.focus.link Link.retrain else s)

/-- LK_ZERO of `focus.link` (12 R460). -/
def execLkZero (s : State) : Host.Outcome State Fault Refusal := .next (s.zeroise s.focus.link)

/-- LK_QUIESCE of `focus.link`: set, or cleared when `focus.data` is 0 (12 R454). -/
def execLkQuiesce (s : State) : Host.Outcome State Fault Refusal := .next (s.setQuiesce s.focus.link (s.focus.data != 0))

/-- KL_GO (12 R458). -/
def execKlGo (s : State) : Host.Outcome State Fault Refusal := .next s.klGo

/-- KEY_INSTALL (12 R458, R461). -/
def execKeyInstall (s : State) : Host.Outcome State Fault Refusal := .next s.keyInstall

end Sys2Proof.Machine
end

