-- ==== Sys2Proof/Machine/Registers.lean ====
section
/-! DEFINITION. The registers of the hub register block and the cluster control blocks: what each reads as, and what a write
of bits under a mask does (00 R5, R6, R10; 01 R35 to R37, R46; 05 R185; 08 R261, R262, R301; 10 R356, R357, R376, R381; 12
R447 to R450, R452, R458, R464; 13 R477, R480). -/

namespace Sys2Proof.Machine

/-- Bits of `rw` that a write's mask covers take the new value (00 R5, R6). -/
def mergeBits (rw mask old new : Word) : Word := (old &&& ~~~(rw &&& mask)) ||| (new &&& rw &&& mask)

/-- 64-bit word `i` of a wide register. -/
def wordOf {n : Nat} (v : BitVec n) (i : Nat) : Word := v.extractLsb' (64 * i) 64

/-- Word `i` of a wide register replaced. -/
def putWord {n : Nat} (v : BitVec n) (i : Nat) (x : Word) : BitVec n :=
  (v &&& ~~~((BitVec.allOnes 64).setWidth n <<< (64 * i))) ||| (x.setWidth n <<< (64 * i))

/-- Ones at bits `hi` to `lo`. -/
def ones (hi lo : Nat) : Word := BitVec.ofNat 64 (2 ^ (hi + 1) - 2 ^ lo)

/-! ### Work scheduler (10 R356, R357) -/

/-- The word of QCFGn. -/
def State.readQueue (s : State) (n i : Nat) : Word :=
  let q := s.queue n
  if i = 0 then q.pass.extractLsb' 0 32 ++ 0#11 ++ q.tickets ++ 0#3 ++ BitVec.ofBool q.en ++ q.part
  else BitVec.ofNat 32 (min (s.unitsQueued q) (2 ^ 32 - 1)) ++ 0#23 ++ BitVec.ofBool q.active ++ q.pass.extractLsb' 32 8

/-- QCFGn written: TICKETS of 0 or above 4,096 is ignored. -/
def State.writeQueue (s : State) (n i : Nat) (mask v : Word) : State :=
  if i ≠ 0 then s
  else
    let x := mergeBits (ones 4 0 ||| ones 20 8) mask (s.readQueue n 0) v
    let t := fieldN x.toNat 8 13
    s.changeQueue n (fun q => { q with
      part := x.extractLsb' 0 4, en := x.getLsbD 4
      tickets := if 1 ≤ t ∧ t ≤ 4096 then BitVec.ofNat 13 t else q.tickets })

/-- The writable bits of word `i` of PBLOCKp. -/
def pblockMask (i : Nat) : Word :=
  match i with
  | 0 | 1 => BitVec.allOnes 64
  | 2 | 4 | 6 | 8 | 10 => ones 51 0
  | 3 => ones 23 0
  | 5 => ones 15 0
  | 7 => ones 31 0
  | 9 => ones 39 0
  | _ => 0

/-- A word of the scheduler block. -/
def State.readSched (s : State) (o : Nat) : Word :=
  if o < 0x1000 then s.readQueue (o / 16) (o / 8 % 2)
  else if o = 0x1000 then s.gpass.setWidth 64
  else if o = 0x1010 then s.gstat
  else if 0x2000 ≤ o ∧ o < 0x2800 then wordOf (s.part (BitVec.ofNat 4 ((o - 0x2000) / 128))).pblock (o / 8 % 16)
  else 0

/-- A word of the scheduler block written; RESUME has a step of its own. -/
def State.writeSched (s : State) (o : Nat) (mask v : Word) : State :=
  if o < 0x1000 then s.writeQueue (o / 16) (o / 8 % 2) mask v
  else if 0x2000 ≤ o ∧ o < 0x2800 then
    let i := o / 8 % 16
    s.onPart (BitVec.ofNat 4 ((o - 0x2000) / 128)) (fun p => { p with
      pblock := putWord p.pblock i (mergeBits (pblockMask i) mask (wordOf p.pblock i) v) })
  else s

/-! ### Hub handover engine (08 R261) -/

/-- The word of a partition's block. -/
def State.readHandover (s : State) (p : BitVec 4) (i : Nat) : Word :=
  let x := s.part p
  match i with
  | 0 => x.btbl.setWidth 64
  | 1 => x.cslen ++ x.btlen
  | 2 => x.cstore.setWidth 64
  | 3 => x.hpool
  | 4 => x.hplen.setWidth 64
  | 5 => x.faultmb.setWidth 64
  | 6 => BitVec.ofNat 64 x.orphans.length
  | _ => 0

/-- A partition's block written; bits that must be zero stay zero. -/
def State.writeHandover (s : State) (p : BitVec 4) (i : Nat) (mask v : Word) : State :=
  let old := s.readHandover p i
  let new (rw : Word) : Word := mergeBits rw mask old v
  s.onPart p (fun x => match i with
    | 0 => { x with btbl := (new (ones 51 6)).setWidth 52 }
    | 1 => let w := new (BitVec.allOnes 64); { x with btlen := w.setWidth 32, cslen := w.extractLsb' 32 32 }
    | 2 => { x with cstore := (new (ones 51 10)).setWidth 52 }
    | 3 => { x with hpool := new (ones 63 16) }
    | 4 => { x with hplen := (new (ones 39 16)).setWidth 40 }
    | 5 => { x with faultmb := (new (ones 16 0)).setWidth 17 }
    | _ => x)

/-! ### Sluice configuration spaces (08 R301, R303) -/

/-- A sluice by its index. -/
def State.setSluice (s : State) (a : Nat) (x : Sluice) : State :=
  if isCompute a then s.onCore a (fun c => { c with sluice := x }) else s.onSvc a (fun v => { v with sluice := x })

/-- Word `i` of a sluice's configuration space. -/
def State.readSluice (s : State) (a i : Nat) : Word :=
  let x := s.sluiceOf a
  if i = 0 then 0#32 ++ x.pool ++ 0#8 ++ BitVec.ofBool x.en ++ BitVec.ofBool x.perr ++ sluiceKind a ++ x.part
  else if i < 9 then (x.mbr[i - 1]?).getD 0
  else if i < 25 then wordOf ((x.win[(i - 9) / 2]?).getD 0) ((i - 9) % 2)
  else 0

/-- A continuation is resident on a compute core. -/
def State.occupied (s : State) (a : Nat) : Bool := isCompute a && (s.core a).res.isSome

/-- Word 0 of a sluice's space: PART is not written while a continuation is resident, and PERR says so (08 R303). -/
def State.writeSluiceHead (s : State) (a : Nat) (mask v : Word) : State :=
  let x := s.sluiceOf a
  let w := mergeBits (ones 3 0 ||| ones 7 7 ||| ones 31 16) mask (s.readSluice a 0) v
  let part : BitVec 4 := w.extractLsb' 0 4
  let clear := mask.getLsbD 6 && v.getLsbD 6
  let refused : Bool := s.occupied a && mask &&& 0xF != 0
  s.setSluice a { x with
    part := if refused then x.part else part
    perr := refused || (x.perr && !clear)
    en := w.getLsbD 7
    pool := if isCompute a then w.extractLsb' 16 16 else x.pool }

/-- A word of a sluice's configuration space written (08 R301, R303). -/
def State.writeSluice (s : State) (a i : Nat) (mask v : Word) : State :=
  let x := s.sluiceOf a
  let new (rw : Word) : Word := mergeBits rw mask (s.readSluice a i) v
  if i = 0 then s.writeSluiceHead a mask v
  else if i < 9 then s.setSluice a { x with mbr := x.mbr.setIfInBounds (i - 1) (new (ones 47 0 ||| ones 63 63)) }
  else if i < 25 then
    let j := (i - 9) / 2
    let rw := if (i - 9) % 2 = 0 then ones 1 0 ||| ones 51 12 else ones 51 12
    s.setSluice a { x with win := x.win.setIfInBounds j (putWord ((x.win[j]?).getD 0) ((i - 9) % 2) (new rw)) }
  else s

/-! ### Security controller (13 R477, R480) -/

/-- The sluice index of core control register `i` (13 R477). -/
def controlled (i : Nat) : Nat := 2048 + i

/-- THERM: a cluster is thermally throttled (13 R480, R485). -/
def State.therm (s : State) : Bool := s.clusters.any (fun e => e.2.throttled)

/-- A word of the security-controller block. -/
def State.readSec (s : State) (o : Nat) : Word :=
  let x := s.sec
  if o = 0 then 0#32 ++ x.fwver ++ x.fail ++ 0#3 ++ BitVec.ofBool s.therm ++ x.state
  else if o = 8 then boolWord x.lock
  else if o = 0x18 then x.cfgst.setWidth 64
  else if 0x1000 ≤ o ∧ o < 0x1040 then (x.llcCorr[(o - 0x1000) / 8]?).getD 0
  else if 0x1040 ≤ o ∧ o < 0x10C0 then (x.hbmCorr[(o - 0x1040) / 8]?).getD 0
  else if o = 0x10C0 then x.unowned
  else if 0x8000 ≤ o ∧ o < 0x8000 + 16 * 136 then
    let v := s.svc (controlled ((o - 0x8000) / 16))
    if o % 16 = 0 then 0#48 ++ v.cause ++ 0#5 ++ BitVec.ofBool v.halted ++ 0#2 else v.rpc
  else 0

/-! ### CXL ports (12 R464) -/

/-- A word of a port's block. -/
def HostPort.read (p : HostPort) (o : Nat) : Word :=
  if o = 0 then 0#32 ++ p.cmsi ++ 0#14 ++ BitVec.ofBool p.evmsi ++ BitVec.ofBool p.rawen
  else if o = 8 then 0#57 ++ BitVec.ofBool p.bien ++ BitVec.ofBool p.up ++ p.width
  else if o = 0x10 then p.bistall.setWidth 64
  else 0

/-- A word of a port's block written. -/
def HostPort.write (p : HostPort) (o : Nat) (mask v : Word) : HostPort :=
  if o = 0 then
    let w := mergeBits (ones 1 0 ||| ones 31 16) mask (p.read 0) v
    { p with rawen := w.getLsbD 0, evmsi := w.getLsbD 1, cmsi := w.extractLsb' 16 16 }
  else if o = 0x10 then { p with bistall := (mergeBits (ones 31 0) mask (p.read 0x10) v).setWidth 32 }
  else p

/-! ### Link engines (12 R447 to R450, R452, R458) -/

/-- A word of a link engine's block; the route table and the key-load block lie in engine 0's. -/
def State.readLink (s : State) (l : BitVec 6) (o : Nat) : Word :=
  let k := s.link l
  if o = 0 then 0#32 ++ k.lmask ++ 0#8 ++ k.part ++ 0#1 ++ BitVec.ofBool k.quiesce ++ BitVec.ofBool k.wide ++ BitVec.ofBool k.en
  else if o = 8 then 0#38 ++ k.peerLink ++ k.peerDev ++ 0#4 ++ BitVec.ofBool k.key.isSome ++ k.state
  else if o = 0x10 then k.rxtrain ++ k.txout ++ k.rxact ++ k.txact
  else if o = 0x18 then k.thresh.setWidth 64
  else if o = 0x20 then k.retrains ++ k.resends
  else if o = 0x28 then k.authFails.setWidth 64
  else if 0x40 ≤ o ∧ o < 0xC0 then
    let n := (o - 0x40) / 8
    0#8 ++ (k.wdrawn[n]?).getD 0 ++ (k.uncorr[n]?).getD 0 ++ (k.corr[n]?).getD 0
  else if 0x100 ≤ o ∧ o < 0x140 then wordOf k.pfeat ((o - 0x100) / 8)
  else if l = 0 ∧ 0x1000 ≤ o ∧ o < 0x1200 then (s.routes[(o - 0x1000) / 8]?).getD 0
  else if l = 0 ∧ o = 0x20A0 then 0#62 ++ BitVec.ofBool s.sec.klFailed ++ BitVec.ofBool s.sec.klBusy
  else 0

/-- A word of the key-load block written. -/
def Security.writeKey (x : Security) (o : Nat) (mask v : Word) : Security :=
  if o = 0x2000 then { x with klLinks := mergeBits (BitVec.allOnes 64) mask x.klLinks v }
  else if o = 0x2008 then { x with klJob := mergeBits (ones 47 0) mask x.klJob v }
  else if o < 0x2070 then
    let i := (o - 0x2010) / 8
    { x with klEpub := putWord x.klEpub i (mergeBits (BitVec.allOnes 64) mask (wordOf x.klEpub i) v) }
  else if o < 0x2098 then
    let i := (o - 0x2070) / 8
    { x with klWrap := putWord x.klWrap i (mergeBits (BitVec.allOnes 64) mask (wordOf x.klWrap i) v) }
  else x

/-- A word of a link engine's block written; ZERO, RETRAIN, QUIESCE and KL_GO have steps of their own,
and a change of PART zeroises the link's key (12 R460). -/
def State.writeLink (s : State) (l : BitVec 6) (o : Nat) (mask v : Word) : State :=
  let k := s.link l
  if o = 0 then
    let w := mergeBits ((if l.getLsbD 0 then 1 else 3) ||| ones 7 4 ||| ones 31 16) mask (s.readLink l 0) v
    let s := if w.extractLsb' 4 4 = k.part then s else s.zeroise l
    s.onLink l (fun k => { k with
      en := w.getLsbD 0, wide := w.getLsbD 1, part := w.extractLsb' 4 4, lmask := w.extractLsb' 16 16 })
  else if o = 0x18 then s.onLink l (fun k => { k with thresh := (mergeBits (ones 15 0) mask (s.readLink l o) v).setWidth 16 })
  else if l = 0 ∧ 0x1000 ≤ o ∧ o < 0x1200 then
    { s with routes := s.routes.setIfInBounds ((o - 0x1000) / 8) (mergeBits (ones 19 0) mask (s.readLink l o) v) }
  else if l = 0 ∧ 0x2000 ≤ o ∧ o < 0x2098 then { s with sec := s.sec.writeKey o mask v }
  else s

/-! ### The hub register block (01 R35, R36) -/

/-- A 64-bit word of the hub register block; reserved offsets read zero. -/
def State.readHub (s : State) (o : Nat) : Word :=
  if o = 0 then hubIdent
  else if o = 0x100 then 0xF
  else if 0x120 ≤ o ∧ o < 0x140 then (s.sec.accept[(o - 0x120) / 8]?).getD 0
  else if o = 0x1000 then s.now
  else if o = 0x1008 then s.dtSync
  else if 0x10000 ≤ o ∧ o < 0x20000 then s.readSched (o - 0x10000)
  else if 0x20000 ≤ o ∧ o < 0x20400 then s.readHandover (BitVec.ofNat 4 ((o - 0x20000) / 64)) (o / 8 % 8)
  else if 0x100000 ≤ o ∧ o < 0x100000 + 256 * 2184 then s.readSluice ((o - 0x100000) / 256) (o / 8 % 32)
  else if 0x200000 ≤ o ∧ o < 0x210000 then s.readSec (o - 0x200000)
  else if 0x400000 ≤ o ∧ o < 0x500000 then (s.ports[0]).read (o - 0x400000)
  else if 0x500000 ≤ o ∧ o < 0x600000 then (s.ports[1]).read (o - 0x500000)
  else if 0x800000 ≤ o ∧ o < 0xC00000 then s.readLink (BitVec.ofNat 6 ((o - 0x800000) / 65536)) (o % 65536)
  else 0

/-- HUB_ACCEPT written: bits that are offered, while LOCK is clear (01 R36; 13 R481). -/
def State.writeAccept (s : State) (o : Nat) (mask v : Word) : State :=
  let i := (o - 0x120) / 8
  if s.sec.lock then s
  else { s with sec := { s.sec with
    accept := s.sec.accept.setIfInBounds i (mergeBits (if i = 0 then 0xF else 0) mask ((s.sec.accept[i]?).getD 0) v) } }

/-- A plain word of the hub register block written. -/
def State.writeHub (s : State) (o : Nat) (mask v : Word) : State :=
  if 0x10000 ≤ o ∧ o < 0x20000 then s.writeSched (o - 0x10000) mask v
  else if 0x20000 ≤ o ∧ o < 0x20400 then s.writeHandover (BitVec.ofNat 4 ((o - 0x20000) / 64)) (o / 8 % 8) mask v
  else if 0x208000 ≤ o ∧ o < 0x208000 + 16 * 136 ∧ o % 16 = 8 then
    s.onSvc (controlled ((o - 0x208000) / 16)) (fun x => { x with rpc := mergeBits (BitVec.allOnes 64) mask x.rpc v })
  else if 0x400000 ≤ o ∧ o < 0x500000 then { s with ports := s.ports.set 0 ((s.ports[0]).write (o - 0x400000) mask v) }
  else if 0x500000 ≤ o ∧ o < 0x600000 then { s with ports := s.ports.set 1 ((s.ports[1]).write (o - 0x500000) mask v) }
  else if 0x800000 ≤ o ∧ o < 0xC00000 then s.writeLink (BitVec.ofNat 6 ((o - 0x800000) / 65536)) (o % 65536) mask v
  else s

/-! ### Cluster control blocks (01 R46; 05 R185; 08 R262; 10 R376; 13 R480) -/

/-- A 64-bit word of a cluster control block. -/
def State.readControl (s : State) (cl o : Nat) : Word :=
  let c := s.cluster cl
  if o < 0x80 then (c.xbase[o / 8]?).getD 0
  else if o = 0x80 then c.iva
  else if o = 0x88 then BitVec.ofBool c.inval.isSome ++ 0#57 ++ c.invalCtl
  else if 0x1000 ≤ o ∧ o < 0x1200 then (c.bf[(o - 0x1000) / 8]?).getD 0
  else if o = 0x2000 then c.cpool
  else if 0x3000 ≤ o ∧ o < 0x3800 then wordOf (s.bar cl ((o - 0x3000) / 32)) (o / 8 % 4)
  else if 0x3800 ≤ o ∧ o < 0x3880 then (c.barmask[(o - 0x3800) / 8]?).getD 0
  else if o = 0x4000 then c.sramCorr
  else 0

/-- A plain word of a cluster control block written; XLAT_INVAL has steps of its own, but for SCOPE 0b11, which starts
nothing. -/
def State.writeControl (s : State) (cl o : Nat) (mask v : Word) : State :=
  let new (rw : Word) : Word := mergeBits rw mask (s.readControl cl o) v
  s.onCluster cl (fun c =>
    if o < 0x80 then { c with xbase := c.xbase.setIfInBounds (o / 8) (new (ones 51 15 ||| 1)) }
    else if o = 0x80 then { c with iva := new (ones 63 16) }
    else if o = 0x88 then { c with invalCtl := (new (ones 5 0)).setWidth 6 }
    else if 0x1000 ≤ o ∧ o < 0x1200 then
      { c with bf := c.bf.setIfInBounds ((o - 0x1000) / 8) (new (ones 25 16 ||| ones 13 8 ||| ones 3 0)) }
    else if o = 0x2000 then { c with cpool := new (BitVec.allOnes 64) }
    else if 0x3800 ≤ o ∧ o < 0x3880 then
      { c with barmask := c.barmask.setIfInBounds ((o - 0x3800) / 8) (new (BitVec.allOnes 64)) }
    else c)

/-! ### Any register -/

/-- The 64-bit register word at an aligned physical address. -/
def State.readReg (s : State) (a : Nat) : Word :=
  match placeOf a with
  | .hub o => s.readHub o
  | .control cl o => s.readControl cl o
  | _ => 0

/-- `n` bytes of register space, as a number. -/
def State.readRegs (s : State) (a n : Nat) : Word :=
  BitVec.ofNat 64 (leNat ((List.range n).map (fun i => imageByte (s.readReg ((a + i) / 8 * 8)) ((a + i) % 8))))

/-- REGISTER_WRITE: bits under a mask of the register word at an address (00 R5). -/
def State.writeReg (s : State) (a : Nat) (mask v : Word) : State :=
  match placeOf a with
  | .hub o => s.writeHub o mask v
  | .control cl o => s.writeControl cl o mask v
  | _ => s

/-- The steps that a write of bits under a mask makes, at an aligned physical address: plain bits are stored, and a bit with
a behaviour of its own has its step (01 R46; 08 R303; 10 R357; 12 R448, R458; 13 R477, R480 to R482). The address, the mask
and the value stand in `focus.addr`, `focus.n` and `focus.data`. -/
def regSteps (s : State) (a : Nat) (mask v : Word) : List (Instr × Focus) :=
  let x := v &&& mask
  let f : Focus := { addr := a, n := mask.toNat, data := v }
  match placeOf a with
  | .hub o =>
    if 0x120 ≤ o ∧ o < 0x140 then [(.hubAcceptWrite, f)]
    else if o = 0x11008 then [(.resume, { f with n := fieldN x.toNat 0 52 })]
    else if 0x100000 ≤ o ∧ o < 0x100000 + 256 * 2184 then [(.sluiceConfigWrite, { f with sluice := (o - 0x100000) / 256 })]
    else if o = 0x200008 then (if x.getLsbD 0 then [(.lock, f)] else [])
    else if o = 0x200010 then [(.secCfg, { f with data := x })]
    else if 0x208000 ≤ o ∧ o < 0x208000 + 16 * 136 ∧ o % 16 = 0 then
      let g := { f with sluice := controlled ((o - 0x208000) / 16) }
      if x.getLsbD 0 then [(.run, g)] else if x.getLsbD 1 then [(.halt, g)] else []
    else if 0x800000 ≤ o ∧ o < 0xC00000 ∧ o % 65536 = 0 then
      let l : BitVec 6 := BitVec.ofNat 6 ((o - 0x800000) / 65536)
      let g := { f with link := l }
      [(.registerWrite, f)] ++
        (if mask.getLsbD 2 then [(.lkQuiesce, { g with data := boolWord (v.getLsbD 2) })] else []) ++
        (if x.getLsbD 3 then [(.lkZero, g)] else []) ++ (if x.getLsbD 8 then [(.lkRetrain, g)] else [])
    else if o = 0x802098 then (if x.getLsbD 0 then [(.klGo, f)] else [])
    else [(.registerWrite, f)]
  | .control cl o =>
    if o = 0x88 then
      let w := mergeBits (ones 5 0) mask (s.readControl cl o) v
      let g := { f with cluster := cl, part := w.extractLsb' 0 4 }
      match fieldN w.toNat 4 2 with
      | 0 => [(.xlatInvalPage, g)]
      | 1 => [(.xlatInvalPartition, g)]
      | 2 => [(.xlatInvalAll, g)]
      | _ => [(.registerWrite, f)]
    else [(.registerWrite, f)]
  | _ => []

/-- A write of `n` bytes of register space that lie in one word: its steps come next. -/
def State.pushWrite (s : State) (a n : Nat) (v : Word) : State :=
  let sh := 8 * (a % 8)
  let mask : Word := BitVec.ofNat 64 ((2 ^ (8 * n) - 1) * 2 ^ sh)
  { s with agenda := regSteps s (a / 8 * 8) mask (v <<< sh) ++ s.agenda }

/-! ### Meanings -/

/-- REGISTER_WRITE of the word at `focus.addr`: bits of `focus.data` under the mask `focus.n` (00 R5). -/
def execRegisterWrite (s : State) : Host.Outcome State Fault Refusal :=
  .next (s.writeReg s.focus.addr (BitVec.ofNat 64 s.focus.n) s.focus.data)

/-- SLUICE_CONFIG_WRITE of the word at `focus.addr` of sluice `focus.sluice` (08 R303). -/
def execSluiceConfigWrite (s : State) : Host.Outcome State Fault Refusal :=
  .next (s.writeSluice s.focus.sluice (s.focus.addr / 8 % 32) (BitVec.ofNat 64 s.focus.n) s.focus.data)

/-- HUB_ACCEPT_WRITE at `focus.addr` (13 R481). -/
def execHubAcceptWrite (s : State) : Host.Outcome State Fault Refusal :=
  .next (s.writeAccept (s.focus.addr % 0x1000) (BitVec.ofNat 64 s.focus.n) s.focus.data)

end Sys2Proof.Machine
end

