-- ==== Sys2Proof/Machine/Host.lean ====
section
/-! DEFINITION. The host port: command windows (12 R465 to R469), tracked apertures (12 R470), the raw aperture (12 R471) and
what the host reads (12 R463). -/

namespace Sys2Proof.Machine

/-! ### Command slots (12 R465) -/

/-- The place of OPCODE, PHASE and TAG in a command record (12 R466). -/
def cmdOpcode (r : BitVec 512) : BitVec 8 := r.extractLsb' 448 8
/-- PHASE of a command record. -/
def lapBit (r : BitVec 512) : Bool := r.getLsbD 456
/-- TAG of a command record. -/
def cmdTag (r : BitVec 512) : BitVec 32 := r.extractLsb' 480 32
/-- Operand word `i` of a command record. -/
def cmdWord (r : BitVec 512) (i : Nat) : Nat := fieldN r.toNat (64 * i) 64

/-- The phase of the lap that slot `i` is next written for. -/
def Partition.lapPhase (p : Partition) (i : Nat) : Bool := if p.cmdNext ≤ i then p.cmdPhase else !p.cmdPhase

/-- The host writes bytes of slot `i` at offset `o`; the final word makes it ready when its PHASE is the lap's, and is
ignored when it is not (12 R465). -/
def Partition.writeSlot (p : Partition) (i o : Nat) (bs : List Byte) : Partition :=
  let old := (tabFind i p.cmdSlots).getD (0, false)
  let new := foldBytes setImageByte old.1 o bs
  let final := decide (o ≤ 56) && decide (64 ≤ o + bs.length)
  if final && lapBit new != p.lapPhase i then
    { p with cmdSlots := tabPut i (foldBytes setImageByte old.1 o (bs.take (56 - o)), old.2) p.cmdSlots }
  else { p with cmdSlots := tabPut i (new, final || old.2) p.cmdSlots }

/-- The slot that is taken next holds a command: it is ready, and the slot's command of the lap before has its completion
record (12 R465). -/
def Partition.nextCommand (p : Partition) : Option (BitVec 512) :=
  match tabFind p.cmdNext p.cmdSlots with
  | some (r, true) => if (tabFind p.cmdNext p.cmds).isNone then some r else none
  | _ => none

/-- A command starts: its record has been read, and the next slot is looked at (12 R465). -/
def Partition.startCommand (p : Partition) (r : BitVec 512) : Partition :=
  let n := p.cmdNext
  { p with
    cmdSlots := tabPut n (r, false) p.cmdSlots
    cmdNext := (n + 1) % 512
    cmdPhase := if n = 511 then !p.cmdPhase else p.cmdPhase
    cmds := tabPut n ⟨cmdOpcode r, cmdTag r, lapBit r, none, 0, 0, [], none, false, false⟩ p.cmds }

/-- A HOST event: the host has written slot `focus.n` of partition `focus.part` with `focus.bytes` (none: it was written
before), and the command whose turn it is starts when it is of the event's kind and the device is READY (12 R465; 13 R482). -/
def State.hostCommand (s : State) (kind : BitVec 8 → Bool) (act : State → BitVec 4 → Nat → BitVec 512 → State) : State :=
  let part := s.focus.part
  let s := if s.focus.bytes = [] then s
    else s.onPart part (fun p => p.writeSlot (s.focus.n % 512) 0 (s.focus.bytes.take 64))
  match (s.part part).nextCommand with
  | some r =>
    if s.sec.state = 4 ∧ kind (cmdOpcode r) then
      act (s.onPart part (fun p => p.startCommand r)) part (s.part part).cmdNext r
    else s
  | none => s

/-! ### Commands (12 R466, R467) -/

/-- The command completes at once with a code. -/
def State.codeNow (s : State) (part : BitVec 4) (n : Nat) (code : BitVec 8) : State := s.commandDone part n code 0 0

/-- The operand bits outside a mask are zero, and so are the reserved bits beside OPCODE, PHASE and TAG (12 R466). -/
def operandsIn (r : BitVec 512) (mask : Nat) : Bool :=
  r.toNat % 2 ^ 448 == r.toNat % 2 ^ 448 &&& mask && fieldN r.toNat 457 23 == 0

/-- The capability in a host slot. -/
def State.hostSlot (s : State) (part : BitVec 4) (i : Nat) : Option Cap := tabFind i (s.part part).slots

/-- A host slot is emptied. -/
def State.emptySlot (s : State) (part : BitVec 4) (i : Nat) : State :=
  s.onPart part (fun p => { p with slots := tabDrop i p.slots })

/-- The apertures of a slot whose capability leaves are cleared (12 R470). -/
def State.clearApertures (s : State) (part : BitVec 4) (slot : Nat) : State :=
  { s with apertures := s.apertures.filter (fun e => !(e.2.part == part && e.2.slot == slot)) }

/-- NOP, and opcodes that are reserved (12 R466). -/
def State.commandNop (s : State) (part : BitVec 4) (n : Nat) (r : BitVec 512) : State :=
  s.codeNow part n (if cmdOpcode r = 0 ∧ operandsIn r 0 then 0 else 1)

/-- NCAP, and the host slots that a LAUNCH or RELAUNCH names. -/
def cmdSlotList (r : BitVec 512) : List Nat :=
  (List.range (fieldN r.toNat 32 8)).map (fun i => fieldN r.toNat (64 + 8 * i) 8)

/-- The operand bits of a LAUNCH or RELAUNCH. -/
def launchMask (r : BitVec 512) (w0 : Nat) : Nat := w0 + (2 ^ (8 * fieldN r.toNat 32 8) - 1) * 2 ^ 64

/-- Every slot named holds a capability, each named once. -/
def State.slotsFull (s : State) (part : BitVec 4) (is_ : List Nat) : Bool :=
  is_.all (fun i => (s.hostSlot part i).isSome) && distinct is_

/-- The capabilities of slots, which become empty. -/
def State.takeSlots (s : State) (part : BitVec 4) (is_ : List Nat) : State := is_.foldl (fun s i => s.emptySlot part i) s

/-- A launch or relaunch has been made or refused: the handle, or the code and the return set (12 R466, R467). -/
def State.launched (s : State) (part : BitVec 4) (n code x nsel : Nat) : State :=
  if code = 0 then
    s.onPart part (fun p => { p with
      jobs := tabPut x n p.jobs
      cmds := match tabFind n p.cmds with
        | some c => tabPut n { c with result := BitVec.ofNat 64 x, result2 := BitVec.ofNat 64 nsel } p.cmds
        | none => p.cmds })
  else s.commandDone part n (BitVec.ofNat 8 code) (BitVec.ofNat 64 (x * 2 ^ 32)) 0

/-- LAUNCH (12 R466; 10 R348, R368). -/
def State.commandLaunch (s : State) (part : BitVec 4) (n : Nat) (r : BitVec 512) : State :=
  let is_ := cmdSlotList r
  if 30 < is_.length ∨ !operandsIn r (launchMask r 0xFF00FFFFFF) then s.codeNow part n 1
  else if !s.slotsFull part is_ then s.codeNow part n 6
  else
    let (t, code, x) := (s.takeSlots part is_).instantiate part (fieldN (cmdWord r 0) 0 16) (fieldN (cmdWord r 0) 16 8)
      (is_.map (s.hostSlot part)) none []
    t.launched part n code x 0

/-- RELAUNCH (12 R466; 11 R417 to R420): with no capability set free it is refused with nothing taken (log 48). -/
def State.commandRelaunch (s : State) (part : BitVec 4) (n : Nat) (r : BitVec 512) : State :=
  let is_ := cmdSlotList r
  let pos := fieldN (cmdWord r 0) 40 8
  if 30 < is_.length ∨ is_.length ≤ pos ∨ !operandsIn r (launchMask r 0xFFFF00FFFFFF) then s.codeNow part n 1
  else if !s.slotsFull part is_ then s.codeNow part n 6
  else match (is_[pos]?).bind (s.hostSlot part) with
    | none => s.codeNow part n 6
    | some c =>
      if c.kind ≠ .whole ∨ ((s.descOf c).map (·.cls)) ≠ some 2 ∨ !c.has (rightR ||| rightW) then s.codeNow part n 3
      else match s.freeSets part 1 with
        | [] => s.codeNow part n 2
        | i :: _ =>
          let slots := is_.map (s.hostSlot part)
          let s := (s.takeSlots part is_).onPart part (fun p => { p with sets := tabPut i (slotVector slots) p.sets })
          let s := (slots.filterMap id).foldl (fun s c => s.setOwner c (ownerSet i)) s
          let (t, code, x, nsel) := s.relaunch 4095 0 0 ⟨part, c, i, fieldN (cmdWord r 0) 16 8, none, []⟩
          t.launched part n code x nsel

/-- The message of a SEND sets out, behind the copy of its bytes when they have to be copied (12 R466; 08 R279, R281). -/
def State.hostMessage (s : State) (part : BitVec 4) (n : Nat) (c : Cap) (d : Desc) (mbox : BitVec 17) (w : BitVec 32)
    (copy : Bool) : State :=
  let s := s.setOwner c (ownerMsg mbox false)
  let s := if c.owns then s.onDesc c.part c.desc.toNat (fun d => { d with auto := false }) else s
  let (s, haul) := if copy then
      (let (s, i) := s.newHaul { agent := 4095, goal := .mailbox mbox, src := some c, desc := d }
      (s, some i)) else (s, none)
  { s with msgs := s.msgs ++ [{
      src := 4095, seq := none, part := part, mbox := mbox, host := false, dev := none, refused := false,
      pay := .cap c w false false, cmd := some (part, n), haul := haul }] }

/-- SEND (12 R466; 08 R279): to mailboxes bound in the window's partition, or bound by none. -/
def State.commandSend (s : State) (part : BitVec 4) (n : Nat) (r : BitVec 512) : State :=
  let slot := fieldN (cmdWord r 0) 0 8
  let mbox : BitVec 17 := BitVec.ofNat 17 (cmdWord r 1)
  let w : BitVec 32 := BitVec.ofNat 32 (cmdWord r 2)
  let bound := (s.mailbox (mboxCluster mbox) (mboxIndex mbox)).bound.part?
  if !operandsIn r (0xFF + 0x1FFFF * 2 ^ 64 + 0xFFFFFFFF * 2 ^ 128) then s.codeNow part n 1
  else match s.hostSlot part slot with
    | none => s.codeNow part n 6
    | some c => match s.descOf c with
      | none => s.codeNow part n 3
      | some d =>
        if (bound.map (· != part)).getD false then s.codeNow part n 3
        else
          let t := (s.emptySlot part slot).clearApertures part slot
          t.hostMessage part n c d mbox w (sendMove c d mbox false false == .copy)

/-- DROP (12 R466; 08 R274): its completion waits for the write-backs of a REMOTE buffer (01 R51, R55). -/
def State.commandDrop (s : State) (part : BitVec 4) (n : Nat) (r : BitVec 512) : State :=
  let slot := fieldN (cmdWord r 0) 0 8
  if !operandsIn r 0xFF then s.codeNow part n 1
  else match s.hostSlot part slot with
    | none => s.codeNow part n 6
    | some c =>
      if c.residual ∨ ((s.descOf c).map (·.cls)) = some 5 then s.codeNow part n 3
      else
        let t := (s.emptySlot part slot).clearApertures part slot
        let waits := if t.lastRemote c then t.capRanges c else []
        let t := if t.lastRemote c then t.writeBack c else t
        let t := if c.owns then t.orphan c.part c else t.returnCap c
        (t.codeNow part n 0).onPart part (fun p => match tabFind n p.cmds with
          | some x => { p with cmds := tabPut n { x with waits := waits } p.cmds }
          | none => p)

/-- The windows of two apertures meet. -/
def Aperture.meets (a : Aperture) (base len : Nat) : Bool := decide (a.hbase < base + len) && decide (base < a.hbase + a.len)

/-- APBIND (12 R466, R470; 13 R481). -/
def State.commandBind (s : State) (part : BitVec 4) (n : Nat) (r : BitVec 512) : State :=
  let w := cmdWord r 0
  let slot := fieldN w 0 8
  let base := cmdWord r 1
  if !operandsIn r (0x30FFF00FF + (2 ^ 64 - 65536) * 2 ^ 64) ∨ !s.feature 2 then s.codeNow part n 1
  else match s.hostSlot part slot with
    | none => s.codeNow part n 6
    | some c => match s.descOf c with
      | none => s.codeNow part n 3
      | some d =>
        let len := (d.len + 65535) / 65536 * 65536
        if base < 0x40000000 ∨ 0x10000000000 < base + len ∨ d.cls ≠ 2 ∨ (tabFind (fieldN w 16 12) s.apertures).isSome ∨
            s.apertures.any (fun e => e.2.meets base len) then s.codeNow part n 7
        else
          let a : Aperture := ⟨w.testBit 32, w.testBit 33, base, len, slot, part⟩
          ({ s with apertures := tabPut (fieldN w 16 12) a s.apertures } : State).codeNow part n 0

/-- APUNBIND: earlier accesses of the host have been performed, since each is one step (12 R466). -/
def State.commandUnbind (s : State) (part : BitVec 4) (n : Nat) (r : BitVec 512) : State :=
  let i := fieldN (cmdWord r 0) 16 12
  if !operandsIn r 0xFFF0000 ∨ ((tabFind i s.apertures).map (fun a => a.part != part)).getD false then s.codeNow part n 1
  else ({ s with apertures := tabDrop i s.apertures } : State).codeNow part n 0

/-- The party that the marks of a MARK command stand for. -/
def markAgent (part : BitVec 4) (n : Nat) : Nat := 8192 + part.toNat * 512 + n

/-- MARK: it completes when every mark has been applied (12 R466; 11 R425). -/
def State.commandMark (s : State) (part : BitVec 4) (n : Nat) (r : BitVec 512) : State :=
  let off := cmdWord r 1
  let len := cmdWord r 2
  if !operandsIn r (0xFF + (2 ^ 64 - 1) * 2 ^ 64 + (2 ^ 64 - 1) * 2 ^ 128) ∨ len = 0 ∨ off % 32 ≠ 0 ∨ len % 32 ≠ 0 then
    s.codeNow part n 1
  else match s.hostSlot part (fieldN (cmdWord r 0) 0 8) with
    | none => s.codeNow part n 6
    | some c => match s.descOf c with
      | none => s.codeNow part n 3
      | some d =>
        if !c.has rightW ∨ d.len < off + len then s.codeNow part n 3
        else (s.markWrite c.part c.desc off len none (markAgent part n) none).codeNow part n 0

/-- A request to the scheduler in the host's name. -/
def hostRequest (part : BitVec 4) (a : Ask) : Request := ⟨a, part, 4095, none, 0, 0⟩

/-- DEC (12 R466; 10 R353). -/
def State.commandDec (s : State) (part : BitVec 4) (n : Nat) (r : BitVec 512) : State :=
  let h := fieldN (cmdWord r 0) 0 24
  if !operandsIn r 0xFFFFFF then s.codeNow part n 1
  else (s.decTcb (hostRequest part (.dec (BitVec.ofNat 32 h))) h).codeNow part n 0

/-- FILLF (12 R466; 10 R362). -/
def State.commandFill (s : State) (part : BitVec 4) (n : Nat) (r : BitVec 512) : State :=
  let h := fieldN (cmdWord r 0) 0 32
  let v : Word := BitVec.ofNat 64 (cmdWord r 1)
  if !operandsIn r (0xFFFFFFFF + (2 ^ 64 - 1) * 2 ^ 64) then s.codeNow part n 1
  else (s.fillFuture (hostRequest part (.fill (BitVec.ofNat 32 h) v)) h v).codeNow part n 0

/-! ### Completion records (01 R55; 12 R467, R468) -/

/-- The TCB of a command's launch. -/
def State.jobOf (s : State) (part : BitVec 4) (n : Nat) : Option Nat :=
  ((s.part part).jobs.find? (fun e => e.2 == n)).map (·.1)

/-- Every write that the work of a launch makes has been performed, and its marks have been applied (01 R55). -/
def State.launchQuiet (s : State) (part : BitVec 4) (h : Nat) : Bool :=
  s.tcb part h tcbState == 4 &&
    !s.flights.any (fun f => f.res.part == part && f.res.launch.toNat == h) &&
    !s.cores.any (fun (_, c) => !c.stores.isEmpty && (c.res.map (fun r => r.part == part && r.launch.toNat == h)).getD false)

/-- The command has its outcome: a code, or a launch that has finished; and no mark or write-back of it is on its way (01 R55,
R64; 12 R466). -/
def State.commandOver (s : State) (part : BitVec 4) (n : Nat) (c : Command) : Bool :=
  !s.marksOf (markAgent part n) && !s.writingBack c.waits && (match s.jobOf part n with
    | some h => s.launchQuiet part h
    | none => c.code.isSome)

/-- The capabilities of a return set are moved into host slots, in set order; those without a free slot are orphans (12
R468; log 49). -/
def State.setToHost (s : State) (part : BitVec 4) (set : Nat) : State × Bool :=
  (s.setCaps part set).foldl (fun (s, ok) c => match s.toHost c (part.toNat * 256) 0 with
    | some s => (s, ok)
    | none => (s.orphan part c, false)) (s.dropSet part set, true)

/-- A completion record (12 R467). -/
def completionRecord (code : BitVec 8) (phase : Bool) (tag : BitVec 32) (result result2 time : Word) : BitVec 256 :=
  time ++ result2 ++ result ++ tag ++ 0#23 ++ BitVec.ofBool phase ++ code

/-- The return set that a command leaves: a finished launch's, or a refused one's. -/
def State.leftSet (s : State) (part : BitVec 4) (n : Nat) (c : Command) : Option Nat :=
  match s.jobOf part n with
  | some h => (tabFind h (s.part part).rsets)
  | none =>
    if (c.opcode = 1 ∨ c.opcode = 2) ∧ (c.code = some 1 ∨ c.code = some 2 ∨ c.code = some 3 ∨ c.code = some 4 ∨ c.code = some 5)
      ∧ (tabFind (fieldN c.result.toNat 32 32) (s.part part).sets).isSome ∧ c.result.toNat ≠ 0
    then some (fieldN c.result.toNat 32 32) else none

/-- The command has its outcome, and capabilities of its return set are to be received by the host: each move is a receipt, before
which the host's caches are snooped (12 R468, R469). -/
def State.needsSnoop (s : State) (part : BitVec 4) (n : Nat) (c : Command) : Bool :=
  s.commandOver part n c && !c.snooped && (s.leftSet part n c).any (fun i => !(s.setCaps part i).isEmpty)

/-- BACK_INVALIDATE of a command: the snoops for the buffers of its return set leave, and then every one has been answered (12
R472). -/
def State.commandSnooped (s : State) (part : BitVec 4) (n : Nat) : State :=
  match tabFind n (s.part part).cmds with
  | some c =>
    if s.needsSnoop part n c then
      let d : Command := if c.snoopAt.isSome then { c with snooped := true } else { c with snoopAt := some s.now }
      s.onPart part (fun p => { p with cmds := tabPut n d p.cmds })
    else s
  | none => s

/-- BI_STALL of a command whose snoops have stood unanswered for BISTALL µs of a port: its record is written, once (12 R472). -/
def State.commandStall (s : State) (port : Nat) (part : BitVec 4) (n : Nat) : State :=
  match tabFind n (s.part part).cmds with
  | some c =>
    if s.needsSnoop part n c && !c.stalled && c.snoopAt.any (s.snoopsLate port) then
      (s.eventRecord 0x0A 0 false 0 part 0 0).onPart part (fun p =>
        { p with cmds := tabPut n { c with stalled := true } p.cmds })
    else s
  | none => s

/-- The host can read the record of a slot no more, or has read it: the TCB of its launch is free (10 R354; log 135). -/
def State.recordRead (s : State) (part : BitVec 4) (n : Nat) : State :=
  match tabFind n (s.part part).unread with
  | none => s
  | some h =>
    let s := s.onPart part (fun p => { p with unread := tabDrop n p.unread })
    if s.tcb part h tcbFv = 0 ∧ s.tcb part h tcbState = 4 then s.clearTcb part h else s

/-- COMPLETION_RECORD of the command in slot `n`, with its interrupt (01 R55; 12 R464, R467, R468). It takes the place of the
slot's last one. The TCB of a launch stays until the host has read the record (10 R354). -/
def State.writeCompletion (s : State) (part : BitVec 4) (n : Nat) : State :=
  match tabFind n (s.part part).cmds with
  | none => s
  | some c =>
    if !s.commandOver part n c || s.needsSnoop part n c then s
    else
      let job := s.jobOf part n
      let left := s.leftSet part n c
      let (t, ok) := match left with
        | some i => s.setToHost part i
        | none => (s, true)
      let result := match job, left with
        | some h, some i => BitVec.ofNat 64 (h + i * 2 ^ 32)
        | _, _ => c.result
      let code := if ok then c.code.getD 0 else 8
      ((t.recordRead part n).sendMsi part.toNat (fun p => p.cmsi.getLsbD part.toNat)).onPart part (fun p => { p with
        records := tabPut n (completionRecord code c.phase c.tag result c.result2 s.now) p.records
        cmds := tabDrop n p.cmds
        jobs := p.jobs.filter (fun e => e.2 != n)
        rsets := match job with
          | some h => tabDrop h p.rsets
          | none => p.rsets
        unread := match job with
          | some h => tabPut n h p.unread
          | none => p.unread })

/-! ### What the host reads and writes (12 R463, R470) -/

/-- A byte of a host slot's entry: words 0 and 1 of 08 R270 (12 R465). -/
def State.slotByte (s : State) (part : BitVec 4) (i o : Nat) : Byte :=
  if o < 16 then imageByte (s.infoOf (s.hostSlot part i) (o / 8)) (o % 8) else 0

/-- A byte of a command window (12 R465). -/
def State.windowByte (s : State) (part : BitVec 4) (o : Nat) : Byte :=
  let p := s.part part
  if o < 0x8000 then ((tabFind (o / 64) p.cmdSlots).map (fun e => imageByte e.1 (o % 64))).getD 0
  else if o < 0xC000 then
    ((tabFind ((o - 0x8000) / 32) p.records).map (fun e => imageByte e (o % 32))).getD 0
  else if o < 0xE000 then s.slotByte part ((o - 0xC000) / 32) (o % 32)
  else 0

/-- An aperture table entry (12 R470). -/
def Aperture.entry (a : Aperture) : BitVec 256 :=
  0#180 ++ a.part ++ BitVec.ofNat 8 a.slot ++ BitVec.ofNat 48 (a.hbase / 65536) ++ 0#13 ++ BitVec.ofBool a.wr ++
    BitVec.ofBool a.rd ++ 1#1

/-- A byte below the tracked aperture space (12 R463). -/
def State.hdmByte (s : State) (o : Nat) : Byte :=
  if o < 0x100000 then s.windowByte (BitVec.ofNat 4 (o / 65536)) (o % 65536)
  else if o < 0x200000 then ((tabFind ((o - 0x100000) / 64) s.events).map (fun e => imageByte e (o % 64))).getD 0
  else if o < 0x220000 then ((tabFind ((o - 0x200000) / 32) s.apertures).map (fun a => imageByte a.entry (o % 32))).getD 0
  else 0

/-- What an access of the host below the tracked aperture space does (12 R463, R465). -/
def State.hdmAccess (s : State) (o n : Nat) (bs : List Byte) : State :=
  if bs ≠ [] then
    (if o % 65536 < 0x8000 ∧ o < 0x100000 then
      s.onPart (BitVec.ofNat 4 (o / 65536)) (fun p => p.writeSlot (o % 65536 / 64) (o % 64) (bs.take (64 - o % 64)))
    else s)
  else
    let t := { s with hostRead := ((List.range n).map (fun i => s.hdmByte (o + i)), false) }
    if o < 0x100000 ∧ 0x8000 ≤ o % 65536 ∧ o % 65536 < 0xC000 then
      (List.range ((o % 32 + n + 31) / 32)).foldl (fun t i =>
        t.recordRead (BitVec.ofNat 4 (o / 65536)) ((o % 65536 - 0x8000) / 32 + i)) t
    else t

/-- An access of the host is refused: a read returns zeros with the poison indication, and a write is discarded. -/
def State.hostRefused (s : State) (n : Nat) (bs : List Byte) : State :=
  if bs = [] then { s with hostRead := (List.replicate n 0, true) } else s

/-- An access of the host to a reserved offset: it reads zero, and a write is discarded (12 R463). -/
def State.hostNothing (s : State) (n : Nat) (bs : List Byte) : State :=
  if bs = [] then { s with hostRead := (List.replicate n 0, false) } else s

/-- The aperture whose window holds an offset. -/
def State.apertureAt (s : State) (o : Nat) : Option Aperture :=
  (s.apertures.find? (fun e => decide (e.2.hbase ≤ o) && decide (o < e.2.hbase + e.2.len))).map (·.2)

/-- The capability and the physical address of an access through an aperture that 12 R470 allows. -/
def State.apertureTarget (s : State) (a : Aperture) (x n : Nat) (write : Bool) : Option (Cap × Nat) :=
  match s.hostSlot a.part a.slot with
  | none => none
  | some c => match s.descOf c with
    | none => none
    | some d =>
      if x + n ≤ d.len ∧ (if write then a.wr && c.has rightW && c.kind == .whole else a.rd && c.has rightR) ∧ d.cls = 2
      then (s.bufPa 0 c.part d x).map (fun pa => (c, pa)) else none

/-- Marks that a step has added are applied with it (11 R415). -/
def State.applyFrom (s : State) (n : Nat) : State :=
  (s.marks.drop n).foldl State.applyMark { s with marks := s.marks.take n }

/-- The sectors of a host access are present in the slice after it (01 R49). -/
def State.hostSectors (s : State) (c : Cap) (pa n : Nat) (dirty : Bool) : State :=
  (granules pa n).foldl (State.putSector · (hbmDie pa) none c.part c.desc dirty ·) s

/-- What the error code of HBM or of the last-level cache finds in a granule that an access of the host reads (01 R52, R65,
R69). -/
def State.hostEcc (s : State) (a n : Nat) : State :=
  let g := a / 32 + s.focus.gran
  if (a + n + 31) / 32 ≤ g then s
  else match s.focus.ecc with
    | .clean => s
    | .corrected => s.countCorrected (sliceUnit (hbmDie (32 * g))) (32 * g) (s.sectorIn (hbmDie (32 * g)) none g)
    | .uncorrectable => s.poisonGranule g

/-- An access through the tracked aperture space (12 R470): through the last-level cache, its marks applied before it is
answered (11 R415). -/
def State.trackedAccess (s : State) (o n : Nat) (bs : List Byte) : State :=
  let write := bs ≠ []
  let len := if write then bs.length else n
  match (s.apertureAt o).bind (fun a => (s.apertureTarget a (o - a.hbase) len write).map (fun p => (a, p))) with
  | none => (s.hostRefused n bs).eventRecord 0x0B 0 false 0 (((s.apertureAt o).map (·.part)).getD 0) 0 o
  | some (a, c, pa) =>
    let s := s.hostEcc pa len
    if write then
      let t := (s.writeBytes pa bs).seenWrite 6 c.part c.desc 2 (o - a.hbase) len s.dev 0x7FF none noAgent none
      (t.applyFrom s.marks.length).hostSectors c pa len true
    else ({ s with hostRead := (s.readBytes pa n, (s.poisoned? pa n).isSome) } : State).hostSectors c pa n false

/-- Addresses that raw accesses do not reach: buffer tables and capability stores (01 R38; 08 R258, R486). -/
def State.shielded (s : State) (a n : Nat) : Bool :=
  s.parts.any (fun (_, p) =>
    (decide (a < p.btbl.toNat + 64 * p.btlen.toNat) && decide (p.btbl.toNat < a + n)) ||
    (decide (a < p.cstore.toNat + 1024 * p.cslen.toNat) && decide (p.cstore.toNat < a + n)))

/-- A buffer table or capability store refuses an access of the host: the record goes to the kernel's partition (01 R38; log
69). -/
def State.hostShielded (s : State) (a n : Nat) (bs : List Byte) : State :=
  (s.hostRefused n bs).postRecord 4095 0
    (faultRecord 0x20 0b01 false false 0 0 0 0 0 0 (BitVec.ofNat 64 a) 1 0 s.now)

/-- An access through the raw aperture of a port (12 R471): unchecked and unmarked, but watched (04 R173). -/
def State.rawAperture (s : State) (port : Nat) (o n : Nat) (bs : List Byte) : State :=
  let a := o - 0x10000000000
  let len := if bs = [] then n else bs.length
  if o < 0x10000000000 ∨ 0xC000000000 < a + len then s.hostNothing n bs
  else if !((s.ports[port]?).map (·.rawen)).getD false then s.hostRefused n bs
  else if s.shielded a len then s.hostShielded a n bs
  else
    let s := s.hostEcc a len
    if bs = [] then { s with hostRead := (s.readBytes a n, (s.poisoned? a n).isSome) }
    else (s.writeBytes a bs).seenRaw 6 a bs.length 0x7FF

/-! ### Meanings -/

/-- BACK_INVALIDATE of operation `focus.seq` of agent `focus.core`, or with `focus.data` = 1 of the command in slot `focus.n`
of partition `focus.part` (12 R468, R472). -/
def execBackInvalidate (s : State) : Host.Outcome State Fault Refusal :=
  .next (if s.focus.data = 1 then s.commandSnooped s.focus.part s.focus.n else s.snoopsDone s.focus.core s.focus.seq)

/-- BI_STALL, by port `focus.die`, of operation `focus.seq` of agent `focus.core`, or with `focus.data` = 1 of the command in slot
`focus.n` of partition `focus.part` (12 R472). -/
def execBiStall (s : State) : Host.Outcome State Fault Refusal :=
  .next (if s.focus.data = 1 then s.commandStall s.focus.die s.focus.part s.focus.n
    else s.snoopStall s.focus.die s.focus.core s.focus.seq)

/-- HOST_NOP (12 R466). -/
def execHostNop (s : State) : Host.Outcome State Fault Refusal :=
  .next (s.hostCommand (fun o => o == 0 || decide (0x0A ≤ o.toNat)) State.commandNop)

/-- HOST_LAUNCH (12 R466). -/
def execHostLaunch (s : State) : Host.Outcome State Fault Refusal := .next (s.hostCommand (· == 1) State.commandLaunch)

/-- HOST_RELAUNCH (12 R466). -/
def execHostRelaunch (s : State) : Host.Outcome State Fault Refusal := .next (s.hostCommand (· == 2) State.commandRelaunch)

/-- HOST_SEND (12 R466). -/
def execHostSend (s : State) : Host.Outcome State Fault Refusal := .next (s.hostCommand (· == 3) State.commandSend)

/-- HOST_DROP (12 R466). -/
def execHostDrop (s : State) : Host.Outcome State Fault Refusal := .next (s.hostCommand (· == 4) State.commandDrop)

/-- APBIND (12 R466, R470). -/
def execApbind (s : State) : Host.Outcome State Fault Refusal := .next (s.hostCommand (· == 5) State.commandBind)

/-- APUNBIND (12 R466). -/
def execApunbind (s : State) : Host.Outcome State Fault Refusal := .next (s.hostCommand (· == 6) State.commandUnbind)

/-- HOST_MARK (12 R466). -/
def execHostMark (s : State) : Host.Outcome State Fault Refusal := .next (s.hostCommand (· == 7) State.commandMark)

/-- HOST_DEC (12 R466). -/
def execHostDec (s : State) : Host.Outcome State Fault Refusal := .next (s.hostCommand (· == 8) State.commandDec)

/-- HOST_FILLF (12 R466). -/
def execHostFillf (s : State) : Host.Outcome State Fault Refusal := .next (s.hostCommand (· == 9) State.commandFill)

/-- COMPLETION_RECORD of slot `focus.n` in the window of partition `focus.part` (12 R467). -/
def execCompletionRecord (s : State) : Host.Outcome State Fault Refusal := .next (s.writeCompletion s.focus.part s.focus.n)

/-- APERTURE_ACCESS at HDM offset `focus.addr`: a write of `focus.bytes`, or with none a read of `focus.n` bytes (12 R463,
R470). -/
def execApertureAccess (s : State) : Host.Outcome State Fault Refusal :=
  .next (
    if s.focus.addr < 0x40000000 then s.hdmAccess s.focus.addr s.focus.n s.focus.bytes
    else if s.focus.addr < 0x10000000000 then s.trackedAccess s.focus.addr s.focus.n s.focus.bytes
    else s.hostNothing s.focus.n s.focus.bytes)

/-- RAW_APERTURE_ACCESS at HDM offset `focus.addr` by port `focus.die`: a write of `focus.bytes`, or with none a read of
`focus.n` bytes (12 R471). -/
def execRawApertureAccess (s : State) : Host.Outcome State Fault Refusal :=
  .next (s.rawAperture s.focus.die s.focus.addr s.focus.n s.focus.bytes)

end Sys2Proof.Machine
end

