-- ==== Sys2Proof/Machine/RvFloat.lean ====
section
/-! DEFINITION. Single- and double-precision arithmetic of the service and kernel cores (13 R474), as the F and D extensions
of the RISC-V unprivileged specification have it (log 50). Rounding modes and flags have the same codes as 03 R124 and
R128; tininess is found after rounding. -/

namespace Sys2Proof.Machine

/-- The binary format of a precision. -/
def rvFmt (dbl : Bool) : BinFmt :=
  if dbl then ⟨11, 52, 1023, 0x7FEFFFFFFFFFFFFF, true, some 0x7FF8000000000000⟩
  else ⟨8, 23, 127, 0x7F7FFFFF, true, some 0x7FC00000⟩

/-- Bits of a precision. -/
def rvBits (dbl : Bool) : Nat := if dbl then 64 else 32

/-- The canonical NaN. -/
def rvNan (dbl : Bool) : Nat := if dbl then 0x7FF8000000000000 else 0x7FC00000

/-- A register's value: single precision stands below ones, and anything else reads as the canonical NaN. -/
def rvUnbox (dbl : Bool) (v : Word) : Nat :=
  if dbl then v.toNat else if v.extractLsb' 32 32 = BitVec.allOnes 32 then v.toNat % 2 ^ 32 else 0x7FC00000

/-- A value as a register holds it. -/
def rvBox (dbl : Bool) (b : Nat) : Word :=
  if dbl then BitVec.ofNat 64 b else (BitVec.allOnes 32 ++ BitVec.ofNat 32 b)

/-- An encoding as a value. -/
def rvDecode (dbl : Bool) (b : Nat) : Num := decodeBin (rvFmt dbl) b

/-- A finite value is still below the normal range when it is rounded as if exponents had no bound. -/
def rvTiny (f : BinFmt) (mode : BitVec 3) (neg : Bool) (m : Nat) (e : Int) : Bool :=
  let top : Int := (Nat.log2 m : Int) + e
  if 1 - (f.bias : Int) ≤ top then false
  else if top < -(f.bias : Int) then true
  else
    let (n, r, half) := unitsOf m e (top - f.m)
    roundUnits mode neg n r half != 2 ^ (f.m + 1)

/-- A value rounded, with its flags. -/
def rvRound (dbl : Bool) (mode : BitVec 3) (x : Num) : Rounded :=
  let r := roundBin (rvFmt dbl) x mode false
  match x with
  | .fin neg m e =>
    let inexact := r.flags &&& Flags.nx != 0
    { r with flags := (r.flags &&& ~~~Flags.uf) ||| Flags.when (inexact && m != 0 && rvTiny (rvFmt dbl) mode neg m e) Flags.uf }
  | _ => r

/-- A NaN result. -/
def rvNanOf (dbl : Bool) (xs : List Num) : Rounded := ⟨rvNan dbl, Flags.when (xs.any Num.isSnan) Flags.nv⟩

/-- The invalid result. -/
def rvInvalid (dbl : Bool) : Rounded := ⟨rvNan dbl, Flags.nv⟩

/-- A sum. -/
def rvAdd (dbl : Bool) (mode : BitVec 3) (x y : Num) : Rounded :=
  if x.isNan || y.isNan then rvNanOf dbl [x, y]
  else match addNum? mode x y with
    | some v => rvRound dbl mode v
    | none => rvInvalid dbl

/-- A product. -/
def rvMul (dbl : Bool) (mode : BitVec 3) (x y : Num) : Rounded :=
  if x.isNan || y.isNan then rvNanOf dbl [x, y]
  else match mulNum? x y with
    | some v => rvRound dbl mode v
    | none => rvInvalid dbl

/-- A quotient. -/
def rvDiv (dbl : Bool) (mode : BitVec 3) (x y : Num) : Rounded :=
  let s := x.sign != y.sign
  if x.isNan || y.isNan then rvNanOf dbl [x, y]
  else match x, y with
    | .inf _, .inf _ => rvInvalid dbl
    | .inf _, _ => rvRound dbl mode (.inf s)
    | _, .inf _ => rvRound dbl mode (.fin s 0 0)
    | .fin _ m e, .fin _ m' e' =>
      if m' = 0 then (if m = 0 then rvInvalid dbl else { rvRound dbl mode (.inf s) with flags := Flags.dz })
      else rvRound dbl mode (if m = 0 then .fin s 0 0 else Num.ratio s m m' (e - e') 160)
    | _, _ => rvInvalid dbl

/-- A square root. -/
def rvSqrt (dbl : Bool) (mode : BitVec 3) (x : Num) : Rounded :=
  match x with
  | .nan s => rvNanOf dbl [.nan s]
  | .inf neg => if neg then rvInvalid dbl else rvRound dbl mode (.inf false)
  | .fin neg m e =>
    if m = 0 then rvRound dbl mode (.fin neg 0 0)
    else if neg then rvInvalid dbl
    else
      let (m, e) := if e % 2 = 0 then (m, e) else (2 * m, e - 1)
      let q := isqrt (m * 2 ^ 160)
      rvRound dbl mode (if q * q = m * 2 ^ 160 then .fin false q (e / 2 - 80) else .fin false (2 * q + 1) (e / 2 - 81))

/-- x * y + z, rounded once. -/
def rvFma (dbl : Bool) (mode : BitVec 3) (x y z : Num) : Rounded :=
  if x.isNan || y.isNan then rvNanOf dbl [x, y, z]
  else match mulNum? x y with
    | none => rvInvalid dbl
    | some p => if z.isNan then rvNanOf dbl [z]
      else match addNum? mode p z with
        | some v => rvRound dbl mode v
        | none => rvInvalid dbl

/-- The lesser or the greater: a NaN gives way to a number, and -0 comes before +0. -/
def rvPick (dbl : Bool) (least : Bool) (a b : Nat) : Rounded :=
  let x := rvDecode dbl a
  let y := rvDecode dbl b
  let fl := Flags.when (x.isSnan || y.isSnan) Flags.nv
  if x.isNan && y.isNan then ⟨rvNan dbl, fl⟩
  else if x.isNan then ⟨b, fl⟩
  else if y.isNan then ⟨a, fl⟩
  else ⟨if least then (if fpBefore y x then b else a) else (if fpBefore x y then b else a), 0⟩

/-- A comparison: 0 feq, 1 flt, 2 fle. -/
def rvCompare (k : Nat) (x y : Num) : Bool × Flags :=
  if x.isNan || y.isNan then (false, Flags.when (k != 0 || x.isSnan || y.isSnan) Flags.nv)
  else (match k with
    | 0 => x.le y && y.le x
    | 1 => x.le y && !y.le x
    | _ => x.le y, 0)

/-- The class of an encoding, as one bit of ten. -/
def rvClass (dbl : Bool) (a : Nat) : Nat :=
  let f := rvFmt dbl
  match rvDecode dbl a with
  | .nan s => if s then 2 ^ 8 else 2 ^ 9
  | .inf neg => if neg then 1 else 2 ^ 7
  | .fin neg m _ =>
    if m = 0 then (if neg then 2 ^ 3 else 2 ^ 4)
    else if m < 2 ^ f.m then (if neg then 2 ^ 2 else 2 ^ 5)
    else if neg then 2 ^ 1 else 2 ^ 6

/-- Sign injection: 0 fsgnj, 1 fsgnjn, 2 fsgnjx. -/
def rvSgnj (dbl : Bool) (k a b : Nat) : Nat :=
  let top := 2 ^ (rvBits dbl - 1)
  let sa := a / top % 2
  let sb := b / top % 2
  let s := match k with
    | 0 => sb
    | 1 => 1 - sb
    | _ => (sa + sb) % 2
  a % top + s * top

/-- A value as an integer of `n` bits, signed or not: out of range it is clamped, a NaN is the greatest, and NV alone is
raised. -/
def rvToInt (n : Nat) (signed : Bool) (mode : BitVec 3) (x : Num) : Int × Flags :=
  let lo : Int := if signed then -(2 ^ (n - 1) : Nat) else 0
  let hi : Int := (if signed then (2 ^ (n - 1) : Nat) else (2 ^ n : Nat)) - 1
  match x with
  | .nan _ => (hi, Flags.nv)
  | .inf neg => (if neg then lo else hi, Flags.nv)
  | .fin neg m e =>
    let (k, r, half) := unitsOf m e 0
    let u : Int := roundUnits mode neg k r half
    let v : Int := if neg then -u else u
    if v < lo then (lo, Flags.nv) else if hi < v then (hi, Flags.nv) else (v, Flags.when (r ≠ 0) Flags.nx)

end Sys2Proof.Machine
end

