-- ==== Sys2Proof/Machine/Rv.lean ====
section
/-! DEFINITION. The instructions of the service and kernel cores (13 R474): RV64IMAFDC with Zba, Zbb and Zicntr, as the
RISC-V unprivileged specification has them (log 50), up to their memory accesses. -/

namespace Sys2Proof.Machine

/-- What an instruction comes to: the core after it, a memory access that it waits for, or a stop (13 R476). -/
inductive RvEffect where
  | next (v : Svc)
  | mem (kind : RvMem) (addr : Word) (n : Nat) (data : Word)
  | stop (cause : BitVec 8) (detail detail2 : Word)
  deriving DecidableEq, Repr

/-! ### Registers -/

/-- An integer register; x0 reads as zero. -/
def Svc.rx (v : Svc) (r : BitVec 5) : Word := if r = 0 then 0 else v.x[r.toNat]'(r.isLt)
/-- An integer register written; x0 discards it. -/
def Svc.setX (v : Svc) (r : BitVec 5) (w : Word) : Svc := if r = 0 then v else { v with x := v.x.set r.toNat w (r.isLt) }
/-- A floating-point register. -/
def Svc.rf (v : Svc) (r : BitVec 5) : Word := v.f[r.toNat]'(r.isLt)
/-- A floating-point register written. -/
def Svc.setF (v : Svc) (r : BitVec 5) (w : Word) : Svc := { v with f := v.f.set r.toNat w (r.isLt) }
/-- Accrued flags. -/
def Svc.accrue (v : Svc) (fl : Flags) : Svc := { v with fcsr := v.fcsr ||| fl.setWidth 8 }
/-- The next instruction, `n` bytes on. -/
def Svc.past (v : Svc) (n : Nat) : Svc := { v with pc := v.pc + BitVec.ofNat 64 n, instret := v.instret + 1 }
/-- A jump. -/
def Svc.jump (v : Svc) (a : Word) : Svc := { v with pc := a, instret := v.instret + 1 }

/-! ### Fields of an instruction -/

/-- rd. -/
def rvRd (w : BitVec 32) : BitVec 5 := w.extractLsb' 7 5
/-- rs1. -/
def rvRs1 (w : BitVec 32) : BitVec 5 := w.extractLsb' 15 5
/-- rs2. -/
def rvRs2 (w : BitVec 32) : BitVec 5 := w.extractLsb' 20 5
/-- rs3. -/
def rvRs3 (w : BitVec 32) : BitVec 5 := w.extractLsb' 27 5
/-- funct3. -/
def rvF3 (w : BitVec 32) : Nat := (w.extractLsb' 12 3).toNat
/-- funct7. -/
def rvF7 (w : BitVec 32) : Nat := (w.extractLsb' 25 7).toNat
/-- The I immediate. -/
def rvImmI (w : BitVec 32) : Word := (w.extractLsb' 20 12).signExtend 64
/-- The S immediate. -/
def rvImmS (w : BitVec 32) : Word := (w.extractLsb' 25 7 ++ w.extractLsb' 7 5).signExtend 64
/-- The B immediate. -/
def rvImmB (w : BitVec 32) : Word :=
  (w.extractLsb' 31 1 ++ w.extractLsb' 7 1 ++ w.extractLsb' 25 6 ++ w.extractLsb' 8 4 ++ 0#1).signExtend 64
/-- The U immediate. -/
def rvImmU (w : BitVec 32) : Word := (w.extractLsb' 12 20 ++ 0#12).signExtend 64
/-- The J immediate. -/
def rvImmJ (w : BitVec 32) : Word :=
  (w.extractLsb' 31 1 ++ w.extractLsb' 12 8 ++ w.extractLsb' 20 1 ++ w.extractLsb' 21 10 ++ 0#1).signExtend 64

/-! ### Integer operations -/

/-- The low 32 bits, sign-extended. -/
def sext32 (x : Word) : Word := (x.setWidth 32).signExtend 64


/-- Leading zeros of `n` bits. -/
def clzOf (n : Nat) (x : Nat) : Nat := if x % 2 ^ n = 0 then n else n - 1 - Nat.log2 (x % 2 ^ n)
/-- Trailing zeros of `n` bits. -/
def ctzOf (n : Nat) (x : Nat) : Nat := ((List.range n).find? (fun i => x.testBit i)).getD n
/-- Ones of `n` bits. -/
def cpopOf (n : Nat) (x : Nat) : Nat := ((List.range n).filter (fun i => x.testBit i)).length
/-- Each byte that is not zero becomes ones. -/
def orcB (x : Word) : Word := BitVec.ofNat 64 (leNat ((leBytes 8 x.toNat).map (fun b => if b = 0 then 0 else 0xFF)))
/-- The bytes in the other order. -/
def rev8 (x : Word) : Word := BitVec.ofNat 64 (leNat (leBytes 8 x.toNat).reverse)

/-- Signed division of `n` bits: by zero all ones, and the overflow is the dividend. -/
def rvDivS (n : Nat) (a b : BitVec n) : BitVec n := if b = 0 then BitVec.allOnes n else a.sdiv b
/-- Signed remainder. -/
def rvRemS (n : Nat) (a b : BitVec n) : BitVec n := if b = 0 then a else a.srem b
/-- Unsigned division. -/
def rvDivU (n : Nat) (a b : BitVec n) : BitVec n := if b = 0 then BitVec.allOnes n else a / b
/-- Unsigned remainder. -/
def rvRemU (n : Nat) (a b : BitVec n) : BitVec n := if b = 0 then a else a % b

/-- The M extension on 64 bits. -/
def rvMulDiv (f3 : Nat) (a b : Word) : Word :=
  match f3 with
  | 0 => a * b
  | 1 => BitVec.ofInt 64 (a.toInt * b.toInt / 2 ^ 64)
  | 2 => BitVec.ofInt 64 (a.toInt * b.toNat / 2 ^ 64)
  | 3 => BitVec.ofNat 64 (a.toNat * b.toNat / 2 ^ 64)
  | 4 => rvDivS 64 a b
  | 5 => rvDivU 64 a b
  | 6 => rvRemS 64 a b
  | _ => rvRemU 64 a b

/-- The M extension on 32 bits. -/
def rvMulDivW (f3 : Nat) (a b : BitVec 32) : Option (BitVec 32) :=
  match f3 with
  | 0 => some (a * b)
  | 4 => some (rvDivS 32 a b)
  | 5 => some (rvDivU 32 a b)
  | 6 => some (rvRemS 32 a b)
  | 7 => some (rvRemU 32 a b)
  | _ => none

/-- Register-register operations on 64 bits, by funct7 and funct3. -/
def rvOp (f7 f3 : Nat) (a b : Word) : Option Word :=
  let sh := b.toNat % 64
  match f7, f3 with
  | 0x00, 0 => some (a + b)
  | 0x00, 1 => some (a <<< sh)
  | 0x00, 2 => some (boolWord (a.slt b))
  | 0x00, 3 => some (boolWord (a.ult b))
  | 0x00, 4 => some (a ^^^ b)
  | 0x00, 5 => some (a >>> sh)
  | 0x00, 6 => some (a ||| b)
  | 0x00, 7 => some (a &&& b)
  | 0x20, 0 => some (a - b)
  | 0x20, 4 => some (~~~(a ^^^ b))
  | 0x20, 5 => some (a.sshiftRight sh)
  | 0x20, 6 => some (a ||| ~~~b)
  | 0x20, 7 => some (a &&& ~~~b)
  | 0x01, k => some (rvMulDiv k a b)
  | 0x10, 2 => some ((a <<< 1) + b)
  | 0x10, 4 => some ((a <<< 2) + b)
  | 0x10, 6 => some ((a <<< 3) + b)
  | 0x05, 4 => some (if a.slt b then a else b)
  | 0x05, 5 => some (if a.ult b then a else b)
  | 0x05, 6 => some (if a.slt b then b else a)
  | 0x05, 7 => some (if a.ult b then b else a)
  | 0x30, 1 => some (a.rotateLeft sh)
  | 0x30, 5 => some (a.rotateRight sh)
  | _, _ => none

/-- Register-register operations on words, by funct7 and funct3. -/
def rvOpW (f7 f3 : Nat) (rs2 : BitVec 5) (a b : Word) : Option Word :=
  let x : BitVec 32 := a.setWidth 32
  let y : BitVec 32 := b.setWidth 32
  let sh := b.toNat % 32
  let zx : Word := x.setWidth 64
  match f7, f3 with
  | 0x00, 0 => some ((x + y).signExtend 64)
  | 0x00, 1 => some ((x <<< sh).signExtend 64)
  | 0x00, 5 => some ((x >>> sh).signExtend 64)
  | 0x20, 0 => some ((x - y).signExtend 64)
  | 0x20, 5 => some ((x.sshiftRight sh).signExtend 64)
  | 0x01, k => (rvMulDivW k x y).map (fun r => r.signExtend 64)
  | 0x04, 0 => some (zx + b)
  | 0x04, 4 => if rs2 = 0 then some ((a.setWidth 16).setWidth 64) else none
  | 0x10, 2 => some ((zx <<< 1) + b)
  | 0x10, 4 => some ((zx <<< 2) + b)
  | 0x10, 6 => some ((zx <<< 3) + b)
  | 0x30, 1 => some ((x.rotateLeft sh).signExtend 64)
  | 0x30, 5 => some ((x.rotateRight sh).signExtend 64)
  | _, _ => none

/-- Register-immediate operations on 64 bits. -/
def rvOpImm (w : BitVec 32) (a : Word) : Option Word :=
  let imm := rvImmI w
  let sh := (w.extractLsb' 20 6).toNat
  let top := (w.extractLsb' 26 6).toNat
  match rvF3 w with
  | 0 => some (a + imm)
  | 2 => some (boolWord (a.slt imm))
  | 3 => some (boolWord (a.ult imm))
  | 4 => some (a ^^^ imm)
  | 6 => some (a ||| imm)
  | 7 => some (a &&& imm)
  | 1 => match top, sh with
    | 0x00, n => some (a <<< n)
    | 0x18, 0 => some (BitVec.ofNat 64 (clzOf 64 a.toNat))
    | 0x18, 1 => some (BitVec.ofNat 64 (ctzOf 64 a.toNat))
    | 0x18, 2 => some (BitVec.ofNat 64 (cpopOf 64 a.toNat))
    | 0x18, 4 => some ((a.setWidth 8).signExtend 64)
    | 0x18, 5 => some ((a.setWidth 16).signExtend 64)
    | _, _ => none
  | _ => match top, sh with
    | 0x00, n => some (a >>> n)
    | 0x10, n => some (a.sshiftRight n)
    | 0x18, n => some (a.rotateRight n)
    | 0x0A, 7 => some (orcB a)
    | 0x1A, 56 => some (rev8 a)
    | _, _ => none

/-- Register-immediate operations on words. -/
def rvOpImmW (w : BitVec 32) (a : Word) : Option Word :=
  let x : BitVec 32 := a.setWidth 32
  let sh := (rvRs2 w).toNat
  match rvF3 w with
  | 0 => some (sext32 (a + rvImmI w))
  | 1 =>
    if w.extractLsb' 26 6 = 0x02 then some ((x.setWidth 64) <<< (w.extractLsb' 20 6).toNat)
    else match rvF7 w, sh with
      | 0x00, n => some ((x <<< n).signExtend 64)
      | 0x30, 0 => some (BitVec.ofNat 64 (clzOf 32 x.toNat))
      | 0x30, 1 => some (BitVec.ofNat 64 (ctzOf 32 x.toNat))
      | 0x30, 2 => some (BitVec.ofNat 64 (cpopOf 32 x.toNat))
      | _, _ => none
  | 5 => match rvF7 w with
    | 0x00 => some ((x >>> sh).signExtend 64)
    | 0x20 => some ((x.sshiftRight sh).signExtend 64)
    | 0x30 => some ((x.rotateRight sh).signExtend 64)
    | _ => none
  | _ => none

/-- Whether a branch is taken. -/
def rvBranch (f3 : Nat) (a b : Word) : Option Bool :=
  match f3 with
  | 0 => some (a == b)
  | 1 => some (a != b)
  | 4 => some (a.slt b)
  | 5 => some (!a.slt b)
  | 6 => some (a.ult b)
  | 7 => some (!a.ult b)
  | _ => none

/-! ### Control and status registers (13 R474, R475) -/

/-- A counter or fcsr: no other register exists. -/
def Svc.csr (v : Svc) (now : Word) (n : Nat) : Option Word :=
  if n = 1 then some ((v.fcsr.extractLsb' 0 5).setWidth 64)
  else if n = 2 then some ((v.fcsr.extractLsb' 5 3).setWidth 64)
  else if n = 3 then some (v.fcsr.setWidth 64)
  else if n = 0xC00 then some v.cycle
  else if n = 0xC01 then some now
  else if n = 0xC02 then some v.instret
  else if 0xC03 ≤ n ∧ n ≤ 0xC1F then some 0
  else none

/-- fflags, frm or fcsr written; the counters cannot be. -/
def Svc.setCsr (v : Svc) (n : Nat) (x : Word) : Option Svc :=
  match n with
  | 1 => some { v with fcsr := v.fcsr.extractLsb' 5 3 ++ x.extractLsb' 0 5 }
  | 2 => some { v with fcsr := x.extractLsb' 0 3 ++ v.fcsr.extractLsb' 0 5 }
  | 3 => some { v with fcsr := x.setWidth 8 }
  | _ => none

/-- The CSR instructions: none when illegal. -/
def Svc.csrOp (v : Svc) (now : Word) (w : BitVec 32) : Option Svc :=
  let n := (w.extractLsb' 20 12).toNat
  let f3 := rvF3 w
  let src : Word := if 4 ≤ f3 then (rvRs1 w).setWidth 64 else v.rx (rvRs1 w)
  match v.csr now n with
  | none => none
  | some old =>
    let new := match f3 % 4 with
      | 1 => src
      | 2 => old ||| src
      | _ => old &&& ~~~src
    if f3 % 4 = 0 then none
    else if f3 % 4 ≠ 1 ∧ rvRs1 w = 0 then some (v.setX (rvRd w) old)
    else (v.setCsr n new).map (fun v => v.setX (rvRd w) old)

/-! ### Floating point (13 R474) -/

/-- The rounding mode of an instruction; none for the reserved ones. -/
def Svc.roundMode (v : Svc) (w : BitVec 32) : Option (BitVec 3) :=
  let m : BitVec 3 := w.extractLsb' 12 3
  let m := if m = 7 then v.fcsr.extractLsb' 5 3 else m
  if m.toNat ≤ 4 then some m else none

/-- A result into a floating-point register. -/
def Svc.putRounded (v : Svc) (dbl : Bool) (rd : BitVec 5) (r : Rounded) : Svc := (v.setF rd (rvBox dbl r.bits)).accrue r.flags

/-- The fused operations: 0 fmadd, 1 fmsub, 2 fnmsub, 3 fnmadd. -/
def Svc.fusedOp (v : Svc) (w : BitVec 32) (k : Nat) : Option Svc :=
  let dbl := w.extractLsb' 25 2 == 1#2
  let get (r : BitVec 5) : Num := rvDecode dbl (rvUnbox dbl (v.rf r))
  if w.extractLsb' 25 2 = 0 ∨ w.extractLsb' 25 2 = 1 then
    (v.roundMode w).map (fun mode =>
      let x := get (rvRs1 w)
      let z := get (rvRs3 w)
      let x := if 2 ≤ k then x.neg else x
      let z := if k = 1 ∨ k = 3 then z.neg else z
      v.putRounded dbl (rvRd w) (rvFma dbl mode x (get (rvRs2 w)) z))
  else none

/-- Conversions to an integer: by rs2, W, WU, L, LU. -/
def Svc.toIntOp (v : Svc) (dbl : Bool) (w : BitVec 32) : Option Svc :=
  let k := (rvRs2 w).toNat
  if 4 ≤ k then none
  else (v.roundMode w).map (fun mode =>
    let n := if k < 2 then 32 else 64
    let (i, fl) := rvToInt n (k % 2 = 0) mode (rvDecode dbl (rvUnbox dbl (v.rf (rvRs1 w))))
    (v.setX (rvRd w) ((BitVec.ofInt n i).signExtend 64)).accrue fl)

/-- Conversions from an integer: by rs2, W, WU, L, LU. -/
def Svc.ofIntOp (v : Svc) (dbl : Bool) (w : BitVec 32) : Option Svc :=
  let x := v.rx (rvRs1 w)
  let i : Int := match (rvRs2 w).toNat with
    | 0 => (x.setWidth 32).toInt
    | 1 => (x.toNat % 2 ^ 32 : Nat)
    | 2 => x.toInt
    | _ => x.toNat
  if 4 ≤ (rvRs2 w).toNat then none
  else (v.roundMode w).map (fun mode => v.putRounded dbl (rvRd w) (rvRound dbl mode (Num.ofInt i)))

/-- OP-FP. -/
def Svc.floatOp (v : Svc) (w : BitVec 32) : Option Svc :=
  let dbl := rvF7 w % 4 == 1
  let rd := rvRd w
  let a := rvUnbox dbl (v.rf (rvRs1 w))
  let b := rvUnbox dbl (v.rf (rvRs2 w))
  let x := rvDecode dbl a
  let y := rvDecode dbl b
  let f3 := rvF3 w
  let rs2 := (rvRs2 w).toNat
  let arith (g : BitVec 3 → Rounded) : Option Svc := (v.roundMode w).map (fun m => v.putRounded dbl rd (g m))
  if 2 ≤ rvF7 w % 4 then none
  else match rvF7 w / 4 with
    | 0x00 => arith (fun m => rvAdd dbl m x y)
    | 0x01 => arith (fun m => rvAdd dbl m x (if y.isNan then y else y.neg))
    | 0x02 => arith (fun m => rvMul dbl m x y)
    | 0x03 => arith (fun m => rvDiv dbl m x y)
    | 0x0B => if rs2 = 0 then arith (fun m => rvSqrt dbl m x) else none
    | 0x04 => if f3 < 3 then some (v.setF rd (rvBox dbl (rvSgnj dbl f3 a b))) else none
    | 0x05 => if f3 < 2 then some (v.putRounded dbl rd (rvPick dbl (f3 == 0) a b)) else none
    | 0x08 =>
      if dbl && rs2 == 0 then arith (fun m => rvRound true m (rvDecode false (rvUnbox false (v.rf (rvRs1 w)))))
      else if !dbl && rs2 == 1 then arith (fun m => rvRound false m (rvDecode true (rvUnbox true (v.rf (rvRs1 w)))))
      else none
    | 0x14 =>
      if f3 < 3 then
        let (t, fl) := rvCompare (2 - f3) x y
        some ((v.setX rd (boolWord t)).accrue fl)
      else none
    | 0x18 => v.toIntOp dbl w
    | 0x1A => v.ofIntOp dbl w
    | 0x1C =>
      if rs2 ≠ 0 then none
      else if f3 = 0 then some (v.setX rd (if dbl then v.rf (rvRs1 w) else sext32 (v.rf (rvRs1 w))))
      else if f3 = 1 then some (v.setX rd (BitVec.ofNat 64 (rvClass dbl a)))
      else none
    | 0x1E =>
      if rs2 = 0 ∧ f3 = 0 then some (v.setF rd (if dbl then v.rx (rvRs1 w) else rvBox false (v.rx (rvRs1 w)).toNat)) else none
    | _ => none

/-! ### Compressed instructions -/

/-- An instruction of a format with an immediate of 12 bits. -/
def encI (op f3 : Nat) (rd rs1 : BitVec 5) (imm : BitVec 12) : BitVec 32 :=
  imm ++ rs1 ++ BitVec.ofNat 3 f3 ++ rd ++ BitVec.ofNat 7 op
/-- A store. -/
def encS (op f3 : Nat) (rs1 rs2 : BitVec 5) (imm : BitVec 12) : BitVec 32 :=
  imm.extractLsb' 5 7 ++ rs2 ++ rs1 ++ BitVec.ofNat 3 f3 ++ imm.extractLsb' 0 5 ++ BitVec.ofNat 7 op
/-- A register-register operation. -/
def encR (op f3 f7 : Nat) (rd rs1 rs2 : BitVec 5) : BitVec 32 :=
  BitVec.ofNat 7 f7 ++ rs2 ++ rs1 ++ BitVec.ofNat 3 f3 ++ rd ++ BitVec.ofNat 7 op
/-- A branch against x0. -/
def encB (f3 : Nat) (rs1 : BitVec 5) (imm : BitVec 13) : BitVec 32 :=
  imm.extractLsb' 12 1 ++ imm.extractLsb' 5 6 ++ 0#5 ++ rs1 ++ BitVec.ofNat 3 f3 ++ imm.extractLsb' 1 4 ++
    imm.extractLsb' 11 1 ++ 0x63#7
/-- A jump that links nothing. -/
def encJ (imm : BitVec 21) : BitVec 32 :=
  imm.extractLsb' 20 1 ++ imm.extractLsb' 1 10 ++ imm.extractLsb' 11 1 ++ imm.extractLsb' 12 8 ++ 0#5 ++ 0x6F#7

/-- A three-bit register number. -/
def cReg (c : BitVec 16) (i : Nat) : BitVec 5 := 0b01#2 ++ c.extractLsb' i 3

/-- Quadrant 0. -/
def expand0 (c : BitVec 16) : Option (BitVec 32) :=
  let a := cReg c 7
  let d := cReg c 2
  let sp : BitVec 12 := 0#2 ++ c.extractLsb' 7 4 ++ c.extractLsb' 11 2 ++ c.extractLsb' 5 1 ++ c.extractLsb' 6 1 ++ 0#2
  let u8 : BitVec 12 := 0#4 ++ c.extractLsb' 5 2 ++ c.extractLsb' 10 3 ++ 0#3
  let u4 : BitVec 12 := 0#5 ++ c.extractLsb' 5 1 ++ c.extractLsb' 10 3 ++ c.extractLsb' 6 1 ++ 0#2
  match (c.extractLsb' 13 3).toNat with
  | 0 => if sp = 0 then none else some (encI 0x13 0 d 2 sp)
  | 1 => some (encI 0x07 3 d a u8)
  | 2 => some (encI 0x03 2 d a u4)
  | 3 => some (encI 0x03 3 d a u8)
  | 5 => some (encS 0x27 3 a d u8)
  | 6 => some (encS 0x23 2 a d u4)
  | 7 => some (encS 0x23 3 a d u8)
  | _ => none

/-- Register-register operations of quadrant 1. -/
def expandAlu (c : BitVec 16) : Option (BitVec 32) :=
  let a := cReg c 7
  let b := cReg c 2
  match c.getLsbD 12, (c.extractLsb' 5 2).toNat with
  | false, 0 => some (encR 0x33 0 0x20 a a b)
  | false, 1 => some (encR 0x33 4 0 a a b)
  | false, 2 => some (encR 0x33 6 0 a a b)
  | false, _ => some (encR 0x33 7 0 a a b)
  | true, 0 => some (encR 0x3B 0 0x20 a a b)
  | true, 1 => some (encR 0x3B 0 0 a a b)
  | true, _ => none

/-- Quadrant 1. -/
def expand1 (c : BitVec 16) : Option (BitVec 32) :=
  let rd : BitVec 5 := c.extractLsb' 7 5
  let a := cReg c 7
  let i6 : BitVec 6 := c.extractLsb' 12 1 ++ c.extractLsb' 2 5
  let imm : BitVec 12 := i6.signExtend 12
  let sp : BitVec 12 := (c.extractLsb' 12 1 ++ c.extractLsb' 3 2 ++ c.extractLsb' 5 1 ++ c.extractLsb' 2 1 ++
    c.extractLsb' 6 1 ++ 0#4).signExtend 12
  let j : BitVec 12 := c.extractLsb' 12 1 ++ c.extractLsb' 8 1 ++ c.extractLsb' 9 2 ++ c.extractLsb' 6 1 ++
    c.extractLsb' 7 1 ++ c.extractLsb' 2 1 ++ c.extractLsb' 11 1 ++ c.extractLsb' 3 3 ++ 0#1
  let b : BitVec 9 := c.extractLsb' 12 1 ++ c.extractLsb' 5 2 ++ c.extractLsb' 2 1 ++ c.extractLsb' 10 2 ++
    c.extractLsb' 3 2 ++ 0#1
  match (c.extractLsb' 13 3).toNat with
  | 0 => some (encI 0x13 0 rd rd imm)
  | 1 => if rd = 0 then none else some (encI 0x1B 0 rd rd imm)
  | 2 => some (encI 0x13 0 rd 0 imm)
  | 3 =>
    if i6 = 0 then none
    else if rd = 2 then some (encI 0x13 0 2 2 sp)
    else some (i6.signExtend 20 ++ rd ++ 0x37#7)
  | 4 => match (c.extractLsb' 10 2).toNat with
    | 0 => some (encI 0x13 5 a a (0#6 ++ i6))
    | 1 => some (encI 0x13 5 a a (0b010000#6 ++ i6))
    | 2 => some (encI 0x13 7 a a imm)
    | _ => expandAlu c
  | 5 => some (encJ (j.signExtend 21))
  | 6 => some (encB 0 a (b.signExtend 13))
  | _ => some (encB 1 a (b.signExtend 13))

/-- Quadrant 2. -/
def expand2 (c : BitVec 16) : Option (BitVec 32) :=
  let rd : BitVec 5 := c.extractLsb' 7 5
  let r2 : BitVec 5 := c.extractLsb' 2 5
  let i6 : BitVec 6 := c.extractLsb' 12 1 ++ c.extractLsb' 2 5
  let l8 : BitVec 12 := 0#3 ++ c.extractLsb' 2 3 ++ c.extractLsb' 12 1 ++ c.extractLsb' 5 2 ++ 0#3
  let l4 : BitVec 12 := 0#4 ++ c.extractLsb' 2 2 ++ c.extractLsb' 12 1 ++ c.extractLsb' 4 3 ++ 0#2
  let s8 : BitVec 12 := 0#3 ++ c.extractLsb' 7 3 ++ c.extractLsb' 10 3 ++ 0#3
  let s4 : BitVec 12 := 0#4 ++ c.extractLsb' 7 2 ++ c.extractLsb' 9 4 ++ 0#2
  match (c.extractLsb' 13 3).toNat with
  | 0 => some (encI 0x13 1 rd rd (0#6 ++ i6))
  | 1 => some (encI 0x07 3 rd 2 l8)
  | 2 => if rd = 0 then none else some (encI 0x03 2 rd 2 l4)
  | 3 => if rd = 0 then none else some (encI 0x03 3 rd 2 l8)
  | 4 =>
    if c.getLsbD 12 then
      (if r2 = 0 then (if rd = 0 then some 0x00100073 else some (encI 0x67 0 1 rd 0)) else some (encR 0x33 0 0 rd rd r2))
    else if r2 = 0 then (if rd = 0 then none else some (encI 0x67 0 0 rd 0))
    else some (encR 0x33 0 0 rd 0 r2)
  | 5 => some (encS 0x27 3 2 r2 s8)
  | 6 => some (encS 0x23 2 2 r2 s4)
  | _ => some (encS 0x23 3 2 r2 s8)

/-- The 32-bit form of a compressed instruction; none for the reserved ones. -/
def expandC (c : BitVec 16) : Option (BitVec 32) :=
  match (c.extractLsb' 0 2).toNat with
  | 0 => expand0 c
  | 1 => expand1 c
  | 2 => expand2 c
  | _ => none

/-! ### Memory instructions (13 R474, R476, R478) -/

/-- The port page (13 R478). -/
def portPage : Nat := 0xFFFFFFFFFFFFC000

/-- A memory access: a misaligned one stops the core, and so does any access to the port page but LD and SD. -/
def rvAccess (w : BitVec 32) (kind : RvMem) (addr : Word) (n : Nat) (data : Word) : RvEffect :=
  let whole := (kind == .load && w.extractLsb' 0 7 == 0x03#7 && rvF3 w == 3) ||
    (kind == .store && w.extractLsb' 0 7 == 0x23#7)
  if addr.toNat % n ≠ 0 ∨ (portPage ≤ addr.toNat ∧ !(whole && n == 8)) then .stop 0x13 addr 0
  else .mem kind addr n data

/-- The operation of an AMO. -/
def amoOp (f5 : Nat) : Option RmwOp :=
  match f5 with
  | 0x00 => some .add
  | 0x01 => some .swap
  | 0x04 => some .xor
  | 0x08 => some .or
  | 0x0C => some .and
  | 0x10 => some .min
  | 0x14 => some .max
  | 0x18 => some .minu
  | 0x1C => some .maxu
  | _ => none

/-- LR, SC and the AMOs. An SC without its reservation fails (log 50). -/
def Svc.atomicOp (v : Svc) (w : BitVec 32) (len : Nat) : Option RvEffect :=
  let a := v.rx (rvRs1 w)
  let n := if rvF3 w = 2 then 4 else 8
  let data := v.rx (rvRs2 w)
  let f5 := rvF7 w / 4
  if rvF3 w ≠ 2 ∧ rvF3 w ≠ 3 then none
  else match f5 with
    | 0x02 => if rvRs2 w = 0 then some (rvAccess w .lr a n 0) else none
    | 0x03 =>
      if a.toNat % n = 0 ∧ a.toNat < portPage ∧ (v.resv.map (fun r => (r.1, r.2.1))) ≠ some (a.toNat, n) then
        some (.next (({ v with resv := none } : Svc).setX (rvRd w) 1 |>.past len))
      else some (rvAccess w .sc a n data)
    | k => (amoOp k).map (fun op => rvAccess w (.amo op) a n data)

/-! ### One instruction -/

/-- One instruction in its 32-bit form: `len` bytes long, and `bits` as it stands in memory (13 R474, R476). -/
def Svc.execute (v : Svc) (now : Word) (w : BitVec 32) (len : Nat) (bits : Word) : RvEffect :=
  let rd := rvRd w
  let a := v.rx (rvRs1 w)
  let b := v.rx (rvRs2 w)
  let illegal : RvEffect := .stop 0x01 bits 0
  let put (o : Option Word) : RvEffect := match o with
    | some r => .next ((v.setX rd r).past len)
    | none => illegal
  let become (o : Option Svc) : RvEffect := match o with
    | some v => .next (v.past len)
    | none => illegal
  match (w.extractLsb' 0 7).toNat with
  | 0x37 => put (some (rvImmU w))
  | 0x17 => put (some (v.pc + rvImmU w))
  | 0x6F => .next ((v.setX rd (v.pc + BitVec.ofNat 64 len)).jump (v.pc + rvImmJ w))
  | 0x67 =>
    if rvF3 w = 0 then .next ((v.setX rd (v.pc + BitVec.ofNat 64 len)).jump ((a + rvImmI w) &&& ~~~1#64)) else illegal
  | 0x63 => match rvBranch (rvF3 w) a b with
    | some t => .next (if t then v.jump (v.pc + rvImmB w) else v.past len)
    | none => illegal
  | 0x03 => if rvF3 w = 7 then illegal else rvAccess w .load (a + rvImmI w) (2 ^ (rvF3 w % 4)) 0
  | 0x23 => if 4 ≤ rvF3 w then illegal else rvAccess w .store (a + rvImmS w) (2 ^ rvF3 w) b
  | 0x13 => put (rvOpImm w a)
  | 0x1B => put (rvOpImmW w a)
  | 0x33 => put (rvOp (rvF7 w) (rvF3 w) a b)
  | 0x3B => put (rvOpW (rvF7 w) (rvF3 w) (rvRs2 w) a b)
  | 0x0F => if rvF3 w < 2 then .next (v.past len) else illegal
  | 0x73 =>
    if w = 0x00000073 then .stop 0x09 (v.rx 17) (v.rx 10)
    else if w = 0x00100073 then .stop 0x0B 0 0
    else become (v.csrOp now w)
  | 0x07 =>
    if rvF3 w = 2 ∨ rvF3 w = 3 then rvAccess w .load (a + rvImmI w) (2 ^ rvF3 w) 0 else illegal
  | 0x27 =>
    if rvF3 w = 2 ∨ rvF3 w = 3 then rvAccess w .store (a + rvImmS w) (2 ^ rvF3 w) (v.rf (rvRs2 w)) else illegal
  | 0x2F => (v.atomicOp w len).getD illegal
  | 0x43 => become (v.fusedOp w 0)
  | 0x47 => become (v.fusedOp w 1)
  | 0x4B => become (v.fusedOp w 2)
  | 0x4F => become (v.fusedOp w 3)
  | 0x53 => become (v.floatOp w)
  | _ => illegal

/-- The value that a load of `n` bytes puts into its register. -/
def rvLoaded (w : BitVec 32) (n : Nat) (r : Word) : Word :=
  if rvF3 w ≥ 4 then r
  else match n with
    | 1 => (r.setWidth 8).signExtend 64
    | 2 => (r.setWidth 16).signExtend 64
    | 4 => (r.setWidth 32).signExtend 64
    | _ => r

/-- A memory instruction completes with the value that its access read (13 R474). -/
def Svc.complete (v : Svc) (x : RawAccess) (r : Word) : Svc :=
  let w := x.insn
  let rd := rvRd w
  let v := { v with access := none }
  let v := match x.kind with
    | .load => if w.extractLsb' 0 7 = 0x07 then v.setF rd (rvBox (rvF3 w == 3) r.toNat) else v.setX rd (rvLoaded w x.n r)
    | .store => v
    | .lr => ({ v with resv := some (x.addr, x.n, r) } : Svc).setX rd (rvLoaded w x.n r)
    | .sc =>
      let ok := v.resv == some (x.addr, x.n, r)
      ({ v with resv := none } : Svc).setX rd (if ok then 0 else 1)
    | .amo _ => v.setX rd (rvLoaded w x.n r)
  let v := v.past x.len
  if v.haltDue then { v with halted := true, haltDue := false } else v

end Sys2Proof.Machine
end

