-- ==== Sys2Proof/Machine/Svc.lean ====
section
/-! DEFINITION. The service and kernel cores: an instruction, its fetch and its raw accesses (13 R474 to R477; 01 R38, R48), and
the port page (13 R478, R479). -/

namespace Sys2Proof.Machine

/-! ### What a sluice lets through (01 R38; 08 R301 to R303) -/

/-- Bytes lie in one valid window, writable for a write (08 R301, R302). -/
def Sluice.inWindow (x : Sluice) (a n : Nat) (write : Bool) : Bool :=
  x.win.toList.any (fun w => w.getLsbD 0 && (!write || w.getLsbD 1) && decide (fieldN w.toNat 12 40 ≤ a / 4096) &&
    decide ((a + n - 1) / 4096 ≤ fieldN w.toNat 76 40))

/-- Offsets of the hub block that a service sluice never reaches (08 R303). -/
def kernelOnly (a : Nat) : Bool :=
  match placeOf a with
  | .hub o => decide (0x100000 ≤ o) && decide (o < 0x200000)
  | _ => false

/-- The sluice of core `x` refuses a raw access (01 R38; 08 R301 to R303). -/
def State.rawRefused (s : State) (x a n : Nat) (write : Bool) : Bool :=
  !(s.svc x).sluice.en || !(s.svc x).sluice.inWindow a n write || decide (2 ^ 52 ≤ a) || placeOf a == .reserved ||
    (sluiceKind x == 1 && kernelOnly a) || s.shielded a n

/-- A raw access is refused: the core stops (13 R476). -/
def rawRefusal (a : Nat) : LateFault := ⟨0x20, BitVec.ofNat 64 a, 1⟩

/-! ### One instruction (13 R474) -/

/-- The address of a fetch lies below the execute-only boundary of a scratchpad, where no raw access reads (01 R38; 04
R146). -/
def State.padXb (s : State) (a : Nat) : Bool :=
  match placeOf a with
  | .pad c o => decide (o < (s.core c).xb.toNat)
  | _ => false

/-- A fetch of two bytes at an address is refused; it needs only V in its window (13 R474). -/
def State.fetchRefused (s : State) (x a : Nat) : Bool := s.rawRefused x a 2 false || s.padXb a

/-- Two bytes as a fetch finds them. -/
def State.rawHalf (s : State) (a : Nat) : BitVec 16 :=
  match placeOf a with
  | .hub _ | .control _ _ => (s.readRegs a 2).setWidth 16
  | .slotGap => 0
  | _ => BitVec.ofNat 16 (leNat (s.readBytes a 2))

/-- What a fetch brings: an instruction in its 32-bit form with its length and its bits, or why the core stops. -/
inductive RvFetch where
  | insn (w : BitVec 32) (len : Nat) (bits : Word)
  | stop (e : LateFault)
  deriving DecidableEq, Repr

/-- The fetch of core `x` (13 R474, R476, R478). -/
def State.fetchRv (s : State) (x : Nat) : RvFetch :=
  let a := (s.svc x).pc.toNat
  if a % 2 = 1 ∨ portPage ≤ a then .stop ⟨0x13, BitVec.ofNat 64 a, 0⟩
  else if s.fetchRefused x a then .stop (rawRefusal a)
  else
    let lo := s.rawHalf a
    if lo.extractLsb' 0 2 = 0b11#2 then
      if s.fetchRefused x (a + 2) then .stop (rawRefusal (a + 2))
      else
        let w : BitVec 32 := s.rawHalf (a + 2) ++ lo
        .insn w 4 (w.setWidth 64)
    else match expandC lo with
      | some w => .insn w 2 (lo.setWidth 64)
      | none => .stop ⟨0x01, lo.setWidth 64, 0⟩

/-- HALT that has been written takes effect at the instruction boundary (13 R477). -/
def Svc.boundary (v : Svc) : Svc := if v.haltDue then { v with halted := true, haltDue := false } else v

/-- Cycles of the core pass; how many an instruction takes is free (13 R475; log 4). -/
def State.svcCycles (s : State) (x : Nat) : State :=
  s.onSvc x (fun v => { v with cyc := v.cyc + 1, cycle := v.cycle + 1 + s.free 0 })

/-- An instruction begins: it completes, waits for its access, or stops the core. -/
def State.startRv (s : State) (x : Nat) (w : BitVec 32) (len : Nat) (bits : Word) : State :=
  match (s.svc x).execute s.now w len bits with
  | .next v => s.onSvc x (fun _ => v.boundary)
  | .mem kind a n data => s.onSvc x (fun v => { v with access := some { insn := w, len := len, kind := kind, addr := a.toNat, n := n, data := data } })
  | .stop cause d d2 => s.svcStop x ⟨cause, d, d2⟩

/-- A cycle of core `x` in which it may issue: it completes the access that it waits for, or takes its next instruction. -/
def State.runRv (s : State) (x : Nat) : State :=
  let v := s.svc x
  if v.halted then s
  else match v.access with
    | some r => match r.reply with
      | some w => s.onSvc x (fun v => v.complete r w)
      | none => s
    | none => match s.fetchRv x with
      | .stop e => s.svcStop x e
      | .insn w len bits => s.startRv x w len bits

/-! ### Raw accesses (01 R38, R48; 13 R474) -/

/-- The access writes. -/
def RvMem.writes : RvMem → Bool
  | .load | .lr => false
  | _ => true

/-- The pending access of core `x` is answered with a value. -/
def State.rawReply (s : State) (x : Nat) (w : Word) : State :=
  s.onSvc x (fun v => { v with access := v.access.map (fun r => { r with reply := some w }) })

/-- What a register access stores, of the word it finds. -/
def RawAccess.stores (r : RawAccess) (resv : Option (Nat × Nat × Word)) (old : Word) : Option Word :=
  match r.kind with
  | .load | .lr => none
  | .store => some r.data
  | .sc => if resv = some (r.addr, r.n, old) then some r.data else none
  | .amo op => some (BitVec.ofNat 64 (rmwNew r.n op old.toNat r.data))

/-- A write of XLAT_INVAL waits while an invalidation is in progress (01 R46, R48). -/
def State.invalBusy (s : State) (r : RawAccess) : Bool :=
  match placeOf r.addr with
  | .control cl o => o / 8 * 8 == 0x88 && r.kind.writes && (s.cluster cl).inval.isSome
  | _ => false

/-- An access to a device register: it is read, and a write makes its steps (00 R5). -/
def State.rawRegister (s : State) (x : Nat) (r : RawAccess) : State :=
  if s.invalBusy r then s
  else
    let old := s.readRegs r.addr r.n
    match r.stores (s.svc x).resv old with
    | some v => (s.rawReply x old).pushWrite r.addr r.n v
    | none => s.rawReply x old

/-- What a raw access does at memory. -/
def RawAccess.access (r : RawAccess) (resv : Option (Nat × Nat × Word)) : Access :=
  match r.kind with
  | .load | .lr => .read r.addr r.n 0
  | .store => .rmw r.addr r.n .swap r.data
  | .sc => .rmw r.addr r.n (.ifIs ((resv.map (fun z => z.2.2)).getD 0)) r.data
  | .amo op => .rmw r.addr r.n op r.data

/-- The request of a raw access: it belongs to no buffer (log 51). -/
def State.rawReq (s : State) (x : Nat) (r : RawAccess) : Req where
  src := .raw x (s.svc x).starts
  path := 0
  part := s.partOf x
  desc := 0
  cls := match placeOf r.addr with
    | .hbm => 2
    | .host => 3
    | _ => 0
  off := 0
  va := r.addr
  xpart := s.partOf x
  rm := 0
  xRead := false
  xWrite := false
  dev := s.dev
  core := agentCore x
  nc := true
  home := 0
  kreg := none
  acc := r.access (s.svc x).resv

/-- The host answers the raw accesses of core `x` to its memory (09 R317). -/
def State.serveHostRaw (s : State) (x : Nat) : State :=
  match s.hostq.findIdx? (fun r => match r.src with
    | .raw y _ => y == x
    | _ => false) with
  | some i => s.serveHost i
  | none => s

/-- The raw access that core `x` waits for passes its sluice and sets out, or stops the core (01 R38; 08 R302). -/
def State.rawAccess (s : State) (x : Nat) : State :=
  match (s.svc x).access with
  | none => s
  | some r =>
    if r.sent || r.reply.isSome || decide (portPage ≤ r.addr) then s
    else if s.rawRefused x r.addr r.n r.kind.writes then s.svcStop x (rawRefusal r.addr)
    else match placeOf r.addr with
      | .hub _ | .control _ _ => s.rawRegister x r
      | .slotGap => s.rawReply x 0
      | _ =>
        ((s.onSvc x (fun v => { v with access := some { r with sent := true } })).dispatch (s.rawReq x r)).serveHostRaw x

/-! ### The port page (13 R478, R479) -/

/-- The pending access of core `x` to the port page, of a kind: its offset and the value stored. -/
def State.portAccess (s : State) (x : Nat) (store : Bool) : Option (Nat × Word) :=
  ((s.svc x).access.filter (fun r => decide (portPage ≤ r.addr) && (r.kind == .store) == store && !(s.svc x).halted)).map
    (fun r => (r.addr - portPage, r.data))

/-- The LD or SD of core `x` completes. -/
def State.portDone (s : State) (x : Nat) (w : Word) : State :=
  s.onSvc x (fun v => match v.access with
    | some r => v.complete r w
    | none => v)

/-- The units that a port page reaches: wr, cap, cp, rm, sq and tr (13 R478). -/
def portUnit (u : Nat) : Bool := u == 11 || decide (14 ≤ u)

/-- The latches of those units. -/
def portLatch (l : Latch) : Bool := portUnit (latchIdx l / 4)

/-- The result ports of those units. -/
def portResult (p : Port) : Bool := portUnit (portIdx p / 4)

/-- The trigger of an SD to the port page. -/
def State.portTrig (s : State) (x : Nat) (op : Op) (t : Word) : Trig := ⟨x, s.view x, op, t, 0, 0, 0, 0⟩

/-- The checks of an operation through the port page: `rm.t.rld` fails its check 1 (13 R478). -/
def State.portErr (s : State) (y : Trig) : Option Err :=
  if y.op = .rm .rld then some ⟨0x12, y.t, 0⟩ else (trigger y.op).check s y

/-- An SD to the place of a target (13 R478). -/
def State.portMove (s : State) (x : Nat) (t : Target) (v : Word) : State :=
  match t with
  | .latch l =>
    if portLatch l then
      (s.onSvc x (fun c => { c with ports := (c.view.writeLatch (.latch l) v).ports })).portDone x 0
    else s.svcStop x ⟨0x02, 0, 0⟩
  | .trig op =>
    if portUnit op.unit then
      let y := s.portTrig x op v
      match s.portErr y with
      | some e => s.svcStop x ⟨e.cause, e.detail, e.detail2⟩
      | none => ((trigger op).perform s y).portDone x 0
    else s.svcStop x ⟨0x02, 0, 0⟩
  | _ => s.svcStop x ⟨0x02, 0, 0⟩

/-- An SD below the control words, to a read-only control word, or to a reserved offset (13 R478, R479). -/
def State.portStore (s : State) (x o : Nat) (v : Word) : State :=
  if o < 0x3F00 then s.portMove x (Target.ofCode (BitVec.ofNat 11 (o / 8))) v
  else if o < 0x3F20 then s.portDone x 0
  else s.svcStop x ⟨0x02, 0, 0⟩

/-- Operations of an agent that have not completed. -/
def State.portOut (s : State) (x : Nat) : Nat := (s.flights.filter (fun f => f.agent == x)).length

/-- The value of an origin of the port page; none where there is no such origin (13 R478). -/
def State.portOrigin (s : State) (x o : Nat) : Option Word :=
  if 0x400 ≤ o / 8 then none
  else match Origin.ofCode (BitVec.ofNat 10 (o / 8)) with
    | .port p => if portResult p then some (((s.svc x).ports[portIdx p]?).getD 0) else none
    | _ => none

/-- An LD of an origin, of PSEQ or POUT, of a write-only control word, or of a reserved offset (13 R478, R479). -/
def State.portLoad (s : State) (x o : Nat) : State :=
  let v := if o < 0x3F00 then s.portOrigin x o
    else if o = 0x3F00 then some ((s.svc x).pseq.setWidth 64)
    else if o = 0x3F08 then some (BitVec.ofNat 64 (s.portOut x))
    else if o = 0x3F20 ∨ o = 0x3F28 then some 0
    else none
  match v with
  | some w => s.portDone x w
  | none => s.svcStop x ⟨0x03, 0, 0⟩

/-- The service call of a unit. -/
def Work.call? : Work → Option Nat
  | .service h => some h
  | _ => none

/-- PSVC: the oldest ready service call of the partition's SVCQ starts to run (13 R479). -/
def State.takeCall (s : State) (x : Nat) : State :=
  let part := s.partOf x
  let q := (s.part part).svcq
  match if (s.queue q).part = part then (s.queue q).units.findSome? Work.call? else none with
  | some h =>
    let s := s.onQueue q (fun z => { z with units := z.units.erase (.service h) })
    (s.setTcb part h tcbState 3).portDone x (BitVec.ofNat 64 h)
  | none => s.portDone x (BitVec.allOnes 64)

/-- The slot that PPIN and PORPH name. -/
def portSlot (v : Word) : BitVec 5 := (v.extractLsb' 0 4).setWidth 5

/-- PPIN (13 R479). -/
def State.portPin (s : State) (x : Nat) (v : Word) : State :=
  let k := portSlot v
  if sluiceKind x ≠ 0b10 then s.svcStop x ⟨0x11, s.free 0, 0x80⟩
  else match s.agentK x k with
    | .cap c =>
      if c.kind = .whole then
        (s.onDesc c.part c.desc.toNat (fun d => { d with pin := v.getLsbD 8 })).portDone x 0
      else s.svcStop x ⟨0x11, kNum k, 0x80⟩
    | _ => s.svcStop x ⟨0x10, kNum k, 0⟩

/-- The oldest orphan of a partition goes into an empty slot of core `x`; its status word (08 R265; 13 R479). -/
def State.takeOrphan (s : State) (x : Nat) (k : BitVec 5) (p : BitVec 4) : State × Word :=
  match (s.part p).orphans with
  | [] => (s, statusCode 1)
  | (_, c) :: rest =>
    let s := (s.onPart p (fun q => { q with orphans := rest })).setAgentK x k (.cap c)
    (s.setOwner c (ownerReg x k), statusWord 0 0 false false false false (((s.descOf c).map (·.cls)).getD 0) 0)

/-- PORPH (13 R479). -/
def State.portOrphan (s : State) (x : Nat) (v : Word) : State :=
  let k := portSlot v
  if sluiceKind x ≠ 0b10 then s.svcStop x ⟨0x11, s.free 0, 0x80⟩
  else if s.agentK x k ≠ .empty then s.svcStop x ⟨0x11, kNum k, 0x40⟩
  else
    let (s, w) := s.takeOrphan x k (v.extractLsb' 8 4)
    (s.onSvc x (fun c => { c with ports := c.ports.setIfInBounds (portIdx .capR) w })).portDone x 0

/-! ### RUN and HALT (13 R477) -/

/-- The result ports read zero. -/
def clearResults (p : Vector Word 76) : Vector Word 76 := p.mapIdx (fun i w => if 2 ≤ i % 4 then 0 else w)

/-- A service or kernel core as RUN leaves it. -/
def Svc.start (v : Svc) : Svc :=
  { v with
    x := Vector.replicate 32 0, f := Vector.replicate 32 0, fcsr := 0, cycle := 0, instret := 0, pc := v.rpc
    halted := false, haltDue := false, starts := v.starts + 1, resv := none, access := none, ports := clearResults v.ports }

/-- RUN: the core starts at RPC, and results of its port operations that are still to come are discarded. -/
def State.runSvc (s : State) (x : Nat) : State :=
  { s.onSvc x Svc.start with
    flights := s.flights.map (fun f => if f.agent = x then { f with counted := false } else f) }

/-- HALT: at once between instructions, else when the instruction in progress completes. -/
def Svc.halt (v : Svc) : Svc := if v.access.isSome && !v.halted then { v with haltDue := true } else { v with halted := true }

/-! ### Meanings -/

/-- SERVICE_CORE_INSTRUCTION on core `focus.sluice` (13 R474). -/
def execServiceCoreInstruction (s : State) : Host.Outcome State Fault Refusal :=
  .next ((s.svcCycles s.focus.sluice).runRv s.focus.sluice)

/-- RAW_ACCESS of core `focus.sluice` (01 R38). -/
def execRawAccess (s : State) : Host.Outcome State Fault Refusal := .next (s.rawAccess s.focus.sluice)

/-- PORT_PAGE_STORE of core `focus.sluice` (13 R478). -/
def execPortPageStore (s : State) : Host.Outcome State Fault Refusal :=
  let x := s.focus.sluice
  .next (match s.portAccess x true with
    | some (o, v) => if o = 0x3F20 ∨ o = 0x3F28 then s else s.portStore x o v
    | none => s)

/-- PORT_PAGE_LOAD of core `focus.sluice` (13 R478). -/
def execPortPageLoad (s : State) : Host.Outcome State Fault Refusal :=
  let x := s.focus.sluice
  .next (match s.portAccess x false with
    | some (o, _) => if o = 0x3F10 ∨ o = 0x3F18 then s else s.portLoad x o
    | none => s)

/-- PDRAIN: the LD of core `focus.sluice` waits until no port operation is outstanding (13 R479). -/
def execPdrain (s : State) : Host.Outcome State Fault Refusal :=
  let x := s.focus.sluice
  .next (match s.portAccess x false with
    | some (0x3F10, _) => if s.portOut x = 0 then s.portDone x 0 else s
    | _ => s)

/-- PSVC of core `focus.sluice` (13 R479). -/
def execPsvc (s : State) : Host.Outcome State Fault Refusal :=
  let x := s.focus.sluice
  .next (match s.portAccess x false with
    | some (0x3F18, _) => s.takeCall x
    | _ => s)

/-- PPIN of core `focus.sluice` (13 R479). -/
def execPpin (s : State) : Host.Outcome State Fault Refusal :=
  let x := s.focus.sluice
  .next (match s.portAccess x true with
    | some (0x3F20, v) => s.portPin x v
    | _ => s)

/-- PORPH of core `focus.sluice` (13 R479). -/
def execPorph (s : State) : Host.Outcome State Fault Refusal :=
  let x := s.focus.sluice
  .next (match s.portAccess x true with
    | some (0x3F28, v) => s.portOrphan x v
    | _ => s)

/-- RUN of core `focus.sluice` (13 R477). -/
def execRun (s : State) : Host.Outcome State Fault Refusal := .next (s.runSvc s.focus.sluice)

/-- HALT of core `focus.sluice` (13 R477). -/
def execHalt (s : State) : Host.Outcome State Fault Refusal := .next (s.onSvc s.focus.sluice Svc.halt)

end Sys2Proof.Machine
end

