-- ==== Sys2Proof/Machine/Bringup.lean ====
section
/-! DEFINITION. Reset and bring-up (13 R482), LOCK and signed configuration blocks (13 R480, R482), measurements (13 R483), and
the clocks of the clusters (13 R484, R485). What the ROM verifies and signs is Config's (log 6). -/

namespace Sys2Proof.Machine

/-! ### STATE of SEC_STAT (13 R480) -/

/-- ROM. -/
def secRom : BitVec 4 := 1
/-- VERIFY. -/
def secVerify : BitVec 4 := 2
/-- KERNEL. -/
def secKernel : BitVec 4 := 3
/-- READY. -/
def secReady : BitVec 4 := 4
/-- FAILED. -/
def secFailed : BitVec 4 := 5

/-- Bring-up fails, with FAIL. -/
def State.bringupFailed (s : State) (code : BitVec 8) : State :=
  { s with sec := { s.sec with state := secFailed, fail := code } }

/-! ### Reset (13 R482; 12 R460) -/

/-- A CXL port after its training, with what it has negotiated with the host (12 R464). -/
def HostPort.trained (width : BitVec 5) (bien : Bool) : HostPort := { width := width, up := width != 0, bien := bien }

/-- The device is reset: registers take their reset values, memory keeps its bytes (log 53), keys are zeroised with a
record (12 R460), and the boot ROM runs. Both ports train to `focus.n` lanes; bits 0 and 1 of `focus.data` say on which the
host enables back-invalidate. -/
def State.deviceReset (s : State) : State :=
  let f := s.focus
  let r : State := { State.reset with
    mem := s.mem
    poison := s.poison
    dev := s.dev
    agenda := s.agenda
    focus := s.focus
    tick := s.tick
    hostRead := s.hostRead
    sec := { State.reset.sec with state := secRom }
    ports := #v[HostPort.trained (BitVec.ofNat 5 f.n) (f.data.getLsbD 0), HostPort.trained (BitVec.ofNat 5 f.n) (f.data.getLsbD 1)] }
  (s.links.filter (fun e => e.2.key.isSome || e.2.newKey.isSome)).foldl
    (fun r e => r.eventRecord 0x08 (BitVec.ofNat 6 e.1) false 0 e.2.part e.2.peerDev 0) r

/-! ### Firmware (13 R482) -/

/-- The kernel cores' sluices, by index (01 R37). -/
def kernelSluices : List Nat := (List.range 8).map (fun i => 2176 + i)

/-- The sluice that the ROM gives a kernel core: one writable window over the whole physical map. -/
def kernelSluice : Sluice :=
  { en := true, win := (Vector.replicate 8 0).set 0 (BitVec.ofNat 128 (0xFFFFFFFFFF * 2 ^ 76 + 3)) }

/-- The time within which K0 must set LOCK: 10 s. -/
def lockTime : Word := 10000000000

/-- The verified image starts: the kernel sluices are written, and K0 runs at the firmware's entry. -/
def State.startKernel (s : State) (image : List Byte) (at_ : Nat) (entry : Word) : State :=
  let s := s.writeBytes at_ image
  let s := kernelSluices.foldl (fun s x => s.setSluice x kernelSluice) s
  let s : State := { s with sec := { s.sec with
    state := secKernel, fwver := Config.firmwareVersion image, firmware := BitVec.ofNat 384 (leNat (sha384 image))
    deadline := s.now + lockTime } }
  (s.onSvc 2176 (fun v => { v with rpc := entry })).runSvc 2176

/-- FIRMWARE_VERIFY: the ROM goes on to VERIFY, and then the image, none when the flash cannot be read, is checked. Where it
is placed and where it is entered are those of the event (log 54). -/
def State.firmwareVerify (s : State) : State :=
  if s.sec.state = secRom then { s with sec := { s.sec with state := secVerify } }
  else if s.sec.state ≠ secVerify then s
  else if s.focus.bytes = [] then s.bringupFailed 0x01
  else if Config.firmwareSigned s.focus.bytes then s.startKernel s.focus.bytes s.focus.addr s.focus.data
  else s.bringupFailed 0x02

/-- KERNEL_START_TIMEOUT: K0 has not set LOCK in its time. -/
def State.kernelTimeout (s : State) : State :=
  if s.sec.state = secKernel ∧ s.sec.deadline.toNat ≤ s.now.toNat then s.bringupFailed 0x03 else s

/-- LOCK is set until reset, and the device that K0 has brought up accepts commands. -/
def State.setLock (s : State) : State :=
  { s with sec := { s.sec with lock := true, state := if s.sec.state = secKernel then secReady else s.sec.state } }

/-! ### Configuration blocks (13 R480, R482, R483) -/

/-- BUSY, OK and BAD of SEC_CFGST. -/
def cfgBusy : BitVec 3 := 1
/-- OK. -/
def cfgOk : BitVec 3 := 2
/-- BAD. -/
def cfgBad : BitVec 3 := 4

/-- Pair `i` of a configuration block: offset and value. -/
def State.cfgPair (s : State) (a i : Nat) : Nat × Word :=
  (leNat (s.readBytes (a + 16 * i) 8), BitVec.ofNat 64 (leNat (s.readBytes (a + 16 * i + 8) 8)))

/-- An offset that a configuration block may write. -/
def cfgOffset (o : Nat) : Bool := decide (o < 0x1000000) && decide (o % 8 = 0) && !(decide (0x200000 ≤ o) && decide (o < 0x210000))

/-- The check of the configuration block of `focus.n` pairs ends (13 R482; log 55). -/
def State.checkConfig (s : State) : State :=
  if s.sec.cfgst ≠ cfgBusy then s
  else
    let n := s.focus.n
    let body := s.readBytes s.sec.cfg (16 * n)
    let pairs := (List.range n).map (s.cfgPair s.sec.cfg)
    if Config.blockSigned (sha384 body) (s.readBytes (s.sec.cfg + 16 * n) 96) && pairs.all (fun p => cfgOffset p.1) then
      let chain := sha384 (leBytes 48 s.sec.chain.toNat ++ body)
      { s with
        sec := { s.sec with cfgst := cfgOk, chain := BitVec.ofNat 384 (leNat chain) }
        agenda := pairs.flatMap (fun p => regSteps s (0x2000000000000 + p.1) (BitVec.allOnes 64) p.2) ++ s.agenda }
    else { s with sec := { s.sec with cfgst := cfgBad } }

/-! ### Measurements (13 R483) -/

/-- The measurement of an index; none where there is no such index. -/
def State.measurement (s : State) (i : Nat) : List Byte :=
  match i with
  | 1 => Config.romDigest
  | 2 => leBytes 48 s.sec.firmware.toNat ++ leBytes 2 s.sec.fwver.toNat
  | 3 => leBytes 8 hubIdent.toNat
  | 4 => if s.sec.lock then s.sec.accept.toList.flatMap (fun w => leBytes 8 w.toNat) else List.replicate 32 0
  | 5 => leBytes 48 s.sec.chain.toNat
  | _ => []

/-- A request for measurement `focus.n` with the nonce `focus.bytes` is answered. -/
def State.spdm (s : State) : State :=
  if s.sec.state = 0 then s
  else
    let m := s.measurement s.focus.n
    { s with sec := { s.sec with doe := m ++ Config.identitySign m s.focus.bytes } }

/-! ### Meanings -/

/-- DEVICE_RESET (13 R482). -/
def execDeviceReset (s : State) : Host.Outcome State Fault Refusal := .next s.deviceReset

/-- FIRMWARE_VERIFY of the image `focus.bytes` (13 R482). -/
def execFirmwareVerify (s : State) : Host.Outcome State Fault Refusal := .next s.firmwareVerify

/-- KERNEL_START_TIMEOUT (13 R482). -/
def execKernelStartTimeout (s : State) : Host.Outcome State Fault Refusal := .next s.kernelTimeout

/-- LOCK (13 R480, R482). -/
def execLock (s : State) : Host.Outcome State Fault Refusal := .next s.setLock

/-- SEC_CFG: the check of the block at `focus.data` begins (13 R480, R482). -/
def execSecCfg (s : State) : Host.Outcome State Fault Refusal :=
  .next { s with sec := { s.sec with cfg := s.focus.data.toNat, cfgst := cfgBusy } }

/-- CONFIGURATION_BLOCK_CHECK (13 R482). -/
def execConfigurationBlockCheck (s : State) : Host.Outcome State Fault Refusal := .next s.checkConfig

/-- SPDM_REQUEST (13 R483). -/
def execSpdmRequest (s : State) : Host.Outcome State Fault Refusal := .next s.spdm

/-- CLOCK_STRETCH of cluster `focus.cluster` (13 R484). -/
def execClockStretch (s : State) : Host.Outcome State Fault Refusal :=
  .next (s.onCluster s.focus.cluster (fun c => { c with stretched := true }))

/-- SUPPLY_RECOVERED of cluster `focus.cluster` (13 R484). -/
def execSupplyRecovered (s : State) : Host.Outcome State Fault Refusal :=
  .next (s.onCluster s.focus.cluster (fun c => { c with stretched := false }))

/-- THERMAL_THROTTLE of cluster `focus.cluster` (13 R485). -/
def execThermalThrottle (s : State) : Host.Outcome State Fault Refusal :=
  .next (s.onCluster s.focus.cluster (fun c => { c with throttled := true }))

/-- THERMAL_RECOVER of cluster `focus.cluster` (13 R485). -/
def execThermalRecover (s : State) : Host.Outcome State Fault Refusal :=
  .next (s.onCluster s.focus.cluster (fun c => { c with throttled := false }))

end Sys2Proof.Machine
end

