-- ==== Sys2Proof/Machine/Fetch.lean ====
section
/-! DEFINITION. The fetch of a word (02 R70, R75; 04 R135, R147), and the list of what happens next (log 3). -/

namespace Sys2Proof.Machine

/-- What a step comes to: a state, or an instruction to carry out in a state. -/
inductive Advance where
  | done (s : State)
  | run (i : Instr) (s : State)
  | refused (r : Refusal)

/-- A word that is issued, and no step of an engine. -/
def isWord (i : Instr) : Bool :=
  match i with
  | .wordIssue _ => true
  | .nop _ _ _ => true
  | i => i.trigger?.isSome

/-- Why the fetch of a word of `len` bytes takes the overlay trap; 0 when it does not. Of several reasons the lowest
stands (04 R147). -/
def Core.overlayReason (c : Core) (len : Nat) : BitVec 8 :=
  if c.xb.toNat < c.pc.off.toNat + len then 1 else c.check.setWidth 8

/-- The physical address of the word at a core's PC (02 R75; 01 R32). -/
def State.fetchAddr (s : State) (cn : Nat) : Nat := slotBase cn + (s.core cn).pc.off.toNat

/-- The core's next word is fetched whole: it is issued, takes the overlay trap, or stops the continuation at a poisoned
granule, the overlay trap first (02 R75; 04 R147; log 119). -/
def State.fetch (s : State) (cn : Nat) : Advance :=
  let c := s.core cn
  let a := s.fetchAddr cn
  let len := wordLen (s.byteAt a)
  let reason := c.overlayReason len
  if reason ≠ 0 then
    .done (s.onCore cn (fun c => ({ c with check := 0 } : Core).raiseTrap ⟨0x07, reason, 0, c.pc⟩))
  else match s.poisoned? a len with
    | some g => .done (s.wordFault cn none ⟨0x22, BitVec.ofNat 64 (32 * g), 0⟩)
    | none => match decode (s.readBytes a len) with
      | .ok (i, _) => .run i { s.onCore cn (fun c => { c with check := 0 }) with turn := cn }
      | .error _ => .refused .undecodable

end Sys2Proof.Machine
end

