-- ==== Sys2Proof/Machine/TimedMove.lean ====
section
/-! DEFINITION. Moves armed for a device time (02 R84; 10 R383): they are performed in one cycle with the word that issues
in it, on the buses that the word leaves free. -/

namespace Sys2Proof.Machine

/-- The word that an instruction is, as it issues. -/
def Instr.word? (i : Instr) : Option IssueWord :=
  match i with
  | .wordIssue w => some w.issue
  | .nop _ _ _ => some nopWord
  | i => i.trigger?.map (fun x => x.2.issue x.1)

/-- The word that a core's next cycle would issue: none when issue is held or the fetch gives no word. -/
def State.nextWord (s : State) (cn : Nat) : Option (IssueWord × State) :=
  match (s.core cn).hold, s.fetch cn with
  | .none, .run i t => (Instr.word? i).map (fun w => (w, t))
  | _, _ => none

/-- The number of detached operations that moves trigger, with their literal (02 R92). -/
def State.detachedIn (s : State) (cn : Nat) (lit : Word) (len : Nat) (ms : List Slot) : Nat :=
  let c := s.core cn
  let on := ms.filter (fun m => c.guardValue m.guard)
  let at_ := on.foldl (fun c m => c.writeLatch m.tgt (s.slotValue cn lit m)) c
  (on.filter (fun m => ((trigOf cn at_ c.order len m (s.slotValue cn lit m)).map
    (fun t => (trigger t.op).detached s t)).getD false)).length

/-- The word cannot issue in this cycle: a walker's element, a scoreboard counter or the ring holds it (02 R85). -/
def State.wordStalls (s : State) (cn : Nat) (w : IssueWord) : Bool :=
  let c := s.core cn
  (w.moves.filterMap Slot.walker?).any (fun n => (c.walker n).stalls) || c.sbFull w.moves ||
    s.ringFull cn (s.detachedIn cn w.lit w.len w.moves)

/-- The move of a slot, on the bus of slot 3 of the frame header; none for a NOP (10 R383). -/
def TimedSlot.slot? (t : TimedSlot) : Option Slot := (liveMoves [(Move.ofBits t.move, 3, false)]).head?

/-- A slot is armed and its time has come (10 R383). -/
def TimedSlot.due (t : TimedSlot) (now : Word) : Bool := t.armed && decide (t.time ≤ now)

/-- A slot's move can be performed in this cycle beside these moves, `det` of which start detached operations: a bus is
free, it conflicts with none of them, and neither a walker's element, a scoreboard counter nor, for a detached operation,
the ring holds it (02 R84, R85; 10 R383). -/
def State.timedFits (s : State) (cn : Nat) (before : List Slot) (det : Nat) (m : Slot) : Bool :=
  let c := s.core cn
  let n := s.detachedIn cn 0 0 [m]
  decide (before.length < 3) && !before.any (conflicts m) &&
    m.walker?.all (fun n => !(c.walker n).stalls) && !c.sbFull (before ++ [m]) && !(n != 0 && s.ringFull cn (det + n))

/-- The slots that are performed in this cycle beside a word of which `det` moves start detached operations, lowest first:
their places and moves (10 R383). -/
def State.timedChosen (s : State) (cn : Nat) (word : List Slot) (det : Nat) : List (Nat × Option Slot) :=
  (((s.core cn).timed.toList.zipIdx).foldl (fun (out, before, det) (t, i) =>
    if t.due s.now then match t.slot? with
      | none => (out ++ [(i, none)], before, det)
      | some m => if s.timedFits cn before det m then (out ++ [(i, some m)], before ++ [m], det + s.detachedIn cn 0 0 [m])
        else (out, before, det)
    else (out, before, det)) (([] : List (Nat × Option Slot)), word, det)).1

/-- The detached operations that the word issuing in this cycle starts. -/
def State.wordDetached (s : State) (cn : Nat) (w : Option (IssueWord × State)) : Nat :=
  (w.map (fun x => s.detachedIn cn x.1.lit x.1.len x.1.moves)).getD 0

/-- The core is in a program cycle: it runs, outside a handler, and no stop is due (10 R383). -/
def Core.programCycle (c : Core) : Bool := c.mode == .run && c.shadow.isNone && c.stops.isEmpty

/-- The moves of the word that issues in this cycle, none when issue is stalled. -/
def State.cycleWord (s : State) (cn : Nat) : Option (IssueWord × State) :=
  (s.nextWord cn).filter (fun x => !x.2.wordStalls cn x.1)

/-- A timed move is performed in the next cycle (10 R383); not in a cycle whose fetch takes a trap or finds poison, and not
with a word that faults. -/
def State.timedDue (s : State) (cn : Nat) : Bool :=
  let c := s.core cn
  c.programCycle && c.timed.any (fun t => t.due s.now) &&
    (c.hold != .none || (s.nextWord cn).isSome) &&
    (let w := s.cycleWord cn
     !(s.timedChosen cn ((w.map (fun x => x.1.moves)).getD []) (s.wordDetached cn w)).isEmpty)

/-- The stop that a fault of a timed move brings at the next boundary (10 R383). -/
def timedStop (m : Slot) (e : Err) : StopDue := preciseStop ⟨0, 0⟩ (some m) e

/-- A move of a cycle: its slot, its value and its trigger. -/
abbrev Enabled := Slot × Word × Option Trig

/-- The cycle after its moves: slots are free again, and faults of timed moves are recorded. -/
def State.endTimed (s : State) (cn : Nat) (chosen : List (Nat × Option Slot)) (bad : List (Slot × Err)) : State :=
  s.onCore cn (fun c => { c with
    order := c.order + 4 * chosen.length
    timed := chosen.foldl (fun t x => t.setIfInBounds x.1 {}) c.timed
    stops := c.stops ++ bad.map (fun x => timedStop x.1 x.2) })

/-- A cycle in which no word issues, with the timed moves performed in it. -/
def State.stalledCycle (s : State) (cn : Nat) (ms : List Enabled) (at_ : Core) : State :=
  let hs := ms.flatMap (fun x => ((x.1.walker?.map (s.walkerHits cn)).getD []) ++
    ((x.2.2.map (fun t => (trigger t.op).hits s t)).getD []))
  let s := s.originEffects cn (ms.map (·.1)) (ms.any (fun x => x.1.readsFsx))
  let s := s.onCore cn (fun c => { c with ports := at_.ports })
  let s := ms.foldl (State.performMove trigger) s
  let s := s.onCore cn (fun c => ms.foldl (fun c x => c.writeReg x.1.tgt x.2.1) c)
  (s.onCore cn Core.endCycle).afterHit cn hs

/-- TIMED_MOVE: one cycle of a core, in which the armed moves whose time has come are performed beside the word that
issues, if one does (02 R84; 10 R383). A word that faults is taken alone. -/
def State.timedMove (s0 : State) (cn : Nat) : State :=
  if !s0.timedDue cn then s0
  else
    let word := s0.cycleWord cn
    let s := (word.map (·.2)).getD s0
    let c := s.core cn
    let ws := (word.map (fun x => x.1.moves)).getD []
    let lit := (word.map (fun x => x.1.lit)).getD 0
    let len := (word.map (fun x => x.1.len)).getD 0
    let chosen := s.timedChosen cn ws (s.wordDetached cn word)
    let extra := (chosen.filterMap (·.2)).zipIdx
    let wv := (ws.filter (fun m => c.guardValue m.guard)).map (fun m => (m, s.slotValue cn lit m))
    let xv := (extra.filter (fun x => c.guardValue x.1.guard)).map (fun x => (x.1, s.slotValue cn 0 x.1, x.2))
    let at_ := wv.foldl (fun c x => c.writeLatch x.1.tgt x.2) c
    let at_ := xv.foldl (fun c x => c.writeLatch x.1.tgt x.2.1) at_
    let ms : List Enabled := wv.map (fun x => (x.1, x.2, trigOf cn at_ c.order len x.1 x.2))
    let xs : List Enabled := xv.map (fun x => (x.1, x.2.1, trigOf cn at_ (c.order + 4 * (x.2.2 + 1)) len x.1 x.2.1))
    let err (x : Enabled) : Option Err := s.moveErr trigger cn x.1 x.2.2
    let bad := xs.filterMap (fun x => (err x).map (fun e => (x.1, e)))
    let good := xs.filter (fun x => (err x).isNone)
    match word with
    | none => (s.stalledCycle cn good at_).endTimed cn chosen bad
    | some (w, _) =>
      if (wordErr w c.owe.isSome).isSome || (s.firstMoveErr trigger cn ms).isSome then s.issue trigger cn w
      else (s.performWord trigger cn w (ms ++ good) at_).endTimed cn chosen bad

/-! ### Meanings -/

/-- TIMED_MOVE on core `focus.core` (10 R383). -/
def execTimedMove (s : State) : Host.Outcome State Fault Refusal := .next (s.timedMove s.focus.core)

end Sys2Proof.Machine
end

