-- ==== Sys2Proof/Machine/Residency.lean ====
section
/-! DEFINITION. How operations complete (01 R56; 02 R97), and how a continuation comes to a core and leaves it: suspension
(04 R150), stops (04 R160), the start (02 R91; 10 R349) and the resumption from a frame (04 R166; 10 R386). -/

namespace Sys2Proof.Machine

/-! ### Completion of a detached operation (01 R56; 02 R92, R97) -/

/-- The operation writes core state, or delivers a result to its port (02 R97). -/
def Flight.writesCore (f : Flight) : Bool :=
  match f.op with
  | .mx _ => true
  | .rm .rld | .rm .rfop => true
  | .vx .vld | .vx .vldx => true
  | .cap o => !(o == .send || o == .join || o == .drop || o == .free || o == .narrow)
  | .cp .stat => true
  | .sq o => !(o == .dec || o == .fillf)
  | .wr o => o != .arrive
  | .tr o => o != .mark
  | _ => false

/-- The operation is an mma or mmaz that has groups to apply. -/
def Flight.applying (f : Flight) : Bool := f.phase == .active && (f.op == .mx .mma || f.op == .mx .mmaz)

/-- Requests of an operation that wait at the host port. -/
def State.hostOpen (s : State) (f : Flight) : Nat := (s.hostq.filter (fun r => r.src == .op f.agent f.seq)).length

/-- Marks of an operation's writes that have not been applied (11 R415). -/
def State.marksDue (s : State) (f : Flight) : Bool :=
  (s.marks ++ ((s.falls ++ s.spilled).map (·.item) ++ s.stuck.map (·.2)).filterMap (fun x => match x with
    | .mark k => some k
    | _ => none)).any (fun k => k.agent == f.agent && k.seq == some f.seq)

/-- Everything of an operation has been performed but what its completion itself does. -/
def State.allPerformed (s : State) (f : Flight) : Bool :=
  match f.phase with
  | .ready => true
  | .active => f.cpOp?.isNone && !f.applying && f.open_ == s.hostOpen f
  | .issued => match f.op with
    | .tr .relaunch => false
    | .tr _ => s.trMayServe f
    | _ => false
  | _ => false

/-- The operation may complete now: its time has come, and its continuation, when it writes core state, is not away
(02 R97; 10 R389). -/
def State.mayComplete (s : State) (f : Flight) : Bool :=
  s.allPerformed f && decide (f.earliest ≤ (s.view f.agent).cyc) && !s.marksDue f &&
    (f.retry || !(f.writesCore && f.frame.isSome))

/-- The operation writes host memory and its flush read has not been made (09 R317). -/
def State.wantsFlush (s : State) (f : Flight) : Option (Cap × Desc × Nat) :=
  if f.phase != .active then none
  else match f.op, f.ca.bind (fun c => (s.descOf c).map (fun d => (c, d))) with
    | .rm .rst, some (c, d) => if d.cls = 3 then some (c, d, (rmOff f.t + rmSize f.t - 1) / 32 * 32) else none
    | .vx .vst, some (c, d) =>
      if d.cls = 3 then
        ((List.range 128).reverse.find? (fun i => f.mask.getLsbD i)).map (fun i =>
          (c, d, (fieldN f.o.toNat 0 40 + ((i + 1) * laneSize f.fs - 1) / 8) / 32 * 32))
      else none
    | _, _ => none

/-- What a completion writes into the core beside its port (06 R226; 07 R243; 09 R327). -/
def Core.takeData (c : Core) (f : Flight) : Core :=
  match f.op with
  | .vx .vld => c.writeMain f.vldResult
  | .mx .rdacc => c.mergeV (mxV f.t) (rdaccMask f.t) (imageOf 4096 f.data)
  | .rm .rld => c.takeRld f
  | _ => c

/-- A recv has brought a part of the core's own window (08 R298). -/
def State.windowComes (s : State) (f : Flight) : State :=
  match f.op, f.kres with
  | .cap .recv, [(_, .cap c)] =>
    if isCompute f.agent && f.counted && ((s.descOf c).map (fun d => d.cls == 5 && d.windowCore == f.agent)).getD false
    then s.windowBack c else s
  | _, _ => s

/-- The completion of an operation that has not failed. -/
def State.completeOk (s : State) (f : Flight) : State :=
  match f.op with
  | .cp .stat => s.finish { f with result := some (s.cpStatus f.agent) }
  | .tr o => if f.phase = .issued then
      let t := s.trServe f o
      match t.flight? f.agent f.seq with
      | some g => if g.phase = .ready then t.finish g else t
      | none => t
    else s.finish f
  | _ =>
    let s := if isCompute f.agent && f.counted then s.onCore f.agent (·.takeData f) else s
    (s.finish f).windowComes f

/-- DETACHED_COMPLETION of an operation (01 R56; 02 R92, R94, R95, R97). -/
def State.complete (s : State) (a : Nat) (q : BitVec 16) : State :=
  match s.flight? a q with
  | none => s
  | some f =>
    if !s.mayComplete f then s
    else
      let s := s.serveHostOf a q
      match s.flight? a q with
      | none => s
      | some f =>
        if f.retry then s.finish f
        else match s.wantsFlush f with
          | some (c, d, off) => s.flushRead f c d off
          | none => s.completeOk f

/-! ### Leaving a core (02 R97; 04 R150, R160; 08 R257, R299; 09 R333; 11 R409) -/

/-- Detached operations of the continuation on a core that have not completed. -/
def State.ownFlights (s : State) (cn : Nat) : List Flight :=
  s.flights.filter (fun f => f.agent == cn && f.counted && !f.retry)

/-- The capability registers go to the continuation's set (08 R257); the windows stay with the core (08 R298, R299). -/
def State.capsToSet (s : State) (cn : Nat) (r : Resident) : State :=
  let set := r.cset.toNat
  (List.range 30).foldl (fun s i =>
    let k : BitVec 5 := BitVec.ofNat 5 i
    let v := (s.core cn).rk k
    let s := (s.putSlot r.part set k v).onCore cn (fun c => c.setK k .empty)
    match v with
    | .cap c => s.setOwner c (ownerSet set)
    | _ => s) s

/-- The set is loaded into k0 to k29 (08 R257, R298). -/
def State.capsFromSet (s : State) (cn : Nat) (r : Resident) : State :=
  let set := r.cset.toNat
  (List.range 30).foldl (fun s i =>
    let k : BitVec 5 := BitVec.ofNat 5 i
    let v := s.setSlot r.part set k
    let s := (s.putSlot r.part set k .empty).onCore cn (fun c => c.setK k v)
    match v with
    | .cap c => s.setOwner c (ownerReg cn k)
    | _ => s) s

/-- Buffers in batch mode are given up: their close markers go (09 R333). -/
def State.leaveBatches (s : State) (cn : Nat) : State :=
  (s.core cn).batches.foldl (fun s b => s.leaveBatch cn ⟨.grant, b.1, b.2, 0, 0⟩) s

/-- What a core gives up with its continuation, before its capabilities: windows come home, markers go, and the recorder is
flushed (08 R299; 09 R333; 11 R409). -/
def State.giveUp (s : State) (cn : Nat) (r : Resident) : State :=
  (((s.windowsHome cn).leaveBatches cn).flushRanges cn).capsToSet cn r

/-- The core without a continuation: what belongs to the core stays (02 R93; 04 R146). -/
def Core.vacated (c : Core) : Core :=
  { c with
    mode := .idle
    hold := .none
    res := none
    owe := none
    check := 0
    stages := []
    stores := []
    shadow := none
    owedTrap := none
    owedSusp := none
    stops := []
    busy := 0
    busyLast := 0
    watch := Vector.replicate 4 {}
    walkers := Vector.replicate 4 {}
    timed := Vector.replicate 8 {}
    sig := none
    batches := []
    ranges := []
    taken := none
    reissue := [] }

/-- Operations in flight of the continuation that leaves a core: counted no more, or counted in a frame (02 R97). -/
def State.uncountAll (s : State) (cn : Nat) (frame : Option Nat) : State :=
  let away (f : Flight) : Flight := if f.agent = cn ∧ f.counted then { f with counted := false, frame := frame } else f
  { s with
    flights := s.flights.map away
    marked := s.marked.map away }

/-- Code position and g0 to g3 of a core, as a record keeps them (04 R149). -/
def State.putPoint (s : State) (rec : Nat) (c : Core) : State :=
  let s := (s.setFld rec recPcoff c.pc.off.toNat).setFld rec recOvl c.pc.ovl.toNat
  (List.range 4).foldl (fun s i => s.setFld rec (recG i) (c.rg (BitVec.ofNat 6 i)).toNat) s

/-! ### Suspension (04 R150; 10 R363, R364; 08 R293) -/

/-- The object that a wait names has signalled, or has nothing to wait for: the value that g3 takes, if it takes one
(10 R363, R377; 08 R293). -/
def State.signalled (s : State) (r : Resident) (cl : Nat) (kind : BitVec 2) (h : Nat) : Option (Option Word) :=
  match kind.toNat with
  | 0 =>
    let a := s.futAt r.part h
    if (s.part r.part).futLen ≤ h ∨ s.fld a futAlloc = 0 then some (some (BitVec.allOnes 64))
    else if s.fld a futFilled = 1 then some (some (BitVec.ofNat 64 (s.fld a futValue))) else none
  | 1 =>
    let x := s.bar cl (h % 64)
    if barArmed x && !barFired x && !barDis x then none else some none
  | 2 =>
    let m := s.mailbox cl (h % 1024)
    let mine := m.bound == .cont r.record r.part || m.bound == .launch r.launch r.part
    if mine && m.queue.isEmpty then none else some none
  | _ => some none

/-- The operations that a suspension point waits for have completed; done waits for every one (02 R97; 10 R378). Its
Local-path stores have been performed, and their marks applied (11 R415). -/
def State.suspendReady (s : State) (cn : Nat) : Bool :=
  let c := s.core cn
  match c.mode with
  | .suspending k _ =>
    c.stops.isEmpty && c.stores.isEmpty && !s.marks.any (fun m => m.agent == cn && m.seq.isNone) &&
      !(s.ownFlights cn).any (fun f => f.writesCore || k == .done)
  | _ => false

/-- A wait's record: it parks, or it is ready at once (04 R150; 10 R363, R364). -/
def State.park (s : State) (r : Resident) (cl : Nat) (arg : Word) : State :=
  let kind : BitVec 2 := arg.extractLsb' 32 2
  let h : BitVec 32 := arg.extractLsb' 0 32
  let s := (s.setFld r.record recWhandle h.toNat).setFld r.record recWkind kind.toNat
  match s.signalled r cl kind h.toNat with
  | none =>
    let a := s.futAt r.part h.toNat
    let s := if kind = 0 then s.setFld a futWaiters (s.fld a futWaiters + 1) else s
    (s.setFld r.record recState 3).addWaiter r.part cl kind h r.record
  | some v =>
    let s := match v with
      | some x => s.setFld r.record (recG 3) x.toNat
      | none => s
    let a := s.futAt r.part h.toNat
    let s := if kind = 0 ∧ h.toNat < (s.part r.part).futLen ∧ s.fld a futAlloc = 1 then s.dropFut a else s
    s.requeue cl r.record none

/-- Watch events of a continuation that suspends, whose slots are cleared, are lost on their way (04 R174). -/
def State.dropEvents (s : State) (cn : Nat) : State :=
  { s with msgs := s.msgs.filter (fun m => !(m.src == cn && (match m.pay with
      | .event _ => true
      | _ => false))) }

/-- SUSPENSION: steps 2 to 5 of 04 R150, once the operations of step 1 have completed. -/
def State.suspend (s : State) (cn : Nat) : State :=
  let c := s.core cn
  match c.mode, c.res with
  | .suspending k arg, some r =>
    if !s.suspendReady cn then s
    else
      let s := s.putPoint r.record c
      let s := (((s.giveUp cn r).uncountAll cn none).dropEvents cn).onCore cn Core.vacated
      let cl := clusterOf cn
      match k with
      | .done => (s.setFld r.record recState 5).retire cn r
      | .wait => s.park r cl arg
      | _ => s.requeue cl r.record none
  | _, _ => s

/-! ### Stops (04 R160 to R166; 10 R385; 07 R252; 09 R338; 08 R257, R300) -/

/-- The stop waits for the operation without the limit of 2^16 cycles (04 R160; 07 R252; 08 R257; 09 R338). -/
def Flight.neverRetried (f : Flight) : Bool :=
  match f.op with
  | .cap _ => true
  | .rm .rfop => true
  | .mx _ => f.effectMade
  | .cp .copys => decide (f.phase != .issued && f.phase != .active)
  | _ => false

/-- The re-issue record of an operation (10 R385). -/
def Flight.reissueRecord (f : Flight) : BitVec 512 :=
  BitVec.ofNat 512 (packFields [(0, 16, f.seq.toNat), (16, 11, f.op.code), (27, 4, f.sbf.toNat), (31, 4, f.rm.toNat),
    (64, 64, f.t.toNat), (128, 64, f.o.toNat), (192, 64, f.ka.toNat), (256, 32, f.pc.off.toNat), (288, 16, f.pc.ovl.toNat)])

/-- Operations of a core are marked pending-retry: their ring entries, their re-issue records, and an interrupted mma keeps
its place and its count of cycles waited (04 R160; 07 R240, R252; 10 R385). A read whose answers are on their way stays
until they have come, and its result is discarded. The copy engine keeps the signals of a copy-like one, and the
capability of a copys, for the re-issue (09 R311, R322). -/
def State.markRetry (s : State) (cn : Nat) (pick : Flight → Bool) : State :=
  let fs := (s.ownFlights cn).filter pick
  let s := fs.foldl (fun s f => s.onCore cn (fun c =>
    let c := c.setRing f.seq { c.ringAt f.seq with state := ringRetry }
    let c := { c with reissue := c.reissue ++ [f.reissueRecord] }
    if f.applying then
      { c with mx := { c.mx with hvalid := true, hseq := f.seq, stall := BitVec.ofNat 21 c.mxStall } } else c)) s
  { s with
    marked := s.marked ++ fs.filter (fun f => f.cpOp?.isSome)
    flights := s.flights.filterMap (fun f =>
      if f.agent = cn ∧ f.counted ∧ !f.retry ∧ pick f then
        (if f.phase = .active ∧ f.open_ ≠ 0 then some { f with retry := true } else none)
      else some f) }

/-- PENDING_RETRY_MARK of a core that has waited 2^16 cycles in a stop: every operation that it still waits for is marked,
but for those that run to their end (04 R160). -/
def State.retryDue (s : State) (cn : Nat) : Bool :=
  let c := s.core cn
  (match c.mode with
    | .stopping _ => true
    | _ => false) &&
    (match c.taken with
      | some (_, _, cyc) => decide (cyc + 2 ^ 16 ≤ c.cyc)
      | none => false) &&
    (s.ownFlights cn).any (fun f => f.writesCore && !f.neverRetried)

/-- The event itself. -/
def State.retryMark (s : State) (cn : Nat) : State :=
  if s.retryDue cn then s.markRetry cn (fun f => f.writesCore && !f.neverRetried) else s

/-- The template of a continuation's launch (04 R148; 10 R369). -/
def State.headerOf (s : State) (r : Resident) : Option Nat :=
  if r.launch.toNat < (s.part r.part).tcbLen then s.tmplAt r.part (s.tcb r.part r.launch.toNat tcbTmpl) else none

/-- The lowest free slot of the launch's fault area (10 R385). -/
def State.freeFrame (s : State) (r : Resident) : Option Nat :=
  (s.headerOf r).bind (fun t =>
    ((List.range (s.tFslots t)).map (fun i => s.tFault t + i * 0x21000)).find? (fun a => s.bitsIn a 64 8 == 0))

/-- Local-path stores that wait are performed as a stop is written; their scoreboard entries stay (04 R160, R166). -/
def State.settleStores (s : State) (cn : Nat) : State :=
  let quiet (x : LocalStore) : LocalStore := { x with writes := [], covers := [] }
  let ws := (s.core cn).pendingStores
  let s := ws.foldl (fun s x =>
    let old := s.byteAt
    let s := s.writeCovering x.writes
    let s := x.covers.foldl (fun s k => s.markWrite k.cap.part k.cap.desc k.off k.len
      ((s.core cn).res.bind (fun r => r.trace.map (·.index))) cn none) s
    s.onCore cn (fun k => k.mapStages (Core.veilLoads old x.order x.writes))) s
  s.onCore cn (fun c => { c with
    stores := c.stores.map quiet
    shadow := c.shadow.map (fun sh => { sh with stores := sh.stores.map quiet }) })

/-- The frame of a core is written at an address; a copy of what is opaque there is kept (04 R162; log 7). -/
def State.putFrame (s : State) (cn a : Nat) (h : FrameHead) : State :=
  let c := s.core cn
  let waiting := (s.mxActive cn).isSome
  let key := s.tick + 1
  let s := s.writeBytes a (c.frameBytes h key waiting)
  { s with frames := tabPut key c s.frames }

/-- Re-issue records are written, 64 bytes each, in an area of 4 KiB (10 R385). -/
def State.putReissues (s : State) (a : Nat) (rs : List (BitVec 512)) : State :=
  rs.foldl (fun s r => s.writeBytes (a + 64 * (fieldN r.toNat 0 16 % 64)) (imageBytes r)) s

/-- The number of detached operations of a core's continuation issued and not completed (04 R163). -/
def State.outCount (s : State) (cn : Nat) : Nat := (s.ownFlights cn).length

/-- The stop can be written: it has been taken, nothing that it waits for is left, and the windows are whole (04 R160;
08 R300). -/
def State.stopReady (s : State) (cn : Nat) : Bool :=
  let c := s.core cn
  (match c.mode with
    | .stopping _ => true
    | _ => false) &&
    (match c.taken, c.res with
      | none, _ => true
      | some _, some r => c.vaway == 0 && c.taway == 0 && !(s.ownFlights cn).any Flight.writesCore && (s.freeFrame r).isSome
      | some _, none => true)

/-- Late faults that were recorded and do not stop the continuation have records of their own (04 R161). -/
def State.postLate (s : State) (cn : Nat) : State :=
  let c := s.core cn
  let s := (c.stops.filter (·.kind == 0b01)).foldl (fun s d => match c.res with
    | some r => s.postRecord cn r.part
        (faultRecord d.cause 0b01 false false r.part d.seq r.launch r.wid (s.cid cn) d.pc.word d.detail d.detail2 0 s.now)
    | none => s) s
  s.onCore cn (fun c => { c with stops := [] })

/-- The stop is taken: what its header says of this moment (04 R160, R163). -/
def State.takeNow (s : State) (cn : Nat) : State :=
  let s := s.postLate cn
  let n := s.outCount cn
  s.onCore cn (fun c => { c with taken := some (n, s.now, c.cyc) })

/-- Steps 4 to 7 of a stop: frame, re-issue records, record, fault record, and the core is free (04 R160). -/
def State.writeStop (s : State) (cn : Nat) (d : StopDue) (r : Resident) (n : Nat) (time : Word) (a : Nat) : State :=
  let s := s.settleStores cn
  let c := s.core cn
  let cid := s.cid cn
  let s := s.putFrame cn a ⟨d, n == 0, c.inHandler, r.wid, r.cset, r.launch, time, n, cid, 0, false, 0⟩
  let s := s.putReissues (a + 0x20000) c.reissue
  let s := s.putPoint r.record { c with pc := d.pc }
  let s := ((s.setFld r.record recState 4).setFld r.record recFrame 1).setFld r.record recRetry (bit (!c.reissue.isEmpty))
  let s := s.onPart r.part (fun p => { p with stopped := tabPut r.record a p.stopped })
  let s := s.postRecord cn r.part
    (faultRecord d.cause d.kind (n == 0) true r.part d.seq r.launch r.wid cid d.pc.word d.detail d.detail2
      (BitVec.ofNat 64 a) time)
  let s := (s.giveUp cn r).uncountAll cn (some a)
  s.onCore cn Core.vacated

/-- STOP: it is taken first, and written when nothing that it waits for is left (04 R160). A core that holds no
continuation has none to write. -/
def State.stop (s : State) (cn : Nat) : State :=
  let c := s.core cn
  if !s.stopReady cn then s
  else match c.mode, c.taken, c.res with
    | .stopping _, none, _ => s.takeNow cn
    | .stopping d, some (n, time, _), some r => match s.freeFrame r with
      | some a => s.writeStop cn d r n time a
      | none => s
    | .stopping _, some _, none => s.onCore cn Core.vacated
    | _, _, _ => s

/-! ### Taking up a continuation (02 R91; 04 R148; 10 R347, R349, R365) -/

/-- A ready continuation may be taken up by a core (10 R358, R365). -/
def State.mayTake (s : State) (cn : Nat) (x : Ready) : Bool :=
  let c := s.core cn
  c.takes x.part && !(s.part x.part).out && x.core.all (· == cn) && (s.boundCores x.part (s.fld x.record recCset)).all (· == cn)

/-- The oldest entry of the cluster's ready list that a core may take (10 R358). -/
def State.nextReady (s : State) (cn : Nat) : Option Ready := (s.cluster (clusterOf cn)).ready.find? (s.mayTake cn)

/-- The entry leaves the ready list. -/
def State.unready (s : State) (cn : Nat) (x : Ready) : State :=
  s.onCluster (clusterOf cn) (fun c => { c with ready := c.ready.erase x })

/-- The trace and block of a continuation (11 R408). -/
def State.tracedOf (s : State) (part : BitVec 4) (h rec : Nat) (wid : Word) : Option Traced :=
  match s.launchTrace part h, s.tmplAt part (s.tcb part h tcbTmpl) with
  | some ix, some t => some ⟨ix, s.itemOf part t rec wid / max 1 (s.tBlock t)⟩
  | _, _ => none

/-- The resident continuation that a record describes (04 R149). -/
def State.residentOf (s : State) (part : BitVec 4) (rec : Nat) : Resident where
  record := rec
  part := part
  queue := BitVec.ofNat 8 (s.fld rec recQueue)
  launch := BitVec.ofNat 32 (s.fld rec recLaunch)
  wid := BitVec.ofNat 64 (s.fld rec recWid)
  cset := BitVec.ofNat 32 (s.fld rec recCset)
  trace := s.tracedOf part (s.fld rec recLaunch) rec (BitVec.ofNat 64 (s.fld rec recWid))

/-- A core with everything of a continuation zero but g0 to g3 and the PC, and with the settings of the launch header (02
R91; 04 R147, R148). -/
def State.freshCore (s : State) (c : Core) (r : Resident) : Core :=
  let pc : CodePtr := ⟨BitVec.ofNat 32 (s.fld r.record recPcoff), BitVec.ofNat 16 (s.fld r.record recOvl)⟩
  let t := s.headerOf r
  { Core.reset with
    mode := .run
    res := some r
    cyc := c.cyc
    order := c.order
    lastCopy := c.lastCopy
    copyCyc := c.copyCyc
    pc := pc
    check := if pc.ovl = 0 then 0 else 3
    g := Vector.ofFn (fun i => if i.val < 4 then BitVec.ofNat 64 (s.fld r.record (recG i.val)) else 0)
    xb := BitVec.ofNat 64 ((t.map s.tXb).getD 0)
    ovh := BitVec.ofNat 32 ((t.map s.tOvh).getD 0)
    bf := Vector.ofFn (fun i => (t.map (fun t => s.tBf t i.val)).getD 0 &&& localBankMask)
    k := c.k
    seq := c.seq
    ring := c.ring
    port := c.port
    sluice := c.sluice
    subs := c.subs
    code := c.code
    mx := { Mx.reset with startAt := c.cyc, groupAt := c.cyc } }

/-- The code buffer of a launch: supplied slot CODEK of a launch or a card; a task finds it with a launch of its template
(10 R347, R349, R369). -/
def State.codeCap (s : State) (part : BitVec 4) (h t : Nat) : Option Cap :=
  let at_ (h : Nat) : Option Cap := (s.setSlot part (s.tcb part h tcbCset) (BitVec.ofNat 5 (s.tCodek t))).cap?
  if s.tcb part h tcbKind = 2 then
    ((List.range (s.part part).tcbLen).find? (fun i => s.tcb part i tcbKind == 1 &&
      s.tcb part i tcbTmpl == s.tcb part h tcbTmpl)).bind at_
  else at_ h

/-- The bytes of a piece of a buffer, read as a core takes up a continuation (10 R349): a translation that fails is fault
0x21, poison is 0x22. -/
def State.codePiece (s : State) (cl : Nat) (c : Cap) (d : Desc) (va n : Nat) : Except LateFault (List Byte) :=
  let pa : Except LateFault (Nat × Option Nat) :=
    if translated d.cls then
      match s.walk cl c.part va with
      | .error l => .error ⟨0x21, BitVec.ofNat 64 va, BitVec.ofNat 64 l⟩
      | .ok x => if x.allows d.cls false then .ok (x.pa + (va - x.va), if d.cls = 4 then some x.dev.toNat else none)
        else .error ⟨0x21, BitVec.ofNat 64 va, BitVec.ofNat 64 x.level⟩
    else .ok (va, none)
  match pa with
  | .error e => .error e
  | .ok (a, some home) => .ok ((List.range n).map (fun i =>
      if s.sectorIn (remoteDie va) (some (BitVec.ofNat 12 home)) ((a + i) / 32) then s.farByte (BitVec.ofNat 12 home) (a + i)
      else Config.remoteByte s.tick home (a + i)))
  | .ok (a, none) => match s.poisoned? a n with
    | some g => .error ⟨0x22, BitVec.ofNat 64 (32 * g), c.desc.setWidth 64⟩
    | none => .ok (s.readBytes a n)

/-- The bytes of a range of a buffer. -/
def State.readBuffer (s : State) (cl : Nat) (c : Cap) (off n : Nat) : Except LateFault (List Byte) :=
  match s.descOf c with
  | none => .ok (List.replicate n 0)
  | some d => (pieces (d.base.toNat + off) n).foldl (fun out p => match out with
      | .error e => .error e
      | .ok bs => (s.codePiece cl c d p.1 p.2).map (bs ++ ·)) (.ok [])

/-- The stop of a late fault that comes before the first fetch (10 R347, R349). -/
def startStop (e : LateFault) : StopDue := ⟨⟨0, 0⟩, e.cause, 0b01, 0, 0, 0, 0, 0, e.detail, e.detail2⟩

/-- The code of the template is made resident (10 R349 step 2). -/
def State.loadCode (s : State) (cn : Nat) (r : Resident) (t : Nat) : Except LateFault State :=
  let tmpl := s.tcb r.part r.launch.toNat tcbTmpl
  if !s.tCodev t || (s.core cn).code == some (r.part, tmpl) then .ok s
  else match s.codeCap r.part r.launch.toNat t with
    | none => .ok s
    | some c =>
      (s.readBuffer (clusterOf cn) c 0 (s.core cn).xb.toNat).map (fun bs =>
        (s.writeBytes (slotBase cn) bs).onCore cn (fun k => { k with code := some (r.part, tmpl) }))

/-- One LOCAL entry: a buffer in the core's pool, with its image or zeros (10 R347, R349 step 3). A register that already
holds one keeps it. -/
def State.makeLocal (s : State) (cn : Nat) (r : Resident) (t e : Nat) : Except LateFault State :=
  let dst := entDst e
  let fmt := entFmt e
  let n := entLen e
  if (s.core cn).rk dst != .empty then .ok s
  else match s.localRange cn none fmt n, s.freeDesc r.part with
    | some a, some i =>
      let bytes : Except LateFault (List Byte) := match entImgv e, s.codeCap r.part r.launch.toNat t with
        | true, some c => s.readBuffer (clusterOf cn) c (entImgoff e) n
        | _, _ => .ok (List.replicate n 0)
      bytes.map (fun bs =>
        let s := s.putDesc r.part i {
          cls := 0, fmt := fmt, owner := ownerReg cn dst, owndev := s.dev, base := BitVec.ofNat 64 a
          lenm1 := BitVec.ofNat 35 (n / 32 - 1), auto := true }
        (s.writeBytes a bs).onCore cn (fun c => c.setK dst
          (.cap ⟨.whole, r.part, BitVec.ofNat 32 i, rightR ||| rightW ||| rightS, 0⟩)))
    | _, _ => .error ⟨0x20, 0, 2⟩

/-- The continuation receives the LOCAL buffers of its template: an item of a launch or a chunk of a card, not a task nor
one made by spawn (10 R349, R361, R369, R372). -/
def State.takesLocals (s : State) (r : Resident) : Bool :=
  let kind := s.tcb r.part r.launch.toNat tcbKind
  (kind == 1 || kind == 3) && (tabFind r.record (s.part r.part).spawned).isNone

/-- What a core does before the first fetch of a continuation that has not run (10 R349). -/
def State.firstTake (s : State) (cn : Nat) (r : Resident) : State :=
  match s.headerOf r with
  | none => s
  | some t =>
    let es := if s.takesLocals r then (s.tCaps t).filter (fun e => entMode e == 4) else []
    let out := es.foldl (fun (x : Except LateFault State × State) e => match x.1 with
      | .error f => (.error f, x.2)
      | .ok s => match s.makeLocal cn r t e with
        | .ok s => (.ok s, s)
        | .error f => (.error f, s)) (match s.loadCode cn r t with
          | .ok s => (.ok s, s)
          | .error f => (.error f, s))
    match out.1 with
    | .ok s => s.onPart r.part (fun p => { p with fresh := p.fresh.filter (· != r.record) })
    | .error f => out.2.onCore cn (fun c => { c with stops := c.stops ++ [startStop f] })

/-- Mailboxes that the continuation has bound follow it to the core (08 R288). -/
def State.moveMailboxes (s : State) (cn : Nat) (r : Resident) : State :=
  s.onCluster (clusterOf cn) (fun c => { c with mbox := c.mbox.map (fun e =>
    (e.1, if e.2.bound = .cont r.record r.part then { e.2 with core := cn } else e.2)) })

/-- What starting and resuming have in common: the record says running, the set is loaded, the windows are whole, and the
mailboxes follow (08 R257, R288, R298). -/
def State.arrive (s : State) (cn : Nat) (r : Resident) : State :=
  let s := s.setFld r.record recState 2
  ((s.capsFromSet cn r).windowsHome cn).moveMailboxes cn r

/-- CONTINUATION_START of a core: the oldest ready continuation that it may take and that no frame waits for (10 R349,
R358). -/
def State.startNext (s : State) (cn : Nat) : State :=
  match s.nextReady cn with
  | none => s
  | some x =>
    if s.fld x.record recFrame = 1 then s
    else
      let r := s.residentOf x.part x.record
      let s := (s.unready cn x).onCore cn (fun c => s.freshCore c r)
      let s := s.arrive cn r
      if (s.part x.part).fresh.contains x.record then s.firstTake cn r else s

/-! ### Resuming from a frame (04 R166; 10 R385, R386) -/

/-- A setting of a frame that its operation would refuse: the cause, the operation and the value (04 R166). -/
def Core.badSetting (c : Core) : Option (BitVec 8 × Op × Word) :=
  if 6 ≤ (rmMode c.rm).toNat then some (0x17, .ctl .setrm, 0)
  else if c.xb.toNat % 4096 ≠ 0 then some (0x13, .ctl .setxb, c.xb)
  else if 262144 < c.xb.toNat then some (0x12, .ctl .setxb, c.xb)
  else if c.ovh.toNat % 4 ≠ 0 then some (0x13, .ctl .setovh, c.ovh.setWidth 64)
  else none

/-- Entries of a core's ring that wait for their re-issue, oldest first: their numbers lie within 64 of one another (04
R166). -/
def Core.retryEntries (c : Core) : List RingEntry :=
  let es := c.ring.toList.filter (fun e => e.state == ringRetry)
  let x := (es.head?.map (·.seq)).getD 0
  es.mergeSort (fun a b => decide ((a.seq - x).toInt ≤ (b.seq - x).toInt))

/-- The operation of a re-issue record (10 R385). -/
def reissueOp (r : BitVec 512) : Option Op := (Target.ofCode (r.extractLsb' 16 11)).op?

/-- A re-issue record's trigger, as it stands on a core (10 R385): T, O, P and RM come from the record. -/
def Core.reissueTrig (c : Core) (cn : Nat) (r : BitVec 512) (e : RingEntry) (op : Op) : Trig :=
  let at_ := ({ c with
    rm := r.extractLsb' 31 4
    pc := ⟨r.extractLsb' 256 32, r.extractLsb' 288 16⟩ } : Core).setPort (4 * op.unit) (r.extractLsb' 128 64)
  let at_ := at_.setPort (4 * op.unit + 1) (r.extractLsb' 192 64)
  ⟨cn, at_, op, r.extractLsb' 64 64, e.slot, e.sbf, c.order, 0⟩

/-- What the copy engine keeps for a pending-retry entry of a core (09 R311, R322). -/
def State.markedFor (s : State) (cn : Nat) (q : BitVec 16) : Option Flight :=
  s.marked.find? (fun f => f.agent == cn && f.counted && f.seq == q)

/-- A re-issue takes the signals, and the capability of a copys, that the engine has kept (09 R311, R322). -/
def Trig.withMarked (x : Trig) (f : Flight) : Trig :=
  let at_ : Core := { x.at_ with sig := f.sigs, lastCopy := f.prev }
  { x with at_ := match x.op, f.cb with
      | .cp .copys, some c => at_.setK f.kb (.cap c)
      | _, _ => at_ }

/-- A kept operation has been re-issued under number `n`: the core's registers and its armed signals stand as they were,
and an ORD operation that waits for the old number waits for the new one (09 R316, R322). -/
def State.unmark (s : State) (cn : Nat) (f : Flight) (old : Core) (n : BitVec 16) : State :=
  let s := s.onCore cn (fun c => { c with k := old.k, sig := old.sig, lastCopy := old.lastCopy.map (fun q => if q = f.seq then n else q) })
  let next (g : Flight) : Flight := if g.agent = cn ∧ g.prev = some f.seq ∧ g.counted then { g with prev := some n } else g
  { s with
    flights := s.flights.map next
    marked := (s.marked.filter (· != f)).map next }

/-- Kept operations whose entries have been abandoned are given up: the capability of a copys is an orphan (04 R166; 08
R283; 09 R311). -/
def State.dropMarked (s : State) (cn : Nat) : State :=
  let wait := (s.core cn).retryEntries
  let gone (f : Flight) : Bool := f.agent == cn && f.counted && !wait.any (fun e => e.seq == f.seq)
  (s.marked.filter gone).foldl (fun s f => match f.op, f.cb with
    | .cp .copys, some c => s.orphan f.res.part c
    | _, _ => s) { s with marked := s.marked.filter (fun f => !gone f) }

/-- One entry is re-issued under the next sequence number: the old entry is abandoned, and an interrupted mma goes on under
the new number (04 R166; 07 R252). The counter keeps its count. The stop when its checks fail (log 44). -/
def State.reissueOne (s : State) (cn : Nat) (r : BitVec 512) (e : RingEntry) : Except StopDue State :=
  match reissueOp r with
  | none => .ok s
  | some op =>
    let c := s.core cn
    let keep := s.markedFor cn e.seq
    let x := match keep with
      | some f => (c.reissueTrig cn r e op).withMarked f
      | none => c.reissueTrig cn r e op
    match (trigger op).check s x with
    | some err => .error ⟨c.pc, err.cause, 0b00, e.slot, 0, e.tgt, 0, 0, err.detail, err.detail2⟩
    | none =>
      let s := s.onCore cn (fun c => { c with
        pc := x.at_.pc
        order := c.order + 4
        ring := (c.setRing e.seq { e with state := ringAbandoned }).ring
        mx := if c.mx.hvalid && c.mx.hseq == e.seq then { c.mx with hseq := c.seq } else c.mx })
      let s := (trigger op).perform s x
      let s := match keep with
        | some f => s.unmark cn f c c.seq
        | none => s
      .ok (s.onCore cn (fun k => { k with pc := c.pc }))

/-- The record of a ring entry among those kept. -/
def recordFor (rs : List (BitVec 512)) (e : RingEntry) : Option (BitVec 512) := rs.find? (fun r => r.extractLsb' 0 16 == e.seq)

/-- The entries are re-issued in ring order (10 R385, R386); after one whose checks fail the rest wait for the next
resumption (log 44). -/
def State.reissueAll (s : State) (cn : Nat) : List RingEntry → State
  | [] => s
  | e :: rest => match recordFor (s.core cn).reissue e with
    | none => s.reissueAll cn rest
    | some r => match s.reissueOne cn r e with
      | .ok t => (t.onCore cn (fun c => { c with reissue := c.reissue.filter (· != r) })).reissueAll cn rest
      | .error d => s.onCore cn (fun c => c.stopAt d)

/-- Operations counted in a frame are counted on the core again (02 R97). -/
def State.recountAll (s : State) (cn a : Nat) : State :=
  let back (f : Flight) : Flight :=
    if f.agent = cn ∧ f.frame = some a ∧ !f.retry then { f with counted := true, frame := none } else f
  { s with
    flights := s.flights.map back
    marked := s.marked.map back }

/-- Re-issue records of an area that belong to entries of a core's ring that wait (10 R385). -/
def State.readReissues (s : State) (cn area : Nat) : List (BitVec 512) :=
  (s.core cn).retryEntries.map (fun e => imageOf 512 (s.readBytes (area + 64 * (e.seq.toNat % 64)) 64))

/-- The core goes on from the state it has been given: a setting that is refused stops it again, else the waiting entries
are re-issued and a trap that was saved is entered (04 R161, R166; 10 R386). -/
def State.goOn (s : State) (cn : Nat) : State :=
  let c := s.core cn
  match c.badSetting with
  | some (cause, op, v) =>
    s.onCore cn (fun c => c.stopAt ⟨c.pc, cause, 0b00, 0, 0, BitVec.ofNat 11 op.code, 0, 0, v, 0⟩)
  | none =>
    let s := (s.dropMarked cn).reissueAll cn c.retryEntries
    match (s.core cn).mode, c.owedTrap with
    | .run, some t => s.onCore cn (fun c => { c with mode := .trapDue t, owedTrap := none })
    | _, _ => s

/-- The frame of a record that is to be resumed (10 R386). -/
def State.frameFor (s : State) (x : Ready) : Option Nat :=
  if s.fld x.record recFrame = 1 then tabFind x.record (s.part x.part).stopped else none

/-- No operation in flight holds a ring entry or a number that the re-issues of a frame need (02 R93, R94). -/
def State.ringRoom (s : State) (cn a : Nat) : Bool :=
  let n := ((List.range 64).filter (fun i => (s.frameRing a i).state == ringRetry)).length
  !s.ringFull cn n && !s.flights.any (fun f => f.agent == cn && f.frame == some a &&
    (List.range n).any (fun i => f.seq.toNat % 64 == ((s.core cn).seq.toNat + i) % 64))

/-- The core that a frame is written back to, with its walkers checked again (05 R197; 10 R386). -/
def State.restoreFrame (s : State) (cn a : Nat) (r : Resident) : State :=
  let s := s.onCore cn (fun c => { s.frameCore a c with mode := .run, res := some r })
  ((s.arrive cn r).recheckWalkers cn).recountAll cn a

/-- FRAME_RESTORE of a core: the oldest ready continuation that it may take, when a frame of it stands in its fault area
(10 R386). -/
def State.restoreNext (s : State) (cn : Nat) : State :=
  match s.nextReady cn with
  | none => s
  | some x => match s.frameFor x with
    | none => s
    | some a =>
      if !s.ringRoom cn a then s
      else
        let r := s.residentOf x.part x.record
        let s := (s.unready cn x).restoreFrame cn a r
        let s := (s.setFld x.record recFrame 0).setFld x.record recRetry 0
        let s := s.onPart x.part (fun p => { p with stopped := tabDrop x.record p.stopped })
        let s := s.onCore cn (fun c => { c with reissue := s.readReissues cn (a + 0x20000) })
        let s := if (s.part x.part).fresh.contains x.record then s.firstTake cn r else s
        s.goOn cn

/-- RESUME: a stopped continuation, whose STATE software has set to ready, is queued for the core of its frame (10 R386,
R365; log 45). -/
def State.resume (s : State) (rec : Nat) : State :=
  let part := (s.queue (s.fld rec recQueue)).part
  let st := s.fld rec recState
  match tabFind rec (s.part part).stopped with
  | none => s
  | some a =>
    let cn := s.bitsIn a 512 11
    let queued := s.queues.any (fun q => q.2.units.any (fun u => match u with
      | .again x _ _ => x == rec
      | _ => false)) || s.clusters.any (fun c => c.2.ready.any (fun x => x.record == rec))
    if (st = 1 ∨ st = 4) ∧ s.fld rec recFrame = 1 ∧ !queued then s.requeue (clusterOf cn) rec (some cn) else s

/-! ### Meanings -/

/-- DETACHED_COMPLETION of operation `focus.seq` of agent `focus.core` (01 R56). -/
def execDetachedCompletion (s : State) : Host.Outcome State Fault Refusal := .next (s.complete s.focus.core s.focus.seq)

/-- SUSPENSION on core `focus.core` (04 R150). -/
def execSuspension (s : State) : Host.Outcome State Fault Refusal := .next (s.suspend s.focus.core)

/-- STOP of core `focus.core` (04 R160). -/
def execStop (s : State) : Host.Outcome State Fault Refusal := .next (s.stop s.focus.core)

/-- PENDING_RETRY_MARK on core `focus.core` (04 R160). -/
def execPendingRetryMark (s : State) : Host.Outcome State Fault Refusal := .next (s.retryMark s.focus.core)

/-- CONTINUATION_START on core `focus.core` (10 R349). -/
def execContinuationStart (s : State) : Host.Outcome State Fault Refusal := .next (s.startNext s.focus.core)

/-- FRAME_RESTORE on core `focus.core` (10 R386). -/
def execFrameRestore (s : State) : Host.Outcome State Fault Refusal := .next (s.restoreNext s.focus.core)

/-- RESUME of the record at `focus.n` (10 R386). -/
def execResume (s : State) : Host.Outcome State Fault Refusal := .next (s.resume s.focus.n)

end Sys2Proof.Machine
end

