-- ==== Sys2Proof/Machine/Gang.lean ====
section
/-! DEFINITION. The gang switch (10 R387 to R396): cores freeze at TG, the window closes and what is left falls out, core
images are written, and the incoming partition is restored. -/

namespace Sys2Proof.Machine

/-! ### TG (10 R387, R388) -/

/-- The compute cores that a switch covers: those of the clusters in OUT's CMASK whose sluices are OUT's. -/
def State.gangCores (s : State) (out : BitVec 4) : List Nat :=
  (List.range 2048).filter (fun c => (s.part out).inCmask (clusterOf c) && (s.core c).sluice.part == out)

/-- A core stops issue: what it was doing is held; a suspension or a stop in progress completes first. -/
def Core.freeze (c : Core) : Core :=
  match c.mode with
  | .run => { c with mode := .frozen .run }
  | .trapDue t => { c with mode := .frozen (.trapDue t) }
  | _ => c

/-- GANG_SWITCH_TG: at TG every covered core stops issue, and OUT takes up nothing more. An OUT that is switched out
already has no images to save. -/
def State.gangTg (s : State) : State :=
  match s.gang with
  | none => s
  | some g =>
    if g.phase ≠ .posted ∨ s.now.toNat < g.tg.toNat then s
    else
      let cores := s.gangCores g.out
      if (s.part g.out).out then { s with gang := some { g with phase := .saving, cores := cores, left := [] } }
      else
        let s := cores.foldl (fun s c => s.onCore c Core.freeze) s
        let s := s.onPart g.out (fun p => { p with out := true })
        { s with gang := some { g with
            phase := .window (g.tg + BitVec.ofNat 64 (1000 * g.win)), cores := cores, left := cores } }

/-! ### The close of the window (10 R388 to R390) -/

/-- The core still finishes a suspension or a stop. -/
def State.leaving (s : State) (cn : Nat) : Bool :=
  match (s.core cn).mode with
  | .suspending _ _ | .stopping _ => true
  | _ => false

/-- A request falls out: one of a core that the switch covers, but for those of fetch-and-ops and capability operations,
which run to their end, and those that a stop in progress waits for (10 R388, R389). -/
def State.fallsOut (s : State) (cores : List Nat) (r : Req) : Bool :=
  match r.src with
  | .op a q => cores.contains a && (match s.flight? a q with
      | some f => !(f.counted && (s.leaving a || f.neverRetried))
      | none => true)
  | .marker a => cores.contains a
  | _ => false

/-- Requests of a queue that fall out. -/
def State.fallList (s : State) (part : BitVec 4) (cores : List Nat) (rs : List Req) (item : Req → FallItem) : State :=
  (rs.filter (s.fallsOut cores)).foldl (fun s r => s.fallOut part (item r)) s

/-- Requests that wait for an entry of a request table set out: those before them fall out. -/
def State.clearTable (s : State) (cores : List Nat) : State :=
  let mine (r : Req) : Bool := cores.contains r.src.agent
  (s.tableq.filter mine).foldl State.sendNow { s with tableq := s.tableq.filter (fun r => !mine r) }

/-- Requests that are served or translated, and marks, fall out where they stand. -/
def State.fallRequests (s : State) (part : BitVec 4) (cores : List Nat) : State :=
  let stay (rs : List Req) : List Req := rs.filter (fun r => !s.fallsOut cores r)
  let t := s.cores.foldl (fun t (c, k) => t.fallList part cores k.port (.queued c)) s
  let t := s.clusters.foldl (fun t (cl, k) =>
    (t.fallList part cores k.xbar (.queued (sramUnit cl))).fallList part cores k.walks (.walking cl)) t
  let t := s.llc.foldl (fun t (d, rs) => t.fallList part cores rs (.queued (sliceUnit d))) t
  let t := t.fallList part cores s.hostq .host
  let t := t.fallList part cores (s.outbox.map (·.1)) (fun r => .queued (sliceUnit (remoteDie r.va)) r)
  let gone (k : Mark) : Bool := k.part == part && cores.contains k.agent
  let t := (s.marks.filter gone).foldl (fun t k => t.fallOut part (.mark k)) t
  { t with
    cores := t.cores.map (fun (c, k) => (c, { k with port := stay k.port }))
    clusters := t.clusters.map (fun (cl, k) => (cl, { k with xbar := stay k.xbar, walks := stay k.walks }))
    llc := t.llc.map (fun (d, rs) => (d, stay rs))
    hostq := stay t.hostq
    outbox := t.outbox.filter (fun (r, _) => !s.fallsOut cores r)
    marks := t.marks.filter (fun k => !gone k) }

/-- A packet that waits to leave falls out: one of a covered core, but for fetch-and-ops, messages and subscriptions. -/
def State.packetFalls (s : State) (cores : List Nat) (o : OutItem) : Bool :=
  match o with
  | .packet p => p.sdev == s.dev && cores.contains p.src.toNat && decide (p.type.toNat ≤ 6) && p.type != 4
  | _ => false

/-- Packets that wait to leave fall out at their link engines. -/
def State.fallPackets (s : State) (part : BitVec 4) (cores : List Nat) : State :=
  let t := s.links.foldl (fun t (l, k) => (k.outq.filter (s.packetFalls cores)).foldl (fun t o => match o with
    | .packet p => t.fallOut part (.leaving (BitVec.ofNat 6 l) p)
    | _ => t) t) s
  { t with links := t.links.map (fun (l, k) => (l, { k with outq := k.outq.filter (fun o => !s.packetFalls cores o) })) }

/-- An operation that is marked pending-retry at the close: a copy-like one that has not raised its signals, and a matrix
command that has not made its effect, but for a load of scales whose request has left (10 R389; 07 R252). -/
def Flight.retriedAtClose (f : Flight) : Bool :=
  match f.op with
  | .cp .copys => f.phase == .issued || f.phase == .active || f.phase == .flush
  | .cp _ => f.cpOp?.isSome && f.phase != .ready && !(f.phase == .signals && f.stage == 1)
  | .mx .mma | .mx .mmaz => !f.effectMade
  | .mx _ => f.phase == .issued
  | _ => false

/-- GANG_WINDOW_CLOSE: at TG + WIN, or when every operation of OUT has completed. -/
def State.gangClose (s : State) : State :=
  match s.gang with
  | none => s
  | some g => match g.phase with
    | .window close =>
      let busy := s.flights.any (fun f => g.cores.contains f.agent && !f.retry)
      if busy && decide (s.now.toNat < close.toNat) then s
      else
        let s := ((s.clearTable g.cores).fallRequests g.out g.cores).fallPackets g.out g.cores
        let s := g.cores.foldl (fun s c => if s.leaving c then s else s.markRetry c Flight.retriedAtClose) s
        { s with gang := some { g with phase := .saving } }
    | _ => s

/-! ### Core images (10 R391 to R393; 08 R257, R300; 09 R333) -/

/-- Places in a spill area. -/
def imageAt (spill cn : Nat) : Nat := spill + 0x1801000 + 0xA0000 * cn
/-- The re-issue records of a core. -/
def reissueAt (spill cn : Nat) : Nat := spill + 0x1001000 + 4096 * cn
/-- The saves of a cluster's SRAM. -/
def sramAt (spill cl : Nat) : Nat := spill + 0x51801000 + cl * 2 ^ 24

/-- The live banks of a scratchpad (10 R392). -/
def State.liveBanks (s : State) (cn : Nat) (part : BitVec 4) : BitVec 16 :=
  let c := s.core cn
  let local_ := (s.part part).bufs.filter (fun e => e.2.localTo cn)
  (List.range 16).foldl (fun m b =>
    let lo := b * bankSize
    let here := decide (lo < c.xb.toNat) ||
      local_.any (fun e => decide (e.2.padOff < lo + bankSize) && decide (lo < e.2.padOff + e.2.len)) ||
      (c.res.isSome && ((List.range 16).any (fun i => (bankFmt (c.bankReg i)).isMx && bankSbank (c.bankReg i) == b) ||
        c.walkers.toList.any (fun w => w.bound && (match s.descOf ⟨.whole, w.part, w.buf, 0, 0⟩ with
          | some d => d.localTo cn && decide (d.padOff < lo + bankSize) && decide (lo < d.padOff + d.len)
          | none => false))))
    if here then m ||| (1#16 <<< b) else m) 0

/-- An agent's number while its partition is switched out: its operations in flight are apart from those of the partition
that runs on its core (10 R389, R394). -/
def parked (cn : Nat) : Nat := cn + 65536

/-- A request's agent is renamed. -/
def Req.rename (a b : Nat) (r : Req) : Req :=
  match r.src with
  | .op x q => if x = a then { r with src := .op b q } else r
  | _ => r

/-- What has fallen out, with an agent renamed. -/
def FallItem.rename (a b : Nat) : FallItem → FallItem
  | .queued u r => .queued u (r.rename a b)
  | .walking cl r => .walking cl (r.rename a b)
  | .host r => .host (r.rename a b)
  | .mark k => .mark (if k.agent = a then { k with agent := b } else k)
  | x => x

/-- An agent is renamed in its operations and their requests. -/
def State.renameAgent (s : State) (a b : Nat) : State :=
  let fall (x : FallOut) : FallOut := { x with item := x.item.rename a b }
  { s with
    flights := s.flights.map (fun f => if f.agent = a then { f with agent := b } else f)
    marked := s.marked.map (fun f => if f.agent = a then { f with agent := b } else f)
    falls := s.falls.map fall
    stuck := s.stuck.map (fun e => (e.1, e.2.rename a b))
    spilled := s.spilled.map fall
    marks := s.marks.map (fun k => if k.agent = a then { k with agent := b } else k)
    away := s.away.map (fun (i, p) => (i, { p with req := p.req.rename a b }))
    outbox := s.outbox.map (fun (r, fill) => (r.rename a b, fill))
    batches := s.batches.map (fun x => { x with held := x.held.map (Req.rename a b) }) }

/-- The image of a core may be written: it holds still, and the operations that run to their end have completed
(10 R388, R389). -/
def State.imageReady (s : State) (cn : Nat) : Bool :=
  (match (s.core cn).mode with
    | .frozen _ | .idle => true
    | _ => false) &&
    !(s.ownFlights cn).any Flight.neverRetried && !s.asks.any (fun r => r.agent == cn && r.seq.isSome) &&
    !s.msgs.any (fun m => m.src == cn && m.seq.isSome)

/-- The header of a core image (10 R392). -/
def State.imageHead (s : State) (cn : Nat) (live : BitVec 16) : FrameHead :=
  let c := s.core cn
  let r := c.res
  { due := ⟨c.pc, 0, 0, 0, 0, 0, 0, 0, 0, 0⟩
    exact_ := s.outCount cn == 0
    intrap := c.inHandler
    wid := (r.map (·.wid)).getD 0
    cset := (r.map (·.cset)).getD 0
    launch := (r.map (·.launch)).getD 0
    time := s.now
    out := s.outCount cn
    cid := s.cid cn
    live := live
    res := r.isSome
    record := (r.map (fun r => imageOf 512 (s.readBytes r.record 64))).getD 0 }

/-- The core after its image is written: nothing of OUT stays in it. -/
def Core.switchedOut (c : Core) : Core :=
  { c.vacated with k := Vector.replicate 32 .empty, kx := Vector.replicate 32 none, vaway := 0, taway := 0, code := none }

/-- Ranges of a cluster's SRAM where buffers of two partitions overlap (10 R393). -/
def State.sramOverlaps (s : State) (cl : Nat) (out into : BitVec 4) : List (Nat × Nat) :=
  let ds (p : BitVec 4) : List Desc := ((s.part p).bufs.map (·.2)).filter (fun d => d.cls == 1 && d.cluster == cl)
  (ds out).flatMap (fun a => (ds into).filterMap (fun b =>
    let lo := max a.base.toNat b.base.toNat
    let hi := min (a.base.toNat + a.len) (b.base.toNat + b.len)
    if lo < hi then some (lo, hi - lo) else none))

/-- The SRAM saves of a cluster. -/
def State.saveSram (s : State) (cl : Nat) (g : Gang) : State :=
  if !g.valid then s
  else (s.sramOverlaps cl g.out g.into).foldl (fun s (a, n) =>
    let s := s.writeBytes (sramAt (s.part g.out).spill cl + a % 2 ^ 24) (s.readBytes a n)
    s.onPart g.out (fun p => { p with sram := p.sram ++ [(a, n)] })) s

/-- CORE_IMAGE_SAVE of a core; with the last core of a cluster, that cluster's SRAM saves. -/
def State.saveImage (s : State) (cn : Nat) : State :=
  match s.gang with
  | none => s
  | some g =>
    if g.phase ≠ .saving ∨ !g.left.contains cn ∨ !s.imageReady cn then s
    else
      let base := imageAt (s.part g.out).spill cn
      let live := s.liveBanks cn g.out
      let s := s.flushRanges cn
      let s := ((List.range 16).filter (fun b => live.getLsbD b)).foldl (fun s b =>
        s.writeBytes (base + b * bankSize) (s.readBytes (slotBase cn + b * bankSize) bankSize)) s
      let s := s.putFrame cn (base + padSize) (s.imageHead cn live)
      let s := s.putReissues (reissueAt (s.part g.out).spill cn) (s.core cn).reissue
      let s := match (s.core cn).res with
        | some r => s.capsToSet cn r
        | none => s
      let s := (s.uncountAll cn (some (base + padSize))).renameAgent cn (parked cn)
      let s := s.onCore cn Core.switchedOut
      let left := g.left.filter (· != cn)
      let s := if left.any (fun c => clusterOf c == clusterOf cn) then s else s.saveSram (clusterOf cn) g
      { s with gang := some { g with left := left } }

/-! ### Restoring (10 R389, R391 to R394) -/

/-- Re-issue records in the images of a switch. -/
def State.retryCount (s : State) (spill : Nat) (cores : List Nat) : Nat :=
  (cores.map (fun cn =>
    let a := imageAt spill cn + padSize
    if s.bitsIn a 592 1 = 0 then 0
    else ((List.range 64).filter (fun i => (s.frameRing a i).state == ringRetry)).length)).sum

/-- The header of the spill area (10 R391). -/
def State.putSpillHead (s : State) (g : Gang) : State :=
  let p := s.part g.out
  let n := (s.spilled.filter (fun f => f.part == g.out)).length
  s.writeBytes p.spill (fieldBlock 64 [(0, 32, n), (32, 32, s.retryCount p.spill g.cores), (64, 32, p.sram.length), (96, 1, 1)])

/-- Everything of OUT has been written, as far as the spill area holds it (10 R391). -/
def State.outWritten (s : State) (g : Gang) : Bool :=
  g.left.isEmpty && (!(s.falls.any (fun f => f.part == g.out) || s.stuck.any (fun e => e.1 == g.out)) ||
    decide (65536 ≤ (s.spilled.filter (fun f => f.part == g.out)).length))

/-- Restored banks: live ones from the image, the others zero (10 R392). -/
def State.restoreBanks (s : State) (cn base : Nat) (live : BitVec 16) : State :=
  (List.range 16).foldl (fun s b =>
    s.writeBytes (slotBase cn + b * bankSize)
      (if live.getLsbD b then s.readBytes (base + b * bankSize) bankSize else List.replicate bankSize 0)) s

/-- What a core was doing when it was frozen. -/
def Mode.thawed : Mode → Mode
  | .frozen m => m
  | m => m

/-- A core as its image has it (10 R394 step 2): the frame's state, and what the device keeps of the rest (log 7). -/
def State.imageCore (s : State) (a : Nat) (c : Core) : Core :=
  let old := s.frameCopy a
  { s.frameCore a c with
    mode := old.mode.thawed
    check := old.check
    stops := old.stops
    res := old.res
    k := old.k
    seq := old.seq
    vaway := old.vaway
    taway := old.taway
    batches := old.batches
    sig := old.sig
    lastCopy := old.lastCopy
    code := old.code
    reissue := old.reissue }

/-- One core of IN is restored; a partition that was never switched out finds it as reset leaves it, its scratchpad
zero. -/
def State.restoreCore (s : State) (into : BitVec 4) (saved : Bool) (cn : Nat) : State :=
  let s := s.onCore cn (fun c => { c with sluice := { c.sluice with part := into } })
  if !saved then
    (s.restoreBanks cn 0 0).onCore cn (fun c =>
      { Core.reset with
        cyc := c.cyc, order := c.order, seq := c.seq, port := c.port, sluice := c.sluice, subs := c.subs })
  else
    let base := imageAt (s.part into).spill cn
    let a := base + padSize
    let s := s.restoreBanks cn base (s.frameField a 0 576 16)
    let s := s.onCore cn (s.imageCore a)
    let s := match (s.core cn).res with
      | some r => (s.capsFromSet cn r).recheckWalkers cn
      | none => s
    (s.renameAgent (parked cn) cn).recountAll cn a

/-- Something that fell out is put back where it stood (10 R394 step 3). -/
def State.reinject (s : State) (x : FallItem) : State :=
  match x with
  | .queued u r => if u < 2048 then s.atPort u r else if u < 4096 then s.atXbar (u - 2048) r else s.atSlice (u - 4096) r
  | .walking cl r => s.onCluster cl (fun c => { c with walks := c.walks ++ [r] })
  | .host r => { s with hostq := s.hostq ++ [r] }
  | .mark k => { s with marks := s.marks ++ [k] }
  | .leaving l p =>
    if (s.link l).takes then s.offer l (.packet p)
    else
      let key := p.src.toNat * 4096 + p.rtag.toNat
      match tabFind key s.away with
      | some w => (s.dropTag key).settleAway w [] (some w.lost)
      | none => s
  | .arriving l p => s.takePacket l p

/-- Everything of a partition that fell out goes back, buffer by buffer in ORDER. -/
def State.reinjectAll (s : State) (part : BitVec 4) : State :=
  let mine := (s.spilled ++ s.falls).filter (fun f => f.part == part)
  let last := s.stuck.filter (fun e => e.1 == part)
  let s := { s with
    spilled := s.spilled.filter (fun f => f.part != part)
    falls := s.falls.filter (fun f => f.part != part)
    stuck := s.stuck.filter (fun e => e.1 != part) }
  last.foldl (fun s e => s.reinject e.2) ((mine.mergeSort FallOut.before).foldl (fun s x => s.reinject x.item) s)

/-- Ranges of cluster SRAM come back (10 R394 step 1). -/
def State.restoreSram (s : State) (part : BitVec 4) : State :=
  let p := s.part part
  let s := p.sram.foldl (fun s (a, n) =>
    s.writeBytes a (s.readBytes (sramAt p.spill ((a - sramBase 0) / 2 ^ 24) + a % 2 ^ 24) n)) s
  s.onPart part (fun p => { p with sram := [] })

/-- IN is restored: SRAM, images, what fell out, and the operations that wait for their re-issue; then it runs
(10 R394). -/
def State.restoreIn (s : State) (g : Gang) : State :=
  let saved := (s.part g.into).out
  let s := s.restoreSram g.into
  let s := g.cores.foldl (fun s c => s.restoreCore g.into saved c) s
  let s := s.onPart g.into (fun p => { p with out := false })
  let s := s.reinjectAll g.into
  g.cores.foldl (fun s c => (s.dropMarked c).reissueAll c (s.core c).retryEntries) s

/-- GANG_RESTORE: the spill area's header is written, IN is restored when there is one, and the switch completes
(10 R387, R389, R391, R394). -/
def State.gangRestore (s : State) : State :=
  match s.gang with
  | none => s
  | some g =>
    if g.phase ≠ .saving ∨ !s.outWritten g then s
    else
      let n := (s.spilled.filter (fun f => f.part == g.out)).length
      let s := s.putSpillHead g
      let s := if g.valid then s.restoreIn g else s
      { s with gang := none, gstat := BitVec.ofNat 64 (2 ^ 32 * n) }

/-! ### Meanings -/

/-- GANG_SWITCH_TG (10 R388). -/
def execGangSwitchTg (s : State) : Host.Outcome State Fault Refusal := .next s.gangTg

/-- GANG_WINDOW_CLOSE (10 R388). -/
def execGangWindowClose (s : State) : Host.Outcome State Fault Refusal := .next s.gangClose

/-- CORE_IMAGE_SAVE of core `focus.core` (10 R392). -/
def execCoreImageSave (s : State) : Host.Outcome State Fault Refusal := .next (s.saveImage s.focus.core)

/-- GANG_RESTORE (10 R394). -/
def execGangRestore (s : State) : Host.Outcome State Fault Refusal := .next s.gangRestore

end Sys2Proof.Machine
end

