-- ==== Sys2Proof/Machine/Dispatch.lean ====
section
/-! DEFINITION. The meaning of every instruction: one arm each. -/

namespace Sys2Proof.Machine

/-- What an instruction does. -/
def exec (i : Instr) (s : State) : Host.Outcome State Fault Refusal :=
  match i with
  | .wordIssue w => Sys2Proof.Machine.execWordIssue w s
  | .nop n o t => Sys2Proof.Machine.execNop n o t s
  | .ctlJmp m => Sys2Proof.Machine.execCtlJmp m s
  | .ctlBra m => Sys2Proof.Machine.execCtlBra m s
  | .ctlCall m => Sys2Proof.Machine.execCtlCall m s
  | .ctlRet m => Sys2Proof.Machine.execCtlRet m s
  | .ctlJtab m => Sys2Proof.Machine.execCtlJtab m s
  | .ctlBre m => Sys2Proof.Machine.execCtlBre m s
  | .ctlSbwait m => Sys2Proof.Machine.execCtlSbwait m s
  | .ctlDrain m => Sys2Proof.Machine.execCtlDrain m s
  | .ctlYield m => Sys2Proof.Machine.execCtlYield m s
  | .ctlWait m => Sys2Proof.Machine.execCtlWait m s
  | .ctlDone m => Sys2Proof.Machine.execCtlDone m s
  | .ctlTrap m => Sys2Proof.Machine.execCtlTrap m s
  | .ctlRett m => Sys2Proof.Machine.execCtlRett m s
  | .ctlSetrm m => Sys2Proof.Machine.execCtlSetrm m s
  | .ctlSetxb m => Sys2Proof.Machine.execCtlSetxb m s
  | .ctlSetovh m => Sys2Proof.Machine.execCtlSetovh m s
  | .ctlWatch m => Sys2Proof.Machine.execCtlWatch m s
  | .ctlUnwatch m => Sys2Proof.Machine.execCtlUnwatch m s
  | .ctlBrk m => Sys2Proof.Machine.execCtlBrk m s
  | .iaAdd u m => Sys2Proof.Machine.execIaAdd u m s
  | .iaSub u m => Sys2Proof.Machine.execIaSub u m s
  | .iaAnd u m => Sys2Proof.Machine.execIaAnd u m s
  | .iaOr u m => Sys2Proof.Machine.execIaOr u m s
  | .iaXor u m => Sys2Proof.Machine.execIaXor u m s
  | .iaAndn u m => Sys2Proof.Machine.execIaAndn u m s
  | .iaShl u m => Sys2Proof.Machine.execIaShl u m s
  | .iaShr u m => Sys2Proof.Machine.execIaShr u m s
  | .iaSar u m => Sys2Proof.Machine.execIaSar u m s
  | .iaRol u m => Sys2Proof.Machine.execIaRol u m s
  | .iaMin u m => Sys2Proof.Machine.execIaMin u m s
  | .iaMax u m => Sys2Proof.Machine.execIaMax u m s
  | .iaMinu u m => Sys2Proof.Machine.execIaMinu u m s
  | .iaMaxu u m => Sys2Proof.Machine.execIaMaxu u m s
  | .iaEq u m => Sys2Proof.Machine.execIaEq u m s
  | .iaNe u m => Sys2Proof.Machine.execIaNe u m s
  | .iaLt u m => Sys2Proof.Machine.execIaLt u m s
  | .iaLtu u m => Sys2Proof.Machine.execIaLtu u m s
  | .iaLe u m => Sys2Proof.Machine.execIaLe u m s
  | .iaLeu u m => Sys2Proof.Machine.execIaLeu u m s
  | .iaSext u m => Sys2Proof.Machine.execIaSext u m s
  | .iaZext u m => Sys2Proof.Machine.execIaZext u m s
  | .iaClz u m => Sys2Proof.Machine.execIaClz u m s
  | .iaCtz u m => Sys2Proof.Machine.execIaCtz u m s
  | .iaPopc u m => Sys2Proof.Machine.execIaPopc u m s
  | .iaBswap u m => Sys2Proof.Machine.execIaBswap u m s
  | .iaAdds u m => Sys2Proof.Machine.execIaAdds u m s
  | .iaSubs u m => Sys2Proof.Machine.execIaSubs u m s
  | .iaBfx u m => Sys2Proof.Machine.execIaBfx u m s
  | .iaPass u m => Sys2Proof.Machine.execIaPass u m s
  | .imMul m => Sys2Proof.Machine.execImMul m s
  | .imMulh m => Sys2Proof.Machine.execImMulh m s
  | .imMulhu m => Sys2Proof.Machine.execImMulhu m s
  | .imMad m => Sys2Proof.Machine.execImMad m s
  | .imDiv m => Sys2Proof.Machine.execImDiv m s
  | .imDivu m => Sys2Proof.Machine.execImDivu m s
  | .imRem m => Sys2Proof.Machine.execImRem m s
  | .imRemu m => Sys2Proof.Machine.execImRemu m s
  | .fsFadd m => Sys2Proof.Machine.execFsFadd m s
  | .fsFsub m => Sys2Proof.Machine.execFsFsub m s
  | .fsFmul m => Sys2Proof.Machine.execFsFmul m s
  | .fsFma m => Sys2Proof.Machine.execFsFma m s
  | .fsFmin m => Sys2Proof.Machine.execFsFmin m s
  | .fsFmax m => Sys2Proof.Machine.execFsFmax m s
  | .fsFdiv m => Sys2Proof.Machine.execFsFdiv m s
  | .fsFsqrt m => Sys2Proof.Machine.execFsFsqrt m s
  | .fsFeq m => Sys2Proof.Machine.execFsFeq m s
  | .fsFlt m => Sys2Proof.Machine.execFsFlt m s
  | .fsFle m => Sys2Proof.Machine.execFsFle m s
  | .fsFcvti m => Sys2Proof.Machine.execFsFcvti m s
  | .fsFcvtf m => Sys2Proof.Machine.execFsFcvtf m s
  | .fsFclass m => Sys2Proof.Machine.execFsFclass m s
  | .fsFexp2 m => Sys2Proof.Machine.execFsFexp2 m s
  | .fsFlog2 m => Sys2Proof.Machine.execFsFlog2 m s
  | .fsFrcp m => Sys2Proof.Machine.execFsFrcp m s
  | .fsFrsq m => Sys2Proof.Machine.execFsFrsq m s
  | .fsFsigm m => Sys2Proof.Machine.execFsFsigm m s
  | .lsLdb m => Sys2Proof.Machine.execLsLdb m s
  | .lsLdbu m => Sys2Proof.Machine.execLsLdbu m s
  | .lsLdh m => Sys2Proof.Machine.execLsLdh m s
  | .lsLdhu m => Sys2Proof.Machine.execLsLdhu m s
  | .lsLdw m => Sys2Proof.Machine.execLsLdw m s
  | .lsLdwu m => Sys2Proof.Machine.execLsLdwu m s
  | .lsLdd m => Sys2Proof.Machine.execLsLdd m s
  | .lsStb m => Sys2Proof.Machine.execLsStb m s
  | .lsSth m => Sys2Proof.Machine.execLsSth m s
  | .lsStw m => Sys2Proof.Machine.execLsStw m s
  | .lsStd m => Sys2Proof.Machine.execLsStd m s
  | .lsLdf m => Sys2Proof.Machine.execLsLdf m s
  | .lsStf m => Sys2Proof.Machine.execLsStf m s
  | .bankFormatRead m => Sys2Proof.Machine.execBankFormatRead m s
  | .bankFormatWrite m => Sys2Proof.Machine.execBankFormatWrite m s
  | .swBind n m => Sys2Proof.Machine.execSwBind n m s
  | .swFeeda n m => Sys2Proof.Machine.execSwFeeda n m s
  | .swFeedb n m => Sys2Proof.Machine.execSwFeedb n m s
  | .swSkip n m => Sys2Proof.Machine.execSwSkip n m s
  | .swRewind n m => Sys2Proof.Machine.execSwRewind n m s
  | .swStop n m => Sys2Proof.Machine.execSwStop n m s
  | .tmAt m => Sys2Proof.Machine.execTmAt m s
  | .tmCancel m => Sys2Proof.Machine.execTmCancel m s
  | .wrArm m => Sys2Proof.Machine.execWrArm m s
  | .wrArrive m => Sys2Proof.Machine.execWrArrive m s
  | .wrQuery m => Sys2Proof.Machine.execWrQuery m s
  | .wrDisarm m => Sys2Proof.Machine.execWrDisarm m s
  | .vxVadd m => Sys2Proof.Machine.execVxVadd m s
  | .vxVsub m => Sys2Proof.Machine.execVxVsub m s
  | .vxVmul m => Sys2Proof.Machine.execVxVmul m s
  | .vxVfma m => Sys2Proof.Machine.execVxVfma m s
  | .vxVfms m => Sys2Proof.Machine.execVxVfms m s
  | .vxVfnma m => Sys2Proof.Machine.execVxVfnma m s
  | .vxVmin m => Sys2Proof.Machine.execVxVmin m s
  | .vxVmax m => Sys2Proof.Machine.execVxVmax m s
  | .vxVabs m => Sys2Proof.Machine.execVxVabs m s
  | .vxVneg m => Sys2Proof.Machine.execVxVneg m s
  | .vxVdiv m => Sys2Proof.Machine.execVxVdiv m s
  | .vxVsqrt m => Sys2Proof.Machine.execVxVsqrt m s
  | .vxVrcp m => Sys2Proof.Machine.execVxVrcp m s
  | .vxVrsq m => Sys2Proof.Machine.execVxVrsq m s
  | .vxVexp2 m => Sys2Proof.Machine.execVxVexp2 m s
  | .vxVlog2 m => Sys2Proof.Machine.execVxVlog2 m s
  | .vxVsigm m => Sys2Proof.Machine.execVxVsigm m s
  | .vxViadd m => Sys2Proof.Machine.execVxViadd m s
  | .vxVisub m => Sys2Proof.Machine.execVxVisub m s
  | .vxVimul m => Sys2Proof.Machine.execVxVimul m s
  | .vxVimin m => Sys2Proof.Machine.execVxVimin m s
  | .vxVimax m => Sys2Proof.Machine.execVxVimax m s
  | .vxViminu m => Sys2Proof.Machine.execVxViminu m s
  | .vxVimaxu m => Sys2Proof.Machine.execVxVimaxu m s
  | .vxVand m => Sys2Proof.Machine.execVxVand m s
  | .vxVor m => Sys2Proof.Machine.execVxVor m s
  | .vxVxor m => Sys2Proof.Machine.execVxVxor m s
  | .vxVshl m => Sys2Proof.Machine.execVxVshl m s
  | .vxVshr m => Sys2Proof.Machine.execVxVshr m s
  | .vxVsar m => Sys2Proof.Machine.execVxVsar m s
  | .vxVfeq m => Sys2Proof.Machine.execVxVfeq m s
  | .vxVflt m => Sys2Proof.Machine.execVxVflt m s
  | .vxVfle m => Sys2Proof.Machine.execVxVfle m s
  | .vxVieq m => Sys2Proof.Machine.execVxVieq m s
  | .vxVilt m => Sys2Proof.Machine.execVxVilt m s
  | .vxMlog m => Sys2Proof.Machine.execVxMlog m s
  | .vxVcvt m => Sys2Proof.Machine.execVxVcvt m s
  | .vxVpack m => Sys2Proof.Machine.execVxVpack m s
  | .vxVunpack m => Sys2Proof.Machine.execVxVunpack m s
  | .vxVmov m => Sys2Proof.Machine.execVxVmov m s
  | .vxVsel m => Sys2Proof.Machine.execVxVsel m s
  | .vxVbcast m => Sys2Proof.Machine.execVxVbcast m s
  | .vxVidx m => Sys2Proof.Machine.execVxVidx m s
  | .vxVperm m => Sys2Proof.Machine.execVxVperm m s
  | .vxVslide m => Sys2Proof.Machine.execVxVslide m s
  | .vxVext m => Sys2Proof.Machine.execVxVext m s
  | .vxVins m => Sys2Proof.Machine.execVxVins m s
  | .vxVfsum m => Sys2Proof.Machine.execVxVfsum m s
  | .vxVfrmax m => Sys2Proof.Machine.execVxVfrmax m s
  | .vxVfrmin m => Sys2Proof.Machine.execVxVfrmin m s
  | .vxVisum m => Sys2Proof.Machine.execVxVisum m s
  | .vxVld m => Sys2Proof.Machine.execVxVld m s
  | .vxVst m => Sys2Proof.Machine.execVxVst m s
  | .vxVldx m => Sys2Proof.Machine.execVxVldx m s
  | .vxVstx m => Sys2Proof.Machine.execVxVstx m s
  | .mxCfg m => Sys2Proof.Machine.execMxCfg m s
  | .mxMma m => Sys2Proof.Machine.execMxMma m s
  | .mxMmaz m => Sys2Proof.Machine.execMxMmaz m s
  | .mxZero m => Sys2Proof.Machine.execMxZero m s
  | .mxLdscale m => Sys2Proof.Machine.execMxLdscale m s
  | .mxRdacc m => Sys2Proof.Machine.execMxRdacc m s
  | .mxWracc m => Sys2Proof.Machine.execMxWracc m s
  | .mxFfl m => Sys2Proof.Machine.execMxFfl m s
  | .mxStat m => Sys2Proof.Machine.execMxStat m s
  | .capSend m => Sys2Proof.Machine.execCapSend m s
  | .capRecv m => Sys2Proof.Machine.execCapRecv m s
  | .capSplit m => Sys2Proof.Machine.execCapSplit m s
  | .capJoin m => Sys2Proof.Machine.execCapJoin m s
  | .capDrop m => Sys2Proof.Machine.execCapDrop m s
  | .capCut m => Sys2Proof.Machine.execCapCut m s
  | .capFuse m => Sys2Proof.Machine.execCapFuse m s
  | .capAlloc m => Sys2Proof.Machine.execCapAlloc m s
  | .capFree m => Sys2Proof.Machine.execCapFree m s
  | .capInfo m => Sys2Proof.Machine.execCapInfo m s
  | .capNarrow m => Sys2Proof.Machine.execCapNarrow m s
  | .capSub m => Sys2Proof.Machine.execCapSub m s
  | .capUnsub m => Sys2Proof.Machine.execCapUnsub m s
  | .capMcast m => Sys2Proof.Machine.execCapMcast m s
  | .capBindmb m => Sys2Proof.Machine.execCapBindmb m s
  | .capClosemb m => Sys2Proof.Machine.execCapClosemb m s
  | .capPeek m => Sys2Proof.Machine.execCapPeek m s
  | .cpCopy m => Sys2Proof.Machine.execCpCopy m s
  | .cpCopys m => Sys2Proof.Machine.execCpCopys m s
  | .cpFill m => Sys2Proof.Machine.execCpFill m s
  | .cpGath m => Sys2Proof.Machine.execCpGath m s
  | .cpSig m => Sys2Proof.Machine.execCpSig m s
  | .cpStat m => Sys2Proof.Machine.execCpStat m s
  | .rmRld m => Sys2Proof.Machine.execRmRld m s
  | .rmRst m => Sys2Proof.Machine.execRmRst m s
  | .rmRacc m => Sys2Proof.Machine.execRmRacc m s
  | .rmRfop m => Sys2Proof.Machine.execRmRfop m s
  | .rmBatch m => Sys2Proof.Machine.execRmBatch m s
  | .rmUnbatch m => Sys2Proof.Machine.execRmUnbatch m s
  | .sqLaunch m => Sys2Proof.Machine.execSqLaunch m s
  | .sqTask m => Sys2Proof.Machine.execSqTask m s
  | .sqDec m => Sys2Proof.Machine.execSqDec m s
  | .sqCall m => Sys2Proof.Machine.execSqCall m s
  | .sqFillf m => Sys2Proof.Machine.execSqFillf m s
  | .sqSpawn m => Sys2Proof.Machine.execSqSpawn m s
  | .sqTickets m => Sys2Proof.Machine.execSqTickets m s
  | .sqGang m => Sys2Proof.Machine.execSqGang m s
  | .trRelaunch m => Sys2Proof.Machine.execTrRelaunch m s
  | .trMark m => Sys2Proof.Machine.execTrMark m s
  | .trSlot m => Sys2Proof.Machine.execTrSlot m s
  | .trUnslot m => Sys2Proof.Machine.execTrUnslot m s
  | .trInfo m => Sys2Proof.Machine.execTrInfo m s
  | .resultDelivery => Sys2Proof.Machine.execResultDelivery s
  | .localPathPerform => Sys2Proof.Machine.execLocalPathPerform s
  | .sbwaitRelease => Sys2Proof.Machine.execSbwaitRelease s
  | .drainRelease => Sys2Proof.Machine.execDrainRelease s
  | .detachedCompletion => Sys2Proof.Machine.execDetachedCompletion s
  | .lateFaultTaken => Sys2Proof.Machine.execLateFaultTaken s
  | .localTrapEntry => Sys2Proof.Machine.execLocalTrapEntry s
  | .stop => Sys2Proof.Machine.execStop s
  | .pendingRetryMark => Sys2Proof.Machine.execPendingRetryMark s
  | .suspension => Sys2Proof.Machine.execSuspension s
  | .continuationStart => Sys2Proof.Machine.execContinuationStart s
  | .frameRestore => Sys2Proof.Machine.execFrameRestore s
  | .timedMove => Sys2Proof.Machine.execTimedMove s
  | .walkerContentsCheck => Sys2Proof.Machine.execWalkerContentsCheck s
  | .walkerElementReady => Sys2Proof.Machine.execWalkerElementReady s
  | .feedElement => Sys2Proof.Machine.execFeedElement s
  | .mxCommandCarryOut => Sys2Proof.Machine.execMxCommandCarryOut s
  | .mxGroupApply => Sys2Proof.Machine.execMxGroupApply s
  | .mxFifoStall => Sys2Proof.Machine.execMxFifoStall s
  | .drain => Sys2Proof.Machine.execDrain s
  | .descriptorChange => Sys2Proof.Machine.execDescriptorChange s
  | .backInvalidate => Sys2Proof.Machine.execBackInvalidate s
  | .biStall => Sys2Proof.Machine.execBiStall s
  | .handoverCopy => Sys2Proof.Machine.execHandoverCopy s
  | .messageArrival => Sys2Proof.Machine.execMessageArrival s
  | .joinPacket => Sys2Proof.Machine.execJoinPacket s
  | .prunePacket => Sys2Proof.Machine.execPrunePacket s
  | .multicastPacket => Sys2Proof.Machine.execMulticastPacket s
  | .windowRecall => Sys2Proof.Machine.execWindowRecall s
  | .copyStart => Sys2Proof.Machine.execCopyStart s
  | .copyPiece => Sys2Proof.Machine.execCopyPiece s
  | .completionSignals => Sys2Proof.Machine.execCompletionSignals s
  | .hostFlushRead => Sys2Proof.Machine.execHostFlushRead s
  | .accumulateApply => Sys2Proof.Machine.execAccumulateApply s
  | .batchPacketHold => Sys2Proof.Machine.execBatchPacketHold s
  | .closeMarker => Sys2Proof.Machine.execCloseMarker s
  | .portAccess => Sys2Proof.Machine.execPortAccess s
  | .crossbarAccess => Sys2Proof.Machine.execCrossbarAccess s
  | .llcAccess => Sys2Proof.Machine.execLlcAccess s
  | .translationWalk => Sys2Proof.Machine.execTranslationWalk s
  | .xlatInvalPage => Sys2Proof.Machine.execXlatInvalPage s
  | .xlatInvalPartition => Sys2Proof.Machine.execXlatInvalPartition s
  | .xlatInvalAll => Sys2Proof.Machine.execXlatInvalAll s
  | .invalidationFinish => Sys2Proof.Machine.execInvalidationFinish s
  | .rawAccess => Sys2Proof.Machine.execRawAccess s
  | .askForWork => Sys2Proof.Machine.execAskForWork s
  | .tcbDecrement => Sys2Proof.Machine.execTcbDecrement s
  | .tcbFinish => Sys2Proof.Machine.execTcbFinish s
  | .futureFill => Sys2Proof.Machine.execFutureFill s
  | .weirArrival => Sys2Proof.Machine.execWeirArrival s
  | .weirByteDecrement => Sys2Proof.Machine.execWeirByteDecrement s
  | .resume => Sys2Proof.Machine.execResume s
  | .gangSwitchTg => Sys2Proof.Machine.execGangSwitchTg s
  | .gangWindowClose => Sys2Proof.Machine.execGangWindowClose s
  | .fallOutSpill => Sys2Proof.Machine.execFallOutSpill s
  | .coreImageSave => Sys2Proof.Machine.execCoreImageSave s
  | .gangRestore => Sys2Proof.Machine.execGangRestore s
  | .snapshotPoint => Sys2Proof.Machine.execSnapshotPoint s
  | .recorderFlush => Sys2Proof.Machine.execRecorderFlush s
  | .blockClose => Sys2Proof.Machine.execBlockClose s
  | .dirtyMark => Sys2Proof.Machine.execDirtyMark s
  | .flitReceive => Sys2Proof.Machine.execFlitReceive s
  | .nak => Sys2Proof.Machine.execNak s
  | .replayTimeout => Sys2Proof.Machine.execReplayTimeout s
  | .linkRetrain => Sys2Proof.Machine.execLinkRetrain s
  | .lossOfLight => Sys2Proof.Machine.execLossOfLight s
  | .lanedown => Sys2Proof.Machine.execLanedown s
  | .laneout => Sys2Proof.Machine.execLaneout s
  | .laneup => Sys2Proof.Machine.execLaneup s
  | .stripe => Sys2Proof.Machine.execStripe s
  | .feature => Sys2Proof.Machine.execFeature s
  | .timesync => Sys2Proof.Machine.execTimesync s
  | .quiesced => Sys2Proof.Machine.execQuiesced s
  | .laneWithdrawal => Sys2Proof.Machine.execLaneWithdrawal s
  | .laneTrainingCheck => Sys2Proof.Machine.execLaneTrainingCheck s
  | .streamOpen => Sys2Proof.Machine.execStreamOpen s
  | .streamData => Sys2Proof.Machine.execStreamData s
  | .streamDone => Sys2Proof.Machine.execStreamDone s
  | .linkDown => Sys2Proof.Machine.execLinkDown s
  | .linkTraining => Sys2Proof.Machine.execLinkTraining s
  | .lkRetrain => Sys2Proof.Machine.execLkRetrain s
  | .lkZero => Sys2Proof.Machine.execLkZero s
  | .lkQuiesce => Sys2Proof.Machine.execLkQuiesce s
  | .klGo => Sys2Proof.Machine.execKlGo s
  | .keyInstall => Sys2Proof.Machine.execKeyInstall s
  | .hostNop => Sys2Proof.Machine.execHostNop s
  | .hostLaunch => Sys2Proof.Machine.execHostLaunch s
  | .hostRelaunch => Sys2Proof.Machine.execHostRelaunch s
  | .hostSend => Sys2Proof.Machine.execHostSend s
  | .hostDrop => Sys2Proof.Machine.execHostDrop s
  | .apbind => Sys2Proof.Machine.execApbind s
  | .apunbind => Sys2Proof.Machine.execApunbind s
  | .hostMark => Sys2Proof.Machine.execHostMark s
  | .hostDec => Sys2Proof.Machine.execHostDec s
  | .hostFillf => Sys2Proof.Machine.execHostFillf s
  | .completionRecord => Sys2Proof.Machine.execCompletionRecord s
  | .apertureAccess => Sys2Proof.Machine.execApertureAccess s
  | .rawApertureAccess => Sys2Proof.Machine.execRawApertureAccess s
  | .serviceCoreInstruction => Sys2Proof.Machine.execServiceCoreInstruction s
  | .portPageStore => Sys2Proof.Machine.execPortPageStore s
  | .portPageLoad => Sys2Proof.Machine.execPortPageLoad s
  | .pdrain => Sys2Proof.Machine.execPdrain s
  | .psvc => Sys2Proof.Machine.execPsvc s
  | .ppin => Sys2Proof.Machine.execPpin s
  | .porph => Sys2Proof.Machine.execPorph s
  | .run => Sys2Proof.Machine.execRun s
  | .halt => Sys2Proof.Machine.execHalt s
  | .sluiceConfigWrite => Sys2Proof.Machine.execSluiceConfigWrite s
  | .hubAcceptWrite => Sys2Proof.Machine.execHubAcceptWrite s
  | .lock => Sys2Proof.Machine.execLock s
  | .secCfg => Sys2Proof.Machine.execSecCfg s
  | .configurationBlockCheck => Sys2Proof.Machine.execConfigurationBlockCheck s
  | .registerWrite => Sys2Proof.Machine.execRegisterWrite s
  | .deviceReset => Sys2Proof.Machine.execDeviceReset s
  | .firmwareVerify => Sys2Proof.Machine.execFirmwareVerify s
  | .kernelStartTimeout => Sys2Proof.Machine.execKernelStartTimeout s
  | .spdmRequest => Sys2Proof.Machine.execSpdmRequest s
  | .clockStretch => Sys2Proof.Machine.execClockStretch s
  | .thermalThrottle => Sys2Proof.Machine.execThermalThrottle s
  | .thermalRecover => Sys2Proof.Machine.execThermalRecover s
  | .lightReturn => Sys2Proof.Machine.execLightReturn s
  | .supplyRecovered => Sys2Proof.Machine.execSupplyRecovered s
  | .corrWindowEnd => Sys2Proof.Machine.execCorrWindowEnd s

end Sys2Proof.Machine
end

