-- ==== Sys2Proof/Machine/Policy.lean ====
section
/-! DEFINITION. What happens next (log 3): the head of the agenda, which holds what comes from outside the device and the steps
that a register write makes; else one of the steps that a core or an engine of the device may take, chosen freely. -/

namespace Sys2Proof.Machine

/-! ### A compute core -/

/-- An event whose subject is the whole device. -/
def noFocus : Focus := {}

/-- A step on a core. -/
def coreEvent (cn : Nat) (i : Instr) (n : Nat := 0) : Instr × Focus := (i, { core := cn, n := n })

/-- The walkers of which something holds, by number. -/
def walkersWith (p : BitVec 2 → Bool) : List Nat := (List.range 4).filter (fun n => p (BitVec.ofNat 2 n))

/-- A word that the core is about to issue waits for the element of a walker (02 R85; 05 R191). -/
def State.walkerWaits (s : State) (cn : Nat) : Option Nat :=
  let c := s.core cn
  if c.walkers.all (fun w => !w.stalls) then none
  else match s.nextWord cn with
    | some (w, _) =>
      if (wordErr w c.owe.isSome).isSome then none
      else ((w.moves.filterMap Slot.walker?).find? (fun n => (c.walker n).stalls)).map BitVec.toNat
    | none => none

/-- The core is held still by a gang switch. -/
def Mode.still : Mode → Bool
  | .frozen _ => true
  | _ => false

/-- What comes on a core before its next word (02 R86; 01 R56; 04 R153, R159; 05 R190, R191; 10 R383). -/
def State.coreDue (s : State) (cn : Nat) : Option (Instr × Focus) :=
  let c := s.core cn
  if c.mode.still then none
  else if c.localDue then some (coreEvent cn .localPathPerform)
  else if c.stages.any Stage.due then some (coreEvent cn .resultDelivery)
  else match walkersWith (fun n => (c.walker n).checkIn == some 0) with
    | n :: _ => some (coreEvent cn .walkerContentsCheck n)
    | [] =>
      if c.interruptible && !c.stops.isEmpty then some (coreEvent cn .lateFaultTaken)
      else if c.sbwaitDone then some (coreEvent cn .sbwaitRelease)
      else if c.drainDone then some (coreEvent cn .drainRelease)
      else match c.mode with
        | .trapDue _ => some (coreEvent cn .localTrapEntry)
        | .run =>
          if s.timedDue cn then some (coreEvent cn .timedMove)
          else (s.walkerWaits cn).map (fun n => coreEvent cn .walkerElementReady n)
        | _ => none

/-- A cycle of a core: it issues its next word, or time passes on it (02 R86; 04 R142, R154). -/
def State.coreCycle (s : State) (cn : Nat) : Advance :=
  match (s.core cn).mode, (s.core cn).hold with
  | .run, .none => s.fetch cn
  | .run, _ | .suspending _ _, _ => .done (s.onCore cn Core.endCycle)
  | _, _ => .done (s.onCore cn (fun c => c.idleCycles 1))

/-- What a core's engines may do (04 R150, R160; 05 R194; 07 R235 to R240; 08 R300; 10 R349, R386, R391; 11 R409). -/
def State.coreSteps (s : State) (cn : Nat) : List (Instr × Focus) :=
  let c := s.core cn
  let e (b : Bool) (i : Instr) : List (Instr × Focus) := if b then [coreEvent cn i] else []
  List.flatten [(walkersWith c.feedReady).map (fun n => coreEvent cn .feedElement n),
    e (s.mxNext cn).isSome .mxCommandCarryOut,
    e ((s.mxActive cn).isSome && c.mxGroupReady) .mxGroupApply,
    e (s.mxStalled cn) .mxFifoStall,
    e (!c.ranges.isEmpty) .recorderFlush,
    e (s.suspendReady cn) .suspension,
    e (s.stopReady cn) .stop,
    e (s.retryDue cn) .pendingRetryMark,
    e (c.taken.isSome && (c.vaway != 0 || c.taway != 0)) .windowRecall,
    (if c.mode == .idle && (s.nextReady cn).isSome then [coreEvent cn .continuationStart, coreEvent cn .frameRestore] else []),
    e (s.gang.any (fun g => g.phase == .saving && g.left.contains cn && s.imageReady cn)) .coreImageSave]

/-! ### Memories (01 R31, R50; 05 R178, R199; 09 R329, R333, R334) -/

/-- The step that serves request `i` of a unit. -/
def serveEvent (u i : Nat) (r : Req) : Instr × Focus :=
  match r.serve with
  | .apply => (.accumulateApply, { addr := u, n := i })
  | .hold => (.batchPacketHold, { addr := u, n := i })
  | .close => (.closeMarker, { addr := u, n := i })
  | .access =>
    if u < 2048 then (.portAccess, { core := u })
    else if u < 4096 then (.crossbarAccess, { cluster := u - 2048, n := i })
    else (.llcAccess, { die := u - 4096, n := i })

/-- The requests that a unit may serve now. -/
def State.unitSteps (s : State) (u : Nat) : List (Instr × Focus) :=
  ((s.queueAt u).zipIdx.filter (fun x => s.mayServe u x.2)).map (fun x => serveEvent u x.2 x.1)

/-! ### Operations in flight -/

/-- The BI_STALL records that snoops may have, by port (12 R472). -/
def State.stallSteps (s : State) (since : Word) (done : Bool) (x : Focus) : List (Instr × Focus) :=
  ((List.range 2).filter (fun i => !done && s.snoopsLate i since)).map (fun i => (.biStall, { x with die := i }))

/-- What an operation's engine may do (01 R56; 08 R257, R280, R282, R294, R295; 09 R309 to R317; 12 R472). -/
def State.flightSteps (s : State) (f : Flight) : List (Instr × Focus) :=
  let x : Focus := { core := f.agent, seq := f.seq }
  let done := if s.mayComplete f then [(.detachedCompletion, x)] else []
  done ++ match f.phase with
    | .issued => if f.cpOp?.isSome then [(.copyStart, x)] else []
    | .drain => if s.drained f then [(.drain, x)] else []
    | .change => [(.descriptorChange, x)]
    | .packets => match f.op with
      | .cap .sub => [(.joinPacket, x)]
      | .cap .unsub => [(.prunePacket, x)]
      | _ => [(.multicastPacket, x)]
    | .snoop => (.backInvalidate, x) :: s.stallSteps f.snoopAt f.stalled x
    | .active => if f.cpOp?.isSome then (List.range 3).map (fun n => (.copyPiece, { x with n := n })) else []
    | .flush => [(.hostFlushRead, x)]
    | .signals => [(.completionSignals, x)]
    | _ => []

/-! ### Service and kernel cores (13 R474, R478, R479) -/

/-- The step that a pending access waits for. -/
def portEvent (r : RawAccess) : Instr :=
  if r.addr < portPage then .rawAccess
  else match r.addr - portPage, r.kind == .store with
    | 0x3F10, false => .pdrain
    | 0x3F18, false => .psvc
    | 0x3F20, true => .ppin
    | 0x3F28, true => .porph
    | _, true => .portPageStore
    | _, false => .portPageLoad

/-- What a service or kernel core may do. -/
def svcSteps (x : Nat) (v : Svc) : List (Instr × Focus) :=
  (.serviceCoreInstruction, { sluice := x }) :: (match v.access with
    | some r => if r.sent || r.reply.isSome then [] else [(portEvent r, { sluice := x })]
    | none => [])

/-! ### Clusters, the scheduler and the hub (01 R42, R47; 10 R353 to R358, R377, R388 to R394; 11 R411, R415; 13 R482) -/

/-- A step that may be taken when a condition holds. -/
def stepWhen (b : Bool) (i : Instr) (f : Focus) : List (Instr × Focus) := if b then [(i, f)] else []

/-- Steps on the places of a list. -/
def stepsAt (ns : List Nat) (i : Instr) : List (Instr × Focus) := ns.map (fun n => (i, { n := n }))

/-- Waiting requests for which the translation unit can do something (01 R44). -/
def State.walkSteps (s : State) (cl : Nat) : List (Instr × Focus) :=
  ((List.range (s.cluster cl).walks.length).filter (s.walkUseful cl)).map (fun n => (.translationWalk, { cluster := cl, n := n }))

/-- What a cluster's engines may do. -/
def clusterSteps (cl : Nat) (c : Cluster) : List (Instr × Focus) :=
  List.flatten [stepWhen c.inval.isSome .invalidationFinish { cluster := cl },
    stepWhen (c.blocks.any (fun b => b.live == 0)) .blockClose { cluster := cl },
    stepWhen (!c.branches.isEmpty) .prunePacket { core := 2 ^ 16 }]

/-- The event of a request. -/
def AskKind.event : AskKind → Instr
  | .dec => .tcbDecrement
  | .fill => .futureFill
  | .arrive => .weirArrival
  | .bytes => .weirByteDecrement

/-- Requests, finished TCBs, messages and marks that arrive. -/
def State.arrivals (s : State) : List (Instr × Focus) :=
  let snaps := (List.range s.flights.length).filter (fun n =>
    (s.flights[n]?).any (fun f => f.op == .tr .relaunch && f.phase == .issued && s.trMayServe f))
  List.flatten [s.asks.zipIdx.map (fun x => (x.1.ask.kind.event, { n := x.2 })),
    stepsAt (List.range s.fins.length) .tcbFinish,
    stepsAt ((List.range s.msgs.length).filter s.msgReady) .messageArrival,
    stepsAt ((s.hauls.filter (fun e => e.2.goes)).map (·.1)) .handoverCopy,
    stepWhen (!s.marks.isEmpty) .dirtyMark noFocus,
    stepsAt snaps .snapshotPoint]

/-- Clusters that may ask for work. -/
def State.dispatchSteps (s : State) : List (Instr × Focus) :=
  if s.queues.all (fun e => !e.2.active) then []
  else ((List.range 128).filter (fun cl => (s.cluster cl).ready.isEmpty && !(s.candidates cl).isEmpty)).map
    (fun cl => (.askForWork, { cluster := cl }))

/-- The step of a phase of a gang switch. -/
def GangPhase.event : GangPhase → Instr
  | .posted => .gangSwitchTg
  | .window _ => .gangWindowClose
  | .saving => .gangRestore

/-- A gang switch goes on, and what has fallen out is spilled. -/
def State.gangSteps (s : State) : List (Instr × Focus) :=
  s.gang.toList.map (fun g => (g.phase.event, noFocus)) ++ stepWhen (!s.falls.isEmpty) .fallOutSpill noFocus

/-- The security controller's own steps. -/
def State.secSteps (s : State) : List (Instr × Focus) :=
  List.flatten [stepWhen (s.sec.cfgst == cfgBusy) .configurationBlockCheck { n := (s.free 0).toNat % 65536 },
    stepWhen (s.sec.state == secKernel) .kernelStartTimeout noFocus,
    stepWhen (s.sec.klBusy || s.links.any (fun e => e.2.newKey.isSome && e.2.held.isEmpty)) .keyInstall noFocus]

/-! ### Links (12 R437 to R456) -/

/-- The step that acts on the oldest thing that a link has accepted. -/
def inEvent : InItem → Option Instr
  | .open_ _ => some .streamOpen
  | .stream _ _ _ => some .streamData
  | .control x => match (x.extractLsb' 0 8).toNat with
    | 1 => some .lanedown
    | 2 => some .laneout
    | 3 => some .laneup
    | 4 => some .stripe
    | 5 => some .feature
    | 6 => some .timesync
    | 7 => some .quiesced
    | _ => none

/-- What a link engine may do of itself. -/
def State.linkSteps (s : State) (l : BitVec 6) (k : Link) : List (Instr × Focus) :=
  let e (b : Bool) (i : Instr) : List (Instr × Focus) := if b then [(i, { link := l })] else []
  List.flatten [(k.inq.head?.bind inEvent).toList.map (fun i => (i, { link := l })),
    e k.resend.isSome .nak,
    e (k.runs && !k.held.isEmpty && decide (k.ackAt.toNat + 2000 ≤ s.now.toNat)) .replayTimeout,
    e (k.inStreams.any (fun x => decide (2 * x.flits ≤ x.written))) .streamDone,
    e (k.runs && k.quiesce && k.state != 4) .quiesced,
    e (k.runs && (k.control? 6).isNone) .timesync,
    e (k.runs && (lanesIn (k.rxact &&& ~~~k.noted)).any (fun i => decide (k.thresh.toNat < ((k.corr[i]?).getD 0).toNat)))
      .laneWithdrawal,
    e (k.state != 0 && (!k.en || s.linkOff l)) .linkDown,
    e (k.en && k.state == 0 && !s.linkOff l) .linkTraining]

/-! ### The host's commands (12 R465 to R468) -/

/-- The event of an opcode. -/
def commandEvent (o : BitVec 8) : Instr :=
  match o.toNat with
  | 1 => .hostLaunch
  | 2 => .hostRelaunch
  | 3 => .hostSend
  | 4 => .hostDrop
  | 5 => .apbind
  | 6 => .apunbind
  | 7 => .hostMark
  | 8 => .hostDec
  | 9 => .hostFillf
  | _ => .hostNop

/-- The command that a window takes next, and the completion records that may be written. -/
def State.windowSteps (s : State) (p : BitVec 4) (x : Partition) : List (Instr × Focus) :=
  (match x.nextCommand with
    | some r => if s.sec.state = secReady then [(commandEvent (cmdOpcode r), { part := p, n := x.cmdNext })] else []
    | none => []) ++
    (x.cmds.filter (fun e => s.commandOver p e.1 e.2)).flatMap (fun e =>
      if s.needsSnoop p e.1 e.2 then
        let x : Focus := { part := p, n := e.1, data := 1 }
        (.backInvalidate, x) :: e.2.snoopAt.toList.flatMap (fun a => s.stallSteps a e.2.stalled x)
      else [(.completionRecord, { part := p, n := e.1 })])

/-! ### The choice (log 3) -/

/-- What may come next: a core moves, an engine takes a step, or a request takes an entry of a request table, or a
reservation is reclaimed. -/
inductive Choice where
  | core (cn : Nat)
  | event (i : Instr) (f : Focus)
  | entry (a : Nat)
  | reclaim (part : BitVec 4) (g : Group)

/-- The steps of engines that may come next. -/
def State.engineSteps (s : State) : List (Instr × Focus) :=
  List.flatten [s.cores.flatMap (fun e => s.coreSteps e.1),
    s.cores.flatMap (fun e => s.unitSteps e.1),
    s.clusters.flatMap (fun e => s.unitSteps (sramUnit e.1) ++ s.walkSteps e.1 ++ clusterSteps e.1 e.2),
    s.llc.flatMap (fun e => s.unitSteps (sliceUnit e.1)),
    s.flights.flatMap s.flightSteps,
    s.svcs.flatMap (fun e => svcSteps e.1 e.2),
    s.arrivals, s.dispatchSteps, s.gangSteps, s.secSteps,
    s.links.flatMap (fun e => s.linkSteps (BitVec.ofNat 6 e.1) e.2),
    s.parts.flatMap (fun e => s.windowSteps (BitVec.ofNat 4 e.1) e.2)]

/-- Everything that may come next. -/
def State.choices (s : State) : List Choice :=
  s.cores.map (fun e => .core e.1) ++ s.engineSteps.map (fun e => .event e.1 e.2) ++ s.entriesFree.map .entry ++
    s.resvDue.map (fun e => .reclaim e.1 e.2)

/-- One of several, freely. -/
def State.pickOf (s : State) (cs : List Choice) : Option Choice :=
  match cs with
  | [] => none
  | [c] => some c
  | cs => cs[Config.pick s.tick % cs.length]?

/-- An event with its subject. -/
def State.runEvent (s : State) (i : Instr) (f : Focus) : Advance :=
  if isWord i then .refused .notAnEvent else .run i { s with focus := f }

/-- A core moves: what is due on it, or its cycle. -/
def State.moveCore (s : State) (cn : Nat) : Advance :=
  match s.coreDue cn with
  | some (i, f) => s.runEvent i f
  | none => s.coreCycle cn

/-- Time passes with a step (log 4). -/
def State.tickOver (s : State) : State :=
  { s with tick := s.tick + 1, now := s.now + BitVec.ofNat 64 (Config.elapsed s.tick) }

/-- What happens next. -/
def State.advance (s : State) : Advance :=
  match s.agenda with
  | (i, f) :: rest => ({ s with agenda := rest } : State).runEvent i f
  | [] =>
    if s.sole then ({ s with sole := false } : State).coreCycle s.turn
    else match s.pickOf s.choices with
      | some (.core cn) => s.moveCore cn
      | some (.event i f) => s.runEvent i f
      | some (.entry a) => .done (s.takeEntry a)
      | some (.reclaim p g) => .done (s.reclaimDue p g)
      | none => .done s

/-! ### A program's word placed from outside (log 5) -/

/-- A continuation that stands on a core because a program was placed there from outside (log 5). -/
def Resident.placed : Resident := ⟨0, 0, 0, 0, 0, 0, .none⟩

/-- The state with a word as the next one that core 0 fetches: the word at the start of its scratchpad, unpoisoned, the
program counter there, below the execute-only boundary, and the core about to issue (log 5). -/
def State.placeWord (s : State) (nbits w : Nat) : State :=
  let s := s.writeBytes (slotBase 0) (leBytes 20 (w % 2 ^ nbits))
  { s.onCore 0 (fun c => { c with
      mode := .run
      hold := .none
      res := c.res.orElse (fun _ => some Resident.placed)
      pc := ⟨0, 0⟩
      check := 0
      xb := 4096 }) with
    poison := s.poison.filter (· != slotBase 0 / 32)
    turn := 0
    sole := true
    agenda := [] }

end Sys2Proof.Machine
end

