-- ==== Sys2Proof/Machine/Step.lean ====
section
/-! DEFINITION. One step of the device, and a word placed where the next step fetches it. -/

namespace Sys2Proof.Machine

/-- One step: time passes, and what comes next is carried out (log 3). -/
def step (s : State) : Host.Outcome State Fault Refusal :=
  match s.tickOver.advance with
  | .done t => .next t
  | .run i t => exec i t
  | .refused r => .refused r

/-- The state with core 0 about to fetch an instruction whose bits are `w` (log 5). -/
def State.withFetchWord (s : State) (nbits w : Nat) : State := s.placeWord nbits w

end Sys2Proof.Machine
end

