-- ==== Sys2Proof/Safety.lean ====
section
/-! DEFINITION. The terms that statements are made in: a safe run, the canonical form of memory, the word that is carried
out, and what it leaves alone. -/

namespace Sys2Proof

/-- A step that neither stops with a fault nor lacks a meaning. -/
def Proceeds (s : Machine.State) : Prop := ∃ t, Machine.step s = .next t

end Sys2Proof

namespace Sys2Proof.Machine

/-- The bytes of memory, and those of REMOTE lines, are in their canonical form (Machine/Table.lean). -/
def State.canonical (s : State) : Prop := Memory.wf s.mem = true ∧ Memory.wf s.far = true

/-! ### The word that is carried out -/

/-- The core whose word issues. -/
def State.me (s : State) : Core := s.core s.turn

/-- The value that the move of a single-trigger word carries (02 R77, R100). -/
def State.moved (s : State) (m : Arg) : Word := s.originValue s.turn 0 m.org

/-- The trigger of a single-trigger word, as its operation meets it (02 R80). -/
def State.trigOf (s : State) (op : Op) (m : Arg) : Trig := ⟨s.turn, s.me, op, s.moved m, 0, m.sb, s.me.order, 4⟩

/-- The move of a single-trigger word gets as far as the checks of its operation in this cycle: the core issues, the word's
encoding passes, its guard is true and nothing stalls it (02 R72 to R85, R94, R95; 05 R190, R191). -/
structure State.Tries (s : State) (op : Op) (m : Arg) : Prop where
  mode : s.me.mode = .run
  hold : s.me.hold = .none
  origin : m.org ≠ .lit ∧ ∀ c, m.org ≠ .reserved c
  delay : op.transfers = true → s.me.owe = none
  guard : s.me.guardValue m.guard = true
  walker : ∀ n, m.org = .swR n → (s.me.walker n).stalls = false ∧ s.walkerReadErr s.turn n = none
  room : ∀ n, sbSel m.sb = some n → s.me.rsb n ≠ 4095
  ring : (trigger op).detached s (s.trigOf op m) = true → s.ringFull s.turn 1 = false

/-- The move of a single-trigger word is carried out in this cycle: every check of its operation passes too (02 R85 step 6). -/
structure State.Carries (s : State) (op : Op) (m : Arg) : Prop extends State.Tries s op m where
  checks : (trigger op).check s (s.trigOf op m) = none

/-- The word that issues is not the delay word of a return from a local trap, which goes with the return: its stages end
with the handler's (02 R83; 04 R156). -/
def State.noReturn (s : State) : Prop := ∀ o, s.me.owe = some o → o.kind ≠ .rett

/-- The single-trigger word `i`, of trigger `op` and move `m`, is carried out on the core whose turn it is. -/
structure State.Runs (s : State) (i : Instr) (op : Op) (m : Arg) : Prop where
  word : i.trigger? = some (op, m)
  carries : s.Carries op m
  plain : s.noReturn

/-! ### What a word leaves alone -/

/-- The registers of a core that one core state shares with another: all but the pc, the walkers, the scoreboard counters, the
flags of `fs.x`, what is in its pipelines, and what it does next. -/
structure Core.SameRegs (a b : Core) : Prop where
  g : b.g = a.g
  q : b.q = a.q
  ports : b.ports = a.ports
  lnk : b.lnk = a.lnk
  epc : b.epc = a.epc
  cause : b.cause = a.cause
  rm : b.rm = a.rm
  xb : b.xb = a.xb
  ovh : b.ovh = a.ovh
  bf : b.bf = a.bf
  shadow : b.shadow = a.shadow
  owedTrap : b.owedTrap = a.owedTrap
  stops : b.stops = a.stops
  watch : b.watch = a.watch
  v : b.v = a.v
  m : b.m = a.m
  mx : b.mx = a.mx
  k : b.k = a.k
  kx : b.kx = a.kx
  seq : b.seq = a.seq
  ring : b.ring = a.ring
  timed : b.timed = a.timed
  port : b.port = a.port
  sig : b.sig = a.sig
  batches : b.batches = a.batches
  sluice : b.sluice = a.sluice
  subs : b.subs = a.subs
  code : b.code = a.code
  res : b.res = a.res
  taken : b.taken = a.taken
  reissue : b.reissue = a.reissue
  vaway : b.vaway = a.vaway
  taway : b.taway = a.taway

/-- Everything of the device that is not in a core, a message on its way or a block of a trace (11 R408) is as it was, and so
are the other cores; every byte of memory reads as before. -/
structure State.SameRest (s t : State) : Prop where
  others : ∀ c, c ≠ s.turn → t.core c = s.core c
  bytes : ∀ a, t.byteAt a = s.byteAt a
  clusters : ∀ cl, ∃ bs, t.cluster cl = { s.cluster cl with blocks := bs }
  rest : t = { s with cores := t.cores, msgs := t.msgs, clusters := t.clusters }

/-! ### What a word starts -/

/-- A stage one cycle on (02 R86). -/
def Stage.next (x : Stage) : Stage := { x with left := x.left - 1 }

/-- From `s` to `t` a word has been carried out that puts nothing into a pipeline and is no longer counted: the cycle has passed,
and what a word leaves alone but for registers is as it was (02 R85, R86; 04 R137). -/
structure State.Ends (s t : State) (m : Arg) : Prop where
  stages : (t.core s.turn).stages = s.me.stages.map Stage.next
  order : (t.core s.turn).order = s.me.order + 4
  pc : s.me.owe = none → (t.core s.turn).pc = s.me.pc.plus 4
  counters : (t.core s.turn).sb = s.me.sb
  sflags : (t.core s.turn).sflags = if m.org = .port .fsX then 0 else s.me.sflags
  vflags : (t.core s.turn).vflags = if m.org = .port .fsX then 0 else s.me.vflags
  stores : (t.core s.turn).stores.map (·.writes) = s.me.stores.map (·.writes)
  rest : s.SameRest t

/-- The stages of a core, without an operation of a unit that is not pipelined (02 R89). -/
def Core.stagesBut (c : Core) (unit : Nat) : List Stage := c.stages.filter (fun x => !(x.slow && x.unit == unit))

/-- From `s` to `t` a word has put an operation of a unit, with its latency and its result, into the pipelines of the core
whose turn it was, and the cycle has passed: an operation that is not pipelined has taken the place of the one in progress
(02 R86, R87, R89). Nothing else in the core but the pc, the walkers, the counters and what comes next has changed, and a read
of `fs.x` has cleared its flags (06 R207). -/
structure State.Delivers (s t : State) (m : Arg) (unit latency : Nat) (slow : Bool) (r : Result) : Prop where
  stages : (t.core s.turn).stages = ((if slow then s.me.stagesBut unit else s.me.stages) ++
    [({ unit := unit, order := s.me.order, left := latency, slow := slow, sb := m.sb, res := r } : Stage)]).map Stage.next
  order : (t.core s.turn).order = s.me.order + 4
  pc : s.me.owe = none → (t.core s.turn).pc = s.me.pc.plus 4
  counted : slow = false → (t.core s.turn).sb = (s.me.sbInc m.sb).sb
  registers : s.me.SameRegs (t.core s.turn)
  sflags : (t.core s.turn).sflags = if m.org = .port .fsX then 0 else s.me.sflags
  vflags : (t.core s.turn).vflags = if m.org = .port .fsX then 0 else s.me.vflags
  stores : (t.core s.turn).stores.map (·.writes) = s.me.stores.map (·.writes)
  rest : s.SameRest t

/-- From `s` to `t` a Local-path store of some bits has joined those that wait, with its latency, and the cycle has passed; no
byte has changed yet (01 R56, R57). `stages` is what it puts into the pipelines beside. -/
structure State.StoresWith (s t : State) (m : Arg) (latency : Nat) (ws : List BitWrite) (stages : List Stage) : Prop where
  stores : (t.core s.turn).stores.map (fun x => (x.order, x.left, x.sb, x.writes)) =
    s.me.stores.map (fun x => (x.order, x.left - 1, x.sb, x.writes)) ++ [(s.me.order, latency - 1, m.sb, ws)]
  stages : (t.core s.turn).stages = (s.me.stages ++ stages).map Stage.next
  order : (t.core s.turn).order = s.me.order + 4
  pc : s.me.owe = none → (t.core s.turn).pc = s.me.pc.plus 4
  counted : (t.core s.turn).sb = (s.me.sbInc m.sb).sb
  registers : s.me.SameRegs (t.core s.turn)
  sflags : (t.core s.turn).sflags = if m.org = .port .fsX then 0 else s.me.sflags
  vflags : (t.core s.turn).vflags = if m.org = .port .fsX then 0 else s.me.vflags
  rest : s.SameRest t

/-- A store that delivers nothing (05 R180). -/
def State.Stores (s t : State) (m : Arg) (latency : Nat) (ws : List BitWrite) : Prop := s.StoresWith t m latency ws []

/-- A vector store, whose conversions leave flags when it completes (06 R219, R224). -/
def State.StoresVector (s t : State) (m : Arg) (latency : Nat) (ws : List BitWrite) : Prop :=
  ∃ fl, s.StoresWith t m latency ws [{ unit := 12, order := s.me.order, left := latency, slow := false, sb := 0, res := .flags fl }]

/-! ### Memory -/

/-- An address of HBM, a scratchpad or a cluster's SRAM, where a byte is a byte (01 R29 to R32). -/
def plainByte (a : Nat) : Prop := placeOf a = .hbm ∨ (∃ c o, placeOf a = .pad c o) ∨ ∃ c o, placeOf a = .sram c o

/-- The `n` bytes from address `a` on are bytes of plain memory. -/
def plainRange (a n : Nat) : Prop := ∀ j, j < n → plainByte (a + j)

/-- From `s` to `t` the bytes `bs` have been stored from address `a` on, and no other byte of memory has changed. -/
def State.BytesStored (s t : State) (a : Nat) (bs : List Byte) : Prop :=
  (∀ j b, bs[j]? = some b → t.byteAt (a + j) = b) ∧ ∀ x, x < a ∨ a + bs.length ≤ x → t.byteAt x = s.byteAt x

/-! ### Detached operations (02 R92 to R95) -/

/-- The registers of a core that the trigger of a detached operation leaves as they are: all but the capability registers, the
matrix engine's, the sequence number and the ring, the armed signals, the buffers in batch mode, the window presence, watch slots and
the queue of the scratchpad's port, which are spoken of apart, as are the vector registers. -/
structure Core.SameAtIssue (a b : Core) : Prop where
  g : b.g = a.g
  q : b.q = a.q
  ports : b.ports = a.ports
  lnk : b.lnk = a.lnk
  epc : b.epc = a.epc
  cause : b.cause = a.cause
  rm : b.rm = a.rm
  xb : b.xb = a.xb
  ovh : b.ovh = a.ovh
  bf : b.bf = a.bf
  shadow : b.shadow = a.shadow
  m : b.m = a.m
  timed : b.timed = a.timed
  sluice : b.sluice = a.sluice
  subs : b.subs = a.subs
  code : b.code = a.code
  res : b.res = a.res
  taken : b.taken = a.taken
  reissue : b.reissue = a.reissue

/-- The operation that the word of trigger `op` and move `m` issues, before it notes anything of its own: it completes no earlier than
`n` cycles from its trigger (02 R93, R94). -/
def State.started (s : State) (op : Op) (m : Arg) (n : Nat) : Flight :=
  Flight.start s.turn s.me.seq op (s.moved m) (s.me.latchO op) s.me.rm m.sb 0 s.me.pc s.me.order (s.me.res.getD Resident.none)
    s.me.cyc n

/-- An operation is in flight: its ring entry says so, its counter has been incremented, and no stop is due (02 R93 to R95). -/
structure State.InFlight (s t : State) (m : Arg) (f : Flight) : Prop where
  listed : f ∈ t.flights
  issued : ((t.core s.turn).ringAt s.me.seq).state = ringIssued
  counted : (t.core s.turn).sb = (s.me.sbInc m.sb).sb
  stops : (t.core s.turn).stops = s.me.stops

/-- From `s` to `t` the word of trigger `op` and move `m` has issued a detached operation: it has the next sequence number and a
ring entry of its own, the cycle has passed, and operations in flight go on (02 R92 to R94). A watch slot stays, or is cleared once no
register holds a capability for its buffer (04 R169). An operation that writes the tables of memory at its trigger changes vector
registers and tiles where such a table lies in a window (08 R298). -/
structure State.IssuedTables (s t : State) (op : Op) (m : Arg) : Prop where
  seq : (t.core s.turn).seq = s.me.seq + 1
  entry : ((t.core s.turn).ringAt s.me.seq).seq = s.me.seq ∧ ((t.core s.turn).ringAt s.me.seq).tgt = BitVec.ofNat 11 op.code ∧
    ((t.core s.turn).ringAt s.me.seq).sbf = m.sb ∧ ((t.core s.turn).ringAt s.me.seq).slot = 0 ∧
    ((t.core s.turn).ringAt s.me.seq).ovl = s.me.pc.ovl ∧ ((t.core s.turn).ringAt s.me.seq).pc = s.me.pc.off
  ring : ∀ q : BitVec 16, q.toNat % 64 ≠ s.me.seq.toNat % 64 → (t.core s.turn).ringAt q = s.me.ringAt q
  stages : (t.core s.turn).stages = s.me.stages.map Stage.next
  order : (t.core s.turn).order = s.me.order + 4
  pc : s.me.owe = none → (t.core s.turn).pc = s.me.pc.plus 4
  sflags : (t.core s.turn).sflags = if m.org = .port .fsX then 0 else s.me.sflags
  vflags : (t.core s.turn).vflags = if m.org = .port .fsX then 0 else s.me.vflags
  registers : s.me.SameAtIssue (t.core s.turn)
  watch : ∀ (n : Nat) (w : Watch), s.me.watch[n]? = some w → (t.core s.turn).watch[n]? = some w ∨
    (t.core s.turn).watch[n]? = some ({} : Watch) ∧ (t.core s.turn).holdsWatched w = false
  others : ∀ c, c ≠ s.turn → ∃ p v w x y, t.core c = { s.core c with port := p, vaway := v, taway := w, v := x, mx := y }
  earlier : ∀ f ∈ s.flights, ∃ g ∈ t.flights, g.agent = f.agent ∧ g.seq = f.seq

/-- So it has, and no table of memory is written: the vector registers are as they were, and every byte of memory. The registers of the
matrix engine, the armed signals and the buffers in batch mode change by operations of their own alone, and the presence of a window by
one that takes away a capability for it (07 R236; 08 R298; 09 R314, R333). -/
structure State.Issued (s t : State) (op : Op) (m : Arg) : Prop extends State.IssuedTables s t op m where
  v : (t.core s.turn).v = s.me.v
  apart : ∀ c, c ≠ s.turn → (t.core c).v = (s.core c).v ∧ (t.core c).mx = (s.core c).mx
  bytes : ∀ a, t.byteAt a = s.byteAt a
  mx : op ≠ .mx .cfg → (t.core s.turn).mx = s.me.mx
  sig : (∀ o, op ≠ .cp o) → (t.core s.turn).sig = s.me.sig ∧ (t.core s.turn).lastCopy = s.me.lastCopy
  batches : op ≠ .rm .batch → op ≠ .rm .unbatch → op ≠ .cap .join → op ≠ .cap .drop → (t.core s.turn).batches = s.me.batches
  away : ∀ c, (∀ k cap d, s.me.rk k = .cap cap → s.descOf cap = some d → d.cls = 5 → d.windowCore ≠ c) →
    (t.core c).vaway = (s.core c).vaway ∧ (t.core c).taway = (s.core c).taway

/-- From `s` to `t` the operation `f` has set out by itself: it is the last of those in flight, and the others are as they were. -/
structure State.SetsOut (s t : State) (op : Op) (m : Arg) (f : Flight) : Prop extends State.Issued s t op m, State.InFlight s t m f where
  flights : t.flights = s.flights ++ [f]

/-- Nothing of the device has changed but cores, operations in flight, messages and blocks of traces. -/
def State.SameDevice (s t : State) : Prop :=
  t = { s with cores := t.cores, flights := t.flights, msgs := t.msgs, clusters := t.clusters } ∧
    ∀ cl, ∃ bs, t.cluster cl = { s.cluster cl with blocks := bs }

/-- From `s` to `t` nothing outside core `c` has changed. -/
def State.OnlyCore (s t : State) (c : Nat) : Prop := t = { s with cores := t.cores } ∧ ∀ x, x ≠ c → t.core x = s.core x

/-- The capability registers of the core that has issued: those that `f` gives, the others as they were. -/
def State.CapsAre (s t : State) (f : BitVec 5 → Option KReg) : Prop :=
  ∀ k, (t.core s.turn).rk k = (f k).getD (s.me.rk k)

/-- The watch slots of the core that has issued stay where they are off, where one of its registers holds a capability for the buffer
that they watch, or where `held` says that an operation does; the others are cleared (04 R169). -/
def State.WatchesAre (s t : State) (held : Watch → Prop) : Prop :=
  ∀ (n : Nat) (w : Watch), s.me.watch[n]? = some w →
    (w.kind = 0 ∨ (t.core s.turn).holdsWatched w = true ∨ held w → (t.core s.turn).watch[n]? = some w) ∧
    (w.kind ≠ 0 → (t.core s.turn).holdsWatched w = false → ¬ held w → (t.core s.turn).watch[n]? = some ({} : Watch))

/-- A request stands at the memory that serves it: a slice of the last-level cache, the host port, the port of a scratchpad or the
crossbar of a cluster's SRAM (01 R30, R49, R50; 05 R199; 09 R317). -/
def State.StandsAt (t : State) (r : Req) : Prop :=
  let slice (d : Nat) : Prop := r ∈ (tabFind d t.llc).getD []
  match r.cls.toNat with
  | 2 => slice (r.acc.addr / 0x1800000000)
  | 3 => r ∈ t.hostq
  | 4 => slice (r.va / 128 % 8)
  | _ => match placeOf r.acc.addr with
    | .pad c _ | .vwin c _ | .awin c _ => r ∈ (t.core c).port
    | .sram cl _ => r ∈ (t.cluster cl).xbar
    | .host => r ∈ t.hostq
    | _ => slice (r.acc.addr / 0x1800000000)

/-- No translation held for a request of the list, nor any that the cluster's unit holds for it, forbids it (01 R42, R45). -/
def State.Admits (s : State) (rs : List Req) : Prop :=
  ∀ r ∈ rs, translated r.cls = true → ∀ x, s.heldXlate r = some x ∨ x ∈ (s.cluster r.src.cluster).tlb ∧ x.covers r.xpart r.va = true →
    x.allows r.cls r.acc.writes = true

/-- From `s` to `t` the requests of an operation have set out. One that needs no translation stands at the memory that serves it; those
for which no translation is held wait for a walk; one alone, with a translation and no walk before it, stands at the memory of its
physical address (01 R39, R44, R45; 09 R323). -/
def State.Sent (s t : State) (rs : List Req) : Prop :=
  (∀ r ∈ rs, translated r.cls = false → t.StandsAt r) ∧
  ((∀ r ∈ rs, translated r.cls = true ∧ s.heldXlate r = none) → ∀ r ∈ rs, r ∈ (t.cluster r.src.cluster).walks) ∧
  ∀ r x, rs = [r] → translated r.cls = true → s.heldXlate r = some x → s.behindWalk r = false →
    t.StandsAt { r with nc := x.nc, home := x.dev, acc := r.acc.moveTo (x.pa + (r.va - x.va)) }

end Sys2Proof.Machine
end

