-- ==== Sys2Proof/WellFormed.lean ====
section
/-! DEFINITION. The instruction terms that stand for words of the machine (spec 02): a term that no bytes decode
to is ill-formed. A term is a word of its own reading, so a reserved code that the maps of R98 and R100 give a
meaning, or a literal that the length field does not allow, makes it ill-formed. A step that no word encodes has
no operands, and is well-formed. -/

namespace Sys2Proof

/-- A target is what the target map reads its code as (02 R98). -/
def Target.wf (t : Target) : Bool := Target.ofCode t.code == t

/-- An origin is what the origin map reads its field as (02 R77, R100). -/
def Origin.wf (o : Origin) : Bool := Origin.ofField o.field == o

/-- Both ports of a move are in their maps (02 R98, R100). -/
def Move.wf (m : Move) : Bool := m.tgt.wf && m.org.wf

/-- The operand fields of a single-trigger word: the origin is in its map, and the guard is not 0b1000, which
makes the word the NOP (02 R76, R100). -/
def Arg.wf (m : Arg) : Bool := m.org.wf && m.guard != 0b1000#4

/-- A general word (02 R70 to R73): a word of one move without a literal triggers nothing, since a word that
triggers is a row of its own, and is no NOP. -/
def SWord.wf : SWord → Bool
  | .one m => m.wf && !m.isNop && (match m.tgt with | .trig _ => false | _ => true)
  | .oneLit m _ => m.wf
  | .b3 m1 m2 m3 _ _ => m1.wf && m2.wf && m3.wf
  | .bi l m _ _ => l.tgt.wf && m.wf
  | .bad _ _ _ => true

/-- The instruction is the reading of some bytes, or a step that no word encodes. -/
def Instr.wf (i : Instr) : Bool :=
  match i with
  | .wordIssue w => w.wf
  | .bankFormatRead m => m.wf && m.org.isNegImm
  | .bankFormatWrite m => m.wf && m.org.isNegImm
  | .lsLdd m => m.wf && !m.org.isNegImm
  | .lsStd m => m.wf && !m.org.isNegImm
  | i => match i.trigger? with
    | some (_, m) => m.wf
    | none => true

/-- The instruction stands for a word of the machine. -/
def Instr.WellFormed (i : Instr) : Prop := i.wf = true

end Sys2Proof
end

