-- ==== Sys2Proof/Certificates/Slice0/Obligations.lean ====
section
/-! DEFINITION. The statements for the provers: what the spec's rules say that words, engines and the device do. A single-trigger
word is named by the trigger of its row: `i.trigger? = some (op, m)`, where `m` holds its guard, origin and scoreboard field. -/

open Sys2Proof Sys2Proof.Machine

/-! ### Encoding, fetch and reset -/

/-- Decoding what the encoder writes for a well-formed word gives the word back, with every operand at every value that its
encoding admits, and leaves the bytes after it (02 R70 to R76, R98, R100). -/
def Obligations.DecodeInvertsEncode : Prop :=
  ∀ (i : Instr) (rest : List Byte), i.WellFormed → encode i ≠ [] → decode (encode i ++ rest) = .ok (i, rest)

/-- Twenty bytes hold a word whatever they are: the decoder reads a well-formed word of 4, 12 or 20 bytes, and what it reads is
the word that its own encoding gives (02 R70 to R76). -/
def Obligations.EveryWordDecodes : Prop :=
  ∀ bs : List Byte, 20 ≤ bs.length → ∃ i n, (n = 4 ∨ n = 12 ∨ n = 20) ∧ decode bs = .ok (i, bs.drop n) ∧ i.WellFormed ∧
    (encode i).length = n

/-- Words written out bit by bit from the spec's encoding decode to what they stand for (02 R71 to R77, R98, R100). -/
def Obligations.WrittenWordsDecode : Prop :=
  -- g5 -> ia0.t.add, guarded by q3 negated and counted on sb2: sb 1010, origin g5, target 0x081, guard 1011
  decodeTableWord 32 0b1010_00000000101_00010000001_1011_00 = some (.iaAdd 0 ⟨0b1011, .g 5, 0b1010⟩) ∧
  -- -1 -> ctl.t.bra
  decodeTableWord 32 0b0000_11111111111_00001100010_0000_00 = some (.ctlBra ⟨0, .imm 0x3FF, 0⟩) ∧
  -- the canonical NOP
  decodeTableWord 32 0b0000_00000000000_00000000000_1000_00 = some (.nop 0 0 0) ∧
  -- im.r -> ls.t.ldd
  decodeTableWord 32 0b0000_00011000000_00100001000_0000_00 = some (.lsLdd ⟨0, .port .imR, 0⟩) ∧
  -- g7 -> g9, a word that triggers nothing
  decodeTableWord 32 0b0000_00000000111_00000001001_0000_00 =
    some (.wordIssue (.one ⟨0, .g 7, .g 9, 0⟩))

/-- A step runs the word that is decoded at the program counter: the core that moves issues, the word lies below XB and is not
poisoned, and its bytes decode to `i`. What is added around it: the step's time passes, an overlay check that was owed has been
made, and the core is the one whose turn it is (02 R75, R85; 04 R147). The first case is that of a word placed where the next
step fetches it, the second that of a core chosen to move. -/
def Obligations.StepRunsDecodedWord : Prop :=
  ∀ (s : State) (c : Nat) (i : Instr) (rest : List Byte), s.agenda = [] →
    ((s.sole = true ∧ c = s.turn) ∨
      (s.sole = false ∧ s.tickOver.pickOf s.tickOver.choices = some (.core c) ∧ s.tickOver.coreDue c = none)) →
    (s.core c).mode = .run → (s.core c).hold = .none →
    (s.core c).overlayReason (wordLen (s.byteAt (s.fetchAddr c))) = 0 →
    s.poisoned? (s.fetchAddr c) (wordLen (s.byteAt (s.fetchAddr c))) = none →
    decode (s.readBytes (s.fetchAddr c) (wordLen (s.byteAt (s.fetchAddr c)))) = .ok (i, rest) →
    step s = exec i { ({ s.tickOver with sole := false }).onCore c (fun k => { k with check := 0 }) with turn := c }

/-- The memory of the device, and that of the lines of other devices, keeps its canonical form in every step: addresses
strictly rise, and no byte is listed that reads as an unlisted one would. The form is the model's, and that an unlisted byte reads
as zero its choice (log 1). -/
def Obligations.StepKeepsMemoryCanonical : Prop := ∀ s t : State, s.canonical → step s = .next t → t.canonical

/-- The state right after reset. Memory is in its canonical form with nothing listed. What the spec gives cores and sluices: no detached
operation has taken a number, every ring entry is empty (02 R93, R94); every sluice has PART 0 and EN 0, and no mailbox range or window
(08 R301); every service and kernel core is halted, with CAUSE 0 (13 R477). -/
def Obligations.ResetState : Prop :=
  (State.reset.canonical ∧ State.reset.mem = [] ∧ State.reset.far = []) ∧
  (∀ c, (State.reset.core c).seq = 0 ∧ ∀ q, (State.reset.core c).ringAt q = {}) ∧
  (∀ x, (State.reset.sluiceOf x).part = 0 ∧ (State.reset.sluiceOf x).en = false ∧
    (State.reset.sluiceOf x).mbr = Vector.replicate 8 0 ∧ (State.reset.sluiceOf x).win = Vector.replicate 8 0) ∧
  ∀ x, (State.reset.svc x).halted = true ∧ (State.reset.svc x).cause = 0

/-! ### Issue of a word (02 R72 to R85) -/

/-- The encoding of a word is checked in order, and the first check that fails stops the core at the word, with the cause of its
step: the form, the literal rules and a scoreboard field on no trigger (0x01), a reserved target (0x02), a reserved origin
(0x03), two moves that conflict (0x04), and a transfer in a delay word (0x05). None of its moves takes effect (02 R85 steps 1 to
5; R72 to R74, R79, R82, R83). -/
def Obligations.EncodingFaultStopsTheWord : Prop :=
  ∀ (s : State) (i : Instr) (w : SWord),
    (i = .wordIssue w ∨ ∃ op m, i.trigger? = some (op, m) ∧ w = .one ⟨m.guard, m.org, .trig op, m.sb⟩) →
    s.me.mode = .run → s.me.hold = .none →
    let ms := w.issue.moves
    let f1 := w.issue.illegal = true ∨ ∃ m ∈ ms, m.sb.getLsbD 3 = true ∧ m.tgt.op? = none
    let f2 := ∃ m ∈ ms, ∃ c, m.tgt = .reserved c
    let f3 := ∃ m ∈ ms, m.long = none ∧ ∃ c, m.org = .reserved c
    let f4 := ¬ ms.Pairwise (fun a b => a.tgt.code ≠ b.tgt.code ∧
      ∀ x y, a.tgt = .trig x → b.tgt = .trig y → x.unit ≠ y.unit)
    let f5 := s.me.owe ≠ none ∧ ∃ m ∈ ms, ∃ op, m.tgt = .trig op ∧ op.transfers = true
    ∀ cause : BitVec 8, (f1 ∧ cause = 0x01 ∨ ¬ f1 ∧ f2 ∧ cause = 0x02 ∨ ¬ f1 ∧ ¬ f2 ∧ f3 ∧ cause = 0x03 ∨
        ¬ f1 ∧ ¬ f2 ∧ ¬ f3 ∧ f4 ∧ cause = 0x04 ∨ ¬ f1 ∧ ¬ f2 ∧ ¬ f3 ∧ ¬ f4 ∧ f5 ∧ cause = 0x05) →
      ∃ d : StopDue, d.cause = cause ∧ d.kind = 0b00 ∧ d.pc = s.me.pc ∧
        exec i s = .next (s.onCore s.turn (fun c => { c with mode := .stopping d, hold := .none }))

/-- A word whose operation refuses it at issue faults: the core stops at it with the operation's cause and what DETAIL and DETAIL2
say, the target and the slot of the move; nothing else has changed (02 R85 step 6; 04 R160, R163). -/
def Obligations.FailedCheckStopsTheWord : Prop :=
  ∀ (s : State) (i : Instr) (op : Op) (m : Arg) (e : Err), i.trigger? = some (op, m) → s.Tries op m →
    (trigger op).check s (s.trigOf op m) = some e →
    ∃ d : StopDue, d.cause = e.cause ∧ d.detail = e.detail ∧ d.detail2 = e.detail2 ∧ d.kind = 0b00 ∧ d.pc = s.me.pc ∧
      d.slot = 0 ∧ d.tgt = BitVec.ofNat 11 op.code ∧ d.org = m.org.field ∧
      exec i s = .next (s.onCore s.turn (fun c => { c with mode := .stopping d, hold := .none }))

/-- A word that must wait holds issue for the cycle: one that reads a walker whose element is not ready, or whose scoreboard
increment would take a counter past 4,095. Its encoding alone counts, whatever its guard. Nothing but the cycle's own passing
changes (02 R78, R85, R95; 04 R136). -/
def Obligations.WaitingWordStalls : Prop :=
  ∀ (s : State) (i : Instr) (op : Op) (m : Arg), i.trigger? = some (op, m) → s.me.mode = .run → s.me.hold = .none →
    m.guard ≠ 0b1000 → m.org ≠ .lit → (∀ c, m.org ≠ .reserved c) → (op.transfers = true → s.me.owe = none) →
    ((∃ n, m.org = .swR n ∧ (s.me.walker n).stalls = true) ∨ ∃ n, sbSel m.sb = some n ∧ s.me.rsb n = 4095) →
    exec i s = .next (s.onCore s.turn Core.endCycle) ∧ (s.onCore s.turn Core.endCycle).core s.turn = s.me.endCycle ∧
      s.me.endCycle.pc = s.me.pc ∧ s.me.SameRegs s.me.endCycle ∧ s.me.endCycle.sb = s.me.sb

/-- A word whose guard is 0 does nothing: it triggers nothing, changes no scoreboard counter and no register, raises no fault of
its operation, advances no walker and clears no flag; the next word is the one after it (02 R78). So does a word whose one move is a
NOP (02 R76), the constructor nop. -/
def Obligations.GuardOfZeroDoesNothing : Prop :=
  (∀ (s : State) (i : Instr) (op : Op) (m : Arg), i.trigger? = some (op, m) → s.me.mode = .run → s.me.hold = .none →
    m.guard ≠ 0b1000 → m.org ≠ .lit → (∀ c, m.org ≠ .reserved c) → (op.transfers = true → s.me.owe = none) → s.noReturn →
    s.me.guardValue m.guard = false → (∀ n, m.org = .swR n → (s.me.walker n).stalls = false) →
    (∀ n, sbSel m.sb = some n → s.me.rsb n ≠ 4095) →
    ∃ t, exec i s = .next t ∧ s.me.SameRegs (t.core s.turn) ∧ (t.core s.turn).sb = s.me.sb ∧
      (t.core s.turn).stages = s.me.stages.map Stage.next ∧ (t.core s.turn).sflags = s.me.sflags ∧
      (t.core s.turn).vflags = s.me.vflags ∧ (t.core s.turn).walkers = s.me.walkers.map Walker.tick ∧
      t = { s with cores := t.cores } ∧ (s.me.owe = none → (t.core s.turn).pc = s.me.pc.plus 4)) ∧
  ∀ (s : State) (n : BitVec 4) (o t' : BitVec 11), s.me.mode = .run → s.me.hold = .none → s.me.owe = none →
    exec (.nop n o t') s = .next (s.onCore s.turn (fun c =>
      { ({ c with order := c.order + 4 } : Core).endCycle with pc := s.me.pc.plus 4 }))

/-- The moves of a word that trigger nothing, of every legal form. Each whose guard is 1 stores its value: in a g register whole, in a q
register its bit 0, but a write to q0 is discarded, in an operand port's latch whole; one whose guard is 0 stores nothing. Every
guard and every value is that of the start of the cycle: an origin's, the 42 bits of a long move with their sign extended, or the
word's literal. No other register, flag or byte changes; `fs.x`, when read, is cleared (02 R72 to R74, R77, R78, R80, R81). The
constructor is wordIssue. -/
def Obligations.MovesWriteTheirTargets : Prop :=
  ∀ (s : State) (w : SWord),
    let ms := w.issue.moves
    let on (x : Slot) : Prop := x ∈ ms ∧ s.me.guardValue x.guard = true
    let value (x : Slot) : Word := match x.long with
      | some i => i.signExtend 64
      | none => s.originValue s.turn w.issue.lit x.org
    s.me.mode = .run → s.me.hold = .none → s.noReturn → w.issue.illegal = false →
    (∀ x ∈ ms, x.sb.getLsbD 3 = false ∧ (∀ op, x.tgt ≠ .trig op) ∧ (∀ c, x.tgt ≠ .reserved c) ∧
      (x.long = none → ∀ c, x.org ≠ .reserved c)) →
    ms.Pairwise (fun a b => a.tgt.code ≠ b.tgt.code) →
    (∀ x ∈ ms, ∀ n, x.long = none → x.org = .swR n → (s.me.walker n).stalls = false ∧ (on x → s.walkerReadErr s.turn n = none)) →
    ∃ t, exec (.wordIssue w) s = .next t ∧ s.SameRest t ∧ (s.me.owe = none → (t.core s.turn).pc = s.me.pc.plus w.issue.len) ∧
      (t.core s.turn).sb = s.me.sb ∧ (t.core s.turn).stages = s.me.stages.map Stage.next ∧
      ((∃ x, on x ∧ x.long = none ∧ x.org = .port .fsX) → (t.core s.turn).sflags = 0) ∧
      ((∀ x, on x → x.long = none → x.org ≠ .port .fsX) → (t.core s.turn).sflags = s.me.sflags) ∧
      (∀ x r, on x → x.tgt = .g r → (t.core s.turn).rg r = value x) ∧
      (∀ r, (∀ x, on x → x.tgt ≠ .g r) → (t.core s.turn).rg r = s.me.rg r) ∧
      (∀ x r, on x → x.tgt = .q r → (t.core s.turn).rq r = if r = 0 then true else (value x).getLsbD 0) ∧
      (∀ r, (∀ x, on x → x.tgt ≠ .q r) → (t.core s.turn).rq r = s.me.rq r) ∧
      (∀ x l, on x → x.tgt = .latch l → (t.core s.turn).port_ (latchIdx l) = value x) ∧
      (∀ n, (∀ x l, on x → x.tgt = .latch l → n ≠ latchIdx l) → (t.core s.turn).port_ n = s.me.port_ n) ∧
      s.me.SameRegs { t.core s.turn with g := s.me.g, q := s.me.q, ports := s.me.ports }

/-- What is owed is taken once the delay word has issued, here a NOP: a transfer sets the pc to its target, with an overlay check
owed when the target's overlay is another, or to the next word when it has none; a suspension point begins to suspend; a trap of
code 0 to 15 and a break are local traps whose epc is the word after, or stop a handler; a trap of code 16 to 255 stops the
continuation with that code (02 R83; 04 R139, R150, R152, R157). A return from a local trap restores every item of the shadow, sets
the pc to the return PC, and the core runs outside the handler, or suspends when the trap came after the delay word of a suspension
point (04 R153, R156; log 25); here no store of the handler waits to be performed. -/
def Obligations.OwedEffectsAreTaken : Prop :=
  (∀ (s : State) (n : BitVec 4) (o t' : BitVec 11) (k : OweKind) (target : Option CodePtr) (arg : Word),
    s.me.mode = .run → s.me.hold = .none → s.me.owe = some ⟨k, target, arg⟩ →
    let next := s.me.pc.plus 4
    let code : BitVec 8 := arg.extractLsb' 0 8
    ∃ t, exec (.nop n o t') s = .next t ∧
      (k = .transfer → (t.core s.turn).pc = target.getD next ∧ (t.core s.turn).mode = .run ∧ (t.core s.turn).owe = none ∧
        ∀ p, target = some p → (t.core s.turn).check = if p.ovl = next.ovl then 0 else 2) ∧
      (k = .yield ∨ k = .wait ∨ k = .done → (t.core s.turn).pc = next ∧ (t.core s.turn).mode = .suspending k arg) ∧
      (k = .trap ∧ code.toNat < 16 ∧ s.me.shadow = none →
        (t.core s.turn).mode = .trapDue ⟨0x09, code, 0, next⟩ ∧ (t.core s.turn).pc = next) ∧
      (k = .trap ∧ 16 ≤ code.toNat → ∃ d : StopDue, (t.core s.turn).mode = .stopping d ∧ d.cause = 0x09 ∧ d.info = code ∧
        d.pc = next) ∧
      (k = .brk ∧ s.me.shadow = none → (t.core s.turn).mode = .trapDue ⟨0x0B, code, 0, next⟩ ∧ (t.core s.turn).pc = next) ∧
      ((k = .brk ∨ k = .trap ∧ code.toNat < 16) ∧ s.me.shadow ≠ none → ∃ d : StopDue,
        (t.core s.turn).mode = .stopping d ∧ d.kind = 0b10 ∧ d.cause = (if k = .brk then 0x0B else 0x09) ∧ d.pc = next)) ∧
  ∀ (s : State) (n : BitVec 4) (o t' : BitVec 11) (target : CodePtr) (arg : Word) (sh : Shadow),
    s.me.mode = .run → s.me.hold = .none → s.me.owe = some ⟨.rett, some target, arg⟩ → s.me.shadow = some sh →
    s.me.stores = [] →
    ∃ t, exec (.nop n o t') s = .next t ∧ (t.core s.turn).shadow = none ∧ (t.core s.turn).owedSusp = none ∧
      (t.core s.turn).mode = (match s.me.owedSusp with
        | some (k, x) => .suspending k x
        | none => .run) ∧
      (t.core s.turn).pc = target ∧ (t.core s.turn).stages = sh.stages ∧ (t.core s.turn).stores = sh.stores ∧
      (t.core s.turn).sflags = sh.sflags ∧ (t.core s.turn).vflags = sh.vflags ∧ (t.core s.turn).q = sh.q ∧
      (t.core s.turn).lnk = sh.lnk ∧ (t.core s.turn).rm = sh.rm ∧ (t.core s.turn).owe = sh.owe ∧
      (t.core s.turn).check = (if sh.check then 2 else 0) ∧
      (∀ x, x < 76 → (t.core s.turn).port_ x = if h : x < 24 then sh.ports[x] else s.me.port_ x) ∧
      (t.core s.turn).g = s.me.g ∧ (t.core s.turn).epc = s.me.epc ∧ (t.core s.turn).cause = s.me.cause ∧
      (t.core s.turn).cyc = s.me.cyc + 4

/-! ### Units of fixed latency (02 R86 to R89) -/

/-- What an integer operation gives for the latch value `o` and the trigger value `t` (04 R144). -/
def IntegerResult (op : IaOp) (o t r : Word) : Prop :=
  let n := t.toNat % 64
  let w := o.toNat % 128
  match op with
  | .add => r.toNat = (o.toNat + t.toNat) % 2 ^ 64
  | .sub => (r.toNat : Int) = ((o.toNat : Int) - t.toNat) % 2 ^ 64
  | .and => ∀ i, r.getLsbD i = (o.getLsbD i && t.getLsbD i)
  | .or => ∀ i, r.getLsbD i = (o.getLsbD i || t.getLsbD i)
  | .xor => ∀ i, r.getLsbD i = (o.getLsbD i != t.getLsbD i)
  | .andn => ∀ i, r.getLsbD i = (o.getLsbD i && !t.getLsbD i)
  | .shl => r.toNat = o.toNat * 2 ^ n % 2 ^ 64
  | .shr => r.toNat = o.toNat / 2 ^ n
  | .sar => r.toInt = o.toInt / 2 ^ n
  | .rol => ∀ i, i < 64 → r.getLsbD ((i + n) % 64) = o.getLsbD i
  | .min => r.toInt = min o.toInt t.toInt
  | .max => r.toInt = max o.toInt t.toInt
  | .minu => r.toNat = min o.toNat t.toNat
  | .maxu => r.toNat = max o.toNat t.toNat
  | .eq => r = if o = t then 1 else 0
  | .ne => r = if o ≠ t then 1 else 0
  | .lt => r = if o.toInt < t.toInt then 1 else 0
  | .ltu => r = if o.toNat < t.toNat then 1 else 0
  | .le => r = if o.toInt ≤ t.toInt then 1 else 0
  | .leu => r = if o.toNat ≤ t.toNat then 1 else 0
  | .sext => (w = 0 → r = 0) ∧ (0 < w → ∀ i, i < 64 → r.getLsbD i = t.getLsbD (min i (w - 1)))
  | .zext => ∀ i, i < 64 → r.getLsbD i = (decide (i < w) && t.getLsbD i)
  | .clz => r.toNat ≤ 64 ∧ (∀ i, i < r.toNat → t.getLsbD (63 - i) = false) ∧ (r.toNat < 64 → t.getLsbD (63 - r.toNat) = true)
  | .ctz => r.toNat ≤ 64 ∧ (∀ i, i < r.toNat → t.getLsbD i = false) ∧ (r.toNat < 64 → t.getLsbD r.toNat = true)
  | .popc => r.toNat = ((List.range 64).countP fun i => t.getLsbD i)
  | .bswap => ∀ i j, i < 8 → j < 8 → r.getLsbD (8 * i + j) = t.getLsbD (8 * (7 - i) + j)
  | .adds => r.toInt = max (-2 ^ 63) (min (o.toInt + t.toInt) (2 ^ 63 - 1))
  | .subs => r.toInt = max (-2 ^ 63) (min (o.toInt - t.toInt) (2 ^ 63 - 1))
  | .bfx => ∀ i, i < 64 → r.getLsbD i = (decide (i < t.toNat / 64 % 128) && o.getLsbD (n + i))
  | .pass => r = t

/-- The integer units: each operation of `ia0` and `ia1` gives the result of its row from `iaN.o` and the trigger value, with
latency 1, in `iaN.r`; no flag, no fault, and nothing else changes (04 R144). The constructors are iaAdd to iaPass. -/
def Obligations.IntegerUnits : Prop :=
  ∀ (s : State) (i : Instr) (u : BitVec 1) (op : IaOp) (m : Arg), i.trigger? = some (.ia u op, m) → s.Tries (.ia u op) m →
    s.noReturn → ∃ t r, exec i s = .next t ∧ IntegerResult op (s.me.latchO (.ia u op)) (s.moved m) r ∧
      s.Delivers t m (1 + u.toNat) 1 false (.port (portIdx (if u = 0 then .ia0R else .ia1R)) r)

/-- A write to an operand port takes effect before the trigger of its unit in the same word, whichever slot it stands in, and a write to
a g register at the end of the cycle: a B3 word that loads `iaN.o` from g0, triggers the unit with g1 and writes g1, in any order of
its slots, computes from the value just loaded and g1 as it was (02 R80, R81; 04 R144). The constructor is wordIssue. -/
def Obligations.OperandWritesComeFirst : Prop :=
  ∀ (s : State) (u : BitVec 1) (op : IaOp) (a b c : Move) (ms : List Move) (x y z : Move),
    a = ⟨0, .g 0, .latch (if u = 0 then .ia0O else .ia1O), 0⟩ → b = ⟨0, .g 1, .trig (.ia u op), 0⟩ → c = ⟨0, .g 2, .g 1, 0⟩ →
    ms = [x, y, z] → ms.Perm [a, b, c] → s.me.mode = .run → s.me.hold = .none → s.noReturn →
    ∃ t r st, exec (.wordIssue (.b3 x y z 0 none)) s = .next t ∧ IntegerResult op (s.me.rg 0) (s.me.rg 1) r ∧
      (t.core s.turn).stages = (s.me.stages ++ [st]).map Stage.next ∧ st.unit = 1 + u.toNat ∧ st.left = 1 ∧
      st.res = .port (portIdx (if u = 0 then .ia0R else .ia1R)) r ∧ (t.core s.turn).rg 1 = s.me.rg 2 ∧
      (t.core s.turn).port_ (latchIdx (if u = 0 then .ia0O else .ia1O)) = s.me.rg 0

/-- What a multiplier or divider operation gives in `im.r` and `im.h` (04 R145). -/
def MultiplierResult (op : ImOp) (o p t r h : Word) : Prop :=
  match op with
  | .mul => (h ++ r : BitVec 128) = BitVec.ofInt 128 (o.toInt * t.toInt)
  | .mulh => (r ++ h : BitVec 128) = BitVec.ofInt 128 (o.toInt * t.toInt)
  | .mulhu => r.toNat * 2 ^ 64 + h.toNat = o.toNat * t.toNat
  | .mad => (h ++ r : BitVec 128) = BitVec.ofInt 128 (o.toInt * t.toInt + p.toInt)
  | .div => if t = 0 then r = BitVec.allOnes 64 ∧ h = o
      else if o.toInt = -2 ^ 63 ∧ t.toInt = -1 then r = o ∧ h = 0
      else r.toInt = o.toInt.tdiv t.toInt ∧ h.toInt = o.toInt.tmod t.toInt
  | .rem => if t = 0 then h = BitVec.allOnes 64 ∧ r = o
      else if o.toInt = -2 ^ 63 ∧ t.toInt = -1 then h = o ∧ r = 0
      else h.toInt = o.toInt.tdiv t.toInt ∧ r.toInt = o.toInt.tmod t.toInt
  | .divu => if t = 0 then r = BitVec.allOnes 64 ∧ h = o
      else r.toNat = o.toNat / t.toNat ∧ h.toNat = o.toNat % t.toNat
  | .remu => if t = 0 then h = BitVec.allOnes 64 ∧ r = o
      else h.toNat = o.toNat / t.toNat ∧ r.toNat = o.toNat % t.toNat

/-- The multiplier and divider: each operation delivers `im.r` and `im.h` together, a product after 3 cycles and a quotient
after 20, for every operand, division by zero and overflow included; a division takes the place of the one in progress (04 R145;
02 R89). The constructors are imMul to imRemu. -/
def Obligations.MultiplierAndDivider : Prop :=
  ∀ (s : State) (i : Instr) (op : ImOp) (m : Arg), i.trigger? = some (.im op, m) → s.Tries (.im op) m → s.noReturn →
    let slow := op == .div || op == .divu || op == .rem || op == .remu
    ∃ t r h, exec i s = .next t ∧ MultiplierResult op (s.me.latchO (.im op)) (s.me.latchP (.im op)) (s.moved m) r h ∧
      s.Delivers t m 3 (if slow then 20 else 3) slow (.product r h)

/-- The scalar float unit: each operation delivers its result and its flags after the latency of its row; fdiv and fsqrt take
the place of the one in progress; there is no fault. The value is that of the model's FP32 operations under the sampled rounding
mode (06 R204 to R206; 03 R121 to R134), which the statement on float comparisons and those of the vector engine speak of. The
constructors are fsFadd to fsFsigm. -/
def Obligations.ScalarFloatUnit : Prop :=
  ∀ (s : State) (i : Instr) (op : FsOp) (m : Arg), i.trigger? = some (.fs op, m) → s.Tries (.fs op) m → s.noReturn →
    let slow := op == .fdiv || op == .fsqrt
    let long := op == .fexp2 || op == .flog2 || op == .frcp || op == .frsq || op == .fsigm
    let v := fsResult op (rmMode s.me.rm) (s.me.latchO (.fs op)) (s.me.latchP (.fs op)) (s.moved m)
    ∃ t, exec i s = .next t ∧ s.Delivers t m 4 (if slow then 12 else if long then 8 else 4) slow (.scalar v.1 v.2)

/-- The vector operations that access no memory: once the checks of the command have passed, each delivers its result after the
latency of its class, ten cycles for transcendentals, vdiv, vsqrt and reductions and six for the rest (06 R209 to R220). The
constructors are vxVadd to vxVisum. -/
def Obligations.VectorUnit : Prop :=
  ∀ (s : State) (i : Instr) (op : VxOp) (m : Arg), s.Runs i (.vx op) m → vxMemory op = false →
    let long := op == .vdiv || op == .vsqrt || op == .vrcp || op == .vrsq || op == .vexp2 || op == .vlog2 || op == .vsigm ||
      op == .vfsum || op == .vfrmax || op == .vfrmin || op == .visum
    ∃ t, exec i s = .next t ∧
      s.Delivers t m 12 (if long then 10 else 6) false (vxResult op (s.trigOf (.vx op) m))

/-- What a vector operation writes lane by lane: an active lane takes the operation's value of the source registers' lanes, an
inactive one is 0 when z is 1 and as it was when z is 0. It says so of the operations on integer lanes, and of vmov and vidx
(06 R211, R214, R219). -/
def Obligations.VectorLanesFollowTheMask : Prop :=
  ∀ (s : State) (op : VxOp) (m : Arg) (c : Core) (vd : BitVec 5) (mask val : BitVec 4096) (fl : Flags) (r : Option Word),
    let x := s.trigOf (.vx op) m
    let a (k i : Nat) : BitVec 32 := laneOf (s.me.rv (vxReg x.t k)) i
    let value (i : Nat) : Option (BitVec 32) := match op with
      | .viadd => some (a 1 i + a 2 i)
      | .visub => some (a 1 i - a 2 i)
      | .vimul => some (a 1 i * a 2 i)
      | .vimin => some (if (a 1 i).toInt < (a 2 i).toInt then a 1 i else a 2 i)
      | .vimax => some (if (a 1 i).toInt < (a 2 i).toInt then a 2 i else a 1 i)
      | .viminu => some (if (a 1 i).toNat < (a 2 i).toNat then a 1 i else a 2 i)
      | .vimaxu => some (if (a 1 i).toNat < (a 2 i).toNat then a 2 i else a 1 i)
      | .vand => some (a 1 i &&& a 2 i)
      | .vor => some (a 1 i ||| a 2 i)
      | .vxor => some (a 1 i ^^^ a 2 i)
      | .vshl => some (a 1 i <<< ((a 2 i).toNat % 32))
      | .vshr => some (a 1 i >>> ((a 2 i).toNat % 32))
      | .vsar => some ((a 1 i).sshiftRight ((a 2 i).toNat % 32))
      | .vmov => some (a 1 i)
      | .vidx => some ((s.me.latchO (.vx op)).extractLsb' 0 32 + BitVec.ofNat 32 i * (s.me.latchO (.vx op)).extractLsb' 32 32)
      | _ => none
    vxResult op x = .vector vd mask val fl r → ∀ i v, i < 128 → value i = some v →
      vd = vxReg x.t 0 ∧ fl = 0 ∧ laneOf ((c.mergeV vd mask val).rv vd) i =
        if (s.me.rmask (vxMask x.t)).getLsbD i then v else if vxZ x.t then 0 else laneOf (c.rv vd) i

/-- The comparisons EQ, LT and LE of FP32 encodings give 1 when the relation holds and 0 otherwise, and +0 and −0 are equal: a number's
place in order is that of its magnitude with its sign. A NaN operand gives 0. EQ raises NV only for a signalling NaN, LT and LE for
any, and no comparison raises another flag (06 R203). -/
def Obligations.FloatComparisons : Prop :=
  ∀ a b : Nat, a < 2 ^ 32 → b < 2 ^ 32 →
    let nan (x : Nat) : Prop := 0x7F800000 < x % 2 ^ 31
    let signalling (x : Nat) : Prop := nan x ∧ x.testBit 22 = false
    let rank (x : Nat) : Int := if x < 2 ^ 31 then (x : Int) else 2 ^ 31 - (x : Int)
    (¬ nan a → ¬ nan b →
      (fpEq a b).bits = (if rank a = rank b then 1 else 0) ∧ (fpLt a b).bits = (if rank a < rank b then 1 else 0) ∧
        (fpLe a b).bits = (if rank a ≤ rank b then 1 else 0)) ∧
    (nan a ∨ nan b → (fpEq a b).bits = 0 ∧ (fpLt a b).bits = 0 ∧ (fpLe a b).bits = 0) ∧
    (fpEq a b).flags = (if signalling a ∨ signalling b then Flags.nv else 0) ∧
    (fpLt a b).flags = (if nan a ∨ nan b then Flags.nv else 0) ∧ (fpLe a b).flags = (if nan a ∨ nan b then Flags.nv else 0)

/-! ### The Local path of a core (05 R179 to R185; 06 R221 to R225) -/

/-- The integer loads and ldd: a load of `n` bytes at offset t of the selected buffer waits for its four cycles; its bytes are
read when it is performed (01 R56, R57; 05 R180). The constructors are lsLdb, lsLdbu, lsLdh, lsLdhu, lsLdw, lsLdwu and lsLdd. -/
def Obligations.LocalLoads : Prop :=
  ∀ (s : State) (i : Instr) (op : LsOp) (m : Arg) (n : Nat) (signed : Bool), s.Runs i (.ls op) m →
    (op, n, signed) ∈ [(LsOp.ldb, 1, true), (.ldbu, 1, false), (.ldh, 2, true), (.ldhu, 2, false), (.ldw, 4, true),
      (.ldwu, 4, false), (.ldd, 8, false)] → (s.moved m).getLsbD 63 = false →
    ∃ t cap d, s.me.rk (s.me.latchK (.ls op)) = .cap cap ∧ s.descOf cap = some d ∧ exec i s = .next t ∧
      s.Delivers t m 5 4 false (.load (.bytes (d.base.toNat + (s.moved m).toNat) n signed) s.me.rm [])

/-- The integer stores and std: the bytes of `ls.o`, low byte first, wait to be stored at offset t of the selected buffer; they
are stored when the latency of four cycles has elapsed, and every byte reads as before until then (01 R56; 05 R180). The
constructors are lsStb, lsSth, lsStw and lsStd. -/
def Obligations.LocalStores : Prop :=
  ∀ (s : State) (i : Instr) (op : LsOp) (m : Arg) (n : Nat), s.Runs i (.ls op) m →
    (op, n) ∈ [(LsOp.stb, 1), (.sth, 2), (.stw, 4), (.std, 8)] → (s.moved m).getLsbD 63 = false →
    ∃ t cap d, s.me.rk (s.me.latchK (.ls op)) = .cap cap ∧ s.descOf cap = some d ∧ exec i s = .next t ∧
      s.Stores t m 4 ((List.range n).map (fun j =>
        ⟨d.base.toNat + (s.moved m).toNat + j, 0xFF, (s.me.latchO (.ls op)).extractLsb' (8 * j) 8⟩))

/-- An element load and an element store, of element j of bank n, where t holds n in bits 19:16 and j below, in the bank's format F as
it is at issue. ldf waits to read the element, with its scale. stf waits to write the element's bits: byte 0 of `ls.o` for BYTES,
else its FP32 value rounded to F, over the group's scale for an MX format, as the core sees that byte now; an FP32 element takes
it unchanged (05 R181, R182; 03 R109, R118, R121). The constructors are lsLdf and lsStf. -/
def Obligations.ElementAccesses : Prop :=
  ∀ (s : State) (i : Instr) (m : Arg), (s.moved m).getLsbD 63 = false →
    let bank := (s.moved m).toNat / 2 ^ 16 % 16
    let f := bankFmt (s.me.bankReg bank)
    let bit := 8 * 0x8000 * bank + (s.moved m).toNat % 2 ^ 16 * f.size
    let v := (s.me.latchO (.ls .stf)).toNat % 2 ^ 32
    let scale := match s.me.padScale s.turn bit with
      | some a => (s.localByte s.me a).toNat
      | none => 127
    let bits := if f = .bytes then v % 256 else if f = .fp32 then v
      else (f.round (if f.isMx then mxQuotient (decodeFp32 v) scale else decodeFp32 v) (rmMode s.me.rm) (rmSat s.me.rm)).bits
    (s.Runs i (.ls .ldf) m → ∃ t, exec i s = .next t ∧
      s.Delivers t m 5 4 false (.load (.elem ⟨0, 8 * slotBase s.turn + bit, f, s.me.padScale s.turn bit⟩) s.me.rm [])) ∧
    (s.Runs i (.ls .stf) m → ∃ t, exec i s = .next t ∧ s.Stores t m 4 (elemWrites (8 * slotBase s.turn + bit) f.size bits))

/-- Bank formats. ldd with bit 63 of t set delivers a bank's register after four cycles: that of the scratchpad as it is now when the
selected buffer is LOCAL, else that of the cluster, read when the latency has elapsed. std with bit 63 of t set writes the register
of a scratchpad bank at once, its reserved bits ignored; that of a cluster bank waits for the latency as a store does (05 R183, R184;
03 R120; 01 R57). The constructors are bankFormatRead, bankFormatWrite, lsLdd and lsStd. -/
def Obligations.BankFormatAccesses : Prop :=
  ∀ (s : State) (i : Instr) (m : Arg), (s.moved m).getLsbD 63 = true →
    let n := (s.moved m).toNat % 2 ^ 63 / 8
    let a := 0x2800000001000 + s.turn / 16 * 2 ^ 24 + 8 * n
    let v := s.me.latchO (.ls .std)
    (s.Runs i (.ls .ldd) m → ∃ t cap d, s.me.rk (s.me.latchK (.ls .ldd)) = .cap cap ∧ s.descOf cap = some d ∧
      exec i s = .next t ∧ s.Delivers t m 5 4 false (if d.localTo s.turn then .port (portIdx .lsR) (s.me.bankReg n)
        else .load (.bytes a 8 false) s.me.rm [])) ∧
    (s.Runs i (.ls .std) m → ∃ t cap d, s.me.rk (s.me.latchK (.ls .std)) = .cap cap ∧ s.descOf cap = some d ∧
      exec i s = .next t ∧
      (d.localTo s.turn = true → s.Ends t m ∧ (t.core s.turn).bankReg n = v &&& 0x7F0F0F ∧
        (∀ k, k ≠ n → (t.core s.turn).bankReg k = s.me.bankReg k) ∧ s.me.SameRegs { t.core s.turn with bf := s.me.bf }) ∧
      (d.localTo s.turn = false → s.Stores t m 4 ((List.range 8).map (fun j =>
        ⟨a + j, 0xFF, (v &&& 0x3FF3F0F).extractLsb' (8 * j) 8⟩))))

/-- The vector accesses to a buffer in the core's own scratchpad. Active lane i of vld and vst is element i from `vx.o` on, in the
format of the bank there; that of vldx and vstx is the element that vb[i] elements on from `vx.o` lies. A load waits for its eight
cycles to read its elements, and with z the inactive lanes become 0. A store waits for its eight to write its elements, converted
as of now, a higher lane over a lower one (06 R221 to R225). The constructors are vxVld, vxVldx, vxVst and vxVstx. -/
def Obligations.VectorLocalMemory : Prop :=
  ∀ (s : State) (i : Instr) (op : VxOp) (m : Arg), s.Runs i (.vx op) m → vxMemory op = true →
    vxOwn s (s.trigOf (.vx op) m) = true →
    let v := s.moved m
    let mask := s.me.rmask (vxMask v)
    let indexed := op = .vldx ∨ op = .vstx
    ∃ t cap d, s.me.rk (vxK v) = .cap cap ∧ s.descOf cap = some d ∧ exec i s = .next t ∧
      let first := d.padOff + (s.me.latchO (.vx op)).toNat % 2 ^ 40
      let size := laneSize (s.me.fmtAt first)
      let bit (n : Nat) : Nat := 8 * first + size * (if indexed then (laneOf (s.me.rv (vxReg v 2)) n).toNat else n)
      let lanes := ((List.range 128).filter (fun n => mask.getLsbD n)).map (fun n =>
        (⟨n, 8 * slotBase s.turn + bit n, if indexed then s.me.fmtAt (bit n / 8) else s.me.fmtAt first,
          s.me.padScale s.turn (bit n)⟩ : LaneLoad))
      let stored (l : LaneLoad) : Rounded := fromLane l.fmt (laneOf (s.me.rv (vxReg v 0)) l.lane).toNat
        (match l.scaleAddr with
          | some a => (s.localByte s.me a).toNat
          | none => 127) (rmMode s.me.rm) (rmSat s.me.rm)
      (op = .vld ∨ op = .vldx →
        s.Delivers t m 12 8 false (.load (.lanes (vxReg v 0) lanes (if vxZ v then ~~~mask else 0)) s.me.rm [])) ∧
      (op = .vst ∨ op = .vstx →
        s.StoresWith t m 8 (lanes.flatMap (fun l => elemWrites l.bitAddr (laneSize l.fmt) (stored l).bits))
          [{ unit := 12, order := s.me.order, left := 8, slow := false, sb := 0,
             res := .flags (orFlags (lanes.map (fun l => (stored l).flags))) }])

/-! ### Walkers, the time unit and the weir (05 R187 to R194; 10 R377 to R382) -/

/-- The operations of a stream walker, on a walker `w` whose element the same word may have read; the cycle has passed. bind, rewind,
stop, feeda and feedb end a feed that is in progress on it, and its counter is decremented. bind: the walker is bound to the
descriptor's 64 bytes as the Local path sees them, with the buffer that DK holds, every index and end flag zero, its contents to be
checked 4 cycles after issue and its first element ready after 8. stop: the walker's state is zero. rewind: of a bound walker
dimensions 0 to d begin again, no end flag stays, and a bad one is checked anew. skip: of a walker that is bound, not feeding and
checked, min(t, remaining) elements are passed, END that of the last; one that waits for its check holds the skip, and one that is
unbound or feeding takes none. feeda and feedb: a walker that has elements feeds FIFO A or B, to end after t elements; the feed of
one that has none is over (05 R187, R190 to R194). The constructors are swBind, swFeeda, swFeedb, swSkip, swRewind and swStop. -/
def Obligations.WalkerOperations : Prop :=
  ∀ (s : State) (i : Instr) (n : BitVec 2) (op : SwOp) (m : Arg), s.Runs i (.sw n op) m →
    let v := s.moved m
    let read (j : BitVec 2) : Walker := if m.org = .swR j then (s.me.walkerAdvance j).walker j else s.me.walker j
    let w := if (read n).feeding then { read n with feeding := false, feedLeft := 0, feedSb := 0 } else read n
    let ended := if (read n).feeding then s.me.sbDec (read n).feedSb else s.me
    let later (x : Walker) : Walker := { x with readyIn := max x.readyIn 4 }
    let begins := w.bound = true ∧ w.exh = false
    ∃ t u, exec i s = .next t ∧ s.SameRest t ∧ s.me.SameRegs (t.core s.turn) ∧
      (t.core s.turn).stages = s.me.stages.map Stage.next ∧ (s.me.owe = none → (t.core s.turn).pc = s.me.pc.plus 4) ∧
      (t.core s.turn).walker n = { u with checkIn := u.checkIn.map (· - 1), readyIn := u.readyIn - 1 } ∧
      (∀ j, j ≠ n → (t.core s.turn).walker j = (read j).tick) ∧
      (op = .bind ∨ op = .stop ∨ op = .rewind → (t.core s.turn).sb = ended.sb) ∧
      (op = .bind → ∃ cap d desc, s.me.rk (s.me.latchK (.sw n op)) = .cap cap ∧ s.descOf cap = some d ∧
        desc = BitVec.ofNat 512 (s.localNat s.me (d.base.toNat + v.toNat) 64) ∧
        let own := (s.me.rk (desc.extractLsb' 40 5)).cap?
        u = { desc := desc, bound := true, descOff := v, part := (own.map (·.part)).getD 0, buf := (own.map (·.desc)).getD 0,
              checkIn := some 4, readyIn := 8 }) ∧
      (op = .stop → u = {}) ∧
      (op = .rewind → (w.bound = false → u = w) ∧
        (w.bound = true →
          let d := v.toNat % 4
          let x := if w.bad then { w with bad := false, badCause := 0, checkIn := some 4 } else w
          u = later (if x.held = [] then { x with
              i0 := 0
              i1 := if 1 ≤ d then 0 else x.i1
              i2 := if 2 ≤ d then 0 else x.i2
              i3 := if 3 ≤ d then 0 else x.i3
              fin := 0
              exh := false }
            else { x with held := x.held ++ [(true, v)] }))) ∧
      (op = .skip → (t.core s.turn).sb = s.me.sb ∧
        let x := read n
        let k := min v.toNat x.left
        let last := x.atPos (x.pos + k - 1)
        (x.bound = false ∨ x.feeding = true → u = x) ∧
        (x.bound = true → x.feeding = false →
          (x.checkIn ≠ none → u = later { x with held := x.held ++ [(false, v)] }) ∧
          (x.checkIn = none → k = 0 → u = later x) ∧
          (x.checkIn = none → k ≠ 0 → x.pos + k = x.total → u = later { last with fin := last.endBits, exh := true }) ∧
          (x.checkIn = none → k ≠ 0 → x.pos + k ≠ x.total → u = later { x.atPos (x.pos + k) with fin := last.endBits }))) ∧
      (op = .feeda ∨ op = .feedb →
        (begins → (t.core s.turn).sb = (if (read n).feeding then (s.me.sbInc m.sb).sbDec (read n).feedSb else s.me.sbInc m.sb).sb ∧
          u = { w with feeding := true, fifoB := op == .feedb, feedLeft := v, feedSb := m.sb, feedOrder := s.me.order }) ∧
        (¬ begins → u = w ∧ (t.core s.turn).sb =
          ((if (read n).feeding then (s.me.sbInc m.sb).sbDec (read n).feedSb else s.me.sbInc m.sb).sbDec m.sb).sb))

/-- The time unit. at arms the lowest slot that is free with the move of `tm.o` for device time t, and its number is delivered
after a cycle; with none free nothing is armed and the number is 8. cancel disarms the slot of bits 2:0, or all eight with bit 8,
and the number of those that were armed is delivered (10 R382). The constructors are tmAt and tmCancel. -/
def Obligations.TimeUnitArmsAndCancels : Prop :=
  ∀ (s : State) (i : Instr) (m : Arg),
    let armed (c : Core) (k : Nat) : Bool := ((c.timed[k]?).getD {}).armed
    (s.Runs i (.tm .arm) m → ∃ t r, exec i s = .next t ∧ s.SameRest t ∧
      s.me.SameRegs { t.core s.turn with timed := s.me.timed } ∧
      (t.core s.turn).stages = (s.me.stages ++ [(⟨10, s.me.order, 1, false, m.sb, .port (portIdx .tmR) r⟩ : Stage)]).map Stage.next ∧
      ((∀ k, k < 8 → armed s.me k = true) → r = 8 ∧ (t.core s.turn).timed = s.me.timed) ∧
      ∀ k, k < 8 → armed s.me k = false → (∀ j, j < k → armed s.me j = true) → r = BitVec.ofNat 64 k ∧
        (t.core s.turn).timed[k]? = some ⟨s.moved m, (s.me.latchO (.tm .arm)).extractLsb' 0 30, true⟩ ∧
        ∀ j, j ≠ k → (t.core s.turn).timed[j]? = s.me.timed[j]?) ∧
    (s.Runs i (.tm .cancel) m → ∃ t r, exec i s = .next t ∧ s.SameRest t ∧
      s.me.SameRegs { t.core s.turn with timed := s.me.timed } ∧
      (t.core s.turn).stages = (s.me.stages ++ [(⟨10, s.me.order, 1, false, m.sb, .port (portIdx .tmR) r⟩ : Stage)]).map Stage.next ∧
      let named (k : Nat) : Prop := k < 8 ∧ ((s.moved m).getLsbD 8 = true ∨ k = (s.moved m).toNat % 8)
      (∀ k, named k → armed (t.core s.turn) k = false) ∧
      (∀ k, ¬ named k → (t.core s.turn).timed[k]? = s.me.timed[k]?) ∧
      ((s.moved m).getLsbD 8 = false → r = if armed s.me ((s.moved m).toNat % 8) then 1 else 0) ∧
      ((s.moved m).getLsbD 8 = true → r = BitVec.ofNat 64 ((List.range 8).countP fun k => armed s.me k)))

/-! ### Detached operations at their trigger (02 R92 to R95; 07 to 11)

What such a word does in its own cycle; the statements on events say what follows. `s.started op m n` is the operation with its trigger
value, operand latch, rounding mode, counter, place and number, completing no earlier than `n` cycles from its trigger. -/

/-- A command of the matrix engine is queued: cfg also sets the issue copy of the configuration, wracc takes its vector along, and
ldscale the capability of the register that its trigger names. Every byte, every capability register and every other core stays as it
was (07 R235 to R246). The constructors are mxCfg, mxMma, mxMmaz, mxZero,
mxLdscale, mxRdacc, mxWracc, mxFfl and mxStat. -/
def Obligations.MatrixCommandsQueue : Prop :=
  ∀ (s : State) (i : Instr) (op : MxOp) (m : Arg), s.Runs i (.mx op) m → isCompute s.turn = true →
    let v := s.moved m
    ∃ t f, exec i s = .next t ∧ s.SetsOut t (.mx op) m f ∧ s.SameDevice t ∧ (∀ c, c ≠ s.turn → t.core c = s.core c) ∧
      s.CapsAre t (fun _ => none) ∧ (t.core s.turn).watch = s.me.watch ∧
      f = { s.started (.mx op) m 0 with
        ka := v.extractLsb' 20 5
        ca := if op = .ldscale then (s.me.rk (v.extractLsb' 20 5)).cap? else none
        data := if op = .wracc then imageBytes (s.me.rv (v.extractLsb' 2 5)) else [] } ∧
      (t.core s.turn).mx = (if op = .cfg then { s.me.mx with icfg := v.setWidth 41 } else s.me.mx)

/-- The capability operations that give a capability away. send, free, drop and join without MERGE leave the register of `cap.k`
empty, and wait for the drain; join with MERGE adds its count to that of kd and has nothing to wait for but its time. A send notes
whether the sluice of its core lets it pass. Other registers stay, and every byte; a watch of a buffer of which no capability is left
is given up, that of a free when it completes (04 R169; 08 R256, R269, R273, R274, R279, R302). The constructors are capSend, capFree,
capDrop and capJoin. -/
def Obligations.CapabilitiesGivenAway : Prop :=
  ∀ (s : State) (i : Instr) (op : CapOp) (m : Arg), s.Runs i (.cap op) m → isCompute s.turn = true →
    op = .send ∨ op = .free ∨ op = .drop ∨ op = .join →
    let v := s.moved m
    let k := s.me.latchK (.cap op)
    let kd : BitVec 5 := v.extractLsb' 0 5
    let merge := op = .join ∧ v.getLsbD 5 = true
    let passes := s.sluicePasses s.turn (v.extractLsb' 0 17) (if v.getLsbD 32 then some (v.extractLsb' 20 12) else none)
      (v.getLsbD 33)
    ∃ t f cap, s.me.rk k = .cap cap ∧ exec i s = .next t ∧ s.SetsOut t (.cap op) m f ∧
      (op = .send ∨ op = .free ∨ merge → s.SameDevice t) ∧
      s.WatchesAre t (fun w => s.flightHolds s.turn w = true ∨ op = .free ∧ w.names cap = true) ∧
      (¬ merge → f = { s.started (.cap op) m 0 with
          ka := k, ca := some cap, kb := kd, phase := .drain, index := if op = .send ∧ passes = true then 1 else 0 } ∧
        s.CapsAre t (fun j => if j = k then some .empty else none)) ∧
      (merge → ∃ c, s.me.rk kd = .cap c ∧ c.part = cap.part ∧ c.desc = cap.desc ∧ k ≠ kd ∧
        f = { s.started (.cap op) m 4 with ka := k, ca := some cap, kb := kd, phase := .ready } ∧
        s.CapsAre t (fun j => if j = kd then some (.cap { c with count := c.count + cap.count }) else
          if j = k then some .empty else none))

/-- The capability operations that make registers pending: alloc and recv their destination, no earlier than 20 cycles later
complete; cut and fuse both registers, with the capabilities that these held. The registers hold nothing until the operation
completes, and nothing else of the device has changed (08 R254, R256, R267, R268, R277, R278, R291). The constructors are capAlloc,
capRecv, capCut and capFuse. -/
def Obligations.CapabilitiesPending : Prop :=
  ∀ (s : State) (i : Instr) (op : CapOp) (m : Arg), s.Runs i (.cap op) m → isCompute s.turn = true →
    op = .alloc ∨ op = .recv ∨ op = .cut ∨ op = .fuse →
    let k := s.me.latchK (.cap op)
    let kd : BitVec 5 := (s.moved m).extractLsb' (if op = .recv then 16 else 0) 5
    let both := op = .cut ∨ op = .fuse
    ∃ t f, exec i s = .next t ∧ s.SetsOut t (.cap op) m f ∧ s.SameDevice t ∧ (∀ c, c ≠ s.turn → t.core c = s.core c) ∧
      f = { s.started (.cap op) m (if both then 0 else 20) with
        ka := k, ca := (s.me.rk k).cap?, kb := kd, cb := if op = .fuse then (s.me.rk kd).cap? else none
        phase := if both then .drain else .change } ∧
      s.CapsAre t (fun j => if j = kd ∨ j = k ∧ both then some .pending else none)

/-- split leaves an owner as a residual, of fractions or with bit 5 of grants, and takes n from the count of a fraction, and kd is
pending; mcast leaves a residual of fractions; narrow takes away the rights that t does not name and is complete at once (08 R271,
R272, R295). info, bindmb, closemb, peek, sub and unsub change no capability register: the result of info is the word that t names of
the register's capability as it is now, and KIND 0b101 for a pending one; sub and unsub take as long as their packet's way to the
source and back (08 R254, R267, R270, R288 to R290, R294). The constructors are capSplit, capMcast, capNarrow, capInfo, capBindmb,
capClosemb, capPeek, capSub and capUnsub. -/
def Obligations.CapabilitiesLentOrQueried : Prop :=
  ∀ (s : State) (i : Instr) (op : CapOp) (m : Arg), s.Runs i (.cap op) m → isCompute s.turn = true →
    let v := s.moved m
    let k := s.me.latchK (.cap op)
    let kd : BitVec 5 := v.extractLsb' 0 5
    let from_ (n : Nat) : Flight := { s.started (.cap op) m n with ka := k, ca := (s.me.rk k).cap? }
    (op = .split → ∃ t f cap, s.me.rk k = .cap cap ∧ exec i s = .next t ∧ s.SetsOut t (.cap op) m f ∧ s.SameDevice t ∧
      f = { from_ 0 with kb := kd, phase := .drain } ∧
      s.CapsAre t (fun j => if j = kd then some .pending else if j = k then some (.cap (if cap.owns
        then { cap with kind := if v.getLsbD 5 then .resGrants else .resFractions }
        else { cap with count := cap.count - v.extractLsb' 16 16 })) else none)) ∧
    (op = .mcast → ∃ t f cap, s.me.rk k = .cap cap ∧ exec i s = .next t ∧ s.SetsOut t (.cap op) m f ∧ s.SameDevice t ∧
      f = { from_ 0 with kb := kd, phase := .drain } ∧
      s.CapsAre t (fun j => if j = k then some (.cap { cap with kind := .resFractions }) else none)) ∧
    (op = .narrow → ∃ t cap, s.me.rk k = .cap cap ∧ exec i s = .next t ∧ s.Issued t (.cap op) m ∧ s.SameDevice t ∧
      ((t.core s.turn).ringAt s.me.seq).state = ringCompleted ∧ (t.core s.turn).sb = s.me.sb ∧ t.flights = s.flights ∧
      s.CapsAre t (fun j => if j = k then some (.cap { cap with rights := cap.rights &&& v.extractLsb' 0 6 }) else none)) ∧
    (op = .info ∨ op = .bindmb ∨ op = .closemb ∨ op = .peek ∨ op = .sub ∨ op = .unsub →
      ∃ t f, exec i s = .next t ∧ s.SetsOut t (.cap op) m f ∧ s.SameDevice t ∧ (∀ c, c ≠ s.turn → t.core c = s.core c) ∧
        s.CapsAre t (fun _ => none) ∧ (t.core s.turn).watch = s.me.watch ∧
        (op = .info → f = { s.started (.cap op) m 4 with
          phase := .ready
          result := some (if s.me.rk k = .pending then (if v.toNat % 4 = 0 then 0b101 <<< 47 else 0)
            else s.infoOf (s.me.rk k).cap? (v.toNat % 4)) }) ∧
        (op = .bindmb ∨ op = .closemb ∨ op = .peek → f = { from_ 20 with phase := .change }) ∧
        (op = .sub ∨ op = .unsub →
          f = { from_ (8 * routeHops (s.turn / 16) (if v.getLsbD 39 then 128 else (v.extractLsb' 16 11).toNat / 16)) with
            phase := .packets }))

/-- A copy-like operation sets out with its source, its destination, its index list and the signals that are armed, which are then armed
no more; it is the last one of its core; copys also leaves the destination's register empty, and notes whether the sluice lets its send
pass. sig arms the signals that t and `cp.o` describe, and stat asks for the status word. No byte has been copied yet (09 R305 to R316,
R320). The constructors are cpCopy, cpCopys, cpFill, cpGath, cpSig and cpStat. -/
def Obligations.CopiesSetOut : Prop :=
  ∀ (s : State) (i : Instr) (op : CpOp) (m : Arg), s.Runs i (.cp op) m → isCompute s.turn = true →
    let v := s.moved m
    let k := s.me.latchK (.cp op)
    let o := s.me.latchO (.cp op)
    let dst : BitVec 5 := if op = .fill then k else o.extractLsb' 40 5
    let passes := s.sluicePasses s.turn (v.extractLsb' 0 17) (if v.getLsbD 32 then some (v.extractLsb' 20 12) else none)
      (v.getLsbD 33)
    ∃ t f, exec i s = .next t ∧ s.SetsOut t (.cp op) m f ∧ s.SameDevice t ∧
      s.CapsAre t (fun j => if op = .copys ∧ j = dst then some .empty else none) ∧
      (op ≠ .copys → (t.core s.turn).watch = s.me.watch ∧ ∀ c, c ≠ s.turn → t.core c = s.core c) ∧
      (op = .copys → s.WatchesAre t (fun w => s.flightHolds s.turn w = true)) ∧
      (op = .copy ∨ op = .copys ∨ op = .fill ∨ op = .gath → (t.core s.turn).sig = none ∧ (t.core s.turn).lastCopy = some s.me.seq ∧
        f = { s.started (.cp op) m 4 with
          ka := k
          ca := if op = .fill then none else (s.me.rk k).cap?
          kb := dst
          cb := (s.me.rk dst).cap?
          cx := if op = .gath then (s.me.rk (v.extractLsb' 0 5)).cap? else none
          sigs := s.me.sig
          prev := s.me.lastCopy
          index := if op = .copys ∧ passes = true then 1 else 0 }) ∧
      (op = .sig → f = { s.started (.cp op) m 1 with phase := .ready } ∧ (t.core s.turn).lastCopy = s.me.lastCopy ∧
        (t.core s.turn).sig = some {
          tcb := if v.getLsbD 24 then some (v.extractLsb' 0 24) else none
          weir := if v.getLsbD 38 then some (v.extractLsb' 25 13) else none
          ord := v.getLsbD 39
          token := if o.getLsbD 45 then (s.me.rk (o.extractLsb' 40 5)).cap?.map (fun c => (c, (o.extractLsb' 0 40).toNat))
            else none }) ∧
      (op = .stat → f = { s.started (.cp op) m 4 with phase := .ready } ∧ (t.core s.turn).sig = s.me.sig ∧
        (t.core s.turn).lastCopy = s.me.lastCopy)

/-- A remote operation sets out for the memory that serves it. rld reads and rst writes the bytes of its range, which lie in one line of
128 bytes or in two; a packet carries the bits of its element of `rm.o`; batch by an owner opens the mode and unbatch closes it. batch
by a grant enters the core's table, and unbatch takes the entry out, with a close marker when there was one (09 R323 to R333). A vector
access to a buffer outside the core's own scratchpad does the same: banks take its footprint as one request, and other memories its
pieces of at most 128 bytes, but for those that hold no active lane; a store takes the register's image along (05 R178; 06 R211, R221,
R223, R226); indexed forms access the own scratchpad alone, and stop with 0x11 on another buffer (06 R224). Where the sluice is off
every request is refused, and the operation ends with late fault 0x20 (08 R301). No byte and no register has changed. The constructors
are rmRld, rmRst, rmRacc, rmRfop, rmBatch and rmUnbatch, and vxVld, vxVst, vxVldx and vxVstx. -/
def Obligations.RemoteAccessesSetOut : Prop :=
  (∀ (s : State) (i : Instr) (op : RmOp) (m : Arg) (cap : Cap) (d : Desc), s.Runs i (.rm op) m → isCompute s.turn = true →
    let v := s.moved m
    let k := s.me.latchK (.rm op)
    s.me.rk k = .cap cap → s.descOf cap = some d →
    let at_ := d.base.toNat + rmOff v
    let listed := s.me.batches.contains (cap.part, cap.desc)
    let grant := (op = .batch ∨ op = .unbatch) ∧ cap.kind = .grant
    let bare := op = .batch ∧ s.feature 3 = true ∧ cap.kind = .grant ∨ op = .unbatch ∧ cap.kind = .grant ∧ listed = false
    let place (a : Nat) : Nat := a - d.base.toNat
    let bytes : List Byte :=
      if rmV v then ((imageBytes (s.me.rv (rmVec v))).drop (32 * rmBlk v)).take (rmSize v)
      else (List.range (rmSize v / 8)).flatMap (fun j => leBytes 8 ((s.me.g[rmReg v + j]?).getD 0).toNat)
    let element := BitVec.ofNat 64 ((s.me.latchO (.rm op)).toNat % 2 ^ (8 * accBytes (rmTy v)))
    let work : List (Nat × Access) := match op with
      | .rld => (pieces at_ (rmSize v)).map (fun p => (place p.1, .read 0 p.2 (p.1 - at_)))
      | .rst => (pieces at_ bytes.length).map (fun p => (place p.1, .write 0 ((bytes.drop (p.1 - at_)).take p.2) []))
      | .racc => [(rmOff v, .acc 0 (rmTy v) (rmOp v) element false listed)]
      | .rfop => [(rmOff v, .acc 0 (rmTy v) (rmOp v) element true false)]
      | .batch => [(0, .batchOpen 0 (v.extractLsb' 0 12) (if v.getLsbD 25 then some (v.extractLsb' 12 13) else none))]
      | .unbatch => [(0, .batchClose 0 (cap.kind != .grant))]
    let rs := work.map (fun p => s.reqOf (s.started (.rm op) m 0) 2 (some k) cap d p.1 p.2)
    let goes := ¬ bare ∧ ¬ (op = .batch ∧ s.feature 3 = false)
    ∃ t, exec i s = .next t ∧ s.Issued t (.rm op) m ∧ s.CapsAre t (fun _ => none) ∧ (t.core s.turn).watch = s.me.watch ∧
      (t.core s.turn).batches = (if op = .batch ∧ grant ∧ s.feature 3 = true ∧ listed = false then s.me.batches ++ [(cap.part, cap.desc)]
        else if op = .unbatch ∧ grant then s.me.batches.filter (fun b => b != (cap.part, cap.desc)) else s.me.batches) ∧
      (goes → (s.sluiceOf s.turn).en = true → s.tableWaits s.turn = 0 → s.tableUsed s.turn + work.length ≤ 4096 → s.Admits rs →
        ∃ f e, s.SetsOut t (.rm op) m f ∧ s.me.cyc ≤ e ∧ s.Sent t rs ∧
          f = { s.started (.rm op) m 0 with
            ka := k, ca := some cap, phase := .active, open_ := work.length
            data := if op = .rld then List.replicate (rmSize v) 0 else [], earliest := e }) ∧
      (goes → (s.sluiceOf s.turn).en = false → ((t.core s.turn).ringAt s.me.seq).state = ringFaulted ∧
        ((t.core s.turn).ringAt s.me.seq).cause = 0x20 ∧ t.flights = s.flights ∧ (t.core s.turn).sb = s.me.sb) ∧
      (¬ goes → ∃ f, s.SetsOut t (.rm op) m f ∧ f = { s.started (.rm op) m 1 with
        ka := k, ca := some cap, phase := .ready
        fault := if op = .batch ∧ s.feature 3 = false then some ⟨0x20, cap.desc.setWidth 64, 12⟩ else none })) ∧
  (∀ (s : State) (i : Instr) (op : VxOp) (m : Arg) (cap : Cap) (d : Desc), s.Runs i (.vx op) m → isCompute s.turn = true →
    op = .vld ∨ op = .vst →
    let v := s.moved m
    let x := s.trigOf (.vx op) m
    let k : BitVec 5 := v.extractLsb' 35 5
    s.me.rk k = .cap cap → s.descOf cap = some d → d.localTo s.turn = false → d.cls.toNat ≤ 5 →
    let banks := d.cls.toNat < 2
    let fmt := (vxFmt s x d).getD .bytes
    let at_ := d.base.toNat + vxOff x
    let work : List (Nat × Access) :=
      if banks then [(0, if op = .vst then .lanesWrite fmt 0 0 none else .lanesRead fmt 0 0 none)]
      else if op = .vst then vstPieces x fmt at_ else vldPieces x fmt at_
    let rs := work.map (fun p => s.reqOf (s.started (.vx op) m 0) 2 (some k) cap d (vxOff x + p.1) p.2)
    ∃ t, exec i s = .next t ∧ s.Issued t (.vx op) m ∧ s.CapsAre t (fun _ => none) ∧ (t.core s.turn).watch = s.me.watch ∧
      ((s.sluiceOf s.turn).en = true → s.tableWaits s.turn = 0 → s.tableUsed s.turn + work.length ≤ 4096 → s.Admits rs →
        ∃ f b e, s.SetsOut t (.vx op) m f ∧ s.me.cyc ≤ b ∧ s.me.cyc ≤ e ∧ s.Sent t rs ∧
          f = { s.started (.vx op) m 0 with
            ka := k, ca := some cap, phase := .active, open_ := work.length, fs := if banks then .bytes else fmt
            data := if op = .vst then imageBytes (s.me.rv (v.extractLsb' 0 5)) else List.replicate 512 0
            mask := s.me.rmask (v.extractLsb' 20 3), born := b, earliest := e }) ∧
      (work ≠ [] → (s.sluiceOf s.turn).en = false → ((t.core s.turn).ringAt s.me.seq).state = ringFaulted ∧
        ((t.core s.turn).ringAt s.me.seq).cause = 0x20 ∧ t.flights = s.flights ∧ (t.core s.turn).sb = s.me.sb)) ∧
  ∀ (s : State) (i : Instr) (op : VxOp) (m : Arg) (cap : Cap) (d : Desc), i.trigger? = some (.vx op, m) → s.Tries (.vx op) m →
    op = .vldx ∨ op = .vstx → vxErr op (s.trigOf (.vx op) m) = none →
    s.me.rk ((s.moved m).extractLsb' 35 5) = .cap cap → s.descOf cap = some d → d.localTo s.turn = false →
    ∃ e : StopDue, e.cause = 0x11 ∧ e.detail = ((s.moved m).extractLsb' 35 5).setWidth 64 ∧ e.pc = s.me.pc ∧
      exec i s = .next (s.onCore s.turn (fun c => { c with mode := .stopping e, hold := .none }))

/-- The trace operations set out for the trace's home slice; relaunch leaves the registers of its mask empty, and what they held stands
in the lowest free set, in the mask's order, until the snapshot. Where the sluice is off the operation is refused with late fault 0x20,
and no register is taken (08 R301, R486; 11 R421, R422; the refusal of the whole operation is the model's choice, log 129). The
constructors are trSlot, trUnslot, trInfo, trRelaunch and trMark. -/
def Obligations.TraceOperationsSetOut : Prop :=
  ∀ (s : State) (i : Instr) (op : TrOp) (m : Arg), s.Runs i (.tr op) m → isCompute s.turn = true →
    let k := s.me.latchK (.tr op)
    let regs := if op = .relaunch then ((List.range 30).filter (fun n => (s.moved m).getLsbD (34 + n))).map (BitVec.ofNat 5) else []
    let part := (s.me.res.getD Resident.none).part
    ∃ t f, exec i s = .next t ∧ s.SetsOut t (.tr op) m f ∧ (op ≠ .relaunch → s.SameDevice t) ∧
      ((s.sluiceOf s.turn).en = true → ∃ cap n p, s.me.rk k = .cap cap ∧
        f = { s.started (.tr op) m n with ka := k, ca := some cap, pos := p } ∧ (op ≠ .relaunch → p = 0) ∧
        s.CapsAre t (fun j => if j ∈ regs then some .empty else none) ∧
        ∀ x rest, op = .relaunch → s.freeSets part 1 = x :: rest → p = x ∧
          ∀ (j : Nat) (r : BitVec 5) (c : Cap), regs[j]? = some r → s.me.rk r = .cap c → t.setSlot part x (BitVec.ofNat 5 j) = .cap c) ∧
      ((s.sluiceOf s.turn).en = false → s.SameDevice t ∧ s.CapsAre t (fun _ => none) ∧
        f = { s.started (.tr op) m 0 with phase := .ready, fault := some ⟨0x20, 0, 1⟩ })

/-- launch, task and call leave the registers that they name empty; spawn leaves every register. The result is on its way: for a launch
or a task that is refused the CODE of bits 31:24 says why, and is 0 with the task control block's handle else; a call gives its
future's handle, or bit 33 with a return set where none or no control block is free; for spawn it is 1 exactly when the launch has no
group barrier to spawn in, and else 0 or 2. Where the sluice is off the operation is refused with late fault 0x20, and no register is
taken (08 R301; 10 R348, R366 to R372; the refusal is the model's choice, log 129). The core's earlier requests have arrived (01 R19).
The constructors are sqLaunch, sqTask, sqCall and sqSpawn. -/
def Obligations.LaunchesSetOut : Prop :=
  ∀ (s : State) (i : Instr) (op : SqOp) (m : Arg), s.Runs i (.sq op) m → isCompute s.turn = true →
    op = .launch ∨ op = .task ∨ op = .call ∨ op = .spawn → (∀ r ∈ s.asks, r.agent = s.turn → r.seq = none) →
    let v := s.moved m
    let r := s.me.res.getD Resident.none
    let mask := ((List.range 30).filter (fun n => v.getLsbD (34 + n))).map (BitVec.ofNat 5)
    let regs : List (BitVec 5) := match op with
      | .launch | .task => mask
      | .call => if v.getLsbD 21 then [v.extractLsb' 16 5] else []
      | _ => []
    let queue := (v.extractLsb' 16 8).toNat
    let launchCode := s.launchCode r.part (v.extractLsb' 0 16).toNat queue (mask.map (fun k => (s.me.rk k).cap?))
    let room := (s.freeTcb r.part).isSome = true ∧ s.freeSets r.part 1 ≠ []
    ∃ t f n, exec i s = .next t ∧ s.IssuedTables t (.sq op) m ∧ s.InFlight t m f ∧
      ((s.sluiceOf s.turn).en = true → s.CapsAre t (fun j => if j ∈ regs then some .empty else none) ∧
        ∃ w, f = { s.started (.sq op) m n with phase := .ready, result := some w } ∧
        (op = .launch → (launchCode ≠ 0 → (w.extractLsb' 24 8).toNat = launchCode) ∧
          (launchCode = 0 → w.extractLsb' 24 8 = 0 ∨ w.extractLsb' 24 8 = 3)) ∧
        (op = .task → let code := s.taskCode r.part r.launch queue
          (code ≠ 0 → (w.extractLsb' 24 8).toNat = code) ∧
          (code = 0 → ∃ h, s.freeTcb r.part = some h ∧ w = BitVec.ofNat 64 h)) ∧
        (op = .call → ∀ h, s.freeFut r.part = some h → (v.extractLsb' 0 16 = 0 ∨ room → w = BitVec.ofNat 64 h)) ∧
        (op = .call → (s.freeFut r.part = none ∨ v.extractLsb' 0 16 ≠ 0 ∧ ¬ room) → w.getLsbD 33 = true) ∧
        (op = .spawn → (w = 1 ↔ s.spawnIn r.part r.launch = none) ∧ (w = 0 ∨ w = 1 ∨ w = 2))) ∧
      ((s.sluiceOf s.turn).en = false → s.Issued t (.sq op) m ∧ s.SameDevice t ∧ s.CapsAre t (fun _ => none) ∧
        f = { s.started (.sq op) m n with phase := .ready, fault := some ⟨0x20, 0, 1⟩ })

/-- dec and fillf send their request to the scheduler, behind those that are on their way; no byte and no capability register changes
(01 R19; 10 R353, R362), and where the sluice is off they are refused with late fault 0x20 (08 R301; log 129). tickets and gang
always fault on a compute core, with 0x11 and DETAIL2 bit 7, once their fields pass (10 R366). A kernel core invokes them through its
port page, with its sluice on: tickets sets PART, EN and TICKETS of the queue of bits 7:0 and gives 0; gang posts a switch, or is
refused with CODE 5 in the result while another is in progress or the partitions cover other clusters (10 R373, R387, R389; 13 R478;
that a switch in progress refuses another is the model's choice, log 42). The constructors are sqDec, sqFillf, sqTickets, sqGang and
portPageStore. -/
def Obligations.SchedulerRequests : Prop :=
  (∀ (s : State) (i : Instr) (op : SqOp) (m : Arg), s.Runs i (.sq op) m → isCompute s.turn = true → op = .dec ∨ op = .fillf →
    let r := s.me.res.getD Resident.none
    let ask : Ask := if op = .dec then .dec ((s.moved m).extractLsb' 0 32)
      else .fill ((s.moved m).extractLsb' 0 32) (s.me.latchO (.sq op))
    ∃ t f n, exec i s = .next t ∧ s.SetsOut t (.sq op) m f ∧ s.CapsAre t (fun _ => none) ∧
      ((s.sluiceOf s.turn).en = true → f = { s.started (.sq op) m n with phase := .request } ∧
        t.asks = s.asks ++ [⟨ask, r.part, s.turn, some s.me.seq, r.launch, r.wid⟩]) ∧
      ((s.sluiceOf s.turn).en = false → f = { s.started (.sq op) m n with phase := .ready, fault := some ⟨0x20, 0, 1⟩ } ∧
        t.asks = s.asks)) ∧
  (∀ (s : State) (i : Instr) (op : SqOp) (m : Arg), i.trigger? = some (.sq op, m) → s.Tries (.sq op) m → isCompute s.turn = true →
    let v := s.moved m
    op = .tickets ∧ v &&& 0xFFFFFFFFE0E00000 = 0 ∧ s.me.latchO (.sq op) = 0 ∧ 1 ≤ (v.extractLsb' 8 13).toNat ∧
        (v.extractLsb' 8 13).toNat ≤ 4096 ∨
      op = .gang ∧ v &&& 0xFFFFFFFFFF00FE00 = 0 ∧ (v.extractLsb' 16 8).toNat ≤ 50 →
    ∃ d : StopDue, d.cause = 0x11 ∧ d.detail2 = 0x80 ∧ d.pc = s.me.pc ∧
      exec i s = .next (s.onCore s.turn (fun c => { c with mode := .stopping d, hold := .none }))) ∧
  ∀ (s : State) (op : SqOp) (r : RawAccess) (a : Nat) (v : Word),
    let x := s.focus.sluice
    (s.svc x).access = some r → s.portAccess x true = some (a, v) → a < 0x3F00 → Target.ofCode (BitVec.ofNat 11 (a / 8)) = .trig (.sq op) →
    sluiceKind x = 0b10 → (s.sluiceOf x).en = true → (∀ q ∈ s.asks, q.agent = x → q.seq = none) →
    s.portErr (s.portTrig x (.sq op) v) = none → op = .tickets ∨ op = .gang →
    ∃ t f w, exec .portPageStore s = .next t ∧ t.flights = s.flights ++ [f] ∧ f.agent = x ∧ f.seq = (s.svc x).seq ∧ f.op = .sq op ∧
      f.phase = .ready ∧ f.result = some w ∧ (t.svc x).seq = (s.svc x).seq + 1 ∧ (t.svc x).pseq = (s.svc x).seq ∧
      (t.svc x).access = none ∧ (∀ b, t.byteAt b = s.byteAt b) ∧
      (op = .tickets → w = 0 ∧ (t.queue (v.toNat % 256)).part = v.extractLsb' 24 4 ∧ (t.queue (v.toNat % 256)).en = v.getLsbD 28 ∧
        (t.queue (v.toNat % 256)).tickets = v.extractLsb' 8 13 ∧ (t.queue (v.toNat % 256)).units = (s.queue (v.toNat % 256)).units ∧
        ∀ q, q ≠ v.toNat % 256 → t.queue q = s.queue q) ∧
      (op = .gang →
        let refused := s.gang.isSome = true ∨
          v.getLsbD 8 = true ∧ (s.part (v.extractLsb' 0 4)).cmask ≠ (s.part (v.extractLsb' 4 4)).cmask
        (refused → t.gang = s.gang ∧ t.gstat = s.gstat ∧ w.extractLsb' 0 8 = 5) ∧
        (¬ refused → ∃ g, t.gang = some g ∧ g.out = v.extractLsb' 0 4 ∧ g.into = v.extractLsb' 4 4 ∧ g.valid = v.getLsbD 8 ∧
          g.win = (v.extractLsb' 16 8).toNat ∧ g.tg = (s.svc x).view.latchO (.sq op) ∧ g.phase = .posted ∧
          w = t.gstat ∧ t.gstat.extractLsb' 0 9 = 0x100))

/-- The weir's operations on a barrier of the core's cluster, or the one that t names. arm gives 2 where the partition may not arm
it, 1 where it is armed and has not fired, and else 0, and the barrier is armed with the counts of t and `wr.o`; arrive and query send
their request to the weir; disarm gives 2 or 0. On a barrier of another partition arrive, query and disarm end in late fault 0x20, as
every operation does where the sluice is off (08 R301; 10 R376, R377, R379; what a core with its sluice off is refused is the model's
choice, log 129). The core's earlier requests have arrived (01 R19). The constructors are wrArm, wrArrive, wrQuery and wrDisarm. -/
def Obligations.WeirOperations : Prop :=
  ∀ (s : State) (i : Instr) (op : WrOp) (m : Arg), s.Runs i (.wr op) m → isCompute s.turn = true →
    (∀ r ∈ s.asks, r.agent = s.turn → r.seq = none) →
    let v := s.moved m
    let o := s.me.latchO (.wr op)
    let own := op = .arm ∨ op = .disarm ∨ v.getLsbD 15 = true
    let cl := if own then s.turn / 16 else (v.extractLsb' 6 7).toNat
    let b := v.toNat % 64
    let x := s.bar cl b
    let r := s.me.res.getD Resident.none
    let part := (s.sluiceOf s.turn).part
    let foreign := s.barForeign part cl b = true
    let waiting := barArmed x = true ∧ barFired x = false
    let start (op : Op) : Flight := s.started op m (12 + 8 * routeHops (s.turn / 16) cl)
    let asked (a : Ask) : Request := ⟨a, r.part, s.turn, some s.me.seq, r.launch, r.wid⟩
    ∃ t f, exec i s = .next t ∧ s.InFlight t m f ∧
      (op = .arm ∧ s.barAllowed part cl b = true ∧ ¬ waiting ∧ v.extractLsb' 16 16 = 0 ∧ o.extractLsb' 0 40 = 0 ∨
        s.IssuedTables t (.wr op) m ∧ s.CapsAre t (fun _ => none) ∧ (op ≠ .disarm → s.SetsOut t (.wr op) m f)) ∧
      ((s.sluiceOf s.turn).en = false → s.SameDevice t ∧ s.SetsOut t (.wr op) m f ∧
        f = { start (.wr op) with phase := .ready, fault := some ⟨0x20, 0, 1⟩ }) ∧
      ((s.sluiceOf s.turn).en = true →
        (op ≠ .arm → foreign → s.SameDevice t ∧
          f = { start (.wr op) with phase := .ready, fault := some ⟨0x20, BitVec.ofNat 64 (cl * 64 + b), 9⟩ }) ∧
        (op = .arm → f = { start (.wr op) with
            phase := .ready, result := some (if s.barAllowed part cl b = false then 2 else if waiting then 1 else 0) } ∧
          (s.barAllowed part cl b = true → ¬ waiting → v.extractLsb' 16 16 ≠ 0 ∨ o.extractLsb' 0 40 ≠ 0 →
            barArmed (t.bar cl b) = true ∧ barFired (t.bar cl b) = false ∧ barPart (t.bar cl b) = part ∧
            barCount (t.bar cl b) = (v.extractLsb' 16 16).toNat ∧ barBytes (t.bar cl b) = (o.extractLsb' 0 40).toNat)) ∧
        (op = .arrive → ¬ foreign → f = { start (.wr op) with phase := .request } ∧
          t.asks = s.asks ++ [asked (.arrive (BitVec.ofNat 13 (cl * 64 + b)) (v.extractLsb' 16 16).toNat)]) ∧
        (op = .query → ¬ foreign → f = { start (.wr op) with phase := .request } ∧
          t.asks = s.asks ++ [asked (.query (BitVec.ofNat 13 (cl * 64 + b)))]) ∧
        (op = .disarm → ¬ foreign →
          f = { start (.wr op) with phase := .ready, result := some (if s.barAllowed part cl b = true then 0 else 2) } ∧
          (s.barAllowed part cl b = true → barDis (t.bar cl b) = true ∧ barArmed (t.bar cl b) = false))) ∧
      (op = .arrive ∨ op = .query → t.bar cl b = x)

/-! ### Control (04 R137 to R143, R150 to R156, R169, R170) -/

/-- A transfer owes its delay word: the pending target is that of jmp, bra, call, ret, jtab and bre, where an index at or beyond the
table's length and a clear end flag give none; call writes `lnk`. Nothing else changes but the pc, which goes on to the delay word
(02 R83; 04 R139 to R141). OwedEffectsAreTaken says what follows. A target that is not a multiple of four stops the core at the
transfer with 0x13, bre's whether or not it would be taken, and nothing is owed (04 R139, R141). The constructors are ctlJmp, ctlBra,
ctlCall, ctlRet, ctlJtab and ctlBre. -/
def Obligations.TransfersOweADelayWord : Prop :=
  ∀ (s : State) (i : Instr) (op : CtlOp) (m : Arg),
    let v := s.moved m
    let o := s.me.latchO (.ctl op)
    let pc := s.me.pc
    let far (x : Word) : CodePtr := ⟨x.extractLsb' 0 32, if x.getLsbD 63 = true then x.extractLsb' 32 16 else pc.ovl⟩
    let near (x : Word) : CodePtr := ⟨pc.off + x.extractLsb' 0 32, pc.ovl⟩
    let entry := (o.extractLsb' 0 32).toNat + 4 * v.toNat
    let delay := wordLen (s.byteAt (slotBase s.turn + (pc.plus 4).off.toNat))
    let target : Option CodePtr := match op with
      | .jmp | .call => some (far v)
      | .bra => some (near v)
      | .ret => some ⟨s.me.lnk.extractLsb' 0 32, s.me.lnk.extractLsb' 32 16⟩
      | .jtab => if v.toNat < (o.extractLsb' 48 16).toNat
          then some ⟨BitVec.ofNat 32 (s.localNat s.me (slotBase s.turn + entry) 4), pc.ovl⟩ else none
      | _ => if (s.me.walker (v.extractLsb' 0 2)).fin.getLsbD (v.extractLsb' 2 2).toNat = true then some (near o) else none
    (s.Runs i (.ctl op) m → op = .jmp ∨ op = .bra ∨ op = .call ∨ op = .ret ∨ op = .jtab ∨ op = .bre →
      ∃ t, exec i s = .next t ∧ s.Ends t m ∧ (t.core s.turn).owe = some ⟨.transfer, target, 0⟩ ∧
        (t.core s.turn).lnk = (if op = .call
          then 1#1 ++ 0#15 ++ pc.ovl ++ (pc.off + 4 + BitVec.ofNat 32 delay) else s.me.lnk) ∧
        s.me.SameRegs { t.core s.turn with lnk := s.me.lnk }) ∧
    (i.trigger? = some (.ctl op, m) → s.Tries (.ctl op) m →
      ((op = .jmp ∨ op = .call ∨ op = .rett ∧ s.me.shadow ≠ none) ∧ v.toNat % 4 ≠ 0 ∨
        op = .bra ∧ (pc.off + v.extractLsb' 0 32).toNat % 4 ≠ 0 ∨ op = .bre ∧ (pc.off + o.extractLsb' 0 32).toNat % 4 ≠ 0) →
      ∃ d : StopDue, d.cause = 0x13 ∧ d.pc = pc ∧
        exec i s = .next (s.onCore s.turn (fun c => { c with mode := .stopping d, hold := .none })))

/-- yield, wait and done owe a suspension, wait with its handle and kind; trap and brk owe a trap with their code or tag; rett owes
the return to t. A suspension point inside a handler, and a return outside of one, stop at the word with 0x01; a suspension point
while a part of a window is away stops with 0x15 (04 R150, R152, R156; 08 R299). The constructors are ctlYield, ctlWait, ctlDone,
ctlTrap, ctlBrk and ctlRett. -/
def Obligations.SuspensionsAndTrapsAreOwed : Prop :=
  ∀ (s : State) (i : Instr) (op : CtlOp) (m : Arg) (k : OweKind),
    (op, k) ∈ [(CtlOp.yield, OweKind.yield), (.wait, .wait), (.done, .done), (.trap, .trap), (.brk, .brk), (.rett, .rett)] →
    let v := s.moved m
    let suspends := op = .yield ∨ op = .wait ∨ op = .done
    (s.Runs i (.ctl op) m → ∃ t, exec i s = .next t ∧ s.Ends t m ∧ s.me.SameRegs (t.core s.turn) ∧
      (t.core s.turn).owe = some ⟨k, if op = .rett then some ⟨v.extractLsb' 0 32, v.extractLsb' 32 16⟩ else none,
        if op = .wait then (v.extractLsb' 0 34).setWidth 64
        else if op = .trap ∨ op = .brk then (v.extractLsb' 0 8).setWidth 64 else 0⟩) ∧
    (i.trigger? = some (.ctl op, m) → s.Tries (.ctl op) m → ∀ cause : BitVec 8,
      (suspends ∧ s.me.shadow ≠ none ∧ cause = 0x01 ∨ op = .rett ∧ s.me.shadow = none ∧ cause = 0x01 ∨
        suspends ∧ s.me.shadow = none ∧ (s.me.vaway ≠ 0 ∨ s.me.taway ≠ 0) ∧ cause = 0x15) →
      ∃ d : StopDue, d.cause = cause ∧ d.pc = s.me.pc ∧
        exec i s = .next (s.onCore s.turn (fun c => { c with mode := .stopping d, hold := .none })))

/-- sbwait and drain hold the next word: sbwait until its counter is at or below its bound, drain until what was triggered before it
has ended (04 R142); CoreBoundaryActions says when they let go. The mode and boundary settings: setrm sets RMODE and SAT, or faults
with 0x17 for RMODE 6 and 7; setxb sets XB, or faults with 0x13 for no multiple of 4,096 and else with 0x12 past 262,144; setovh sets
OVH, or faults with 0x13 for no multiple of four (04 R143). No other register changes, and none owes a delay word. The constructors
are ctlSbwait, ctlDrain, ctlSetrm, ctlSetxb and ctlSetovh. -/
def Obligations.WaitsAndSettings : Prop :=
  ∀ (s : State) (i : Instr) (op : CtlOp) (m : Arg), i.trigger? = some (.ctl op, m) → s.Tries (.ctl op) m →
    let v := s.moved m
    (op = .sbwait ∨ op = .drain → s.Runs i (.ctl op) m → ∃ t, exec i s = .next t ∧ s.Ends t m ∧ s.me.SameRegs (t.core s.turn) ∧
      (s.me.owe = none → (t.core s.turn).owe = none) ∧
      (t.core s.turn).hold = if op = .sbwait then .sbwait (v.extractLsb' 0 3) (v.extractLsb' 4 12) else .drain s.me.order) ∧
    (op = .setrm ∨ op = .setxb ∨ op = .setovh →
      let fault : Option (BitVec 8) := match op with
        | .setrm => if (v.extractLsb' 0 3).toNat ≥ 6 then some 0x17 else none
        | .setxb => if v.toNat % 4096 ≠ 0 then some 0x13 else if v.toNat > 262144 then some 0x12 else none
        | _ => if v.toNat % 4 ≠ 0 then some 0x13 else none
      (fault = none → s.noReturn → ∃ t, exec i s = .next t ∧ s.Ends t m ∧
        (s.me.owe = none → (t.core s.turn).owe = none) ∧
        (t.core s.turn).rm = (if op = .setrm then v.extractLsb' 0 4 else s.me.rm) ∧
        (t.core s.turn).xb = (if op = .setxb then v else s.me.xb) ∧
        (t.core s.turn).ovh = (if op = .setovh then v.extractLsb' 0 32 else s.me.ovh) ∧
        s.me.SameRegs { t.core s.turn with rm := s.me.rm, xb := s.me.xb, ovh := s.me.ovh }) ∧
      (∀ cause, fault = some cause → ∃ d : StopDue, d.cause = cause ∧ d.detail = (if op = .setrm then 0 else v) ∧ d.pc = s.me.pc ∧
        exec i s = .next (s.onCore s.turn (fun c => { c with mode := .stopping d, hold := .none }))))

/-- watch arms the slot that `ctl.o` names with the buffer of its register, the kind, the mailbox and the range, whose start is
rounded down to a granule, and no event lost; with kind 0b00 it disarms the slot. Other slots stay (04 R169; that kind 0b00 makes no
check of the register is the model's choice, log 26). The constructor is ctlWatch. -/
def Obligations.WatchArmsItsSlot : Prop :=
  ∀ (s : State) (i : Instr) (m : Arg), s.Runs i (.ctl .watch) m →
    let o := s.me.latchO (.ctl .watch)
    let n := (o.extractLsb' 5 2).toNat
    ∃ t, exec i s = .next t ∧ s.Ends t m ∧ s.me.SameRegs { t.core s.turn with watch := s.me.watch } ∧
      (∀ k, k ≠ n → (t.core s.turn).watch[k]? = s.me.watch[k]?) ∧
      (o.extractLsb' 7 2 = 0 → (t.core s.turn).watch[n]? = some {}) ∧
      (o.extractLsb' 7 2 ≠ 0 → ∃ cap w, s.me.rk (o.extractLsb' 0 5) = .cap cap ∧ (t.core s.turn).watch[n]? = some w ∧
        w.part = cap.part ∧ w.buf = cap.desc ∧ w.mbox = o.extractLsb' 9 17 ∧ w.kind = o.extractLsb' 7 2 ∧
        w.start.toNat = ((s.moved m).extractLsb' 0 40).toNat / 32 * 32 ∧ w.len = o.extractLsb' 26 38 ∧ w.lost = 0)

/-- unwatch disarms the slot of bits 1:0, and does nothing when it is empty; nothing else changes (04 R170). The constructor is
ctlUnwatch. -/
def Obligations.UnwatchDisarmsItsSlot : Prop :=
  ∀ (s : State) (i : Instr) (m : Arg), i.trigger? = some (.ctl .unwatch, m) → s.Tries (.ctl .unwatch) m → s.noReturn →
    let n := (s.moved m).toNat % 4
    ∃ t, exec i s = .next t ∧ s.Ends t m ∧ (t.core s.turn).watch[n]? = some {} ∧
      (∀ k, k ≠ n → (t.core s.turn).watch[k]? = s.me.watch[k]?) ∧
      s.me.SameRegs { t.core s.turn with watch := s.me.watch } ∧
      (s.me.watch[n]? = some {} → (t.core s.turn).watch = s.me.watch)

/-! ### Engine actions of a core (01 R56, R57; 02 R86 to R91, R96, R97; 04 R142, R150 to R166)

The subject of an engine's action, its core and the number of the operation among them, stands in `focus`. -/

/-- What comes about in a core between its words. RESULT_DELIVERY: the results that are due reach their places, and their counters
are decremented; of two that write one port the later-triggered one's value stays (02 R87, R88). LOCAL_PATH_PERFORM: the stores
that are due change their bits in memory, and a load that is due reads its bytes (01 R56, R57; 05 R180). SBWAIT_RELEASE and
DRAIN_RELEASE: the held word may issue once its counter is at or below the bound, or nothing earlier is unfinished, and stays held
before (02 R96; 04 R142). LOCAL_TRAP_ENTRY: the shadow takes what is in the pipelines, epc and cause are written, and the handler's
first word comes next (04 R152, R154, R155). LATE_FAULT_TAKEN: the first recorded stop is taken at the next word, and a local trap
due there is kept (04 R159, R161). The constructors are resultDelivery, localPathPerform, sbwaitRelease, drainRelease, localTrapEntry
and lateFaultTaken. -/
def Obligations.CoreBoundaryActions : Prop :=
  ∀ s : State,
    let c := s.focus.core
    let k := s.core c
    (∃ t, exec .resultDelivery s = .next t ∧ s.OnlyCore t c ∧
      (t.core c).stages = k.stages.filter (fun x => !x.due) ∧
      (t.core c).sb = ((k.stages.filter Stage.due).foldl (fun x st => x.sbDec st.sb) k).sb ∧
      k.SameRegs { t.core c with ports := k.ports, v := k.v, m := k.m } ∧
      (∀ p v st a b, p < 76 → k.stages.filter Stage.due = a ++ st :: b → st.res = .port p v →
        (∀ x ∈ b, .port p ∉ x.res.places ∧ (p = portIdx .imH → ∀ r h, x.res ≠ .product r h)) → (t.core c).port_ p = v) ∧
      (k.stages.filter Stage.due = [] → t.core c = k)) ∧
    (∃ t, exec .localPathPerform s = .next t ∧ (t.core c).stores = k.stores.filter (fun x => x.left != 0) ∧
      (∀ x, k.stores.filter (fun x => x.left == 0) = [x] → k.shadow = none →
        (∀ w ∈ x.writes, ∃ n o, placeOf w.addr = .pad n o) → x.writes.Pairwise (fun v w => v.addr ≠ w.addr) →
        (∀ w ∈ x.writes, t.byteAt w.addr = (s.byteAt w.addr &&& ~~~w.mask) ||| (w.val &&& w.mask)) ∧
        (∀ a, (∀ w ∈ x.writes, w.addr ≠ a) → t.byteAt a = s.byteAt a) ∧ ∀ x, x ≠ c → t.core x = s.core x) ∧
      (k.stores = [] → k.shadow = none → s.focus.ecc = .clean → s.OnlyCore t c ∧
        ∀ st a n md, st ∈ k.stages → st.left = 0 → st.res = .load (.bytes a n false) md [] →
          { st with res := .port (portIdx .lsR) (BitVec.ofNat 64 (leNat ((List.range n).map (fun i => s.byteAt (a + i))))) } ∈
            (t.core c).stages)) ∧
    (∃ t, exec .sbwaitRelease s = .next t ∧ s.OnlyCore t c ∧ t.core c = { k with hold := (t.core c).hold } ∧
      ∀ n bound, k.hold = .sbwait n bound → (t.core c).hold = if k.rsb n ≤ bound then .none else .sbwait n bound) ∧
    (∃ t, exec .drainRelease s = .next t ∧ s.OnlyCore t c ∧ t.core c = { k with hold := (t.core c).hold } ∧
      ∀ order, k.hold = .drain order → ((t.core c).hold = .none ↔
        (∀ x ∈ k.stages, order ≤ x.order) ∧ ∀ x ∈ k.stores, order ≤ x.order)) ∧
    (∃ t, exec .localTrapEntry s = .next t ∧ s.OnlyCore t c ∧
      ∀ d : TrapDue, k.mode = .trapDue d → k.stops = [] →
        (t.core c).mode = .run ∧ (t.core c).epc = d.epc.word ∧ (t.core c).cause = 0#8 ++ d.detail ++ d.info ++ d.cause ∧
        (t.core c).pc = (if d.cause = 0x07 then ⟨k.ovh, 0⟩ else ⟨0x100, 0⟩) ∧ (t.core c).owe = none ∧
        (t.core c).stages = [] ∧ (t.core c).stores = [] ∧
        k.SameRegs { t.core c with epc := k.epc, cause := k.cause, shadow := k.shadow } ∧
        ∃ sh, (t.core c).shadow = some sh ∧ sh.stages = k.stages ∧ sh.stores = k.stores ∧ sh.sflags = k.sflags ∧
          sh.vflags = k.vflags ∧ sh.q = k.q ∧ sh.lnk = k.lnk ∧ sh.rm = k.rm ∧ sh.owe = k.owe ∧
          ∀ i (h : i < 24), sh.ports[i] = k.port_ i) ∧
    (∃ t, exec .lateFaultTaken s = .next t ∧ s.OnlyCore t c ∧
      ∀ d ds, k.stops = d :: ds → (k.mode = .run ∨ (∃ x, k.mode = .trapDue x) ∨ ∃ x y, k.mode = .suspending x y) →
        (t.core c).mode = .stopping { d with pc := k.pc } ∧ (t.core c).stops = [] ∧ (t.core c).hold = .none ∧
        (t.core c).owedTrap = (match k.mode with
          | .trapDue x => some x
          | _ => k.owedTrap) ∧
        k.SameRegs { t.core c with stops := k.stops, owedTrap := k.owedTrap })

/-- How operations complete, and how a continuation comes to a core and leaves it. DETACHED_COMPLETION: an operation whose result is
there leaves the machine; the result reaches its port, its counter is decremented and its ring entry says completed; a late fault
instead is recorded in the entry and, on a core that issues, stops the continuation (02 R92 to R97; 04 R159). STOP: it is taken, with
the number of operations out and the time, and late faults recorded before it have records of their own (04 R161); once nothing that it waits for is left and a frame slot is free, the core is left
without a continuation (04 R160, R163). PENDING_RETRY_MARK: after 2^16 cycles an operation that is still waited for is marked (04
R160; 10 R385). SUSPENSION: once its operations have completed, the continuation leaves the core (04 R150). CONTINUATION_START: the
oldest ready one that may be taken begins with its PC and g0 to g3, everything else zero (02 R91; 10 R349, R358). FRAME_RESTORE: the
registers of its frame come back (04 R166; 10 R386). RESUME: a stopped continuation is queued for the core of its frame (10 R386;
that STATE ready or stopped will do is the model's choice, log 45). TIMED_MOVE: the moves that are performed disarm their slots (10
R383). The constructors are detachedCompletion, stop, pendingRetryMark, suspension, continuationStart, frameRestore, resume and
timedMove. -/
def Obligations.ContinuationsComeAndGo : Prop :=
  ∀ s : State,
    let c := s.focus.core
    let k := s.core c
    (∀ (f : Flight) (o : SqOp), isCompute c = true → s.flight? c s.focus.seq = some f → f.op = .sq o → f.phase = .ready →
      f.agent = c → f.seq = s.focus.seq → f.counted = true → f.frame = none → f.retry = false → f.earliest ≤ k.cyc →
      f.kres = [] → s.marksDue f = false → s.hostq = [] →
      ∃ t, exec .detachedCompletion s = .next t ∧
        t.flights = s.flights.filter (fun g => !(g.agent == c && g.seq == f.seq)) ∧
        (t.core c).sb = (k.sbDec f.sbf).sb ∧ (∀ a, t.byteAt a = s.byteAt a) ∧
        (f.fault = none → s.OnlyCore { t with flights := s.flights } c ∧
          k.SameRegs { t.core c with ring := k.ring, ports := k.ports } ∧
          (∀ v, f.result = some v → (t.core c).port_ (4 * f.op.unit + 2) = v) ∧
          ((k.ringAt f.seq).seq = f.seq → (k.ringAt f.seq).state = ringIssued →
            (t.core c).ringAt f.seq = { k.ringAt f.seq with state := ringCompleted })) ∧
        (∀ e, f.fault = some e →
          ((k.ringAt f.seq).seq = f.seq → (k.ringAt f.seq).state = ringIssued →
            (t.core c).ringAt f.seq = { k.ringAt f.seq with state := ringFaulted, cause := e.cause }) ∧
          (k.mode = .run → k.stops = [] → ∃ d : StopDue, (t.core c).stops = [d] ∧ d.cause = e.cause ∧ d.kind = 0b01 ∧
            d.seq = f.seq ∧ d.detail = e.detail ∧ d.detail2 = e.detail2))) ∧
    (∀ d, k.mode = .stopping d →
      (k.taken = none → ∃ t ms, exec .stop s = .next t ∧ t = { s with cores := t.cores, msgs := s.msgs ++ ms } ∧
        (∀ x, x ≠ c → t.core x = s.core x) ∧ t.core c = { k with stops := [], taken := some (s.outCount c, s.now, k.cyc) } ∧
        (k.res ≠ none → ms.length = (k.stops.filter (fun y => y.kind == 0b01)).length)) ∧
      (∀ x r a, k.taken = some x → k.res = some r → s.stopReady c = true → s.freeFrame r = some a →
        ∃ t, exec .stop s = .next t ∧ (t.core c).mode = .idle ∧ (t.core c).res = none ∧ (t.core c).stages = [] ∧
          (t.core c).seq = k.seq)) ∧
    (∀ f, s.retryDue c = true → (s.ownFlights c).filter (fun f => f.writesCore && !f.neverRetried) = [f] →
      ∃ t, exec .pendingRetryMark s = .next t ∧ (∀ x, x ≠ c → t.core x = s.core x) ∧ (∀ a, t.byteAt a = s.byteAt a) ∧
        (t.core c).ringAt f.seq = { k.ringAt f.seq with state := ringRetry } ∧
        (t.core c).reissue = k.reissue ++ [f.reissueRecord] ∧ (t.core c).mode = k.mode) ∧
    (∀ o arg r, k.mode = .suspending o arg → k.res = some r → k.stops = [] → k.stores = [] →
      (∀ x ∈ s.marks, x.agent = c → x.seq ≠ none) →
      (∀ f ∈ s.ownFlights c, f.writesCore = false ∧ o ≠ .done) →
      ∃ t, exec .suspension s = .next t ∧ (t.core c).mode = .idle ∧ (t.core c).res = none ∧ (t.core c).stages = []) ∧
    (∀ x, s.nextReady c = some x → s.fld x.record recFrame ≠ 1 →
      ∃ t, exec .continuationStart s = .next t ∧ (t.core c).mode = .run ∧
        (∃ r, (t.core c).res = some r ∧ r.record = x.record ∧ r.part = x.part) ∧
        (t.core c).pc = ⟨BitVec.ofNat 32 (s.fld x.record recPcoff), BitVec.ofNat 16 (s.fld x.record recOvl)⟩ ∧
        (∀ n, (t.core c).rg n = if n.toNat < 4 then BitVec.ofNat 64 (s.fld x.record (recG n.toNat)) else 0) ∧
        (t.core c).q = 0 ∧ (t.core c).lnk = 0 ∧ (t.core c).rm = 0 ∧ (∀ p, (t.core c).port_ p = 0) ∧ (t.core c).shadow = none) ∧
    (∀ x a, s.nextReady c = some x → s.frameFor x = some a → s.ringRoom c a = true →
      ∃ t, exec .frameRestore s = .next t ∧ (∃ r, (t.core c).res = some r ∧ r.record = x.record ∧ r.part = x.part) ∧
        (t.core c).g = (s.frameCore a k).g ∧ (t.core c).q = (s.frameCore a k).q ∧
        (t.core c).epc = (s.frameCore a k).epc ∧ (t.core c).pc = (s.frameCore a k).pc) ∧
    (∀ a, let rec_ := s.focus.n
      tabFind rec_ (s.part (s.queue (s.fld rec_ recQueue)).part).stopped = some a →
      s.fld rec_ recFrame = 1 → (s.fld rec_ recState = 1 ∨ s.fld rec_ recState = 4) →
      (∀ q ∈ s.queues, ∀ n o, .again rec_ n o ∉ q.2.units) → (∀ x ∈ s.clusters, ∀ y ∈ x.2.ready, y.record ≠ rec_) →
      ∃ t q, exec .resume s = .next t ∧
        .again rec_ (clusterOf (s.bitsIn a 512 11)) (some (s.bitsIn a 512 11)) ∈ (t.queue q).units) ∧
    (s.timedDue c = true → k.hold ≠ .none →
      ∃ t, exec .timedMove s = .next t ∧ (∀ x ∈ s.timedChosen c [] 0, (t.core c).timed[x.1]? = some {}) ∧
        ∀ i m r, s.timedChosen c [] 0 = [(i, some m)] → m.tgt = .g r → (∀ n, m.org ≠ .swR n) → k.guardValue m.guard = true →
          (t.core c).rg r = s.slotValue c 0 m)

/-! ### Walkers and the matrix engine at work (05 R190 to R196; 07 R229 to R247) -/

/-- WALKER_CONTENTS_CHECK: a descriptor that passes leaves the walker checked; one that fails makes it bad, with the cause, and
stops the core when a feed or a skip waited for it (05 R190). WALKER_ELEMENT_READY: a word that waits for its element takes a cycle.
FEED_ELEMENT: the element's bytes enter the FIFO, and a feed with a count has one fewer to move; one that lies below XB or in a poisoned
granule stops the core instead (04 R143, R146; 05 R194, R195). MX_COMMAND_CARRY_OUT: the next
command takes effect: cfg sets the engine's configuration, zero and wracc their tile, ffl empties FIFOs, and rdacc and stat take what
they deliver (07 R238 to R246). MX_GROUP_APPLY: the group's k-vectors leave the FIFOs, and only the command's tile changes (07 R239).
MX_FIFO_STALL: a command that has waited 2^20 cycles for a group ends in late fault 0x26 (07 R240). The constructors are
walkerContentsCheck, walkerElementReady, feedElement, mxCommandCarryOut, mxGroupApply and mxFifoStall. -/
def Obligations.WalkersAndMatrixEngineWork : Prop :=
  ∀ s : State,
    let c := s.focus.core
    let k := s.core c
    let n := BitVec.ofNat 2 s.focus.n
    let w := k.walker n
    (w.checkIn = some 0 → ∃ t, exec .walkerContentsCheck s = .next t ∧ s.OnlyCore t c ∧
      ((t.core c).walker n).checkIn = none ∧ (∀ j, j ≠ n → (t.core c).walker j = k.walker j) ∧
      (s.walkerContents c w = none → w.held = [] → w.exh = false →
        (t.core c).walker n = { w with checkIn := none } ∧ (t.core c).stops = k.stops) ∧
      ∀ e, s.walkerContents c w = some e → ((t.core c).walker n).bad = true ∧ ((t.core c).walker n).badCause = e ∧
        ((t.core c).walker n).feeding = false ∧
        (w.feeding = false → (∀ h ∈ w.held, h.1 = true) → (t.core c).stops = k.stops) ∧
        (w.feeding = true ∨ (∃ h ∈ w.held, h.1 = false) → ∃ d, (t.core c).stops = k.stops ++ [d] ∧ d.cause = e)) ∧
    (w.stalls = true → k.mode = .run → ∃ t, exec .walkerElementReady s = .next t ∧ s.OnlyCore t c ∧
      t.core c = k.endCycle ∧ (t.core c).pc = k.pc ∧ k.SameRegs (t.core c)) ∧
    (k.feedReady n = true → s.focus.ecc = .clean →
      let a := s.walkerAddr w
      let above := k.xb.toNat ≤ a - slotBase c
      (above → s.poisoned? a w.width = none → k.pendingStores = [] →
        ∃ t, exec .feedElement s = .next t ∧ s.OnlyCore t c ∧
          (let bs := (List.range w.width).map (fun i => s.byteAt (a + i))
          if w.fifoB then (t.core c).mx.fifoB = k.mx.fifoB ++ bs ∧ (t.core c).mx.fifoA = k.mx.fifoA
            else (t.core c).mx.fifoA = k.mx.fifoA ++ bs ∧ (t.core c).mx.fifoB = k.mx.fifoB) ∧
          ((t.core c).walker n).exh = (w.exh || decide (w.pos + 1 = w.total)) ∧
          (((t.core c).walker n).feeding = true → w.feedLeft ≠ 0 → ((t.core c).walker n).feedLeft = w.feedLeft - 1)) ∧
      (¬ above → ∃ t d, exec .feedElement s = .next t ∧ s.OnlyCore t c ∧
        t.core c = { k with stops := k.stops ++ [d] } ∧ d.cause = 0x06) ∧
      ∀ g, above → s.poisoned? a w.width = some g → ∃ t d, exec .feedElement s = .next t ∧ s.OnlyCore t c ∧
        t.core c = { k with stops := k.stops ++ [d] } ∧ d.cause = 0x22 ∧ d.detail = BitVec.ofNat 64 (32 * g)) ∧
    (∀ x (f : Flight) y o, s.mxNext c = some (x, f, y) → f.op = .mx o →
      let acc : BitVec 2 := f.t.extractLsb' 0 2
      let row := (f.t.extractLsb' 7 6).toNat
      ∃ t, exec .mxCommandCarryOut s = .next t ∧ (o ≠ .ldscale → (∀ a, a ≠ c → t.core a = s.core a) ∧
          k.SameRegs { t.core c with mx := k.mx }) ∧
        (o = .cfg → (t.core c).mx.ecfg = f.t.setWidth 41) ∧
        (o = .zero → (t.core c).mx.tile acc = 0 ∧ ∀ j, j ≠ acc → (t.core c).mx.tile j = k.mx.tile j) ∧
        (o = .wracc → (t.core c).mx.tile acc = setTileRows (k.mx.tile acc) row (imageOf 4096 f.data) ∧
          ∀ j, j ≠ acc → (t.core c).mx.tile j = k.mx.tile j) ∧
        (o = .ffl → (t.core c).mx.fifoA = (if acc.getLsbD 0 = true then [] else k.mx.fifoA) ∧
          (t.core c).mx.fifoB = if acc.getLsbD 1 = true then [] else k.mx.fifoB) ∧
        (o = .rdacc ∨ o = .stat → f.agent = c → s.flight? c f.seq = some f → ∃ g, t.flight? c f.seq = some g ∧ g.phase = .ready ∧
          g.earliest = k.cyc + (if o = .stat then 2 else 8) ∧
          (o = .stat → g.result = some (mxStatus { k.mx with startAt := k.cyc + 1 } y.length)) ∧
          (o = .rdacc → g.data = imageBytes (rdaccValue (cfgInt k.mx.ecfg) f.t f.rm (tileRows (k.mx.tile acc) row)).1)) ∧
        (o = .mmaz → ¬ (k.mx.hvalid = true ∧ k.mx.hseq = f.seq) → (t.core c).mx.tile acc = 0)) ∧
    (∀ f, s.mxActive c = some f → k.mxGroupReady = true →
      let acc : BitVec 2 := f.t.extractLsb' 0 2
      let g := k.mx.groupLen
      ∃ t, exec .mxGroupApply s = .next t ∧ (∀ a, a ≠ c → t.core a = s.core a) ∧ k.SameRegs { t.core c with mx := k.mx } ∧
        (t.core c).mx.fifoA = k.mx.fifoA.drop (g * (8 * (cfgA k.mx.ecfg).size)) ∧
        (t.core c).mx.fifoB = k.mx.fifoB.drop (g * (8 * (cfgB k.mx.ecfg).size)) ∧
        (t.core c).mx.kdone = k.mx.kdone + BitVec.ofNat 17 g ∧ (∀ j, j ≠ acc → (t.core c).mx.tile j = k.mx.tile j) ∧
        (k.mx.kdone.toNat + g < cfgK k.mx.ecfg → t.flights = s.flights)) ∧
    (∀ f, s.mxStalled c = true → s.mxActive c = some f → s.flight? c f.seq = some f → f.counted = true → f.frame = none → f.retry = false → isCompute c = true →
      k.mode = .run → k.stops = [] → ∃ t d, exec .mxFifoStall s = .next t ∧ (t.core c).stops = [d] ∧ d.cause = 0x26 ∧
        d.detail = k.mx.kdone.setWidth 64 ∧ d.detail2 = k.mx.lacks ∧
        t.flights = s.flights.filter (fun g => !(g.agent == c && g.seq == f.seq)))

/-! ### Handover engines at work (08 R254 to R304; 12 R472) -/

/-- The changes that an operation's handover engine makes, once its turn at the descriptor has come (08 R260). What a register receives
stands with the operation until it completes (08 R256). free clears the descriptor (R269); alloc gives kd the whole capability of a
buffer of its own, or leaves kd empty with CODE 4 (R268); split gives kd its fraction or grants and adds them to COUNT (R272); bindmb
binds an unbound mailbox, and closemb unbinds the caller's (R288, R289); recv gives kd the capability at the head of the queue, and
of an empty mailbox leaves kd empty with CODE 1 (R291); a send that moves rights only sets its message out (R279). An uncorrectable
error in the descriptor poisons the buffer as a whole and is recorded (R304; that the change goes on is the model's choice, log 128). The
constructor is descriptorChange. -/
def Obligations.DescriptorChanges : Prop :=
  ∀ (s : State) (f : Flight),
    let a := s.focus.core
    let q := s.focus.seq
    let cl := a / 16
    let mb := (f.t.extractLsb' 0 10).toNat
    let code (w : Option Word) (n : BitVec 8) : Prop := ∃ x, w = some x ∧ x.extractLsb' 0 8 = n
    s.flight? a q = some f → f.phase = .change → isCompute a = true → f.counted = true →
    (s.focus.ecc = .clean →
      (∀ c, f.op = .cap .free → f.ca = some c → ∃ t g, exec .descriptorChange s = .next t ∧ t.flight? a q = some g ∧
        g.phase = .ready ∧ t.bufDesc c.part c.desc.toNat = none) ∧
      (∀ x i, f.op = .cap .alloc → s.allocRange f = some x → s.freeDesc f.res.part = some i →
        ∃ t g d, exec .descriptorChange s = .next t ∧ t.flight? a q = some g ∧ g.phase = .ready ∧ code g.result 0 ∧
          g.kres = [(f.kb, .cap ⟨.whole, f.res.part, BitVec.ofNat 32 i, f.t.extractLsb' 16 6, 0⟩)] ∧
          t.bufDesc f.res.part i = some d ∧ d.base = BitVec.ofNat 64 x ∧ d.cls = f.t.extractLsb' 8 3 ∧
          d.fmt = f.t.extractLsb' 11 4 ∧ d.share = 0 ∧ ∀ x, t.byteAt x = s.byteAt x) ∧
      (f.op = .cap .alloc → s.allocRange f = none ∨ s.freeDesc f.res.part = none →
        ∃ t g, exec .descriptorChange s = .next t ∧ t.flight? a q = some g ∧ g.phase = .ready ∧ code g.result 4 ∧
          g.kres = [(f.kb, .empty)] ∧ ∀ p i, t.bufDesc p i = s.bufDesc p i) ∧
      (∀ c d, f.op = .cap .split → f.ca = some c → c.owns = true → s.bufDesc c.part c.desc.toNat = some d →
        ∃ t g d', exec .descriptorChange s = .next t ∧ t.flight? a q = some g ∧ g.phase = .ready ∧ code g.result 0 ∧
          g.kres = [(f.kb, .cap { c with
            kind := if f.t.getLsbD 5 = true then .grant else .fraction
            rights := if f.t.getLsbD 5 = true then rightA ||| rightS else c.rights &&& (rightR ||| rightS ||| rightM ||| rightX)
            count := f.t.extractLsb' 16 16 })] ∧
          t.bufDesc c.part c.desc.toNat = some d' ∧ d'.count = d.count + f.t.extractLsb' 16 16 ∧ d'.base = d.base ∧
          d'.share = if f.t.getLsbD 5 = true then 0b10 else 0b01) ∧
      (f.op = .cap .bindmb → ∃ t g, exec .descriptorChange s = .next t ∧ t.flight? a q = some g ∧ g.phase = .ready ∧
        let me : Binding := .cont f.res.record f.res.part
        let mine := (s.mailbox cl mb).bound = .unbound ∨ (s.mailbox cl mb).bound = me
        (mine → code g.result 0 ∧ (t.mailbox cl mb).bound = me ∧ (t.mailbox cl mb).queue = (s.mailbox cl mb).queue) ∧
        (¬ mine → code g.result 2 ∧ (t.mailbox cl mb).bound = (s.mailbox cl mb).bound)) ∧
      (f.op = .cap .closemb → ∃ t g, exec .descriptorChange s = .next t ∧ t.flight? a q = some g ∧ g.phase = .ready ∧
        let mine := (s.mailbox cl mb).bound = .cont f.res.record f.res.part
        (mine → code g.result 0 ∧ (t.mailbox cl mb).bound = .unbound ∧ (t.mailbox cl mb).queue = []) ∧
        (¬ mine → code g.result 3 ∧ t.mailbox cl mb = s.mailbox cl mb)) ∧
      (f.op = .cap .recv → (s.mailbox cl mb).bound.held f.res = true → (s.mailbox cl mb).queue = [] →
        ∃ t g, exec .descriptorChange s = .next t ∧ t.flight? a q = some g ∧ g.phase = .ready ∧ code g.result 1 ∧
          g.kres = [(f.kb, .empty)]) ∧
      (∀ m ms c w x y, f.op = .cap .recv → (s.mailbox cl mb).bound = .cont f.res.record f.res.part →
        (s.mailbox cl mb).queue = m :: ms → m.pay = .cap c w x y →
        ∃ t g, exec .descriptorChange s = .next t ∧ t.flight? a q = some g ∧ g.phase = .ready ∧ code g.result 0 ∧
          g.kres = [(f.kb, .cap c)] ∧ (t.mailbox cl mb).queue = ms) ∧
      (∀ c d, f.op = .cap .send → f.ca = some c → s.descOf c = some d → f.index = 1 → d.cls = 2 →
        f.t.getLsbD 32 = false → f.t.getLsbD 33 = false → ∃ t g m, exec .descriptorChange s = .next t ∧ t.flight? a q = some g ∧
          g.phase = .message ∧ t.msgs = s.msgs ++ [m] ∧ m.mbox = f.t.extractLsb' 0 17 ∧ m.src = a ∧ m.seq = some q ∧
          m.pay = .cap c (f.o.extractLsb' 0 32) false false)) ∧
    (∀ c d, s.focus.ecc = .uncorrectable → f.op = .cap .split → f.ca = some c → c.owns = true → s.descOf c = some d →
      translated d.cls = false → ∃ t d' m r, exec .descriptorChange s = .next t ∧ t.descOf c = some d' ∧ d'.pois = true ∧
        (∀ j, j < d.len / 32 → d.base.toNat / 32 + j ∈ t.poison) ∧ t.msgs = s.msgs ++ [m] ∧ m.pay = .record r ∧
        r.extractLsb' 0 8 = 0x22)

/-- What else a handover does on its way. DRAIN: once every earlier access to the buffer has been performed the operation goes on:
to its snoops when the host receives, to its packets for an mcast, else to its change (08 R280; 01 R54). BACK_INVALIDATE: answered
snoops let it go on, and BI_STALL records snoops that have stood too long, once (12 R472). HANDOVER_COPY: a copy takes the place that the
receiving mailbox gives it, or fails for want of space; then it reads and writes line by line through the memory's own queue, until
everything has been written (01 R30; 08 R281, R282). MESSAGE_ARRIVAL: a message joins the queue of a bound mailbox (08 R290).
JOIN_PACKET and PRUNE_PACKET: a subscription is entered or removed (08 R294). MULTICAST_PACKET: COUNT rises by the deliveries, and each
sets its message out (08 R295). WINDOW_RECALL: a core that stops has its windows whole again (08 R300). The constructors are drain,
backInvalidate, biStall, handoverCopy, messageArrival, joinPacket, prunePacket, multicastPacket and windowRecall. -/
def Obligations.HandoversProceed : Prop :=
  ∀ (s : State),
    let a := s.focus.core
    let q := s.focus.seq
    let code (w : Option Word) (n : BitVec 8) : Prop := ∃ x, w = some x ∧ x.extractLsb' 0 8 = n
    (∀ f, s.flight? a q = some f →
      let x := f.subOf s
      let gives := f.op = .cap .send ∨ f.op = .cp .copys
      (f.phase = .drain → s.drained f = false → exec .drain s = .next s) ∧
      (f.phase = .drain → s.drained f = true → ∃ t g, exec .drain s = .next t ∧ t.flight? a q = some g ∧
        g = { f with
          phase := if gives ∧ f.t.getLsbD 33 = true then .snoop else if f.op = .cap .mcast then .packets else .change
          snoopAt := s.now
          earliest := max f.earliest ((s.view a).cyc + if gives then 24 else 20) }) ∧
      (f.phase = .snoop → s.focus.data ≠ 1 → ∃ t g, exec .backInvalidate s = .next t ∧ t.flight? a q = some g ∧ g.phase = .change ∧
        t = { s with flights := t.flights }) ∧
      (∀ p, f.phase = .snoop → s.focus.data ≠ 1 → f.stalled = false → s.ports[s.focus.die]? = some p →
        f.snoopAt.toNat + 1000 * p.bistall.toNat ≤ s.now.toNat → ∃ t g, exec .biStall s = .next t ∧ t.flight? a q = some g ∧
          g = { f with stalled := true }) ∧
      (f.op = .cap .sub → f.phase = .packets → isCompute a = true →
        let full := 16 ≤ (s.core a).subs.length ∨ s.feature 1 = false ∨
          ∃ r ∈ joinMarks (agentCluster a) (s.subEnd x (agentCluster a)), (s.cluster r.1).branchRoom x.dev x.core x.tag = false
        let held := (s.mailbox (agentCluster a) x.mbox.toNat).bound.held f.res = true
        x.dev = s.dev → ∃ t g, exec .joinPacket s = .next t ∧ t.flight? a q = some g ∧ g.phase = .ready ∧
          ((s.sluiceOf a).en = false → g.fault = some ⟨0x20, 0, 1⟩ ∧ t = { s with flights := t.flights }) ∧
          ((s.sluiceOf a).en = true → held → ¬ full → code g.result 0 ∧ x ∈ (t.core a).subs) ∧
          ((s.sluiceOf a).en = true → ¬ held → code g.result 3 ∧ (t.core a).subs = (s.core a).subs) ∧
          ((s.sluiceOf a).en = true → held → full → code g.result 5 ∧ (t.core a).subs = (s.core a).subs)) ∧
      (f.op = .cap .unsub → f.phase = .packets → isCompute a = true → x.dev = s.dev →
        ∃ t g, exec .prunePacket s = .next t ∧ t.flight? a q = some g ∧ g.phase = .ready ∧ x ∉ (t.core a).subs ∧
          (x ∈ (s.core a).subs → code g.result 0) ∧ (x ∉ (s.core a).subs → code g.result 7)) ∧
      (∀ c d, f.op = .cap .mcast → f.phase = .packets → f.ca = some c → s.descOf c = some d → d.cls = 2 → s.mcastWaits f = false →
        let to_ := s.subscribers (agentCore a) (f.t.extractLsb' 0 16)
        s.subLinks (agentCore a) (f.t.extractLsb' 0 16) = [] → to_ ≠ [] → f.agent = a →
        (∀ b ∈ to_, s.sluicePasses a b none false = true) →
        ∃ t g d', exec .multicastPacket s = .next t ∧ t.flight? a q = some g ∧ g.phase = .message ∧ g.open_ = to_.length ∧
          code g.result 0 ∧ t.descOf c = some d' ∧ d'.count = d.count + BitVec.ofNat 16 to_.length ∧
          ∃ ms, t.msgs = s.msgs ++ ms ∧ ms.map (·.mbox) = to_ ∧
            ∀ m ∈ ms, ∃ e w, m.pay = .cap e w false false ∧ e.kind = .fraction ∧ e.count = 1 ∧ e.desc = c.desc)) ∧
    (∀ h m, tabFind s.focus.n s.hauls = some h → h.goes = true → h.fault = none → h.goal = .mailbox m →
      (∀ f ∈ s.flights, f.phase = .copying → f.index ≠ s.focus.n) →
      let n := s.focus.n
      let box := s.mailbox (mboxCluster m) (mboxIndex m)
      let from_ := h.desc.base.toNat + 32 * h.data.length
      (∀ p, h.place = none → box.bound.part? = some p → ∃ t, exec .handoverCopy s = .next t ∧ t = { s with hauls := t.hauls } ∧
        tabFind n t.hauls = some (if s.copyTo (mboxCluster m) box p h.desc = .full
          then { h with over_ := true, fault := some ⟨0x20, 0, 2⟩ }
          else { h with place := some (s.copyTo (mboxCluster m) box p h.desc), part := p })) ∧
      (∀ c p cl o, h.place = some p → h.src = some c → h.data.length ≤ h.put → 32 * h.data.length < h.desc.len → h.desc.cls = 1 →
        placeOf from_ = .sram cl o → ∃ t r, exec .handoverCopy s = .next t ∧ tabFind n t.hauls = some { h with busy := true } ∧
          (t.cluster cl).xbar = (s.cluster cl).xbar ++ [r] ∧
          r.acc = .read from_ (min (32 * (4 - from_ / 32 % 4)) (h.desc.len - 32 * h.data.length)) 0) ∧
      (∀ c b cl o bs, h.place = some (.place b 1) → h.src = some c → h.data[h.put]? = some bs → bs ≠ [] →
        placeOf (b + 32 * h.put) = .sram cl o → ∃ t r k rest, exec .handoverCopy s = .next t ∧
          tabFind n t.hauls = some { h with busy := true, moving := k } ∧ 1 ≤ k ∧
          (t.cluster cl).xbar = (s.cluster cl).xbar ++ [r] ∧ r.acc = .write (b + 32 * h.put) (bs ++ rest) []) ∧
      (∀ c b cls, h.place = some (.place b cls) → h.src = some c → h.data.length ≤ h.put → h.desc.len ≤ 32 * h.data.length →
        ∃ t, exec .handoverCopy s = .next t ∧ t = { s with hauls := t.hauls } ∧
          tabFind n t.hauls = some { h with over_ := true })) ∧
    (∀ m c w x y, s.msgs[s.focus.n]? = some m → s.msgReady s.focus.n = true → m.pay = .cap c w x y → m.dev = none →
      m.host = false → m.peer = none → m.cmd = none → m.haul = none →
      (s.mailbox (mboxCluster m.mbox) (mboxIndex m.mbox)).bound.part? = some c.part →
      ∃ t, exec .messageArrival s = .next t ∧ t.msgs = s.msgs.eraseIdx s.focus.n ∧
        (t.mailbox (mboxCluster m.mbox) (mboxIndex m.mbox)).queue =
          (s.mailbox (mboxCluster m.mbox) (mboxIndex m.mbox)).queue ++ [m] ∧
        ∀ z f, m.seq = some z → s.flight? m.src z = some f → f.op = .cap .send → ∃ g, t.flight? m.src z = some g ∧ g.phase = .ready) ∧
    (∀ d, (s.core a).mode = .stopping d → s.windowsQuiet a = true → ∃ t, exec .windowRecall s = .next t ∧
      (t.core a).vaway = 0 ∧ (t.core a).taway = 0)
/-! ### The Copy path at work (09 R309 to R317) -/

/-- COPY_START: when the copy-like operations before it have started, fewer than eight are at work and none of them has still to use the
memory that it reads first, the formats are fixed, those that do not fit ending it in late fault 0x23 (09 R309, R310). COPY_PIECE: the
next piece of a fill writes its pattern and that of a copy reads its source, each ending at a multiple of 128 bytes of the destination;
a piece that has been read is written; an operation that has written its whole range goes on to its signals, a copys to its send; a gath
that came to a row outside its source ends in late fault 0x20 (09 R310 to R313). HOST_FLUSH_READ: the read answered, the operation goes on
likewise (09 R317). COMPLETION_SIGNALS: the token word is sent first, then the decrements, and the operation is ready (09 R315). The
constructors are copyStart, copyPiece, hostFlushRead and completionSignals. The order of pieces is the model's (log 40). -/
def Obligations.CopiesProceed : Prop :=
  ∀ (s : State) (f : Flight) (op : CpOp),
    let a := s.focus.core
    let q := s.focus.seq
    let only : Prop := s.flights.filter (fun g => g.agent == a && g.seq == q) = [f]
    let room : Prop := (s.sluiceOf a).en = true ∧ s.tableWaits a = 0
    let stops : Prop := isCompute a = true ∧ f.counted = true ∧ f.retry = false ∧ f.frame = none ∧ (s.core a).mode = .run ∧
      (s.core a).stops = []
    let stopped (t : State) (e : StopDue) : Prop := (t.core a).stops = [e] ∧ e.seq = q ∧ t.flight? a q = none
    let near (d : Desc) : Prop := translated d.cls = false ∧ d.cls.toNat < 6
    only → f.op = .cp op → op = .copy ∨ op = .copys ∨ op = .fill ∨ op = .gath →
    (f.phase = .issued → s.copyMayStart f = true →
      (op = .fill ∨ op = .gath → ∃ t g, exec .copyStart s = .next t ∧ t.flight? a q = some g ∧ g.phase = .active ∧ g.fs = .bytes ∧
        g.fd = .bytes ∧ t = { s with flights := t.flights }) ∧
      (∀ c d ds dd, op = .copy ∨ op = .copys → f.ca = some c → f.cb = some d → s.descOf c = some ds → s.descOf d = some dd →
        let fs := s.sideFmt ds (f.cpSpan s).1 (cpSfmt f.o)
        let fd := s.sideFmt dd (f.cpSpan s).2.2 (cpDfmt f.o)
        (s.startErr f fs fd c d ds dd = none → ∃ t g, exec .copyStart s = .next t ∧ t.flight? a q = some g ∧ g.phase = .active ∧
          g.fs = fs ∧ g.fd = fd ∧ t = { s with flights := t.flights }) ∧
        (∀ x, s.startErr f fs fd c d ds dd = some x → stops → ∃ t e, exec .copyStart s = .next t ∧ stopped t e ∧
          e.cause = 0x23 ∧ e.detail = BitVec.ofNat 64 f.op.code ∧ e.detail2 = x.code.setWidth 64))) ∧
    (∀ c d, f.phase = .active → f.fault = none → f.stream = none → f.stage = 0 → f.cb = some c → s.descOf c = some d → s.hostq = [] →
      let d0 := (f.cpSpan s).2.2
      let len := min (f.cpTotal s - f.pos) (128 - (d.base.toNat + d0 + f.pos) % 128)
      (s.focus.n = 1 → op ≠ .gath → f.pos < f.cpTotal s → near d → room → s.tableUsed a < 4096 →
        s.copyBehind f (f.ca.orElse (fun _ => f.cb)) = false →
        (op = .fill → ∃ t g r, exec .copyPiece s = .next t ∧ t.flight? a q = some g ∧ g.pos = f.pos + len ∧ g.open_ = f.open_ + 1 ∧
          t.StandsAt r ∧ r.src = .op a q ∧ r.path = 3 ∧ r.cls = d.cls ∧ r.acc = .write (d.base.toNat + (d0 + f.pos))
            ((List.range len).map (fun i => imageByte f.o ((f.pos + i) % 8))) [] ∧ ∀ x, t.byteAt x = s.byteAt x) ∧
        (∀ b ds, op = .copy ∨ op = .copys → f.ca = some b → s.descOf b = some ds → near ds → ∃ t g p, exec .copyPiece s = .next t ∧
          t.flight? a q = some g ∧ g.pos = f.pos + len ∧ g.pieces = f.pieces ++ [p] ∧ p.pos = f.pos ∧ p.len = len ∧
          g.open_ = f.open_ + p.left ∧ ∀ x, t.byteAt x = s.byteAt x)) ∧
      (∀ p ps, s.focus.n = 0 → f.pieces = p :: ps → p.left = 0 → near d → room → s.tableUsed a < 4096 → s.copyBehind f f.cb = false →
        ∃ t g r, exec .copyPiece s = .next t ∧ t.flight? a q = some g ∧ g.pieces = ps ∧ g.pos = f.pos ∧ g.open_ = f.open_ + 1 ∧
          t.StandsAt r ∧ r.src = .op a q ∧ r.path = 3 ∧ r.cls = d.cls ∧
          r.acc = (f.pieceWrite s p).moveTo (d.base.toNat + (d0 + p.pos)) ∧ ∀ x, t.byteAt x = s.byteAt x) ∧
      (f.pieces = [] → f.open_ = 0 → f.goal s ≤ f.pos → s.indexDue f = false →
        (op ≠ .gath ∨ f.badRow s = none → d.cls ≠ 3 → ∃ t g, exec .copyPiece s = .next t ∧ t.flight? a q = some g ∧
          g.phase = (if op = .copys then .drain else .signals) ∧ t = { s with flights := t.flights }) ∧
        (∀ i x, op = .gath → f.badRow s = some (i, x) → stops → ∃ t e, exec .copyPiece s = .next t ∧ stopped t e ∧
          e.cause = 0x20 ∧ e.detail = BitVec.ofNat 64 i ∧ e.detail2 = BitVec.ofNat 64 x))) ∧
    (f.phase = .flush → f.open_ = 0 → s.hostq = [] → ∃ t g, exec .hostFlushRead s = .next t ∧ t.flight? a q = some g ∧
      g.phase = (if op = .copys then .drain else .signals) ∧ t = { s with flights := t.flights }) ∧
    (f.phase = .signals → f.open_ = 0 → f.fault = none → f.stage = 0 →
      (f.sigs = none → ∃ t g, exec .completionSignals s = .next t ∧ t.flight? a q = some g ∧ g.phase = .ready ∧
        t = { s with flights := t.flights }) ∧
      (∀ g0, f.sigs = some g0 → (g0.ord = true → s.ordWaits f = false) →
        (∀ h, g0.token = none → g0.tcb = some h → g0.weir = none → ∃ t g r, exec .completionSignals s = .next t ∧
          t.flight? a q = some g ∧ g.phase = .ready ∧ t.asks = s.asks ++ [r] ∧ r.ask = .dec (h.setWidth 32)) ∧
        (∀ w, g0.token = none → g0.tcb = none → g0.weir = some w → s.barForeign f.res.part (w.toNat / 64) (w.toNat % 64) = false →
          ∃ t g r, exec .completionSignals s = .next t ∧ t.flight? a q = some g ∧ g.phase = .ready ∧ t.asks = s.asks ++ [r] ∧
            r.ask = .bytes w f.pos) ∧
        (∀ c off d, g0.token = some (c, off) → s.descOf c = some d → near d → room → s.tableUsed a < 4096 →
          ∃ t g r, exec .completionSignals s = .next t ∧ t.flight? a q = some g ∧ g.stage = 1 ∧ g.open_ = 1 ∧ t.StandsAt r ∧
            r.src = .op a q ∧ r.acc = .write (d.base.toNat + off) (leBytes 8 (1#1 ++ s.now.extractLsb' 0 47 ++ q).toNat) [] ∧
            t.asks = s.asks)))

/-! ### Memories and translation units (01 R29 to R52; 05 R177, R178, R199; 09 R328 to R336) -/

/-- A memory serves a request: a scratchpad's port, a cluster's crossbar or a slice of the last-level cache. A read brings the bytes to
its operation, a write stores them, and the request leaves its queue (01 R30, R49; 05 R178, R199). An accumulate packet stores the
new value of its element in one step, and a fetch-and-op brings the old one (09 R328, R329). A batch packet joins the open batch (09
R334). A close marker counts, and the last one, or the owner's, closes the batch (09 R333, R334). A line may be evicted instead (01
R49; 09 R339). No error of the memory is found in the access. The constructors are portAccess, crossbarAccess, llcAccess,
accumulateApply, batchPacketHold and closeMarker. -/
def Obligations.MemoriesServe : Prop :=
  ∀ (s : State) (i : Instr) (u n : Nat) (k : Serve), s.focus.ecc = .clean →
    (i = .portAccess ∧ u = s.focus.core ∧ n = 0 ∧ k = .access ∨
      i = .crossbarAccess ∧ u = sramUnit s.focus.cluster ∧ n = s.focus.n ∧ k = .access ∨
      i = .llcAccess ∧ s.focus.data ≠ 1 ∧ u = sliceUnit s.focus.die ∧ n = s.focus.n ∧ k = .access ∨
      i = .accumulateApply ∧ u = s.focus.addr ∧ n = s.focus.n ∧ k = .apply ∨
      i = .batchPacketHold ∧ u = s.focus.addr ∧ n = s.focus.n ∧ k = .hold ∨
      i = .closeMarker ∧ u = s.focus.addr ∧ n = s.focus.n ∧ k = .close) →
    ∀ (j : Nat) (r : Req), s.pickReq u k n = some j → (s.queueAt u)[j]? = some r → r.cls ≠ 4 →
    (∀ x q f, r.src = .op x q → s.flight? x q = some f → f.fault = none →
      (∀ a m p, r.acc = .read a m p → s.belowXb r false a = none → s.readPoison r a m = none →
        ∃ t g, exec i s = .next t ∧ t.flight? x q = some g ∧ g.data = splice f.data p (s.readBytes a m) ∧ g.open_ = f.open_ - 1 ∧
          t.queueAt u = (s.queueAt u).eraseIdx j ∧ ∀ y, t.byteAt y = s.byteAt y) ∧
      (∀ a bs, r.acc = .write a bs [] → bs ≠ [] → s.belowXb r true a = none → (∀ y, y < bs.length → plainByte (a + y)) →
        ∃ t g, exec i s = .next t ∧ t.flight? x q = some g ∧ g.open_ = f.open_ - 1 ∧ s.BytesStored t a bs ∧
          t.queueAt u = (s.queueAt u).eraseIdx j) ∧
      (∀ a ty op v fetch, r.acc = .acc a ty op v fetch false → s.belowXb r true a = none →
        s.readPoison r a (accBytes ty) = none → (∀ y, y < accBytes ty → plainByte (a + y)) →
        let old := leNat (s.readBytes a (accBytes ty))
        ∃ t g, exec i s = .next t ∧ t.flight? x q = some g ∧ g.open_ = f.open_ - 1 ∧
          g.result = (if fetch = true then some (accOld ty old) else f.result) ∧
          s.BytesStored t a (leBytes (accBytes ty) (accNew ty op r.rm old (v.toNat % 2 ^ (8 * accBytes ty)))) ∧
          t.queueAt u = (s.queueAt u).eraseIdx j) ∧
      (∀ a ty op v fetch b, r.acc = .acc a ty op v fetch true → s.batchOf r.part r.desc = some b → s.heldAt b.unit < 8192 →
        ∃ t, exec i s = .next t ∧ t.batchOf r.part r.desc = some { b with held := b.held ++ [r] } ∧
          t.flight? x q = some f ∧ t.queueAt u = (s.queueAt u).eraseIdx j ∧ ∀ y, t.byteAt y = s.byteAt y)) ∧
    (∀ a owner b, (∀ x y, r.src ≠ .haul x y) → r.acc = .batchClose a owner → s.batchOf r.part r.desc = some b →
      ∃ t, exec i s = .next t ∧ (owner = true ∨ b.closes ≤ 1 → t.batchOf r.part r.desc = none) ∧
        (owner = false → 1 < b.closes → t.batchOf r.part r.desc = some { b with closes := b.closes - 1 } ∧
          t.queueAt u = (s.queueAt u).eraseIdx j))

/-- An evicted line of this device's memory leaves its slice and no byte changes (01 R49; 09 R339). TRANSLATION_WALK: a request whose
translation is held goes on to its memory, or ends in late fault 0x21 where the leaf forbids it; for another a walk begins, which reads
one entry for each level through a slice, and ends in a translation that the unit keeps (01 R42, R44). The invalidation commands start one
of their scope for the partition, or wait while one is in progress (01 R46); INVALIDATION_FINISH leaves no entry that it covers, in the
unit or behind a capability register that the unit serves, and walks that it covers begin again (01 R45, R47). The constructors are
llcAccess, translationWalk, xlatInvalPage, xlatInvalPartition, xlatInvalAll and invalidationFinish. -/
def Obligations.TranslationUnitsWork : Prop :=
  ∀ (s : State),
    let cl := s.focus.cluster
    let k := s.cluster cl
    (∀ l, s.focus.data = 1 → s.focus.ecc = .clean → l.remote = none →
      s.lines.find? (fun x => x.die == s.focus.die && x.num == s.focus.addr / 128) = some l →
      ∃ t, exec .llcAccess s = .next t ∧ t = { s with lines := s.lines.filter (· != l) }) ∧
    (∀ j r, (pickWalk k.walks s.focus.n).orElse (fun _ => pickWalk k.walks 0) = some j → k.walks[j]? = some r → s.reqDead r = false →
      (∀ x, s.heldXlate r = some x → x.allows r.cls r.acc.writes = true → translated r.cls = true →
        ∃ t, exec .translationWalk s = .next t ∧ (t.cluster cl).walks = k.walks.eraseIdx j ∧
          t.StandsAt { r with nc := x.nc, home := x.dev, acc := r.acc.moveTo (x.pa + (r.va - x.va)) } ∧ ∀ y, t.byteAt y = s.byteAt y) ∧
      (∀ x a q f, s.heldXlate r = some x → x.allows r.cls r.acc.writes = false → r.src = .op a q → s.flight? a q = some f → 1 < f.open_ →
        ∃ t g, exec .translationWalk s = .next t ∧ (t.cluster cl).walks = k.walks.eraseIdx j ∧ t.flight? a q = some g ∧
          g.fault = some ⟨0x21, BitVec.ofNat 64 r.va, BitVec.ofNat 64 x.level⟩) ∧
      (let b := k.xbase[r.xpart.toNat]'(r.xpart.isLt)
        let w : Walk := ⟨k.walkNext, r.xpart, r.va / 65536, 1, 32768 * (b.extractLsb' 15 37).toNat, [], 0⟩
        s.heldXlate r = none → (∀ v ∈ k.walking, v.serves r = false) → k.walking.length < 64 → b.getLsbD 0 = true →
        ∃ t v, exec .translationWalk s = .next t ∧ (t.cluster cl).walks = k.walks ∧ (t.cluster cl).walking = k.walking ++ [w] ∧
          v.src = .walk cl w.id ∧ v.acc = .read (w.table + 8 * (r.va / 2 ^ 52 % 4096)) 8 0 ∧
          t.queueAt (sliceUnit (hbmDie v.acc.addr)) = s.queueAt (sliceUnit (hbmDie v.acc.addr)) ++ [v])) ∧
    (∀ u j r c id w p, s.focus.data ≠ 1 → s.focus.ecc = .clean → u = sliceUnit s.focus.die → s.pickReq u .access s.focus.n = some j →
      (s.queueAt u)[j]? = some r → r.cls = 2 → r.src = .walk c id → r.acc = .read p 8 0 → placeOf p = .hbm → s.poisoned? p 8 = none →
      (s.cluster c).walking.find? (fun x => x.id == id) = some w → w.runLen = 0 →
      let e := leNat (s.readBytes p 8)
      pteV e = true →
      (pteLeaf e = true → leafBad w.level e = false → pteCh e = false → ∃ t, exec .llcAccess s = .next t ∧
        (t.cluster c).tlb = tlbPut (s.cluster c).tlb (leafXlate w.part (65536 * w.page) e (leafSize w.level)) ∧
        ∀ x ∈ (t.cluster c).walking, x.id ≠ id) ∧
      (pteLeaf e = false → pointerBad w.level e = false → ∃ t v, exec .llcAccess s = .next t ∧
        { w with level := w.level + 1, table := pteTable e } ∈ (t.cluster c).walking ∧ (t.cluster c).tlb = (s.cluster c).tlb ∧
        v.src = .walk c id ∧ v.acc = .read (pteTable e + 8 * levelIndex (w.level + 1) (65536 * w.page)) 8 0 ∧
        v ∈ t.queueAt (sliceUnit (hbmDie v.acc.addr)))) ∧
    (∀ i scope, (i, scope) ∈ [(Instr.xlatInvalPage, (0 : BitVec 2)), (.xlatInvalPartition, 1), (.xlatInvalAll, 2)] →
      ∃ t, exec i s = .next t ∧ (∀ x, x ≠ cl → t.cluster x = s.cluster x) ∧ t = { s with clusters := t.clusters } ∧
        (k.inval = none → t.cluster cl = { k with
          invalCtl := scope ++ s.focus.part, inval := some ⟨scope, s.focus.part, (k.iva.extractLsb' 16 48).toNat⟩ }) ∧
        (k.inval ≠ none → t.cluster cl = { k with invalHeld := k.invalHeld ++ [scope ++ s.focus.part] })) ∧
    (∀ i, k.inval = some i → (∀ w ∈ k.walking, i.restarts w = true → (k.xbase[w.part.toNat]'(w.part.isLt)).getLsbD 0 = true) →
      (k.walking.map (·.id)).Nodup → (∀ w ∈ k.walking, w.id < k.walkNext) →
      ∃ t, exec .invalidationFinish s = .next t ∧ (∀ x ∈ (t.cluster cl).tlb, i.covers x = false) ∧
        (∀ x ∈ k.tlb, i.covers x = false → x ∈ (t.cluster cl).tlb) ∧
        (∀ (c j : Nat) (x : Xlate), clusterOf c = cl → (t.core c).kx[j]? = some (some x) → i.covers x = false) ∧
        (∀ (c j : Nat) (x : Xlate), xlatCluster c = cl → (t.svc c).kx[j]? = some (some x) → i.covers x = false) ∧
        (∀ w ∈ k.walking, if i.restarts w = true then
            ∃ v ∈ (t.cluster cl).walking, v.part = w.part ∧ v.page = w.page ∧ v.level = 1 ∧ v.run = [] ∧ k.walkNext ≤ v.id
          else w ∈ (t.cluster cl).walking) ∧
        (k.invalHeld = [] → (t.cluster cl).inval = none) ∧ ∀ c, (t.core c).k = (s.core c).k)

/-! ### The scheduler and the weirs at work (10 R343 to R364, R377) -/

/-- ASK_FOR_WORK: a cluster with nothing ready takes the first eligible unit of the eligible queue with the earliest pass, whose pass
advances by its stride: a group of a launch with its records and its barrier, or a continuation made ready again (10 R343, R358,
R359). TCB_DECREMENT counts, and at zero the block is ready and joins its queue (10 R353). FUTURE_FILL stores the value, or gives it
to the waiter, which is readied, and frees the future (10 R362, R364). WEIR_ARRIVAL and WEIR_BYTE_DECREMENT lower what the barrier expects, and it fires when
that is nothing; a query is answered with the block as it stands (10 R377, R379). TCB_FINISH frees a block that no completion record still names (10 R354). The constructors are
askForWork, tcbDecrement, futureFill, weirArrival, weirByteDecrement and tcbFinish. -/
def Obligations.SchedulerWorks : Prop :=
  ∀ (s : State),
    let n := s.focus.n
    let cl := s.focus.cluster
    let done (r : Request) (t : State) : Prop := ∀ q f, r.seq = some q → s.flight? r.agent q = some f →
      ∃ g, t.flight? r.agent q = some g ∧ g.phase = .ready
    (∀ q x u i, (s.cluster cl).ready = [] → earliestQueue (s.candidates cl) = some (q, x) →
      x.units.zipIdx.find? (fun p => s.eligible x.part cl p.1) = some (u, i) → s.queue q = x →
      ∃ t, exec .askForWork s = .next t ∧ t.gpass = x.pass ∧
        (t.queue q).pass = x.pass + BitVec.ofNat 40 (2 ^ 24 / max 1 x.tickets.toNat) ∧
        (∀ a c core, u = .again a c core → (t.cluster cl).ready = [⟨x.part, a, core⟩] ∧ (t.queue q).units = x.units.eraseIdx i) ∧
        ∀ h k first, u = .groups h → s.tmplAt x.part (s.tcb x.part h tcbTmpl) = some k → s.nextGroup x.part h k = some first →
          let m := (s.groupItems x.part h k first).length
          (t.cluster cl).ready.map (·.record) = s.freeRecords x.part m ∧
            (s.tGbv k = true → t.bar cl (s.tGbar k) = armedBar (min m 65535) 0 x.part 0x7FF (BitVec.ofNat 32 h) 0)) ∧
    (∀ i r h k, pickAsk s.asks .dec n = some i → s.asks[i]? = some r → r.ask = .dec h → h.toNat < (s.part r.part).tcbLen →
      s.tcb r.part h.toNat tcbKind = k → 1 ≤ k → k ≤ 4 → s.tcb r.part h.toNat tcbState = 1 →
      s.tcb r.part h.toNat tcbCount ≠ 0 → plainRange (s.tcbAt r.part h.toNat) 128 →
      let q := s.tcb r.part h.toNat tcbQueue
      let left := s.tcb r.part h.toNat tcbCount - 1
      ∃ t, exec .tcbDecrement s = .next t ∧ t.asks = s.asks.eraseIdx i ∧ done r t ∧ t.tcb r.part h.toNat tcbCount = left ∧
        t.tcb r.part h.toNat tcbState = (if left = 0 then 2 else 1) ∧
        (t.queue q).units = (s.queue q).units ++
          (if left ≠ 0 then [] else [if k = 1 then .groups h.toNat else if k = 2 then .single h.toNat else
            if k = 3 then .chunk h.toNat else .service h.toNat])) ∧
    (∀ i r h v, pickAsk s.asks .fill n = some i → s.asks[i]? = some r → r.ask = .fill h v →
      h.toNat < (s.part r.part).futLen →
      let a := s.futAt r.part h.toNat
      let ws := s.waitersOf 0 r.part 0 h.toNat
      s.fld a futAlloc = 1 → s.fld a futFilled = 0 → plainRange a 16 →
        ∃ t, exec .futureFill s = .next t ∧ t.asks = s.asks.eraseIdx i ∧ done r t ∧
          t.waitersOf 0 r.part 0 h.toNat = [] ∧
          (ws = [] → t.fld a futValue = v.toNat ∧ t.fld a futFilled = 1) ∧
          (ws ≠ [] → t.fld a futAlloc = 0) ∧
          ∀ w, ws = [w] → plainRange w.record 64 → (w.record + 64 ≤ a ∨ a + 16 ≤ w.record) →
            t.fld w.record (recG 3) = v.toNat ∧ t.fld w.record recState = 1 ∧
            (t.queue (s.fld w.record recQueue)).units = (s.queue (s.fld w.record recQueue)).units ++ [.again w.record w.cluster none]) ∧
    (∀ i r b k (e : Instr) (bytes : Bool), pickAsk s.asks (if bytes then .bytes else .arrive) n = some i → s.asks[i]? = some r →
      (e = .weirArrival ∧ bytes = false ∧ r.ask = .arrive b k ∨ e = .weirByteDecrement ∧ bytes = true ∧ r.ask = .bytes b k) →
      let x := s.bar (b.toNat / 64) (b.toNat % 64)
      let count := if bytes then barCount x else barCount x - k
      let left := if bytes then barBytes x - k else barBytes x
      barArmed x = true → k ≤ (if bytes then barBytes x else barCount x) →
        ∃ t, exec e s = .next t ∧ t.asks = s.asks.eraseIdx i ∧ done r t ∧
          let y := t.bar (b.toNat / 64) (b.toNat % 64)
          barCount y = count ∧ barBytes y = left ∧ barArmed y = true ∧
            (barFired y = true ↔ barFired x = true ∨ count = 0 ∧ left = 0)) ∧
    (∀ i r b q f, pickAsk s.asks .arrive n = some i → s.asks[i]? = some r → r.ask = .query b → r.seq = some q →
      s.flight? r.agent q = some f → ∃ t g, exec .weirArrival s = .next t ∧ t.flight? r.agent q = some g ∧
        g = { f with phase := .ready, result := some ((s.bar (b.toNat / 64) (b.toNat % 64)).extractLsb' 0 64) } ∧
        t = { s with asks := s.asks.eraseIdx i, flights := t.flights }) ∧
    (∀ p h, ((s.fins[n]?).orElse (fun _ => s.fins.head?)) = some (p, h) →
      ((s.launchTrace p h).map (s.traceOpen p)).getD false = false → s.tcb p h tcbKind ≠ 0 →
      tabFind h (s.part p).jobs = none → plainRange (s.tcbAt p h) 128 →
        ∃ t, exec .tcbFinish s = .next t ∧ t.tcb p h tcbKind = 0 ∧ t.tcb p h tcbState = 0 ∧
          ∀ g ∈ (t.part p).groups, g.launch ≠ h)

/-! ### Gang switches and traces at work (10 R387 to R394; 11 R409 to R420) -/

/-- GANG_SWITCH_TG: at TG every covered core stops issue, and OUT is out (10 R388). GANG_WINDOW_CLOSE: at the end of the window what is
left of OUT's requests falls out, or waits where it is for room in a full fall-out buffer (10 R389, R390). FALL_OUT_SPILL: what has fallen out becomes records of the spill area, which counts them
(10 R390, R391). CORE_IMAGE_SAVE: the live banks of a core's scratchpad stand in its image, and nothing of OUT stays in it (10 R392).
GANG_RESTORE: the switch completes; every core is IN's (10 R389, R394); one never switched out is
as reset leaves it, which is the model's choice (log 104). The constructors
are gangSwitchTg, gangWindowClose, fallOutSpill, coreImageSave and gangRestore. -/
def Obligations.GangSwitchProceeds : Prop :=
  ∀ (s : State),
    (∀ g, s.gang = some g →
      (g.phase = .posted → g.tg.toNat ≤ s.now.toNat → (s.part g.out).out = false →
        ∃ t, exec .gangSwitchTg s = .next t ∧ (t.part g.out).out = true ∧
          t.gang = some { g with
            phase := .window (g.tg + BitVec.ofNat 64 (1000 * g.win))
            cores := s.gangCores g.out
            left := s.gangCores g.out } ∧
          (∀ c ∈ s.gangCores g.out, t.core c = (s.core c).freeze) ∧ ∀ c, c ∉ s.gangCores g.out → t.core c = s.core c) ∧
      (∀ close, g.phase = .window close → close.toNat ≤ s.now.toNat → (∀ r ∈ s.tableq, g.cores.contains r.src.agent = false) →
        ∃ t xs, exec .gangWindowClose s = .next t ∧ t.gang = some { g with phase := .saving } ∧ t.falls = s.falls ++ xs ∧
          (∀ x ∈ xs, x.part = g.out) ∧
          (∀ c, (t.core c).port = (s.core c).port.filter (fun r => !s.fallsOut g.cores r)) ∧
          (∀ cl, (t.cluster cl).xbar = (s.cluster cl).xbar.filter (fun r => !s.fallsOut g.cores r)) ∧
          (∀ c r, r ∈ (s.core c).port → s.fallsOut g.cores r = true → (∃ x ∈ xs, x.item = .queued c r) ∨ (g.out, .queued c r) ∈ t.stuck) ∧
          ∀ x, t.byteAt x = s.byteAt x) ∧
      (∀ c, g.phase = .saving → c = s.focus.core → isCompute c = true → g.left.contains c = true → s.imageReady c = true →
        let base := imageAt (s.part g.out).spill c
        (∀ j, j < 0xA0000 → placeOf (base + j) = .hbm) →
        ∃ t, exec .coreImageSave s = .next t ∧ t.gang = some { g with left := g.left.filter (· != c) } ∧
          (t.core c).res = none ∧ (∀ k, (t.core c).rk k = .empty) ∧ (t.core c).mode = .idle ∧
          ∀ b j, b < 16 → j < bankSize → (s.liveBanks c g.out).getLsbD b = true →
            t.byteAt (base + b * bankSize + j) = s.byteAt (slotBase c + b * bankSize + j)) ∧
      (g.phase = .saving → s.outWritten g = true → ∃ t, exec .gangRestore s = .next t ∧ t.gang = none ∧
        t.gstat = BitVec.ofNat 64 (2 ^ 32 * (s.spilled.filter (fun f => f.part == g.out)).length) ∧
        (g.valid = true → (t.part g.into).out = false ∧ ∀ c ∈ g.cores, (t.core c).sluice.part = g.into ∧
          ((s.part g.into).out = false → (t.core c).res = none ∧ (t.core c).g = Core.reset.g)))) ∧
    (∀ x, s.falls.head? = some x →
      let held := s.spilled.filter (fun f => f.part == x.part)
      let now := (s.falls.filter (fun f => f.part == x.part)).take (min 256 (65536 - held.length))
      let base := (s.part x.part).spill
      held.length < 65536 → plainRange base 0x1001000 →
        ∃ t, exec .fallOutSpill s = .next t ∧ t.spilled = s.spilled ++ now ∧
          (∃ more, t.falls = s.falls.filter (fun f => !now.contains f) ++ more ∧ (s.stuck = [] → more = [])) ∧ t.bitsIn base 0 32 = held.length + now.length ∧
          ∀ i y, ((held ++ now).mergeSort FallOut.before)[i]? = some y →
            t.readBytes (base + 0x1000 + 256 * i) 256 = imageBytes y.record)

/-- RECORDER_FLUSH: the ranges of a recorder reach the merger of its cluster (11 R409, R410). BLOCK_CLOSE: a block whose continuations
have retired is written as its record and is open no more (11 R411). DIRTY_MARK: the tiles of a mark are set in the bank that CUR
names, and no other byte changes (11 R415). SNAPSHOT_POINT: a relaunch answers the number of blocks selected with its handle, or its
refusal with the return set (11 R417, R420). The constructors are recorderFlush, blockClose, dirtyMark and snapshotPoint. -/
def Obligations.TracesProceed : Prop :=
  ∀ (s : State),
    let a := s.focus.core
    let cl := s.focus.cluster
    (∀ r x, (s.core a).res = some r → r.trace = some x → ∃ t, exec .recorderFlush s = .next t ∧ (t.core a).ranges = [] ∧
      t.cluster (clusterOf a) = (s.core a).ranges.foldl (Cluster.mergeRange r.part x) (s.cluster (clusterOf a)) ∧
      t = { s with cores := t.cores, clusters := t.clusters }) ∧
    (∀ b m p, (s.cluster cl).blocks.find? (fun b => b.live == 0) = some b → s.trace? b.part b.index = some m →
      (∀ o, o < m.len → m.pa o = some (p + o)) → plainRange p m.len → recordOff b.block + 256 ≤ m.len →
      let rs := (hullTo b.ranges.length 30 b.ranges).2
      ∃ t, exec .blockClose s = .next t ∧
        t.readBytes (p + recordOff b.block) 256 = recordBytes b.block (s.hdr m hdrGen)
          (b.ovf || (hullTo b.ranges.length 30 b.ranges).1 || decide (30 < rs.length)) (rs.take 30) ∧
        (∀ x, x < p + recordOff b.block ∨ p + recordOff b.block + 256 ≤ x → t.byteAt x = s.byteAt x) ∧
        ∀ y ∈ (t.cluster cl).blocks, ¬ (y.part = b.part ∧ y.index = b.index ∧ y.block = b.block)) ∧
    (∀ k rest m p, s.marks = k :: rest → s.trace? k.part k.index = some m → (∀ o, o < m.len → m.pa o = some (p + o)) →
      plainRange p m.len →
      let nt := s.hdr m (slotNt k.slot)
      let off := s.bitmapOff m k.slot (s.hdr m hdrCur)
      192 ≤ off → off + bankBytes nt ≤ m.len → k.first ≤ k.last → k.last < nt →
        ∃ t, exec .dirtyMark s = .next t ∧ t.marks = rest ∧
          (∀ i, i < nt → t.traceField m (8 * off + i) 1 =
            if k.first ≤ i ∧ i ≤ k.last then 1 else s.traceField m (8 * off + i) 1) ∧
          ∀ x, x < p + off ∨ p + off + bankBytes nt ≤ x → t.byteAt x = s.byteAt x) ∧
    (∀ f c d, s.nextSnapshot s.focus.n = some f → f.ca = some c → f.pos ≠ noSet → s.flight? f.agent f.seq = some f →
      s.bufDesc f.res.part c.desc.toNat = some d →
      let r : Relaunch := ⟨f.res.part, c, f.pos, fieldN f.t.toNat 16 8, optFut f.o, optSucc f.o⟩
      let m := s.traceIn r.part c.desc.toNat d
      (s.relaunchReason r m ≠ 0 → ∃ t g, exec .snapshotPoint s = .next t ∧ t.flight? f.agent f.seq = some g ∧
        g.phase = .ready ∧ g.result = some (BitVec.ofNat 64 (f.pos + 5 * 2 ^ 56)) ∧ ∀ x, t.byteAt x = s.byteAt x) ∧
      (∀ h k u, s.relaunchReason r m = 0 → (s.queue r.queue).part = r.part → s.freeTcb r.part = some h →
        s.tmplAt r.part (s.hdr m hdrTmpl) = some k →
        (s.newRelaunch r h (s.hdr m hdrTmpl) (s.relaunchBlocks m)).makeSlices r.part h k (s.relaunchSlots r) = some u →
        ∃ t g, exec .snapshotPoint s = .next t ∧ t.flight? f.agent f.seq = some g ∧ g.phase = .ready ∧
          g.result = some (BitVec.ofNat 64 ((s.relaunchBlocks m).length + h * 2 ^ 32)) ∧
          tabFind h (t.part r.part).chosen = some (s.relaunchBlocks m)))

/-! ### Links (12 R431 to R461) -/

/-- FLIT_RECEIVE: a sound flit with the SEQ that is waited for, whose payload passes, is accepted and handed on; an unsound one is
discarded and asks for a resend; one whose tag fails brings the link down; an idle flit acknowledges (12 R435, R438 to R440, R459). NAK: held flits are sent again from it on.
REPLAY_TIMEOUT: so are they after 2 µs without an advance; after 8 times the link retrains, after three retrains it goes down (12
R439). LINK_TRAINING, LINK_RETRAIN and LK_RETRAIN: a link trains and runs on the lanes that could be trained (12 R431, R444, R448);
that this device's number comes with it is the model's choice (log 131).
LOSS_OF_LIGHT and LIGHT_RETURN: lanes go, and train again (12 R442, R444). LINK_DOWN: nothing is held and no key is left (12 R456). The
constructors are flitReceive, nak, replayTimeout, linkTraining, linkRetrain, lkRetrain, lossOfLight, lightReturn and linkDown. -/
def Obligations.LinksRun : Prop :=
  ∀ (s : State),
    let l := s.focus.link
    let k := s.link l
    let k0 := (s.settleStripe l).link l
    let f := k0.assemble s.focus.beats
    let lanes : BitVec 16 := s.focus.data.setWidth 16
    let noted (t : State) (kind : BitVec 8) : Prop :=
      ∃ r, tabFind (s.eventCount % 16384) t.events = some r ∧ r.extractLsb' 0 8 = kind
    let runState (k : Link) : BitVec 3 := if k.quiesce && k.quietSent && k.peerQuiet then 4 else if k.key.isSome then 3 else 2
    (∀ x, k.runs = true → flitSound f = true → flitField f 0 16 = k0.rxSeq → k0.payload f = .ok x → controlOk f x = true →
      (flitKind f = 2 → ∃ t, exec .flitReceive s = .next t ∧ (t.link l).rxSeq = k0.rxSeq + 1 ∧ (t.link l).naked = false ∧
        (t.link l).inq = k0.inq ++ [.stream (flitField f 48 16) (flitField f 64 32).toNat (imageBytes x)]) ∧
      (flitKind f = 3 → ∃ t, exec .flitReceive s = .next t ∧ (t.link l).rxSeq = k0.rxSeq + 1 ∧ (t.link l).naked = false ∧
        (t.link l).inq = k0.inq ++ [.control x]) ∧
      (∀ p, flitKind f = 1 → packetsOf 8 (imageBytes x) = [p] → p.ddev = s.dev → p.type = 12 →
        ∃ t, exec .flitReceive s = .next t ∧ (t.link l).rxSeq = k0.rxSeq + 1 ∧ (t.link l).naked = false ∧
          (t.link l).inq = k0.inq ++ [.open_ p])) ∧
    (k.runs = true → flitSound f = true → flitKind f ≠ 0 → flitField f 0 16 = k0.rxSeq → k0.payload f = .error true →
      ∃ t, exec .flitReceive s = .next t ∧ (t.link l).state = 0 ∧ (t.link l).key = none ∧ (t.link l).authFails = k0.authFails + 1) ∧
    (k.runs = true → flitSound f = false ∨ flitKind f ≠ 0 ∧ flitField f 0 16 ≠ k0.rxSeq →
      ∃ t, exec .flitReceive s = .next t ∧ (t.link l).rxSeq = k0.rxSeq ∧ (t.link l).inq = k0.inq ∧
        (flitKind f ≠ 0 → (t.link l).naked = true)) ∧
    (k.runs = true → flitSound f = true → flitKind f = 0 → k.outq = [] → ∃ t, exec .flitReceive s = .next t ∧
      (t.link l).held = k.held.filter (fun e => !(decide (0 < (flitAck f - e.1).toNat) && decide ((flitAck f - e.1).toNat < 2 ^ 15))) ∧
      (t.link l).pause = flitField f 32 8 ∧ (t.link l).inq = k0.inq) ∧
    (k.resend.isSome = true → k.tries < 8 → ∃ t, exec .nak s = .next t ∧ (t.link l).resend = none ∧
      (k.held ≠ [] → (t.link l).resends = k.resends + 1 ∧ (t.link l).tries = k.tries + 1 ∧ ∀ e ∈ k.held, e ∈ (t.link l).held)) ∧
    (k.runs = true → k.held ≠ [] → k.ackAt.toNat + 2000 ≤ s.now.toNat →
      (k.tries < 8 → ∃ t, exec .replayTimeout s = .next t ∧ (t.link l).resends = k.resends + 1 ∧ (t.link l).tries = k.tries + 1 ∧
        (t.link l).ackAt = s.now) ∧
      (8 ≤ k.tries → k.trains < 3 → ∃ t, exec .replayTimeout s = .next t ∧ (t.link l).state = 5 ∧
        (t.link l).retrains = k.retrains + 1 ∧ (t.link l).trains = k.trains + 1 ∧ (t.link l).held = k.held) ∧
      (8 ≤ k.tries → 3 ≤ k.trains → ∃ t, exec .replayTimeout s = .next t ∧ (t.link l).state = 0)) ∧
    (k.en = true → s.linkOff l = false →
      (k.state = 0 → ∃ t, exec .linkTraining s = .next t ∧ (t.link l).state = 1 ∧ (t.link l).txSeq = 0 ∧ (t.link l).rxSeq = 0 ∧
        (t.link l).wideNow = (k.wide && !l.getLsbD 0)) ∧
      (k.state = 1 → laneSet k.wideNow k.lmask lanes ≠ 0 → ∃ t, exec .linkTraining s = .next t ∧ noted t 0x06 ∧
        (t.link l).txact = laneSet k.wideNow k.lmask lanes ∧ (t.link l).rxact = laneSet k.wideNow k.lmask lanes ∧
        (t.link l).peerLink = BitVec.ofNat 6 s.focus.n ∧ (t.link l).state = runState k ∧
        t.dev = if s.focus.data.getLsbD 44 = true then s.focus.data.extractLsb' 32 12 else s.dev)) ∧
    (k.state = 5 →
      let set := laneSet (k.wide && !l.getLsbD 0) k.lmask lanes
      (set ≠ 0 → ∃ t, exec .linkRetrain s = .next t ∧ (t.link l).txact = set ∧ (t.link l).rxact = set ∧ (t.link l).tries = 0 ∧
        (t.link l).state = runState k) ∧
      (set = 0 → ∃ t, exec .linkRetrain s = .next t ∧ (k.trains < 2 → (t.link l).trains = k.trains + 1 ∧ (t.link l).state = 5) ∧
        (2 ≤ k.trains → (t.link l).state = 0))) ∧
    (k.runs = true → ∃ t, exec .lkRetrain s = .next t ∧ t = { s with links := t.links } ∧ (t.link l).state = 5 ∧
      (t.link l).retrains = k.retrains + 1 ∧ (t.link l).txact = 0 ∧ (t.link l).rxact = 0 ∧ (t.link l).held = k.held ∧
      ∀ j, j ≠ l → t.link j = s.link j) ∧
    (lanes &&& (k.rxact ||| k.rxtrain) ≠ 0 → ∃ t, exec .lossOfLight s = .next t ∧ noted t 0x01 ∧
      (t.link l).rxact = k.rxact &&& ~~~lanes ∧ (t.link l).rxtrain = k.rxtrain &&& ~~~lanes ∧
      (t.link l).dark = k.dark ||| (lanes &&& (k.rxact ||| k.rxtrain)) ∧ (t.link l).rxSeq = k.rxSeq) ∧
    (∃ t, exec .lightReturn s = .next t ∧ t = { s with links := t.links } ∧ (t.link l).dark = k.dark &&& ~~~lanes ∧
      ∀ i : Nat, i < 16 → ((t.link l).rxtrain.getLsbD i = true ↔ k.rxtrain.getLsbD i = true ∨
        (lanes &&& k.dark &&& k.lmask).getLsbD i = true ∧ (k.laneFails[i]?).getD 0 < 4)) ∧
    (k.state ≠ 0 → k.en = false ∨ s.linkOff l = true → ∃ t, exec .linkDown s = .next t ∧ noted t 0x05 ∧ (t.link l).state = 0 ∧
      (t.link l).key = none ∧ (t.link l).held = [] ∧ (t.link l).txact = 0 ∧ (t.link l).rxact = 0)

/-- What control flits, and the lanes' own events, do. LANEDOWN, LANEOUT and LANEUP: the sender goes on without the lanes, or with
them again, once the replay buffer has room for the STRIPE that says so (12 R439, R442 to R444). STRIPE: the receiver switches to the lanes named (12 R443). FEATURE: the peer's words are kept (12
R455). TIMESYNC: the time of a peer's flit is noted, the master's DT_SYNC reads an offset of zero; or this device's own flit is sent
(12 R451). QUIESCED and LK_QUIESCE: a link quiesces and starts again (12 R454). LANE_WITHDRAWAL, CORR_WINDOW_END and
LANE_TRAINING_CHECK: lanes are withdrawn, counted anew and handed back (12 R443, R444). LK_ZERO: no key is left (12 R460). The
constructors are lanedown, laneout, laneup, stripe, feature, timesync, quiesced, lkQuiesce, laneWithdrawal, corrWindowEnd,
laneTrainingCheck and lkZero. -/
def Obligations.LanesAndControlFlits : Prop :=
  ∀ (s : State),
    let l := s.focus.link
    let k := s.link l
    let n := s.focus.n
    let bit (i : Nat) : BitVec 16 := 1#16 <<< i
    let noted (t : State) (kind : BitVec 8) : Prop :=
      ∃ r, tabFind (s.eventCount % 16384) t.events = some r ∧ r.extractLsb' 0 8 = kind
    let over_ := (lanesIn (k.rxact &&& ~~~k.noted)).filter (fun i => decide (k.thresh.toNat < ((k.corr[i]?).getD 0).toNat))
    (∀ x, k.control? 1 = some x → ∃ t, exec .lanedown s = .next t ∧ noted t 0x01 ∧ (t.link l).inq = k.inq.drop 1 ∧
      (t.link l).txact = k.txact &&& ~~~ctlLanes x ∧ (t.link l).txout = k.txout ||| ctlLanes x) ∧
    (k.held.length ≥ 1024 → exec .laneout s = .next s ∧ exec .laneup s = .next s) ∧
    (∀ x, k.control? 2 = some x → k.held.length < 1024 → k.runs = true → k.txact &&& ~~~ctlLanes x ≠ 0 → ∃ t, exec .laneout s = .next t ∧ noted t 0x02 ∧
      (t.link l).inq = k.inq.drop 1 ∧ (t.link l).txact = k.txact &&& ~~~ctlLanes x ∧ (t.link l).txout = k.txout ||| ctlLanes x) ∧
    (∀ x, k.control? 3 = some x → k.held.length < 1024 → k.runs = true →
      let back := ctlLanes x &&& k.lmask
      ∃ t, exec .laneup s = .next t ∧ noted t 0x03 ∧ (t.link l).inq = k.inq.drop 1 ∧ (t.link l).txact = k.txact ||| back ∧
        (t.link l).txout = k.txout &&& ~~~back) ∧
    (∀ x, k.control? 4 = some x → ∃ t, exec .stripe s = .next t ∧ (t.link l).inq = k.inq.drop 1 ∧ (t.link l).rxact = ctlLanes x ∧
      (ctlLanes x &&& ~~~k.rxact ≠ 0 → noted t 0x03)) ∧
    (∀ x, k.control? 5 = some x → ∃ t, exec .feature s = .next t ∧ t = { s with links := t.links } ∧
      t.link l = { k with inq := k.inq.drop 1, pfeat := x.extractLsb' 0 512, peerDev := x.extractLsb' 432 12 }) ∧
    (∀ x, k.control? 6 = some x → ∃ t, exec .timesync s = .next t ∧ t.link l = { k with inq := k.inq.drop 1, peerTime := s.now } ∧
      t = { s with links := t.links, dtSync := t.dtSync } ∧
      (({ s with links := t.links } : State).master = true → t.dtSync = syncWord 0)) ∧
    (k.control? 6 = none → k.runs = true → k.outq = [] → k.held.length < 1024 → k.resend = none →
      ∃ t, exec .timesync s = .next t ∧ (t.link l).held.length = k.held.length + 1 ∧ (t.link l).txSeq = k.txSeq + 1) ∧
    (∀ x, k.control? 7 = some x → k.quietSent = true → k.peerQuiet = false → ∃ t, exec .quiesced s = .next t ∧
      t.link l = { k with inq := k.inq.drop 1, peerQuiet := true }) ∧
    (k.control? 7 = none → k.quiesce = true → k.state ≠ 4 → k.runs = true → k.streamless = true →
      ∃ t, exec .quiesced s = .next t ∧ (k.quietSent = false → (t.link l).quietSent = true) ∧
        (k.quietSent = true → k.held = [] → k.peerQuiet = true → t.link l = { k with state := 4 })) ∧
    (s.focus.data ≠ 0 → k.quiesce = false → ∃ t, exec .lkQuiesce s = .next t ∧ t.link l = { k with quiesce := true }) ∧
    (s.focus.data = 0 → k.quiesce = true → ∃ t, exec .lkQuiesce s = .next t ∧ (t.link l).quiesce = false ∧
      (t.link l).state = (if k.state = 4 then (if k.key.isSome then 3 else 2) else k.state)) ∧
    (over_ ≠ [] → k.runs = true → ∃ t, exec .laneWithdrawal s = .next t ∧ noted t 0x02 ∧
      ∀ i : Nat, i < 16 → ((t.link l).noted.getLsbD i = true ↔ k.noted.getLsbD i = true ∨ i ∈ over_)) ∧
    (n < 16 → ∃ t, exec .corrWindowEnd s = .next t ∧ t = { s with links := t.links } ∧ (t.link l).corr[n]? = some 0 ∧
      ∀ i : Nat, i ≠ n → (t.link l).corr[i]? = k.corr[i]?) ∧
    (n < 16 → k.rxtrain.getLsbD n = true → k.upSent.getLsbD n = false →
      (s.focus.data.toNat ≤ 1 → ∃ t, exec .laneTrainingCheck s = .next t ∧ (t.link l).upSent = k.upSent ||| bit n ∧
        (t.link l).laneFails[n]? = some 0 ∧ (t.link l).rxtrain = k.rxtrain) ∧
      (1 < s.focus.data.toNat →
        let fails := (k.laneFails[n]?).getD 0 + 1
        ∃ t, exec .laneTrainingCheck s = .next t ∧ (t.link l).laneFails[n]? = some fails ∧
          (t.link l).rxtrain = (if fails < 4 then k.rxtrain else k.rxtrain &&& ~~~bit n) ∧ (4 ≤ fails → noted t 0x04))) ∧
    (∃ t, exec .lkZero s = .next t ∧ (t.link l).key = none ∧ (t.link l).newKey = none ∧
      (t.link l).state = (if k.state = 3 then 2 else k.state) ∧ (k.key.isSome = true → noted t 0x08))

/-- STREAM_OPEN: a stream is announced, and its range checked (12 R437, R456). STREAM_DATA: 256 bytes set out for their two lines of
memory, or count as refused. STREAM_DONE: a stream whose every byte has been performed is over, and its source is told (12 R437).
KL_GO starts a load of a job key; KEY_INSTALL ends it in failure, or each link named takes the key when its replay buffer is empty
(12 R458, R461). The constructors are streamOpen, streamData, streamDone, klGo and keyInstall. -/
def Obligations.StreamsAndKeys : Prop :=
  ∀ (s : State),
    let l := s.focus.link
    let k := s.link l
    (∀ p rest, k.inq = .open_ p :: rest →
      let n := leNat (p.data.take 8) / 2 ^ 16
      ∃ t, exec .streamOpen s = .next t ∧ t = { s with links := t.links } ∧ t.link l = { k with
        inq := rest
        inStreams := k.inStreams ++ [⟨BitVec.ofNat 16 (leNat (p.data.take 2)), p, n, 0,
          (s.peerReq l p 0 (256 * n) p.access).toOption.isSome⟩] }) ∧
    (∀ num off bs rest x, k.inq = .stream num off bs :: rest → k.inStreams.find? (fun y => y.num == num) = some x →
      let a := x.head.addr + 256 * off
      let req (a : Nat) (b : List Byte) := s.peerReq l { x.head with addr := a } (streamTag x.num) 128 (.write a b [])
      (∀ r r', req a (bs.take 128) = .ok r → req (a + 128) (bs.drop 128) = .ok r' → ∃ t, exec .streamData s = .next t ∧
        (t.link l).inq = rest ∧ t.StandsAt r ∧ t.StandsAt r' ∧ ∀ y, t.byteAt y = s.byteAt y) ∧
      (∀ e e', req a (bs.take 128) = .error e → req (a + 128) (bs.drop 128) = .error e' →
        ∃ t y, exec .streamData s = .next t ∧ (t.link l).inq = rest ∧ y ∈ (t.link l).inStreams ∧ y.num = num ∧
          y.written = x.written + 2 ∧ y.ok = false)) ∧
    (∀ x, k.inStreams.find? (fun x => decide (2 * x.flits ≤ x.written)) = some x → ∃ t, exec .streamDone s = .next t ∧
      (t.link l).inStreams = k.inStreams.filter (fun y => y.num != x.num) ∧
      ∀ r, s.route? x.head.sdev = some r → (s.link r).takes = true →
        ∃ p, t = (s.onLink l (fun k => { k with inStreams := k.inStreams.filter (fun y => y.num != x.num) })).offer r (.packet p) ∧
          p.ddev = x.head.sdev ∧ p.desc = x.num.setWidth 32 ∧ p.type = if x.ok then 13 else 14) ∧
    (∃ t, exec .klGo s = .next t ∧ t = { s with sec := t.sec } ∧ t.sec.klBusy = true ∧ t.sec.klFailed = false) ∧
    (s.sec.klBusy = true →
      (unwrapKey s.sec.klEpub s.sec.klWrap (s.sec.klJob.setWidth 32) = none → ∃ t, exec .keyInstall s = .next t ∧
        t.sec.klBusy = false ∧ t.sec.klFailed = true) ∧
      (∀ key, unwrapKey s.sec.klEpub s.sec.klWrap (s.sec.klJob.setWidth 32) = some key →
        let salt := s.sec.klJob.extractLsb' 32 16
        ∃ t, exec .keyInstall s = .next t ∧ t.sec.klBusy = false ∧ ∀ j : BitVec 6, s.sec.klLinks.getLsbD j.toNat = true →
          ((s.link j).held = [] → (t.link j).key = some (key, salt) ∧ (t.link j).newKey = none ∧ (t.link j).rxSeq = 0) ∧
          ((s.link j).held ≠ [] → (t.link j).newKey = some (key, salt) ∧ (t.link j).key = (s.link j).key)))

/-! ### The host port (12 R463 to R471) -/

/-- A command of the host starts when its slot is ready, its turn has come and the device is READY: its slot's number moves on (12
R465). Each then does what 12 R466 says. NOP answers 0, and a reserved command 1. LAUNCH makes a launch whose handle is the command's result, and RELAUNCH one
with the number of blocks selected. SEND sets out a message, behind the copy that its bytes need, and DROP gives the capability to the orphans, or back to its owner. APBIND
and APUNBIND write the aperture table. MARK sends dirty marks. DEC and FILLF reach the scheduler. The constructors are hostNop,
hostLaunch, hostRelaunch, hostSend, hostDrop, apbind, apunbind, hostMark, hostDec and hostFillf. -/
def Obligations.HostCommandsRun : Prop :=
  ∀ (s u v : State) (r : BitVec 512),
    let part := s.focus.part
    u = (if s.focus.bytes = [] then s
      else s.onPart part (fun p => p.writeSlot (s.focus.n % 512) 0 (s.focus.bytes.take 64))) →
    (u.part part).nextCommand = some r → u.sec.state = 4 → v = u.onPart part (fun p => p.startCommand r) →
    let n := (u.part part).cmdNext
    let is_ := cmdSlotList r
    let w0 := cmdWord r 0
    let slot := fieldN w0 0 8
    let caps := is_.map (v.hostSlot part)
    let taken := v.takeSlots part is_
    let cmd (t : State) (code : Option (BitVec 8)) (x x2 : Nat) : Prop := (t.part part).cmdNext = (n + 1) % 512 ∧
      tabFind n (t.part part).cmds = some ⟨cmdOpcode r, cmdTag r, lapBit r, code, BitVec.ofNat 64 x, BitVec.ofNat 64 x2, [], none, false, false⟩
    (∀ code, cmdOpcode r = 0 ∧ operandsIn r 0 = true ∧ code = 0 ∨ cmdOpcode r = 0 ∧ operandsIn r 0 = false ∧ code = 1 ∨
        10 ≤ (cmdOpcode r).toNat ∧ code = 1 →
      ∃ t, exec .hostNop s = .next t ∧ cmd t (some code) 0 0 ∧ t = { v with parts := t.parts }) ∧
    (∀ k h, cmdOpcode r = 1 → is_.length ≤ 30 → operandsIn r (launchMask r 0xFF00FFFFFF) = true → v.slotsFull part is_ = true →
      taken.launchCode part (fieldN w0 0 16) (fieldN w0 16 8) caps = 0 → taken.tmplAt part (fieldN w0 0 16) = some k →
      taken.freeTcb part = some h → s.tTrace k = false → (∀ e ∈ s.tCaps k, entMode e ≠ 3) → plainRange (s.tcbAt part h) 128 →
      (k + 512 ≤ s.tcbAt part h ∨ s.tcbAt part h + 128 ≤ k) → plainRange k 512 →
        ∃ t, exec .hostLaunch s = .next t ∧ cmd t none h 0 ∧ tabFind h (t.part part).jobs = some n ∧
          (∀ i ∈ is_, t.hostSlot part i = none) ∧
          (t.queue (fieldN w0 16 8)).units = (s.queue (fieldN w0 16 8)).units ++ [.groups h]) ∧
    (∀ i c x y d h nsel, cmdOpcode r = 2 → is_.length ≤ 30 → is_[fieldN w0 40 8]? = some i → v.hostSlot part i = some c →
      operandsIn r (launchMask r 0xFFFF00FFFFFF) = true → v.slotsFull part is_ = true → c.kind = .whole →
      v.descOf c = some d → d.cls = 2 → c.has (rightR ||| rightW) = true → v.freeSets part 1 = [x] →
      y = (caps.filterMap id).foldl (fun s c => s.setOwner c (ownerSet x))
        (taken.onPart part (fun p => { p with sets := tabPut x (slotVector caps) p.sets })) →
      (y.relaunch 4095 0 0 ⟨part, c, x, fieldN w0 16 8, none, []⟩).2 = (0, h, nsel) →
        ∃ t, exec .hostRelaunch s = .next t ∧ cmd t none h nsel ∧ tabFind h (t.part part).jobs = some n ∧
          ∀ i ∈ is_, t.hostSlot part i = none) ∧
    (∀ c d, cmdOpcode r = 3 → operandsIn r (0xFF + 0x1FFFF * 2 ^ 64 + 0xFFFFFFFF * 2 ^ 128) = true →
      v.hostSlot part slot = some c → v.descOf c = some d →
      let mbox : BitVec 17 := BitVec.ofNat 17 (cmdWord r 1)
      let bound := (v.mailbox (mboxCluster mbox) (mboxIndex mbox)).bound.part?
      bound = none ∨ bound = some part →
        ∃ t m, exec .hostSend s = .next t ∧ t.hostSlot part slot = none ∧ cmd t none 0 0 ∧ t.msgs = s.msgs ++ [m] ∧ m.mbox = mbox ∧
          m.part = part ∧ m.cmd = some (part, n) ∧ m.pay = .cap c (BitVec.ofNat 32 (cmdWord r 2)) false false ∧
          (m.haul.isSome = true ↔ sendMove c d mbox false false = .copy)) ∧
    (∀ c, cmdOpcode r = 4 → operandsIn r 0xFF = true → v.hostSlot part slot = some c → c.residual = false →
      ((v.descOf c).map (·.cls)) ≠ some 5 →
        ∃ t ws, exec .hostDrop s = .next t ∧ t.hostSlot part slot = none ∧ (t.part part).cmdNext = (n + 1) % 512 ∧
          tabFind n (t.part part).cmds = some ⟨cmdOpcode r, cmdTag r, lapBit r, some 0, 0, 0, ws, none, false, false⟩ ∧
          (((v.descOf c).map (·.cls)) ≠ some 4 → ws = []) ∧
          (c.owns = true → ∃ i, tabFind i (t.part c.part).orphans = some c)) ∧
    (∀ c d, cmdOpcode r = 5 → operandsIn r (0x30FFF00FF + (2 ^ 64 - 65536) * 2 ^ 64) = true → s.feature 2 = true →
      v.hostSlot part slot = some c → v.descOf c = some d → d.cls = 2 →
      let base := cmdWord r 1
      let len := (d.len + 65535) / 65536 * 65536
      0x40000000 ≤ base → base + len ≤ 0x10000000000 → tabFind (fieldN w0 16 12) s.apertures = none →
      (∀ e ∈ s.apertures, e.2.meets base len = false) →
        ∃ t, exec .apbind s = .next t ∧ cmd t (some 0) 0 0 ∧
          tabFind (fieldN w0 16 12) t.apertures = some ⟨w0.testBit 32, w0.testBit 33, base, len, slot, part⟩) ∧
    (cmdOpcode r = 6 → operandsIn r 0xFFF0000 = true → (∀ a, tabFind (fieldN w0 16 12) s.apertures = some a → a.part = part) →
      ∃ t, exec .apunbind s = .next t ∧ cmd t (some 0) 0 0 ∧ t.apertures = tabDrop (fieldN w0 16 12) s.apertures) ∧
    (∀ c d, cmdOpcode r = 7 → operandsIn r (0xFF + (2 ^ 64 - 1) * 2 ^ 64 + (2 ^ 64 - 1) * 2 ^ 128) = true →
      let off := cmdWord r 1
      let len := cmdWord r 2
      len ≠ 0 → off % 32 = 0 → len % 32 = 0 → v.hostSlot part slot = some c → v.descOf c = some d → c.has rightW = true →
      off + len ≤ d.len →
        ∃ t, exec .hostMark s = .next t ∧ cmd t (some 0) 0 0 ∧
          t.marks = (s.markWrite c.part c.desc off len none (markAgent part n) none).marks) ∧
    (∀ h, cmdOpcode r = 8 → operandsIn r 0xFFFFFF = true → h = fieldN w0 0 24 → h < (s.part part).tcbLen →
      s.tcb part h tcbKind ≠ 0 → s.tcb part h tcbState = 1 → s.tcb part h tcbCount ≠ 0 → plainRange (s.tcbAt part h) 128 →
        ∃ t, exec .hostDec s = .next t ∧ cmd t (some 0) 0 0 ∧ t.tcb part h tcbCount = s.tcb part h tcbCount - 1 ∧
          t.tcb part h tcbState = if s.tcb part h tcbCount = 1 then 2 else 1) ∧
    (∀ h a, cmdOpcode r = 9 → operandsIn r (0xFFFFFFFF + (2 ^ 64 - 1) * 2 ^ 64) = true → h = fieldN w0 0 32 →
      h < (s.part part).futLen → a = s.futAt part h → s.fld a futAlloc = 1 → s.fld a futFilled = 0 → plainRange a 16 →
      s.waitersOf 0 part 0 h = [] →
        ∃ t, exec .hostFillf s = .next t ∧ cmd t (some 0) 0 0 ∧ t.fld a futFilled = 1 ∧ t.fld a futValue = cmdWord r 1)

/-- COMPLETION_RECORD: a command whose outcome is there, and that leaves no return set, gets its record, and its slot is done (01 R55;
12 R467). APERTURE_ACCESS: the host reads a window's bytes, writes a command slot, whose final word makes it ready or is ignored (12
R465), and reads and writes a buffer through a tracked
aperture; RAW_APERTURE_ACCESS: it reads and writes bytes of HBM (12 R463, R470, R471). The constructors are completionRecord,
apertureAccess and rawApertureAccess. -/
def Obligations.HostReadsAndWrites : Prop :=
  ∀ (s : State),
    let part := s.focus.part
    let n := s.focus.n
    let o := s.focus.addr
    let bs := s.focus.bytes
    (∀ c, tabFind n (s.part part).cmds = some c → s.commandOver part n c = true → s.leftSet part n c = none →
      ∃ t, exec .completionRecord s = .next t ∧ t = { s with parts := t.parts, ports := t.ports } ∧ tabFind n (t.part part).cmds = none ∧
        tabFind n (t.part part).records = some (completionRecord (c.code.getD 0) c.phase c.tag c.result c.result2 s.now) ∧
        ∀ h, s.jobOf part n = some h → tabFind n (t.part part).unread = some h) ∧
    (bs = [] → o < 0x40000000 → ∃ t, exec .apertureAccess s = .next t ∧
      t.hostRead = ((List.range n).map (fun i => s.hdmByte (o + i)), false)) ∧
    (bs ≠ [] → o < 0x100000 → o % 65536 < 0x8000 → o % 64 + bs.length ≤ 64 →
      let i := o % 65536 / 64
      let p := s.part (BitVec.ofNat 4 (o / 65536))
      let old := (tabFind i p.cmdSlots).getD (0, false)
      let final : Prop := o % 64 ≤ 56 ∧ o % 64 + bs.length = 64
      let laps : Prop := lapBit (foldBytes setImageByte old.1 (o % 64) bs) = p.lapPhase i
      ∃ t e, exec .apertureAccess s = .next t ∧ t = { s with parts := t.parts } ∧
        tabFind i (t.part (BitVec.ofNat 4 (o / 65536))).cmdSlots = some e ∧
        (∀ j b, bs[j]? = some b → ¬ final ∨ laps ∨ o % 64 + j < 56 → imageByte e.1 (o % 64 + j) = b) ∧
        (final ∧ laps → e.2 = true) ∧ (¬ final ∨ ¬ laps → e.2 = old.2)) ∧
    (∀ a c pa d, s.focus.ecc = .clean → 0x40000000 ≤ o → o < 0x10000000000 → s.apertureAt o = some a → s.descOf c = some d →
      (bs = [] → s.apertureTarget a (o - a.hbase) n false = some (c, pa) → ∃ t, exec .apertureAccess s = .next t ∧
        t.hostRead = (s.readBytes pa n, (s.poisoned? pa n).isSome) ∧ ∀ x, t.byteAt x = s.byteAt x) ∧
      (bs ≠ [] → s.apertureTarget a (o - a.hbase) bs.length true = some (c, pa) → d.traces = [] →
        plainRange pa bs.length → ∃ t, exec .apertureAccess s = .next t ∧ s.BytesStored t pa bs)) ∧
    (∀ p a len, s.focus.ecc = .clean → s.ports[s.focus.die]? = some p → p.rawen = true → o = 0x10000000000 + a → a + len ≤ 0xC000000000 →
      s.shielded a len = false →
      (bs = [] → n = len → ∃ t, exec .rawApertureAccess s = .next t ∧
        t = { s with hostRead := (s.readBytes a n, (s.poisoned? a n).isSome) }) ∧
      (bs ≠ [] → bs.length = len → plainRange a len → ∃ t, exec .rawApertureAccess s = .next t ∧ s.BytesStored t a bs))

/-! ### Service and kernel cores (01 R38; 13 R474 to R479) -/

/-- SERVICE_CORE_INSTRUCTION: a core that runs executes the instruction that it fetches, or completes the one whose access has been
answered; ADD is written out (13 R474, R475; what an instruction does is the RISC-V unprivileged specification's, which the
spec names and the model presumes, log 50). RAW_ACCESS: an access that its sluice lets through reads a register, sets out a write of
one, which waits while an invalidation is in progress, or goes to memory (01 R38, R46, R48). PORT_PAGE_STORE and PORT_PAGE_LOAD: latches are written, operations triggered, and results, PSEQ
and POUT read (13 R478). PDRAIN, PSVC, PPIN and PORPH are as 13 R479 says. RUN starts a core at RPC with its registers zero, and HALT
stops one between instructions (13 R477). The constructors are serviceCoreInstruction, rawAccess, portPageStore, portPageLoad, pdrain,
psvc, ppin, porph, run and halt. -/
def Obligations.ServiceCoresRun : Prop :=
  ∀ (s : State),
    let x := s.focus.sluice
    let v := s.svc x
    let c := (s.svcCycles x).svc x
    (∀ w len bits, v.halted = false → v.access = none → (s.svcCycles x).fetchRv x = .insn w len bits →
      (∀ c', c.execute s.now w len bits = .next c' → ∃ t, exec .serviceCoreInstruction s = .next t ∧ t.svc x = c'.boundary ∧
        t = { s with svcs := t.svcs }) ∧
      (∀ kind a n d, c.execute s.now w len bits = .mem kind a n d → ∃ t r, exec .serviceCoreInstruction s = .next t ∧
        t.svc x = { c with access := some r } ∧ r.insn = w ∧ r.len = len ∧ r.kind = kind ∧ r.addr = a.toNat ∧ r.n = n ∧ r.data = d) ∧
      (∀ rd rs1 rs2 : BitVec 5, w = 0#7 ++ rs2 ++ rs1 ++ 0#3 ++ rd ++ 0x33#7 → ∃ t, exec .serviceCoreInstruction s = .next t ∧
        (t.svc x).pc = v.pc + BitVec.ofNat 64 len ∧ (t.svc x).instret = v.instret + 1 ∧
        ∀ r : BitVec 5, (t.svc x).rx r = if r = rd ∧ rd ≠ 0 then v.rx rs1 + v.rx rs2 else v.rx r)) ∧
    (∀ r w, v.halted = false → v.access = some r → r.reply = some w → ∃ t, exec .serviceCoreInstruction s = .next t ∧
      t.svc x = c.complete r w) ∧
    (∀ r, v.access = some r → r.sent = false → r.reply = none → r.addr < portPage → s.rawRefused x r.addr r.n r.kind.writes = false →
      let register : Prop := (∃ o, placeOf r.addr = .hub o) ∨ ∃ cl o, placeOf r.addr = .control cl o
      (register → s.invalBusy r = true → exec .rawAccess s = .next s) ∧
      (register → s.invalBusy r = false → r.kind = .load → ∃ t, exec .rawAccess s = .next t ∧
        t.svc x = { v with access := some { r with reply := some (s.readRegs r.addr r.n) } } ∧ t = { s with svcs := t.svcs }) ∧
      (register → s.invalBusy r = false → r.kind = .store → ∃ t w, exec .rawAccess s = .next t ∧
        t.svc x = { v with access := some { r with reply := some w } } ∧
        t.agenda = regSteps s (r.addr / 8 * 8) (BitVec.ofNat 64 ((2 ^ (8 * r.n) - 1) * 2 ^ (8 * (r.addr % 8))))
          (r.data <<< (8 * (r.addr % 8))) ++ s.agenda) ∧
      (placeOf r.addr = .hbm → (∀ q ∈ s.hostq, ∀ n, q.src ≠ .raw x n) → ∃ t q, exec .rawAccess s = .next t ∧
        t.svc x = { v with access := some { r with sent := true } } ∧ q.acc = r.access v.resv ∧ q.src = .raw x v.starts ∧
        t.queueAt (sliceUnit (hbmDie r.addr)) = s.queueAt (sliceUnit (hbmDie r.addr)) ++ [q])) ∧
    (∀ r o w, v.access = some r → s.portAccess x true = some (o, w) →
      (∀ l, o < 0x3F00 → Target.ofCode (BitVec.ofNat 11 (o / 8)) = .latch l → portLatch l = true →
        ∃ t, exec .portPageStore s = .next t ∧ t.svc x = ({ v with ports := (v.view.writeLatch (.latch l) w).ports } : Svc).complete r 0 ∧
          t = { s with svcs := t.svcs }) ∧
      (∀ op, o < 0x3F00 → Target.ofCode (BitVec.ofNat 11 (o / 8)) = .trig op → portUnit op.unit = true →
        s.portErr (s.portTrig x op w) = none → ∃ t, exec .portPageStore s = .next t ∧
          t = ((trigger op).perform s (s.portTrig x op w)).portDone x 0) ∧
      (∀ k cap d, o = 0x3F20 → sluiceKind x = 0b10 → k = portSlot w → s.agentK x k = .cap cap → cap.kind = .whole →
        s.descOf cap = some d → ∃ t, exec .ppin s = .next t ∧ t.svc x = v.complete r 0 ∧
          t.descOf cap = some { d with pin := w.getLsbD 8 }) ∧
      (∀ k p i cap rest, o = 0x3F28 → sluiceKind x = 0b10 → k = portSlot w → s.agentK x k = .empty → p = w.extractLsb' 8 4 →
        (s.part p).orphans = (i, cap) :: rest → ∃ t, exec .porph s = .next t ∧ t.agentK x k = .cap cap ∧
          (t.part p).orphans = rest ∧ (t.svc x).access = none)) ∧
    (∀ r o, v.access = some r → s.portAccess x false = some (o, r.data) →
      (∀ w, o < 0x3F00 ∧ s.portOrigin x o = some w ∨ o = 0x3F00 ∧ w = v.pseq.setWidth 64 ∨
          o = 0x3F08 ∧ w = BitVec.ofNat 64 (s.portOut x) ∨ (o = 0x3F20 ∨ o = 0x3F28) ∧ w = 0 →
        ∃ t, exec .portPageLoad s = .next t ∧ t.svc x = v.complete r w ∧ t = { s with svcs := t.svcs }) ∧
      (o = 0x3F10 → s.portOut x = 0 → ∃ t, exec .pdrain s = .next t ∧ t.svc x = v.complete r 0 ∧ t = { s with svcs := t.svcs }) ∧
      (o = 0x3F18 →
        let part := s.partOf x
        let q := (s.part part).svcq
        (s.queue q).part = part →
        (∀ h, (s.queue q).units.findSome? Work.call? = some h → plainRange (s.tcbAt part h) 128 →
          ∃ t, exec .psvc s = .next t ∧ t.svc x = v.complete r (BitVec.ofNat 64 h) ∧ t.tcb part h tcbState = 3 ∧
            (t.queue q).units = (s.queue q).units.erase (.service h)) ∧
        ((s.queue q).units.findSome? Work.call? = none → ∃ t, exec .psvc s = .next t ∧
          t.svc x = v.complete r (BitVec.allOnes 64)))) ∧
    (∃ t, exec .run s = .next t ∧ (t.svc x).pc = v.rpc ∧ (t.svc x).halted = false ∧ (∀ r, (t.svc x).rx r = 0) ∧
      (∀ r, (t.svc x).rf r = 0) ∧ (t.svc x).fcsr = 0 ∧ (t.svc x).cycle = 0 ∧ (t.svc x).instret = 0 ∧ (t.svc x).access = none ∧
      (∀ f ∈ t.flights, f.agent = x → f.counted = false) ∧ ∀ y, y ≠ x → t.svc y = s.svc y) ∧
    (∃ t, exec .halt s = .next t ∧ t = { s with svcs := t.svcs } ∧
      (v.access = none ∨ v.halted = true → (t.svc x).halted = true) ∧
      (v.access ≠ none → v.halted = false → (t.svc x).halted = false ∧ (t.svc x).haltDue = true))

/-! ### Registers, bring-up and clocks (00 R5; 08 R303; 13 R477 to R485) -/

/-- REGISTER_WRITE stores the writable bits under its mask, here of page-table bases, bank formats, HO_CPOOL, FAULTMB and RPC, and
read-only words keep their value (00 R5; 01 R46; 05 R185; 08 R261, R262; 13 R477). SLUICE_CONFIG_WRITE: word 0 keeps PART while a continuation is
resident, and says so (08 R303). HUB_ACCEPT_WRITE: bits that are offered, while LOCK is clear; LOCK is set, and the device that its
kernel has brought up is READY (13 R480 to R482). SEC_CFG and CONFIGURATION_BLOCK_CHECK: a block is checked, measured and applied, or
BAD (13 R482, R483). The constructors are registerWrite, sluiceConfigWrite, hubAcceptWrite, lock, secCfg and
configurationBlockCheck. -/
def Obligations.RegistersAreWritten : Prop :=
  ∀ (s : State),
    let a := s.focus.addr
    let mask : Word := BitVec.ofNat 64 s.focus.n
    let v := s.focus.data
    let x := s.focus.sluice
    let i := a / 8 % 32
    (∀ cl o, placeOf a = .control cl o →
      (o < 0x80 → o % 8 = 0 → ∃ t, exec .registerWrite s = .next t ∧ (∀ c, c ≠ cl → t.cluster c = s.cluster c) ∧
        t.readControl cl o = mergeBits (ones 51 15 ||| 1) mask (s.readControl cl o) v) ∧
      (0x1000 ≤ o → o < 0x1200 → o % 8 = 0 → ∃ t, exec .registerWrite s = .next t ∧
        t.readControl cl o = mergeBits (ones 25 16 ||| ones 13 8 ||| ones 3 0) mask (s.readControl cl o) v) ∧
      (o = 0x2000 → ∃ t, exec .registerWrite s = .next t ∧
        t.readControl cl o = mergeBits (BitVec.allOnes 64) mask (s.readControl cl o) v) ∧
      (0x3000 ≤ o → o < 0x3800 → ∃ t, exec .registerWrite s = .next t ∧ t.readControl cl o = s.readControl cl o)) ∧
    (∀ o, placeOf a = .hub o →
      (∀ p : Nat, 0x20000 ≤ o → o < 0x20400 → o / 8 % 8 = 5 → p = (o - 0x20000) / 64 → ∃ t, exec .registerWrite s = .next t ∧
        (t.part (BitVec.ofNat 4 p)).faultmb = (mergeBits (ones 16 0) mask ((s.part (BitVec.ofNat 4 p)).faultmb.setWidth 64) v).setWidth 17) ∧
      (∀ n, n < 136 → o = 0x208008 + 16 * n → ∃ t, exec .registerWrite s = .next t ∧ t = { s with svcs := t.svcs } ∧
        (t.svc (controlled n)).rpc = mergeBits (BitVec.allOnes 64) mask (s.svc (controlled n)).rpc v) ∧
      (o = 0x1000 ∨ o = 0 ∨ o = 0x11000 → ∃ t, exec .registerWrite s = .next t ∧ t = s)) ∧
    (∃ t, exec .sluiceConfigWrite s = .next t ∧
      (i = 0 →
        let w := mergeBits (ones 3 0 ||| ones 7 7 ||| ones 31 16) mask (s.readSluice x 0) v
        let refused := s.occupied x = true ∧ mask &&& 0xF ≠ 0
        (t.sluiceOf x).en = w.getLsbD 7 ∧ (t.sluiceOf x).mbr = (s.sluiceOf x).mbr ∧ (t.sluiceOf x).win = (s.sluiceOf x).win ∧
          (refused → (t.sluiceOf x).part = (s.sluiceOf x).part ∧ (t.sluiceOf x).perr = true) ∧
          (¬ refused → (t.sluiceOf x).part = w.extractLsb' 0 4 ∧
            (t.sluiceOf x).perr = ((s.sluiceOf x).perr && !(mask.getLsbD 6 && v.getLsbD 6)))) ∧
      (1 ≤ i → i < 9 → t.readSluice x i = mergeBits (ones 47 0 ||| ones 63 63) mask (s.readSluice x i) v) ∧
      (9 ≤ i → i < 25 →
        t.readSluice x i = mergeBits (if (i - 9) % 2 = 0 then ones 1 0 ||| ones 51 12 else ones 51 12) mask (s.readSluice x i) v)) ∧
    (a % 0x1000 / 8 = 0x24 → ∃ t, exec .hubAcceptWrite s = .next t ∧ t = { s with sec := t.sec } ∧
      (t.sec.accept[0]) = if s.sec.lock then (s.sec.accept[0]) else mergeBits 0xF mask (s.sec.accept[0]) v) ∧
    (∃ t, exec .lock s = .next t ∧ t = { s with sec := { s.sec with
      lock := true
      state := if s.sec.state = 3 then 4 else s.sec.state } }) ∧
    (∃ t, exec .secCfg s = .next t ∧ t.sec.cfgst = 1 ∧ t.sec.cfg = v.toNat ∧ t = { s with sec := t.sec }) ∧
    (s.sec.cfgst = 1 →
      let n := s.focus.n
      let body := s.readBytes s.sec.cfg (16 * n)
      let pairs := (List.range n).map (s.cfgPair s.sec.cfg)
      let ok := Config.blockSigned (sha384 body) (s.readBytes (s.sec.cfg + 16 * n) 96) = true ∧ ∀ p ∈ pairs, cfgOffset p.1 = true
      ∃ t, exec .configurationBlockCheck s = .next t ∧
        (ok → t.sec.cfgst = 2 ∧ t.sec.chain = BitVec.ofNat 384 (leNat (sha384 (leBytes 48 s.sec.chain.toNat ++ body))) ∧
          t.agenda = pairs.flatMap (fun p => regSteps s (0x2000000000000 + p.1) (BitVec.allOnes 64) p.2) ++ s.agenda) ∧
        (¬ ok → t = { s with sec := { s.sec with cfgst := 4 } }))

/-- DEVICE_RESET: registers take their reset values, and the boot ROM runs; memory keeps its bytes, which is the model's choice (13 R482;
log 53). FIRMWARE_VERIFY: the ROM goes on to VERIFY; an image that passes is placed and K0 runs at its entry, one that does not fails
with code 0x02, and a flash that cannot be read with 0x01 (13 R482). KERNEL_START_TIMEOUT: a kernel that has not set LOCK in its time
fails with 0x03 (13 R482). SPDM_REQUEST answers a measurement with its signature (13 R483). The clocks of a cluster stretch and
throttle, and recover (13 R484, R485). The constructors are deviceReset, firmwareVerify, kernelStartTimeout, spdmRequest, clockStretch,
thermalThrottle, thermalRecover and supplyRecovered. -/
def Obligations.BringUpAndClocks : Prop :=
  ∀ (s : State),
    let f := s.focus
    let k := s.cluster f.cluster
    (∃ t, exec .deviceReset s = .next t ∧ t.sec = { State.reset.sec with state := 1 } ∧ t.cores = State.reset.cores ∧
      t.svcs = State.reset.svcs ∧ t.clusters = State.reset.clusters ∧ t.parts = State.reset.parts ∧ t.links = State.reset.links ∧
      t.flights = [] ∧ t.mem = s.mem) ∧
    (s.sec.state = 1 → ∃ t, exec .firmwareVerify s = .next t ∧ t = { s with sec := { s.sec with state := 2 } }) ∧
    (s.sec.state = 2 →
      (f.bytes = [] → ∃ t, exec .firmwareVerify s = .next t ∧ t = { s with sec := { s.sec with state := 5, fail := 1 } }) ∧
      (f.bytes ≠ [] → Config.firmwareSigned f.bytes = false → ∃ t, exec .firmwareVerify s = .next t ∧
        t = { s with sec := { s.sec with state := 5, fail := 2 } }) ∧
      (f.bytes ≠ [] → Config.firmwareSigned f.bytes = true → plainRange f.addr f.bytes.length →
        ∃ t, exec .firmwareVerify s = .next t ∧ s.BytesStored t f.addr f.bytes ∧ t.sec.state = 3 ∧
          t.sec.firmware = BitVec.ofNat 384 (leNat (sha384 f.bytes)) ∧ (t.svc 2176).pc = f.data ∧ (t.svc 2176).halted = false ∧
          ∀ j, 2176 ≤ j → j < 2184 → (t.svc j).sluice = kernelSluice)) ∧
    (s.sec.state = 3 → s.sec.deadline.toNat ≤ s.now.toNat → ∃ t, exec .kernelStartTimeout s = .next t ∧
      t = { s with sec := { s.sec with state := 5, fail := 3 } }) ∧
    (s.sec.state ≠ 0 → ∃ t, exec .spdmRequest s = .next t ∧ t = { s with sec := { s.sec with
      doe := s.measurement f.n ++ Config.identitySign (s.measurement f.n) f.bytes } }) ∧
    (∀ i y, (i, y) ∈ [(Instr.clockStretch, { k with stretched := true }), (.supplyRecovered, { k with stretched := false }),
        (.thermalThrottle, { k with throttled := true }), (.thermalRecover, { k with throttled := false })] →
      ∃ t, exec i s = .next t ∧ t = { s with clusters := t.clusters } ∧ t.cluster f.cluster = y ∧
        ∀ c, c ≠ f.cluster → t.cluster c = s.cluster c)
end

