-- ==== Sys2Proof/Laws/Memory.lean ====
section
/-! SUPPORT. Tables read back what was put into them, and the byte memory keeps its canonical form and reads back what was
stored. -/

namespace Sys2Proof.Machine

/-! ### Tables -/

@[simp] theorem tabFind_tabPut_same {α : Type} (k : Nat) (v : α) (t : Tab α) : tabFind k (tabPut k v t) = some v := by
  induction t with
  | nil => simp [tabPut, tabFind]
  | cons e t ih =>
    obtain ⟨j, w⟩ := e
    by_cases h : j < k
    · simp [tabPut, tabFind, h, ih, Nat.ne_of_lt h]
    · by_cases h' : j = k
      · simp [tabPut, tabFind, h, h']
      · simp [tabPut, tabFind, h, h']

theorem tabFind_tabPut_ne {α : Type} {j k : Nat} (v : α) (t : Tab α) (h : j ≠ k) :
    tabFind j (tabPut k v t) = tabFind j t := by
  induction t with
  | nil => simp [tabPut, tabFind, Ne.symm h]
  | cons e t ih =>
    obtain ⟨i, w⟩ := e
    by_cases hi : i < k
    · simp only [tabPut, if_pos hi, tabFind, ih]
    · by_cases hk : i = k
      · subst hk; simp [tabPut, tabFind, Ne.symm h]
      · simp [tabPut, tabFind, hi, hk, Ne.symm h]

/-- Keys that rise from one entry to the next rise throughout. -/
theorem tabRising_iff {α : Type} (t : Tab α) : tabRising t = true ↔ t.Pairwise (fun a b => a.1 < b.1) := by
  induction t with
  | nil => simp [tabRising]
  | cons e t ih =>
    cases t with
    | nil => simp [tabRising]
    | cons f t =>
      obtain ⟨i, v⟩ := e
      obtain ⟨j, w⟩ := f
      simp only [tabRising, Bool.and_eq_true, decide_eq_true_eq, ih, List.pairwise_cons, List.mem_cons, forall_eq_or_imp]
      constructor
      · rintro ⟨h, h2, h3⟩
        exact ⟨⟨h, fun x hx => Nat.lt_trans h (h2 x hx)⟩, h2, h3⟩
      · rintro ⟨⟨h, _⟩, h2, h3⟩
        exact ⟨h, h2, h3⟩

/-! ### The canonical form of memory -/

/-- The cells of stored bytes stand in the range stored to, rise, and none reads as an unlisted byte. -/
theorem Memory.cells_spec (a : Nat) (bs : List Byte) :
    (∀ c ∈ Memory.cells a bs, a ≤ c.1 ∧ c.1 < a + bs.length ∧ c.2 ≠ Memory.unlisted) ∧
      (Memory.cells a bs).Pairwise (fun x y => x.1 < y.1) := by
  induction bs generalizing a with
  | nil => simp [Memory.cells]
  | cons b bs ih =>
    obtain ⟨h1, h2⟩ := ih (a + 1)
    have h3 : ∀ c ∈ Memory.cells (a + 1) bs, a ≤ c.1 ∧ c.1 < a + (b :: bs).length ∧ c.2 ≠ Memory.unlisted := by
      intro c hc
      obtain ⟨p, q, r⟩ := h1 c hc
      exact ⟨by omega, by simp only [List.length_cons]; omega, r⟩
    by_cases hb : b = Memory.unlisted
    · simp only [Memory.cells, if_pos hb]
      exact ⟨h3, h2⟩
    · simp only [Memory.cells, if_neg hb, List.mem_cons, forall_eq_or_imp, List.pairwise_cons]
      refine ⟨⟨⟨Nat.le_refl _, by simp, hb⟩, h3⟩, ?_, h2⟩
      intro c hc
      exact Nat.lt_of_succ_le (h1 c hc).1

/-- The canonical form, said of every cell and every two. -/
theorem Memory.wf_iff (m : List Host.Cell) :
    Memory.wf m = true ↔ m.Pairwise (fun x y => x.1 < y.1) ∧ ∀ c ∈ m, c.2 ≠ Memory.unlisted := by
  simp only [Memory.wf, Bool.and_eq_true, tabRising_iff, List.all_eq_true, bne_iff_ne]

/-- A store keeps the canonical form. -/
theorem Memory.wf_store {m : List Host.Cell} (a : Nat) (bs : List Byte) (h : Memory.wf m = true) :
    Memory.wf (Memory.store m a bs) = true := by
  rw [Memory.wf_iff] at h ⊢
  obtain ⟨hp, hn⟩ := h
  obtain ⟨c1, c2⟩ := Memory.cells_spec a bs
  constructor
  · unfold Memory.store
    rw [List.pairwise_append, List.pairwise_append]
    refine ⟨⟨hp.sublist List.filter_sublist, c2, ?_⟩, hp.sublist List.filter_sublist, ?_⟩
    · intro x hx y hy
      have h1 := (List.mem_filter.1 hx).2
      have h2 := (c1 y hy).1
      simp only [decide_eq_true_eq] at h1
      omega
    · intro x hx y hy
      have h2 := (List.mem_filter.1 hy).2
      simp only [decide_eq_true_eq] at h2
      rcases List.mem_append.1 hx with hx | hx
      · have h1 := (List.mem_filter.1 hx).2
        simp only [decide_eq_true_eq] at h1
        omega
      · have := (c1 x hx).2.1
        omega
  · intro c hc
    unfold Memory.store at hc
    rcases List.mem_append.1 hc with hc | hc
    · rcases List.mem_append.1 hc with hc | hc
      · exact hn c (List.mem_filter.1 hc).1
      · exact (c1 c hc).2.2
    · exact hn c (List.mem_filter.1 hc).1

/-! ### What memory reads as after a store -/

theorem tabFind_append {α : Type} (k : Nat) (x y : Tab α) :
    tabFind k (x ++ y) = (tabFind k x).orElse (fun _ => tabFind k y) := by
  induction x with
  | nil => simp [tabFind]
  | cons e x ih =>
    obtain ⟨j, v⟩ := e
    by_cases h : j = k <;> simp [tabFind, h, ih]

theorem tabFind_none {α : Type} (k : Nat) (t : Tab α) (h : ∀ e ∈ t, e.1 ≠ k) : tabFind k t = none := by
  induction t with
  | nil => rfl
  | cons e t ih =>
    obtain ⟨j, v⟩ := e
    have h1 : j ≠ k := h (j, v) (by simp)
    simp [tabFind, h1, ih (fun e he => h e (by simp [he]))]

theorem tabFind_filter {α : Type} (k : Nat) (p : Nat → Bool) (t : Tab α) :
    tabFind k (t.filter (fun c => p c.1)) = if p k then tabFind k t else none := by
  induction t with
  | nil => simp [tabFind]
  | cons e t ih =>
    obtain ⟨j, v⟩ := e
    by_cases hj : j = k
    · subst hj
      by_cases hp : p j
      · simp [tabFind, hp]
      · simp [hp, ih]
    · by_cases hp : p j
      · simp [tabFind, hp, hj, ih]
      · simp [tabFind, hp, hj, ih]

theorem Memory.byte_cells (a k : Nat) (bs : List Byte) :
    (tabFind k (Memory.cells a bs)).getD Memory.unlisted = if a ≤ k then (bs[k - a]?).getD Memory.unlisted else Memory.unlisted := by
  induction bs generalizing a with
  | nil => simp [Memory.cells, tabFind]
  | cons b bs ih =>
    have hstep : (tabFind k (Memory.cells a (b :: bs))).getD Memory.unlisted =
        if a = k then b else (tabFind k (Memory.cells (a + 1) bs)).getD Memory.unlisted := by
      by_cases hb : b = Memory.unlisted
      · simp only [Memory.cells, if_pos hb]
        by_cases hk : a = k
        · rw [if_pos hk, hb, tabFind_none _ _ (fun e he => by have := ((Memory.cells_spec (a + 1) bs).1 e he).1; omega)]
          rfl
        · rw [if_neg hk]
      · simp only [Memory.cells, if_neg hb, tabFind]
        by_cases hk : a = k <;> simp [hk]
    rw [hstep, ih]
    by_cases hk : a = k
    · subst hk; simp
    · by_cases h1 : a + 1 ≤ k
      · have h2 : a ≤ k := by omega
        have h3 : k - a = (k - (a + 1)) + 1 := by omega
        simp [hk, h1, h2, h3]
      · have h2 : ¬ a ≤ k := by omega
        simp [hk, h1, h2]

/-- After a store, an address in the range reads as the byte stored there, and every other as before. -/
theorem Memory.byte_store (m : List Host.Cell) (a : Nat) (bs : List Byte) (k : Nat) :
    Memory.byte (Memory.store m a bs) k =
      if a ≤ k ∧ k < a + bs.length then (bs[k - a]?).getD Memory.unlisted else Memory.byte m k := by
  unfold Memory.byte Memory.store
  rw [List.append_assoc, tabFind_append, tabFind_append,
    tabFind_filter k (fun x => decide (x < a)), tabFind_filter k (fun x => decide (a + bs.length ≤ x))]
  have hc := Memory.byte_cells a k bs
  by_cases h1 : k < a
  · have h2 : ¬ (a ≤ k ∧ k < a + bs.length) := by omega
    have h3 : tabFind k (Memory.cells a bs) = none :=
      tabFind_none _ _ (fun e he => by have := ((Memory.cells_spec a bs).1 e he).1; omega)
    have h4 : ¬ a + bs.length ≤ k := by omega
    rw [if_neg h2]
    cases h : tabFind k m <;> simp [h1, h3, h4]
  · by_cases h2 : k < a + bs.length
    · have h3 : a ≤ k ∧ k < a + bs.length := ⟨by omega, h2⟩
      have h4 : ¬ a + bs.length ≤ k := by omega
      rw [if_pos h3.1] at hc
      rw [if_pos h3, ← hc]
      cases h : tabFind k (Memory.cells a bs) <;> simp [h1, h4]
    · have h3 : ¬ (a ≤ k ∧ k < a + bs.length) := by omega
      have h4 : a + bs.length ≤ k := by omega
      have h5 : tabFind k (Memory.cells a bs) = none :=
        tabFind_none _ _ (fun e he => by have := ((Memory.cells_spec a bs).1 e he).2.1; omega)
      rw [if_neg h3]
      simp [h1, h4, h5]

end Sys2Proof.Machine
end

