-- ==== Sys2Proof/Laws/State.lean ====
section
/-! SUPPORT. What the updates of a state leave as it was, field by field. -/

namespace Sys2Proof.Machine

/-! ### onCore -/

@[simp] theorem State.onCore_mem (s : State) (n : Nat) (f : Core → Core) : (s.onCore n f).mem = s.mem := rfl
@[simp] theorem State.onCore_poison (s : State) (n : Nat) (f : Core → Core) : (s.onCore n f).poison = s.poison := rfl
@[simp] theorem State.onCore_clusters (s : State) (n : Nat) (f : Core → Core) : (s.onCore n f).clusters = s.clusters := rfl
@[simp] theorem State.onCore_svcs (s : State) (n : Nat) (f : Core → Core) : (s.onCore n f).svcs = s.svcs := rfl
@[simp] theorem State.onCore_parts (s : State) (n : Nat) (f : Core → Core) : (s.onCore n f).parts = s.parts := rfl
@[simp] theorem State.onCore_llc (s : State) (n : Nat) (f : Core → Core) : (s.onCore n f).llc = s.llc := rfl
@[simp] theorem State.onCore_tableq (s : State) (n : Nat) (f : Core → Core) : (s.onCore n f).tableq = s.tableq := rfl
@[simp] theorem State.onCore_hostq (s : State) (n : Nat) (f : Core → Core) : (s.onCore n f).hostq = s.hostq := rfl
@[simp] theorem State.onCore_flights (s : State) (n : Nat) (f : Core → Core) : (s.onCore n f).flights = s.flights := rfl
@[simp] theorem State.onCore_marked (s : State) (n : Nat) (f : Core → Core) : (s.onCore n f).marked = s.marked := rfl
@[simp] theorem State.onCore_msgs (s : State) (n : Nat) (f : Core → Core) : (s.onCore n f).msgs = s.msgs := rfl
@[simp] theorem State.onCore_queues (s : State) (n : Nat) (f : Core → Core) : (s.onCore n f).queues = s.queues := rfl
@[simp] theorem State.onCore_gpass (s : State) (n : Nat) (f : Core → Core) : (s.onCore n f).gpass = s.gpass := rfl
@[simp] theorem State.onCore_parks (s : State) (n : Nat) (f : Core → Core) : (s.onCore n f).parks = s.parks := rfl
@[simp] theorem State.onCore_asks (s : State) (n : Nat) (f : Core → Core) : (s.onCore n f).asks = s.asks := rfl
@[simp] theorem State.onCore_fins (s : State) (n : Nat) (f : Core → Core) : (s.onCore n f).fins = s.fins := rfl
@[simp] theorem State.onCore_abroad (s : State) (n : Nat) (f : Core → Core) : (s.onCore n f).abroad = s.abroad := rfl
@[simp] theorem State.onCore_hauls (s : State) (n : Nat) (f : Core → Core) : (s.onCore n f).hauls = s.hauls := rfl
@[simp] theorem State.onCore_marks (s : State) (n : Nat) (f : Core → Core) : (s.onCore n f).marks = s.marks := rfl
@[simp] theorem State.onCore_lines (s : State) (n : Nat) (f : Core → Core) : (s.onCore n f).lines = s.lines := rfl
@[simp] theorem State.onCore_far (s : State) (n : Nat) (f : Core → Core) : (s.onCore n f).far = s.far := rfl
@[simp] theorem State.onCore_batches (s : State) (n : Nat) (f : Core → Core) : (s.onCore n f).batches = s.batches := rfl
@[simp] theorem State.onCore_links (s : State) (n : Nat) (f : Core → Core) : (s.onCore n f).links = s.links := rfl
@[simp] theorem State.onCore_routes (s : State) (n : Nat) (f : Core → Core) : (s.onCore n f).routes = s.routes := rfl
@[simp] theorem State.onCore_away (s : State) (n : Nat) (f : Core → Core) : (s.onCore n f).away = s.away := rfl
@[simp] theorem State.onCore_outbox (s : State) (n : Nat) (f : Core → Core) : (s.onCore n f).outbox = s.outbox := rfl
@[simp] theorem State.onCore_ports (s : State) (n : Nat) (f : Core → Core) : (s.onCore n f).ports = s.ports := rfl
@[simp] theorem State.onCore_apertures (s : State) (n : Nat) (f : Core → Core) : (s.onCore n f).apertures = s.apertures := rfl
@[simp] theorem State.onCore_events (s : State) (n : Nat) (f : Core → Core) : (s.onCore n f).events = s.events := rfl
@[simp] theorem State.onCore_eventCount (s : State) (n : Nat) (f : Core → Core) : (s.onCore n f).eventCount = s.eventCount := rfl
@[simp] theorem State.onCore_hostRead (s : State) (n : Nat) (f : Core → Core) : (s.onCore n f).hostRead = s.hostRead := rfl
@[simp] theorem State.onCore_sec (s : State) (n : Nat) (f : Core → Core) : (s.onCore n f).sec = s.sec := rfl
@[simp] theorem State.onCore_frames (s : State) (n : Nat) (f : Core → Core) : (s.onCore n f).frames = s.frames := rfl
@[simp] theorem State.onCore_gang (s : State) (n : Nat) (f : Core → Core) : (s.onCore n f).gang = s.gang := rfl
@[simp] theorem State.onCore_gstat (s : State) (n : Nat) (f : Core → Core) : (s.onCore n f).gstat = s.gstat := rfl
@[simp] theorem State.onCore_falls (s : State) (n : Nat) (f : Core → Core) : (s.onCore n f).falls = s.falls := rfl
@[simp] theorem State.onCore_stuck (s : State) (n : Nat) (f : Core → Core) : (s.onCore n f).stuck = s.stuck := rfl
@[simp] theorem State.onCore_spilled (s : State) (n : Nat) (f : Core → Core) : (s.onCore n f).spilled = s.spilled := rfl
@[simp] theorem State.onCore_now (s : State) (n : Nat) (f : Core → Core) : (s.onCore n f).now = s.now := rfl
@[simp] theorem State.onCore_dtSync (s : State) (n : Nat) (f : Core → Core) : (s.onCore n f).dtSync = s.dtSync := rfl
@[simp] theorem State.onCore_dev (s : State) (n : Nat) (f : Core → Core) : (s.onCore n f).dev = s.dev := rfl
@[simp] theorem State.onCore_turn (s : State) (n : Nat) (f : Core → Core) : (s.onCore n f).turn = s.turn := rfl
@[simp] theorem State.onCore_sole (s : State) (n : Nat) (f : Core → Core) : (s.onCore n f).sole = s.sole := rfl
@[simp] theorem State.onCore_agenda (s : State) (n : Nat) (f : Core → Core) : (s.onCore n f).agenda = s.agenda := rfl
@[simp] theorem State.onCore_focus (s : State) (n : Nat) (f : Core → Core) : (s.onCore n f).focus = s.focus := rfl
@[simp] theorem State.onCore_tick (s : State) (n : Nat) (f : Core → Core) : (s.onCore n f).tick = s.tick := rfl

/-! ### onCluster -/

@[simp] theorem State.onCluster_mem (s : State) (n : Nat) (f : Cluster → Cluster) : (s.onCluster n f).mem = s.mem := rfl
@[simp] theorem State.onCluster_poison (s : State) (n : Nat) (f : Cluster → Cluster) : (s.onCluster n f).poison = s.poison := rfl
@[simp] theorem State.onCluster_cores (s : State) (n : Nat) (f : Cluster → Cluster) : (s.onCluster n f).cores = s.cores := rfl
@[simp] theorem State.onCluster_svcs (s : State) (n : Nat) (f : Cluster → Cluster) : (s.onCluster n f).svcs = s.svcs := rfl
@[simp] theorem State.onCluster_parts (s : State) (n : Nat) (f : Cluster → Cluster) : (s.onCluster n f).parts = s.parts := rfl
@[simp] theorem State.onCluster_llc (s : State) (n : Nat) (f : Cluster → Cluster) : (s.onCluster n f).llc = s.llc := rfl
@[simp] theorem State.onCluster_tableq (s : State) (n : Nat) (f : Cluster → Cluster) : (s.onCluster n f).tableq = s.tableq := rfl
@[simp] theorem State.onCluster_hostq (s : State) (n : Nat) (f : Cluster → Cluster) : (s.onCluster n f).hostq = s.hostq := rfl
@[simp] theorem State.onCluster_flights (s : State) (n : Nat) (f : Cluster → Cluster) : (s.onCluster n f).flights = s.flights := rfl
@[simp] theorem State.onCluster_marked (s : State) (n : Nat) (f : Cluster → Cluster) : (s.onCluster n f).marked = s.marked := rfl
@[simp] theorem State.onCluster_msgs (s : State) (n : Nat) (f : Cluster → Cluster) : (s.onCluster n f).msgs = s.msgs := rfl
@[simp] theorem State.onCluster_queues (s : State) (n : Nat) (f : Cluster → Cluster) : (s.onCluster n f).queues = s.queues := rfl
@[simp] theorem State.onCluster_gpass (s : State) (n : Nat) (f : Cluster → Cluster) : (s.onCluster n f).gpass = s.gpass := rfl
@[simp] theorem State.onCluster_parks (s : State) (n : Nat) (f : Cluster → Cluster) : (s.onCluster n f).parks = s.parks := rfl
@[simp] theorem State.onCluster_asks (s : State) (n : Nat) (f : Cluster → Cluster) : (s.onCluster n f).asks = s.asks := rfl
@[simp] theorem State.onCluster_fins (s : State) (n : Nat) (f : Cluster → Cluster) : (s.onCluster n f).fins = s.fins := rfl
@[simp] theorem State.onCluster_abroad (s : State) (n : Nat) (f : Cluster → Cluster) : (s.onCluster n f).abroad = s.abroad := rfl
@[simp] theorem State.onCluster_hauls (s : State) (n : Nat) (f : Cluster → Cluster) : (s.onCluster n f).hauls = s.hauls := rfl
@[simp] theorem State.onCluster_marks (s : State) (n : Nat) (f : Cluster → Cluster) : (s.onCluster n f).marks = s.marks := rfl
@[simp] theorem State.onCluster_lines (s : State) (n : Nat) (f : Cluster → Cluster) : (s.onCluster n f).lines = s.lines := rfl
@[simp] theorem State.onCluster_far (s : State) (n : Nat) (f : Cluster → Cluster) : (s.onCluster n f).far = s.far := rfl
@[simp] theorem State.onCluster_batches (s : State) (n : Nat) (f : Cluster → Cluster) : (s.onCluster n f).batches = s.batches := rfl
@[simp] theorem State.onCluster_links (s : State) (n : Nat) (f : Cluster → Cluster) : (s.onCluster n f).links = s.links := rfl
@[simp] theorem State.onCluster_routes (s : State) (n : Nat) (f : Cluster → Cluster) : (s.onCluster n f).routes = s.routes := rfl
@[simp] theorem State.onCluster_away (s : State) (n : Nat) (f : Cluster → Cluster) : (s.onCluster n f).away = s.away := rfl
@[simp] theorem State.onCluster_outbox (s : State) (n : Nat) (f : Cluster → Cluster) : (s.onCluster n f).outbox = s.outbox := rfl
@[simp] theorem State.onCluster_ports (s : State) (n : Nat) (f : Cluster → Cluster) : (s.onCluster n f).ports = s.ports := rfl
@[simp] theorem State.onCluster_apertures (s : State) (n : Nat) (f : Cluster → Cluster) : (s.onCluster n f).apertures = s.apertures := rfl
@[simp] theorem State.onCluster_events (s : State) (n : Nat) (f : Cluster → Cluster) : (s.onCluster n f).events = s.events := rfl
@[simp] theorem State.onCluster_eventCount (s : State) (n : Nat) (f : Cluster → Cluster) : (s.onCluster n f).eventCount = s.eventCount := rfl
@[simp] theorem State.onCluster_hostRead (s : State) (n : Nat) (f : Cluster → Cluster) : (s.onCluster n f).hostRead = s.hostRead := rfl
@[simp] theorem State.onCluster_sec (s : State) (n : Nat) (f : Cluster → Cluster) : (s.onCluster n f).sec = s.sec := rfl
@[simp] theorem State.onCluster_frames (s : State) (n : Nat) (f : Cluster → Cluster) : (s.onCluster n f).frames = s.frames := rfl
@[simp] theorem State.onCluster_gang (s : State) (n : Nat) (f : Cluster → Cluster) : (s.onCluster n f).gang = s.gang := rfl
@[simp] theorem State.onCluster_gstat (s : State) (n : Nat) (f : Cluster → Cluster) : (s.onCluster n f).gstat = s.gstat := rfl
@[simp] theorem State.onCluster_falls (s : State) (n : Nat) (f : Cluster → Cluster) : (s.onCluster n f).falls = s.falls := rfl
@[simp] theorem State.onCluster_stuck (s : State) (n : Nat) (f : Cluster → Cluster) : (s.onCluster n f).stuck = s.stuck := rfl
@[simp] theorem State.onCluster_spilled (s : State) (n : Nat) (f : Cluster → Cluster) : (s.onCluster n f).spilled = s.spilled := rfl
@[simp] theorem State.onCluster_now (s : State) (n : Nat) (f : Cluster → Cluster) : (s.onCluster n f).now = s.now := rfl
@[simp] theorem State.onCluster_dtSync (s : State) (n : Nat) (f : Cluster → Cluster) : (s.onCluster n f).dtSync = s.dtSync := rfl
@[simp] theorem State.onCluster_dev (s : State) (n : Nat) (f : Cluster → Cluster) : (s.onCluster n f).dev = s.dev := rfl
@[simp] theorem State.onCluster_turn (s : State) (n : Nat) (f : Cluster → Cluster) : (s.onCluster n f).turn = s.turn := rfl
@[simp] theorem State.onCluster_sole (s : State) (n : Nat) (f : Cluster → Cluster) : (s.onCluster n f).sole = s.sole := rfl
@[simp] theorem State.onCluster_agenda (s : State) (n : Nat) (f : Cluster → Cluster) : (s.onCluster n f).agenda = s.agenda := rfl
@[simp] theorem State.onCluster_focus (s : State) (n : Nat) (f : Cluster → Cluster) : (s.onCluster n f).focus = s.focus := rfl
@[simp] theorem State.onCluster_tick (s : State) (n : Nat) (f : Cluster → Cluster) : (s.onCluster n f).tick = s.tick := rfl

/-! ### onPart -/

@[simp] theorem State.onPart_mem (s : State) (p : BitVec 4) (f : Partition → Partition) : (s.onPart p f).mem = s.mem := rfl
@[simp] theorem State.onPart_poison (s : State) (p : BitVec 4) (f : Partition → Partition) : (s.onPart p f).poison = s.poison := rfl
@[simp] theorem State.onPart_cores (s : State) (p : BitVec 4) (f : Partition → Partition) : (s.onPart p f).cores = s.cores := rfl
@[simp] theorem State.onPart_clusters (s : State) (p : BitVec 4) (f : Partition → Partition) : (s.onPart p f).clusters = s.clusters := rfl
@[simp] theorem State.onPart_svcs (s : State) (p : BitVec 4) (f : Partition → Partition) : (s.onPart p f).svcs = s.svcs := rfl
@[simp] theorem State.onPart_llc (s : State) (p : BitVec 4) (f : Partition → Partition) : (s.onPart p f).llc = s.llc := rfl
@[simp] theorem State.onPart_tableq (s : State) (p : BitVec 4) (f : Partition → Partition) : (s.onPart p f).tableq = s.tableq := rfl
@[simp] theorem State.onPart_hostq (s : State) (p : BitVec 4) (f : Partition → Partition) : (s.onPart p f).hostq = s.hostq := rfl
@[simp] theorem State.onPart_flights (s : State) (p : BitVec 4) (f : Partition → Partition) : (s.onPart p f).flights = s.flights := rfl
@[simp] theorem State.onPart_marked (s : State) (p : BitVec 4) (f : Partition → Partition) : (s.onPart p f).marked = s.marked := rfl
@[simp] theorem State.onPart_msgs (s : State) (p : BitVec 4) (f : Partition → Partition) : (s.onPart p f).msgs = s.msgs := rfl
@[simp] theorem State.onPart_queues (s : State) (p : BitVec 4) (f : Partition → Partition) : (s.onPart p f).queues = s.queues := rfl
@[simp] theorem State.onPart_gpass (s : State) (p : BitVec 4) (f : Partition → Partition) : (s.onPart p f).gpass = s.gpass := rfl
@[simp] theorem State.onPart_parks (s : State) (p : BitVec 4) (f : Partition → Partition) : (s.onPart p f).parks = s.parks := rfl
@[simp] theorem State.onPart_asks (s : State) (p : BitVec 4) (f : Partition → Partition) : (s.onPart p f).asks = s.asks := rfl
@[simp] theorem State.onPart_fins (s : State) (p : BitVec 4) (f : Partition → Partition) : (s.onPart p f).fins = s.fins := rfl
@[simp] theorem State.onPart_abroad (s : State) (p : BitVec 4) (f : Partition → Partition) : (s.onPart p f).abroad = s.abroad := rfl
@[simp] theorem State.onPart_hauls (s : State) (p : BitVec 4) (f : Partition → Partition) : (s.onPart p f).hauls = s.hauls := rfl
@[simp] theorem State.onPart_marks (s : State) (p : BitVec 4) (f : Partition → Partition) : (s.onPart p f).marks = s.marks := rfl
@[simp] theorem State.onPart_lines (s : State) (p : BitVec 4) (f : Partition → Partition) : (s.onPart p f).lines = s.lines := rfl
@[simp] theorem State.onPart_far (s : State) (p : BitVec 4) (f : Partition → Partition) : (s.onPart p f).far = s.far := rfl
@[simp] theorem State.onPart_batches (s : State) (p : BitVec 4) (f : Partition → Partition) : (s.onPart p f).batches = s.batches := rfl
@[simp] theorem State.onPart_links (s : State) (p : BitVec 4) (f : Partition → Partition) : (s.onPart p f).links = s.links := rfl
@[simp] theorem State.onPart_routes (s : State) (p : BitVec 4) (f : Partition → Partition) : (s.onPart p f).routes = s.routes := rfl
@[simp] theorem State.onPart_away (s : State) (p : BitVec 4) (f : Partition → Partition) : (s.onPart p f).away = s.away := rfl
@[simp] theorem State.onPart_outbox (s : State) (p : BitVec 4) (f : Partition → Partition) : (s.onPart p f).outbox = s.outbox := rfl
@[simp] theorem State.onPart_ports (s : State) (p : BitVec 4) (f : Partition → Partition) : (s.onPart p f).ports = s.ports := rfl
@[simp] theorem State.onPart_apertures (s : State) (p : BitVec 4) (f : Partition → Partition) : (s.onPart p f).apertures = s.apertures := rfl
@[simp] theorem State.onPart_events (s : State) (p : BitVec 4) (f : Partition → Partition) : (s.onPart p f).events = s.events := rfl
@[simp] theorem State.onPart_eventCount (s : State) (p : BitVec 4) (f : Partition → Partition) : (s.onPart p f).eventCount = s.eventCount := rfl
@[simp] theorem State.onPart_hostRead (s : State) (p : BitVec 4) (f : Partition → Partition) : (s.onPart p f).hostRead = s.hostRead := rfl
@[simp] theorem State.onPart_sec (s : State) (p : BitVec 4) (f : Partition → Partition) : (s.onPart p f).sec = s.sec := rfl
@[simp] theorem State.onPart_frames (s : State) (p : BitVec 4) (f : Partition → Partition) : (s.onPart p f).frames = s.frames := rfl
@[simp] theorem State.onPart_gang (s : State) (p : BitVec 4) (f : Partition → Partition) : (s.onPart p f).gang = s.gang := rfl
@[simp] theorem State.onPart_gstat (s : State) (p : BitVec 4) (f : Partition → Partition) : (s.onPart p f).gstat = s.gstat := rfl
@[simp] theorem State.onPart_falls (s : State) (p : BitVec 4) (f : Partition → Partition) : (s.onPart p f).falls = s.falls := rfl
@[simp] theorem State.onPart_stuck (s : State) (p : BitVec 4) (f : Partition → Partition) : (s.onPart p f).stuck = s.stuck := rfl
@[simp] theorem State.onPart_spilled (s : State) (p : BitVec 4) (f : Partition → Partition) : (s.onPart p f).spilled = s.spilled := rfl
@[simp] theorem State.onPart_now (s : State) (p : BitVec 4) (f : Partition → Partition) : (s.onPart p f).now = s.now := rfl
@[simp] theorem State.onPart_dtSync (s : State) (p : BitVec 4) (f : Partition → Partition) : (s.onPart p f).dtSync = s.dtSync := rfl
@[simp] theorem State.onPart_dev (s : State) (p : BitVec 4) (f : Partition → Partition) : (s.onPart p f).dev = s.dev := rfl
@[simp] theorem State.onPart_turn (s : State) (p : BitVec 4) (f : Partition → Partition) : (s.onPart p f).turn = s.turn := rfl
@[simp] theorem State.onPart_sole (s : State) (p : BitVec 4) (f : Partition → Partition) : (s.onPart p f).sole = s.sole := rfl
@[simp] theorem State.onPart_agenda (s : State) (p : BitVec 4) (f : Partition → Partition) : (s.onPart p f).agenda = s.agenda := rfl
@[simp] theorem State.onPart_focus (s : State) (p : BitVec 4) (f : Partition → Partition) : (s.onPart p f).focus = s.focus := rfl
@[simp] theorem State.onPart_tick (s : State) (p : BitVec 4) (f : Partition → Partition) : (s.onPart p f).tick = s.tick := rfl

/-! ### onSvc -/

@[simp] theorem State.onSvc_mem (s : State) (n : Nat) (f : Svc → Svc) : (s.onSvc n f).mem = s.mem := rfl
@[simp] theorem State.onSvc_poison (s : State) (n : Nat) (f : Svc → Svc) : (s.onSvc n f).poison = s.poison := rfl
@[simp] theorem State.onSvc_cores (s : State) (n : Nat) (f : Svc → Svc) : (s.onSvc n f).cores = s.cores := rfl
@[simp] theorem State.onSvc_clusters (s : State) (n : Nat) (f : Svc → Svc) : (s.onSvc n f).clusters = s.clusters := rfl
@[simp] theorem State.onSvc_parts (s : State) (n : Nat) (f : Svc → Svc) : (s.onSvc n f).parts = s.parts := rfl
@[simp] theorem State.onSvc_llc (s : State) (n : Nat) (f : Svc → Svc) : (s.onSvc n f).llc = s.llc := rfl
@[simp] theorem State.onSvc_tableq (s : State) (n : Nat) (f : Svc → Svc) : (s.onSvc n f).tableq = s.tableq := rfl
@[simp] theorem State.onSvc_hostq (s : State) (n : Nat) (f : Svc → Svc) : (s.onSvc n f).hostq = s.hostq := rfl
@[simp] theorem State.onSvc_flights (s : State) (n : Nat) (f : Svc → Svc) : (s.onSvc n f).flights = s.flights := rfl
@[simp] theorem State.onSvc_marked (s : State) (n : Nat) (f : Svc → Svc) : (s.onSvc n f).marked = s.marked := rfl
@[simp] theorem State.onSvc_msgs (s : State) (n : Nat) (f : Svc → Svc) : (s.onSvc n f).msgs = s.msgs := rfl
@[simp] theorem State.onSvc_queues (s : State) (n : Nat) (f : Svc → Svc) : (s.onSvc n f).queues = s.queues := rfl
@[simp] theorem State.onSvc_gpass (s : State) (n : Nat) (f : Svc → Svc) : (s.onSvc n f).gpass = s.gpass := rfl
@[simp] theorem State.onSvc_parks (s : State) (n : Nat) (f : Svc → Svc) : (s.onSvc n f).parks = s.parks := rfl
@[simp] theorem State.onSvc_asks (s : State) (n : Nat) (f : Svc → Svc) : (s.onSvc n f).asks = s.asks := rfl
@[simp] theorem State.onSvc_fins (s : State) (n : Nat) (f : Svc → Svc) : (s.onSvc n f).fins = s.fins := rfl
@[simp] theorem State.onSvc_abroad (s : State) (n : Nat) (f : Svc → Svc) : (s.onSvc n f).abroad = s.abroad := rfl
@[simp] theorem State.onSvc_hauls (s : State) (n : Nat) (f : Svc → Svc) : (s.onSvc n f).hauls = s.hauls := rfl
@[simp] theorem State.onSvc_marks (s : State) (n : Nat) (f : Svc → Svc) : (s.onSvc n f).marks = s.marks := rfl
@[simp] theorem State.onSvc_lines (s : State) (n : Nat) (f : Svc → Svc) : (s.onSvc n f).lines = s.lines := rfl
@[simp] theorem State.onSvc_far (s : State) (n : Nat) (f : Svc → Svc) : (s.onSvc n f).far = s.far := rfl
@[simp] theorem State.onSvc_batches (s : State) (n : Nat) (f : Svc → Svc) : (s.onSvc n f).batches = s.batches := rfl
@[simp] theorem State.onSvc_links (s : State) (n : Nat) (f : Svc → Svc) : (s.onSvc n f).links = s.links := rfl
@[simp] theorem State.onSvc_routes (s : State) (n : Nat) (f : Svc → Svc) : (s.onSvc n f).routes = s.routes := rfl
@[simp] theorem State.onSvc_away (s : State) (n : Nat) (f : Svc → Svc) : (s.onSvc n f).away = s.away := rfl
@[simp] theorem State.onSvc_outbox (s : State) (n : Nat) (f : Svc → Svc) : (s.onSvc n f).outbox = s.outbox := rfl
@[simp] theorem State.onSvc_ports (s : State) (n : Nat) (f : Svc → Svc) : (s.onSvc n f).ports = s.ports := rfl
@[simp] theorem State.onSvc_apertures (s : State) (n : Nat) (f : Svc → Svc) : (s.onSvc n f).apertures = s.apertures := rfl
@[simp] theorem State.onSvc_events (s : State) (n : Nat) (f : Svc → Svc) : (s.onSvc n f).events = s.events := rfl
@[simp] theorem State.onSvc_eventCount (s : State) (n : Nat) (f : Svc → Svc) : (s.onSvc n f).eventCount = s.eventCount := rfl
@[simp] theorem State.onSvc_hostRead (s : State) (n : Nat) (f : Svc → Svc) : (s.onSvc n f).hostRead = s.hostRead := rfl
@[simp] theorem State.onSvc_sec (s : State) (n : Nat) (f : Svc → Svc) : (s.onSvc n f).sec = s.sec := rfl
@[simp] theorem State.onSvc_frames (s : State) (n : Nat) (f : Svc → Svc) : (s.onSvc n f).frames = s.frames := rfl
@[simp] theorem State.onSvc_gang (s : State) (n : Nat) (f : Svc → Svc) : (s.onSvc n f).gang = s.gang := rfl
@[simp] theorem State.onSvc_gstat (s : State) (n : Nat) (f : Svc → Svc) : (s.onSvc n f).gstat = s.gstat := rfl
@[simp] theorem State.onSvc_falls (s : State) (n : Nat) (f : Svc → Svc) : (s.onSvc n f).falls = s.falls := rfl
@[simp] theorem State.onSvc_stuck (s : State) (n : Nat) (f : Svc → Svc) : (s.onSvc n f).stuck = s.stuck := rfl
@[simp] theorem State.onSvc_spilled (s : State) (n : Nat) (f : Svc → Svc) : (s.onSvc n f).spilled = s.spilled := rfl
@[simp] theorem State.onSvc_now (s : State) (n : Nat) (f : Svc → Svc) : (s.onSvc n f).now = s.now := rfl
@[simp] theorem State.onSvc_dtSync (s : State) (n : Nat) (f : Svc → Svc) : (s.onSvc n f).dtSync = s.dtSync := rfl
@[simp] theorem State.onSvc_dev (s : State) (n : Nat) (f : Svc → Svc) : (s.onSvc n f).dev = s.dev := rfl
@[simp] theorem State.onSvc_turn (s : State) (n : Nat) (f : Svc → Svc) : (s.onSvc n f).turn = s.turn := rfl
@[simp] theorem State.onSvc_sole (s : State) (n : Nat) (f : Svc → Svc) : (s.onSvc n f).sole = s.sole := rfl
@[simp] theorem State.onSvc_agenda (s : State) (n : Nat) (f : Svc → Svc) : (s.onSvc n f).agenda = s.agenda := rfl
@[simp] theorem State.onSvc_focus (s : State) (n : Nat) (f : Svc → Svc) : (s.onSvc n f).focus = s.focus := rfl
@[simp] theorem State.onSvc_tick (s : State) (n : Nat) (f : Svc → Svc) : (s.onSvc n f).tick = s.tick := rfl

/-! ### onLink -/

@[simp] theorem State.onLink_mem (s : State) (l : BitVec 6) (f : Link → Link) : (s.onLink l f).mem = s.mem := rfl
@[simp] theorem State.onLink_poison (s : State) (l : BitVec 6) (f : Link → Link) : (s.onLink l f).poison = s.poison := rfl
@[simp] theorem State.onLink_cores (s : State) (l : BitVec 6) (f : Link → Link) : (s.onLink l f).cores = s.cores := rfl
@[simp] theorem State.onLink_clusters (s : State) (l : BitVec 6) (f : Link → Link) : (s.onLink l f).clusters = s.clusters := rfl
@[simp] theorem State.onLink_svcs (s : State) (l : BitVec 6) (f : Link → Link) : (s.onLink l f).svcs = s.svcs := rfl
@[simp] theorem State.onLink_parts (s : State) (l : BitVec 6) (f : Link → Link) : (s.onLink l f).parts = s.parts := rfl
@[simp] theorem State.onLink_llc (s : State) (l : BitVec 6) (f : Link → Link) : (s.onLink l f).llc = s.llc := rfl
@[simp] theorem State.onLink_tableq (s : State) (l : BitVec 6) (f : Link → Link) : (s.onLink l f).tableq = s.tableq := rfl
@[simp] theorem State.onLink_hostq (s : State) (l : BitVec 6) (f : Link → Link) : (s.onLink l f).hostq = s.hostq := rfl
@[simp] theorem State.onLink_flights (s : State) (l : BitVec 6) (f : Link → Link) : (s.onLink l f).flights = s.flights := rfl
@[simp] theorem State.onLink_marked (s : State) (l : BitVec 6) (f : Link → Link) : (s.onLink l f).marked = s.marked := rfl
@[simp] theorem State.onLink_msgs (s : State) (l : BitVec 6) (f : Link → Link) : (s.onLink l f).msgs = s.msgs := rfl
@[simp] theorem State.onLink_queues (s : State) (l : BitVec 6) (f : Link → Link) : (s.onLink l f).queues = s.queues := rfl
@[simp] theorem State.onLink_gpass (s : State) (l : BitVec 6) (f : Link → Link) : (s.onLink l f).gpass = s.gpass := rfl
@[simp] theorem State.onLink_parks (s : State) (l : BitVec 6) (f : Link → Link) : (s.onLink l f).parks = s.parks := rfl
@[simp] theorem State.onLink_asks (s : State) (l : BitVec 6) (f : Link → Link) : (s.onLink l f).asks = s.asks := rfl
@[simp] theorem State.onLink_fins (s : State) (l : BitVec 6) (f : Link → Link) : (s.onLink l f).fins = s.fins := rfl
@[simp] theorem State.onLink_abroad (s : State) (l : BitVec 6) (f : Link → Link) : (s.onLink l f).abroad = s.abroad := rfl
@[simp] theorem State.onLink_hauls (s : State) (l : BitVec 6) (f : Link → Link) : (s.onLink l f).hauls = s.hauls := rfl
@[simp] theorem State.onLink_marks (s : State) (l : BitVec 6) (f : Link → Link) : (s.onLink l f).marks = s.marks := rfl
@[simp] theorem State.onLink_lines (s : State) (l : BitVec 6) (f : Link → Link) : (s.onLink l f).lines = s.lines := rfl
@[simp] theorem State.onLink_far (s : State) (l : BitVec 6) (f : Link → Link) : (s.onLink l f).far = s.far := rfl
@[simp] theorem State.onLink_batches (s : State) (l : BitVec 6) (f : Link → Link) : (s.onLink l f).batches = s.batches := rfl
@[simp] theorem State.onLink_routes (s : State) (l : BitVec 6) (f : Link → Link) : (s.onLink l f).routes = s.routes := rfl
@[simp] theorem State.onLink_away (s : State) (l : BitVec 6) (f : Link → Link) : (s.onLink l f).away = s.away := rfl
@[simp] theorem State.onLink_outbox (s : State) (l : BitVec 6) (f : Link → Link) : (s.onLink l f).outbox = s.outbox := rfl
@[simp] theorem State.onLink_ports (s : State) (l : BitVec 6) (f : Link → Link) : (s.onLink l f).ports = s.ports := rfl
@[simp] theorem State.onLink_apertures (s : State) (l : BitVec 6) (f : Link → Link) : (s.onLink l f).apertures = s.apertures := rfl
@[simp] theorem State.onLink_events (s : State) (l : BitVec 6) (f : Link → Link) : (s.onLink l f).events = s.events := rfl
@[simp] theorem State.onLink_eventCount (s : State) (l : BitVec 6) (f : Link → Link) : (s.onLink l f).eventCount = s.eventCount := rfl
@[simp] theorem State.onLink_hostRead (s : State) (l : BitVec 6) (f : Link → Link) : (s.onLink l f).hostRead = s.hostRead := rfl
@[simp] theorem State.onLink_sec (s : State) (l : BitVec 6) (f : Link → Link) : (s.onLink l f).sec = s.sec := rfl
@[simp] theorem State.onLink_frames (s : State) (l : BitVec 6) (f : Link → Link) : (s.onLink l f).frames = s.frames := rfl
@[simp] theorem State.onLink_gang (s : State) (l : BitVec 6) (f : Link → Link) : (s.onLink l f).gang = s.gang := rfl
@[simp] theorem State.onLink_gstat (s : State) (l : BitVec 6) (f : Link → Link) : (s.onLink l f).gstat = s.gstat := rfl
@[simp] theorem State.onLink_falls (s : State) (l : BitVec 6) (f : Link → Link) : (s.onLink l f).falls = s.falls := rfl
@[simp] theorem State.onLink_stuck (s : State) (l : BitVec 6) (f : Link → Link) : (s.onLink l f).stuck = s.stuck := rfl
@[simp] theorem State.onLink_spilled (s : State) (l : BitVec 6) (f : Link → Link) : (s.onLink l f).spilled = s.spilled := rfl
@[simp] theorem State.onLink_now (s : State) (l : BitVec 6) (f : Link → Link) : (s.onLink l f).now = s.now := rfl
@[simp] theorem State.onLink_dtSync (s : State) (l : BitVec 6) (f : Link → Link) : (s.onLink l f).dtSync = s.dtSync := rfl
@[simp] theorem State.onLink_dev (s : State) (l : BitVec 6) (f : Link → Link) : (s.onLink l f).dev = s.dev := rfl
@[simp] theorem State.onLink_turn (s : State) (l : BitVec 6) (f : Link → Link) : (s.onLink l f).turn = s.turn := rfl
@[simp] theorem State.onLink_sole (s : State) (l : BitVec 6) (f : Link → Link) : (s.onLink l f).sole = s.sole := rfl
@[simp] theorem State.onLink_agenda (s : State) (l : BitVec 6) (f : Link → Link) : (s.onLink l f).agenda = s.agenda := rfl
@[simp] theorem State.onLink_focus (s : State) (l : BitVec 6) (f : Link → Link) : (s.onLink l f).focus = s.focus := rfl
@[simp] theorem State.onLink_tick (s : State) (l : BitVec 6) (f : Link → Link) : (s.onLink l f).tick = s.tick := rfl

/-! ### onFlight -/

@[simp] theorem State.onFlight_mem (s : State) (n : Nat) (q : BitVec 16) (f : Flight → Flight) : (s.onFlight n q f).mem = s.mem := rfl
@[simp] theorem State.onFlight_poison (s : State) (n : Nat) (q : BitVec 16) (f : Flight → Flight) : (s.onFlight n q f).poison = s.poison := rfl
@[simp] theorem State.onFlight_cores (s : State) (n : Nat) (q : BitVec 16) (f : Flight → Flight) : (s.onFlight n q f).cores = s.cores := rfl
@[simp] theorem State.onFlight_clusters (s : State) (n : Nat) (q : BitVec 16) (f : Flight → Flight) : (s.onFlight n q f).clusters = s.clusters := rfl
@[simp] theorem State.onFlight_svcs (s : State) (n : Nat) (q : BitVec 16) (f : Flight → Flight) : (s.onFlight n q f).svcs = s.svcs := rfl
@[simp] theorem State.onFlight_parts (s : State) (n : Nat) (q : BitVec 16) (f : Flight → Flight) : (s.onFlight n q f).parts = s.parts := rfl
@[simp] theorem State.onFlight_llc (s : State) (n : Nat) (q : BitVec 16) (f : Flight → Flight) : (s.onFlight n q f).llc = s.llc := rfl
@[simp] theorem State.onFlight_tableq (s : State) (n : Nat) (q : BitVec 16) (f : Flight → Flight) : (s.onFlight n q f).tableq = s.tableq := rfl
@[simp] theorem State.onFlight_hostq (s : State) (n : Nat) (q : BitVec 16) (f : Flight → Flight) : (s.onFlight n q f).hostq = s.hostq := rfl
@[simp] theorem State.onFlight_marked (s : State) (n : Nat) (q : BitVec 16) (f : Flight → Flight) : (s.onFlight n q f).marked = s.marked := rfl
@[simp] theorem State.onFlight_msgs (s : State) (n : Nat) (q : BitVec 16) (f : Flight → Flight) : (s.onFlight n q f).msgs = s.msgs := rfl
@[simp] theorem State.onFlight_queues (s : State) (n : Nat) (q : BitVec 16) (f : Flight → Flight) : (s.onFlight n q f).queues = s.queues := rfl
@[simp] theorem State.onFlight_gpass (s : State) (n : Nat) (q : BitVec 16) (f : Flight → Flight) : (s.onFlight n q f).gpass = s.gpass := rfl
@[simp] theorem State.onFlight_parks (s : State) (n : Nat) (q : BitVec 16) (f : Flight → Flight) : (s.onFlight n q f).parks = s.parks := rfl
@[simp] theorem State.onFlight_asks (s : State) (n : Nat) (q : BitVec 16) (f : Flight → Flight) : (s.onFlight n q f).asks = s.asks := rfl
@[simp] theorem State.onFlight_fins (s : State) (n : Nat) (q : BitVec 16) (f : Flight → Flight) : (s.onFlight n q f).fins = s.fins := rfl
@[simp] theorem State.onFlight_abroad (s : State) (n : Nat) (q : BitVec 16) (f : Flight → Flight) : (s.onFlight n q f).abroad = s.abroad := rfl
@[simp] theorem State.onFlight_hauls (s : State) (n : Nat) (q : BitVec 16) (f : Flight → Flight) : (s.onFlight n q f).hauls = s.hauls := rfl
@[simp] theorem State.onFlight_marks (s : State) (n : Nat) (q : BitVec 16) (f : Flight → Flight) : (s.onFlight n q f).marks = s.marks := rfl
@[simp] theorem State.onFlight_lines (s : State) (n : Nat) (q : BitVec 16) (f : Flight → Flight) : (s.onFlight n q f).lines = s.lines := rfl
@[simp] theorem State.onFlight_far (s : State) (n : Nat) (q : BitVec 16) (f : Flight → Flight) : (s.onFlight n q f).far = s.far := rfl
@[simp] theorem State.onFlight_batches (s : State) (n : Nat) (q : BitVec 16) (f : Flight → Flight) : (s.onFlight n q f).batches = s.batches := rfl
@[simp] theorem State.onFlight_links (s : State) (n : Nat) (q : BitVec 16) (f : Flight → Flight) : (s.onFlight n q f).links = s.links := rfl
@[simp] theorem State.onFlight_routes (s : State) (n : Nat) (q : BitVec 16) (f : Flight → Flight) : (s.onFlight n q f).routes = s.routes := rfl
@[simp] theorem State.onFlight_away (s : State) (n : Nat) (q : BitVec 16) (f : Flight → Flight) : (s.onFlight n q f).away = s.away := rfl
@[simp] theorem State.onFlight_outbox (s : State) (n : Nat) (q : BitVec 16) (f : Flight → Flight) : (s.onFlight n q f).outbox = s.outbox := rfl
@[simp] theorem State.onFlight_ports (s : State) (n : Nat) (q : BitVec 16) (f : Flight → Flight) : (s.onFlight n q f).ports = s.ports := rfl
@[simp] theorem State.onFlight_apertures (s : State) (n : Nat) (q : BitVec 16) (f : Flight → Flight) : (s.onFlight n q f).apertures = s.apertures := rfl
@[simp] theorem State.onFlight_events (s : State) (n : Nat) (q : BitVec 16) (f : Flight → Flight) : (s.onFlight n q f).events = s.events := rfl
@[simp] theorem State.onFlight_eventCount (s : State) (n : Nat) (q : BitVec 16) (f : Flight → Flight) : (s.onFlight n q f).eventCount = s.eventCount := rfl
@[simp] theorem State.onFlight_hostRead (s : State) (n : Nat) (q : BitVec 16) (f : Flight → Flight) : (s.onFlight n q f).hostRead = s.hostRead := rfl
@[simp] theorem State.onFlight_sec (s : State) (n : Nat) (q : BitVec 16) (f : Flight → Flight) : (s.onFlight n q f).sec = s.sec := rfl
@[simp] theorem State.onFlight_frames (s : State) (n : Nat) (q : BitVec 16) (f : Flight → Flight) : (s.onFlight n q f).frames = s.frames := rfl
@[simp] theorem State.onFlight_gang (s : State) (n : Nat) (q : BitVec 16) (f : Flight → Flight) : (s.onFlight n q f).gang = s.gang := rfl
@[simp] theorem State.onFlight_gstat (s : State) (n : Nat) (q : BitVec 16) (f : Flight → Flight) : (s.onFlight n q f).gstat = s.gstat := rfl
@[simp] theorem State.onFlight_falls (s : State) (n : Nat) (q : BitVec 16) (f : Flight → Flight) : (s.onFlight n q f).falls = s.falls := rfl
@[simp] theorem State.onFlight_stuck (s : State) (n : Nat) (q : BitVec 16) (f : Flight → Flight) : (s.onFlight n q f).stuck = s.stuck := rfl
@[simp] theorem State.onFlight_spilled (s : State) (n : Nat) (q : BitVec 16) (f : Flight → Flight) : (s.onFlight n q f).spilled = s.spilled := rfl
@[simp] theorem State.onFlight_now (s : State) (n : Nat) (q : BitVec 16) (f : Flight → Flight) : (s.onFlight n q f).now = s.now := rfl
@[simp] theorem State.onFlight_dtSync (s : State) (n : Nat) (q : BitVec 16) (f : Flight → Flight) : (s.onFlight n q f).dtSync = s.dtSync := rfl
@[simp] theorem State.onFlight_dev (s : State) (n : Nat) (q : BitVec 16) (f : Flight → Flight) : (s.onFlight n q f).dev = s.dev := rfl
@[simp] theorem State.onFlight_turn (s : State) (n : Nat) (q : BitVec 16) (f : Flight → Flight) : (s.onFlight n q f).turn = s.turn := rfl
@[simp] theorem State.onFlight_sole (s : State) (n : Nat) (q : BitVec 16) (f : Flight → Flight) : (s.onFlight n q f).sole = s.sole := rfl
@[simp] theorem State.onFlight_agenda (s : State) (n : Nat) (q : BitVec 16) (f : Flight → Flight) : (s.onFlight n q f).agenda = s.agenda := rfl
@[simp] theorem State.onFlight_focus (s : State) (n : Nat) (q : BitVec 16) (f : Flight → Flight) : (s.onFlight n q f).focus = s.focus := rfl
@[simp] theorem State.onFlight_tick (s : State) (n : Nat) (q : BitVec 16) (f : Flight → Flight) : (s.onFlight n q f).tick = s.tick := rfl

/-! ### dropFlight -/

@[simp] theorem State.dropFlight_mem (s : State) (n : Nat) (q : BitVec 16) : (s.dropFlight n q).mem = s.mem := rfl
@[simp] theorem State.dropFlight_poison (s : State) (n : Nat) (q : BitVec 16) : (s.dropFlight n q).poison = s.poison := rfl
@[simp] theorem State.dropFlight_cores (s : State) (n : Nat) (q : BitVec 16) : (s.dropFlight n q).cores = s.cores := rfl
@[simp] theorem State.dropFlight_clusters (s : State) (n : Nat) (q : BitVec 16) : (s.dropFlight n q).clusters = s.clusters := rfl
@[simp] theorem State.dropFlight_svcs (s : State) (n : Nat) (q : BitVec 16) : (s.dropFlight n q).svcs = s.svcs := rfl
@[simp] theorem State.dropFlight_parts (s : State) (n : Nat) (q : BitVec 16) : (s.dropFlight n q).parts = s.parts := rfl
@[simp] theorem State.dropFlight_llc (s : State) (n : Nat) (q : BitVec 16) : (s.dropFlight n q).llc = s.llc := rfl
@[simp] theorem State.dropFlight_tableq (s : State) (n : Nat) (q : BitVec 16) : (s.dropFlight n q).tableq = s.tableq := rfl
@[simp] theorem State.dropFlight_hostq (s : State) (n : Nat) (q : BitVec 16) : (s.dropFlight n q).hostq = s.hostq := rfl
@[simp] theorem State.dropFlight_marked (s : State) (n : Nat) (q : BitVec 16) : (s.dropFlight n q).marked = s.marked := rfl
@[simp] theorem State.dropFlight_msgs (s : State) (n : Nat) (q : BitVec 16) : (s.dropFlight n q).msgs = s.msgs := rfl
@[simp] theorem State.dropFlight_queues (s : State) (n : Nat) (q : BitVec 16) : (s.dropFlight n q).queues = s.queues := rfl
@[simp] theorem State.dropFlight_gpass (s : State) (n : Nat) (q : BitVec 16) : (s.dropFlight n q).gpass = s.gpass := rfl
@[simp] theorem State.dropFlight_parks (s : State) (n : Nat) (q : BitVec 16) : (s.dropFlight n q).parks = s.parks := rfl
@[simp] theorem State.dropFlight_asks (s : State) (n : Nat) (q : BitVec 16) : (s.dropFlight n q).asks = s.asks := rfl
@[simp] theorem State.dropFlight_fins (s : State) (n : Nat) (q : BitVec 16) : (s.dropFlight n q).fins = s.fins := rfl
@[simp] theorem State.dropFlight_abroad (s : State) (n : Nat) (q : BitVec 16) : (s.dropFlight n q).abroad = s.abroad := rfl
@[simp] theorem State.dropFlight_hauls (s : State) (n : Nat) (q : BitVec 16) : (s.dropFlight n q).hauls = s.hauls := rfl
@[simp] theorem State.dropFlight_marks (s : State) (n : Nat) (q : BitVec 16) : (s.dropFlight n q).marks = s.marks := rfl
@[simp] theorem State.dropFlight_lines (s : State) (n : Nat) (q : BitVec 16) : (s.dropFlight n q).lines = s.lines := rfl
@[simp] theorem State.dropFlight_far (s : State) (n : Nat) (q : BitVec 16) : (s.dropFlight n q).far = s.far := rfl
@[simp] theorem State.dropFlight_batches (s : State) (n : Nat) (q : BitVec 16) : (s.dropFlight n q).batches = s.batches := rfl
@[simp] theorem State.dropFlight_links (s : State) (n : Nat) (q : BitVec 16) : (s.dropFlight n q).links = s.links := rfl
@[simp] theorem State.dropFlight_routes (s : State) (n : Nat) (q : BitVec 16) : (s.dropFlight n q).routes = s.routes := rfl
@[simp] theorem State.dropFlight_away (s : State) (n : Nat) (q : BitVec 16) : (s.dropFlight n q).away = s.away := rfl
@[simp] theorem State.dropFlight_outbox (s : State) (n : Nat) (q : BitVec 16) : (s.dropFlight n q).outbox = s.outbox := rfl
@[simp] theorem State.dropFlight_ports (s : State) (n : Nat) (q : BitVec 16) : (s.dropFlight n q).ports = s.ports := rfl
@[simp] theorem State.dropFlight_apertures (s : State) (n : Nat) (q : BitVec 16) : (s.dropFlight n q).apertures = s.apertures := rfl
@[simp] theorem State.dropFlight_events (s : State) (n : Nat) (q : BitVec 16) : (s.dropFlight n q).events = s.events := rfl
@[simp] theorem State.dropFlight_eventCount (s : State) (n : Nat) (q : BitVec 16) : (s.dropFlight n q).eventCount = s.eventCount := rfl
@[simp] theorem State.dropFlight_hostRead (s : State) (n : Nat) (q : BitVec 16) : (s.dropFlight n q).hostRead = s.hostRead := rfl
@[simp] theorem State.dropFlight_sec (s : State) (n : Nat) (q : BitVec 16) : (s.dropFlight n q).sec = s.sec := rfl
@[simp] theorem State.dropFlight_frames (s : State) (n : Nat) (q : BitVec 16) : (s.dropFlight n q).frames = s.frames := rfl
@[simp] theorem State.dropFlight_gang (s : State) (n : Nat) (q : BitVec 16) : (s.dropFlight n q).gang = s.gang := rfl
@[simp] theorem State.dropFlight_gstat (s : State) (n : Nat) (q : BitVec 16) : (s.dropFlight n q).gstat = s.gstat := rfl
@[simp] theorem State.dropFlight_falls (s : State) (n : Nat) (q : BitVec 16) : (s.dropFlight n q).falls = s.falls := rfl
@[simp] theorem State.dropFlight_stuck (s : State) (n : Nat) (q : BitVec 16) : (s.dropFlight n q).stuck = s.stuck := rfl
@[simp] theorem State.dropFlight_spilled (s : State) (n : Nat) (q : BitVec 16) : (s.dropFlight n q).spilled = s.spilled := rfl
@[simp] theorem State.dropFlight_now (s : State) (n : Nat) (q : BitVec 16) : (s.dropFlight n q).now = s.now := rfl
@[simp] theorem State.dropFlight_dtSync (s : State) (n : Nat) (q : BitVec 16) : (s.dropFlight n q).dtSync = s.dtSync := rfl
@[simp] theorem State.dropFlight_dev (s : State) (n : Nat) (q : BitVec 16) : (s.dropFlight n q).dev = s.dev := rfl
@[simp] theorem State.dropFlight_turn (s : State) (n : Nat) (q : BitVec 16) : (s.dropFlight n q).turn = s.turn := rfl
@[simp] theorem State.dropFlight_sole (s : State) (n : Nat) (q : BitVec 16) : (s.dropFlight n q).sole = s.sole := rfl
@[simp] theorem State.dropFlight_agenda (s : State) (n : Nat) (q : BitVec 16) : (s.dropFlight n q).agenda = s.agenda := rfl
@[simp] theorem State.dropFlight_focus (s : State) (n : Nat) (q : BitVec 16) : (s.dropFlight n q).focus = s.focus := rfl
@[simp] theorem State.dropFlight_tick (s : State) (n : Nat) (q : BitVec 16) : (s.dropFlight n q).tick = s.tick := rfl

/-! ### onQueue -/

@[simp] theorem State.onQueue_mem (s : State) (n : Nat) (f : Queue → Queue) : (s.onQueue n f).mem = s.mem := rfl
@[simp] theorem State.onQueue_poison (s : State) (n : Nat) (f : Queue → Queue) : (s.onQueue n f).poison = s.poison := rfl
@[simp] theorem State.onQueue_cores (s : State) (n : Nat) (f : Queue → Queue) : (s.onQueue n f).cores = s.cores := rfl
@[simp] theorem State.onQueue_clusters (s : State) (n : Nat) (f : Queue → Queue) : (s.onQueue n f).clusters = s.clusters := rfl
@[simp] theorem State.onQueue_svcs (s : State) (n : Nat) (f : Queue → Queue) : (s.onQueue n f).svcs = s.svcs := rfl
@[simp] theorem State.onQueue_parts (s : State) (n : Nat) (f : Queue → Queue) : (s.onQueue n f).parts = s.parts := rfl
@[simp] theorem State.onQueue_llc (s : State) (n : Nat) (f : Queue → Queue) : (s.onQueue n f).llc = s.llc := rfl
@[simp] theorem State.onQueue_tableq (s : State) (n : Nat) (f : Queue → Queue) : (s.onQueue n f).tableq = s.tableq := rfl
@[simp] theorem State.onQueue_hostq (s : State) (n : Nat) (f : Queue → Queue) : (s.onQueue n f).hostq = s.hostq := rfl
@[simp] theorem State.onQueue_flights (s : State) (n : Nat) (f : Queue → Queue) : (s.onQueue n f).flights = s.flights := rfl
@[simp] theorem State.onQueue_marked (s : State) (n : Nat) (f : Queue → Queue) : (s.onQueue n f).marked = s.marked := rfl
@[simp] theorem State.onQueue_msgs (s : State) (n : Nat) (f : Queue → Queue) : (s.onQueue n f).msgs = s.msgs := rfl
@[simp] theorem State.onQueue_gpass (s : State) (n : Nat) (f : Queue → Queue) : (s.onQueue n f).gpass = s.gpass := rfl
@[simp] theorem State.onQueue_parks (s : State) (n : Nat) (f : Queue → Queue) : (s.onQueue n f).parks = s.parks := rfl
@[simp] theorem State.onQueue_asks (s : State) (n : Nat) (f : Queue → Queue) : (s.onQueue n f).asks = s.asks := rfl
@[simp] theorem State.onQueue_fins (s : State) (n : Nat) (f : Queue → Queue) : (s.onQueue n f).fins = s.fins := rfl
@[simp] theorem State.onQueue_abroad (s : State) (n : Nat) (f : Queue → Queue) : (s.onQueue n f).abroad = s.abroad := rfl
@[simp] theorem State.onQueue_hauls (s : State) (n : Nat) (f : Queue → Queue) : (s.onQueue n f).hauls = s.hauls := rfl
@[simp] theorem State.onQueue_marks (s : State) (n : Nat) (f : Queue → Queue) : (s.onQueue n f).marks = s.marks := rfl
@[simp] theorem State.onQueue_lines (s : State) (n : Nat) (f : Queue → Queue) : (s.onQueue n f).lines = s.lines := rfl
@[simp] theorem State.onQueue_far (s : State) (n : Nat) (f : Queue → Queue) : (s.onQueue n f).far = s.far := rfl
@[simp] theorem State.onQueue_batches (s : State) (n : Nat) (f : Queue → Queue) : (s.onQueue n f).batches = s.batches := rfl
@[simp] theorem State.onQueue_links (s : State) (n : Nat) (f : Queue → Queue) : (s.onQueue n f).links = s.links := rfl
@[simp] theorem State.onQueue_routes (s : State) (n : Nat) (f : Queue → Queue) : (s.onQueue n f).routes = s.routes := rfl
@[simp] theorem State.onQueue_away (s : State) (n : Nat) (f : Queue → Queue) : (s.onQueue n f).away = s.away := rfl
@[simp] theorem State.onQueue_outbox (s : State) (n : Nat) (f : Queue → Queue) : (s.onQueue n f).outbox = s.outbox := rfl
@[simp] theorem State.onQueue_ports (s : State) (n : Nat) (f : Queue → Queue) : (s.onQueue n f).ports = s.ports := rfl
@[simp] theorem State.onQueue_apertures (s : State) (n : Nat) (f : Queue → Queue) : (s.onQueue n f).apertures = s.apertures := rfl
@[simp] theorem State.onQueue_events (s : State) (n : Nat) (f : Queue → Queue) : (s.onQueue n f).events = s.events := rfl
@[simp] theorem State.onQueue_eventCount (s : State) (n : Nat) (f : Queue → Queue) : (s.onQueue n f).eventCount = s.eventCount := rfl
@[simp] theorem State.onQueue_hostRead (s : State) (n : Nat) (f : Queue → Queue) : (s.onQueue n f).hostRead = s.hostRead := rfl
@[simp] theorem State.onQueue_sec (s : State) (n : Nat) (f : Queue → Queue) : (s.onQueue n f).sec = s.sec := rfl
@[simp] theorem State.onQueue_frames (s : State) (n : Nat) (f : Queue → Queue) : (s.onQueue n f).frames = s.frames := rfl
@[simp] theorem State.onQueue_gang (s : State) (n : Nat) (f : Queue → Queue) : (s.onQueue n f).gang = s.gang := rfl
@[simp] theorem State.onQueue_gstat (s : State) (n : Nat) (f : Queue → Queue) : (s.onQueue n f).gstat = s.gstat := rfl
@[simp] theorem State.onQueue_falls (s : State) (n : Nat) (f : Queue → Queue) : (s.onQueue n f).falls = s.falls := rfl
@[simp] theorem State.onQueue_stuck (s : State) (n : Nat) (f : Queue → Queue) : (s.onQueue n f).stuck = s.stuck := rfl
@[simp] theorem State.onQueue_spilled (s : State) (n : Nat) (f : Queue → Queue) : (s.onQueue n f).spilled = s.spilled := rfl
@[simp] theorem State.onQueue_now (s : State) (n : Nat) (f : Queue → Queue) : (s.onQueue n f).now = s.now := rfl
@[simp] theorem State.onQueue_dtSync (s : State) (n : Nat) (f : Queue → Queue) : (s.onQueue n f).dtSync = s.dtSync := rfl
@[simp] theorem State.onQueue_dev (s : State) (n : Nat) (f : Queue → Queue) : (s.onQueue n f).dev = s.dev := rfl
@[simp] theorem State.onQueue_turn (s : State) (n : Nat) (f : Queue → Queue) : (s.onQueue n f).turn = s.turn := rfl
@[simp] theorem State.onQueue_sole (s : State) (n : Nat) (f : Queue → Queue) : (s.onQueue n f).sole = s.sole := rfl
@[simp] theorem State.onQueue_agenda (s : State) (n : Nat) (f : Queue → Queue) : (s.onQueue n f).agenda = s.agenda := rfl
@[simp] theorem State.onQueue_focus (s : State) (n : Nat) (f : Queue → Queue) : (s.onQueue n f).focus = s.focus := rfl
@[simp] theorem State.onQueue_tick (s : State) (n : Nat) (f : Queue → Queue) : (s.onQueue n f).tick = s.tick := rfl

end Sys2Proof.Machine
end

