-- ==== Sys2Proof/Laws/Cores.lean ====
section
/-! SUPPORT. What an update of one core does, and the registers that the parts of a word leave alone. -/

namespace Sys2Proof.Machine

theorem tabPut_tabPut {α : Type} (k : Nat) (a b : α) (t : Tab α) : tabPut k b (tabPut k a t) = tabPut k b t := by
  induction t with
  | nil => simp [tabPut]
  | cons e t ih =>
    obtain ⟨j, w⟩ := e
    by_cases h1 : j < k
    · simp [tabPut, h1, ih]
    · by_cases h2 : j = k
      · simp [tabPut, h2]
      · simp [tabPut, h1, h2]

@[simp] theorem State.core_onCore (s : State) (n : Nat) (f : Core → Core) : (s.onCore n f).core n = f (s.core n) := by
  simp [State.onCore, State.setCore, State.core]

theorem State.core_onCore_ne (s : State) {n c : Nat} (f : Core → Core) (h : c ≠ n) : (s.onCore n f).core c = s.core c := by
  simp [State.onCore, State.setCore, State.core, tabFind_tabPut_ne _ _ h]

theorem State.onCore_onCore (s : State) (n : Nat) (f g : Core → Core) :
    (s.onCore n f).onCore n g = s.onCore n (fun c => g (f c)) := by
  simp only [State.onCore, State.setCore, State.core, tabFind_tabPut_same, Option.getD_some, tabPut_tabPut]

/-! ### Registers left alone -/

theorem Core.SameRegs.refl (a : Core) : a.SameRegs a := by constructor <;> rfl

theorem Core.SameRegs.trans {a b c : Core} (h : a.SameRegs b) (k : b.SameRegs c) : a.SameRegs c := by
  constructor
  · exact k.g.trans h.g
  · exact k.q.trans h.q
  · exact k.ports.trans h.ports
  · exact k.lnk.trans h.lnk
  · exact k.epc.trans h.epc
  · exact k.cause.trans h.cause
  · exact k.rm.trans h.rm
  · exact k.xb.trans h.xb
  · exact k.ovh.trans h.ovh
  · exact k.bf.trans h.bf
  · exact k.shadow.trans h.shadow
  · exact k.owedTrap.trans h.owedTrap
  · exact k.stops.trans h.stops
  · exact k.watch.trans h.watch
  · exact k.v.trans h.v
  · exact k.m.trans h.m
  · exact k.mx.trans h.mx
  · exact k.k.trans h.k
  · exact k.kx.trans h.kx
  · exact k.seq.trans h.seq
  · exact k.ring.trans h.ring
  · exact k.timed.trans h.timed
  · exact k.port.trans h.port
  · exact k.sig.trans h.sig
  · exact k.batches.trans h.batches
  · exact k.sluice.trans h.sluice
  · exact k.subs.trans h.subs
  · exact k.code.trans h.code
  · exact k.res.trans h.res
  · exact k.taken.trans h.taken
  · exact k.reissue.trans h.reissue
  · exact k.vaway.trans h.vaway
  · exact k.taway.trans h.taway

theorem Core.SameRegs.of_eq {a b : Core} (h : b = a) : a.SameRegs b := h ▸ .refl a

theorem Core.sameRegs_endCycle (c : Core) : c.SameRegs c.endCycle := by constructor <;> rfl

theorem Core.sameRegs_walkers (c : Core) (w : Vector Walker 4) : c.SameRegs { c with walkers := w } := by constructor <;> rfl

theorem Core.sameRegs_walkerAdvance (c : Core) (n : BitVec 2) : c.SameRegs (c.walkerAdvance n) := by
  unfold Core.walkerAdvance
  dsimp only
  split
  · exact c.sameRegs_walkers _
  · exact .refl c

theorem Core.sameRegs_stopAt (c : Core) (d : StopDue) : c.SameRegs (c.stopAt d) := by constructor <;> rfl

theorem Core.sameRegs_raiseTrap (c : Core) (d : TrapDue) : c.SameRegs (c.raiseTrap d) := by
  unfold Core.raiseTrap
  split
  · exact c.sameRegs_stopAt _
  · constructor <;> rfl

theorem Core.sameRegs_foldl {α : Type} (f : Core → α → Core) (h : ∀ (c : Core) (x : α), c.SameRegs (f c x)) (xs : List α) (c : Core) :
    c.SameRegs (xs.foldl f c) := by
  induction xs generalizing c with
  | nil => exact .refl c
  | cons x xs ih => exact (h c x).trans (ih _)

end Sys2Proof.Machine
end

