-- ==== Sys2Proof/Laws/Issue.lean ====
section
/-! SUPPORT. What a single-trigger word that is carried out does, up to its operation's own effect (02 R85). -/

namespace Sys2Proof.Machine

/-- The one move of a single-trigger word. -/
def Arg.slot (op : Op) (m : Arg) : Slot := ⟨0, m.guard, m.org, none, false, .trig op, m.sb⟩

theorem guard_live {c : Core} {g : BitVec 4} (h : c.guardValue g = true) : g ≠ 0b1000#4 := by
  rintro rfl
  simp [Core.guardValue, Core.rq] at h

theorem issue_word {op : Op} {m : Arg} (hg : m.guard ≠ 0b1000#4) (ho : m.org ≠ .lit) :
    m.issue op = ⟨[Arg.slot op m], false, 0, 4⟩ := by
  simp [Arg.issue, SWord.issue, liveMoves, Move.isNop, Move.isLit, Move.inSlot, hg, ho, Arg.slot]

theorem wordErr_tries {s : State} {op : Op} {m : Arg} (h : s.Tries op m) :
    wordErr ⟨[Arg.slot op m], false, 0, 4⟩ s.me.owe.isSome = none := by
  have ho : Slot.badOrigin (Arg.slot op m) = false := by
    have := h.origin.2
    cases hm : m.org <;> simp_all [Slot.badOrigin, Arg.slot]
  have hd : (s.me.owe.isSome && op.transfers) = false := by
    cases ht : op.transfers
    · simp
    · simp [h.delay ht]
  unfold wordErr
  rw [Bool.and_eq_false_iff] at hd
  have h1 : Slot.badTarget (Arg.slot op m) = false := rfl
  have h2 : (Arg.slot op m).tgt.op? = some op := rfl
  rcases hd with hd | hd
  · simp [h1, h2, ho, hd, firstConflict]
  · simp [h1, h2, ho, hd, firstConflict]

theorem sbFull_tries {s : State} {op : Op} {m : Arg} (h : s.Tries op m) : s.me.sbFull [Arg.slot op m] = false := by
  unfold Core.sbFull
  rw [List.any_eq_false]
  intro n hn
  by_cases hs : sbSel m.sb = some (BitVec.ofNat 3 n)
  · have hr := h.room _ hs
    have : (s.me.rsb (BitVec.ofNat 3 n)).toNat < 4096 := (s.me.rsb _).isLt
    have hne : (s.me.rsb (BitVec.ofNat 3 n)).toNat ≠ 4095 := fun hc => hr (BitVec.eq_of_toNat_eq (by simpa using hc))
    simp [Arg.slot, hs]
    omega
  · simp [Arg.slot, hs]

/-- A single-trigger word that gets as far as its checks: it faults at the first that fails, and is performed when none
does (02 R85). -/
theorem issueOne_tries {s : State} {op : Op} {m : Arg} (h : s.Tries op m) :
    issueOne op (trigger op) m s = match (trigger op).check s (s.trigOf op m) with
      | some e => s.wordFault s.turn (some (Arg.slot op m)) e
      | none => s.performWord (fun _ => trigger op) s.turn (m.issue op)
        [(Arg.slot op m, s.moved m, some (s.trigOf op m))] s.me := by
  have hg := guard_live h.guard
  have hw := issue_word (op := op) hg h.origin.1
  have hme : s.core s.turn = s.me := rfl
  have he := wordErr_tries h
  have hsb := sbFull_tries h
  have hwk : (List.filterMap Slot.walker? [Arg.slot op m]).any (fun n => (s.me.walker n).stalls) = false := by
    cases hm : m.org <;> simp [Slot.walker?, Arg.slot, hm]
    exact (h.walker _ hm).1
  have hv : s.slotValue s.turn 0 (Arg.slot op m) = s.moved m := rfl
  have hring : s.ringFull s.turn ((List.filter (fun x : Slot × Word × Option Trig =>
      (Option.map (fun t : Trig => (trigger op).detached s t) x.2.2).getD false)
      [(Arg.slot op m, s.moved m, some (s.trigOf op m))]).length) = false := by
    cases hd : (trigger op).detached s (s.trigOf op m)
    · simp [hd, State.ringFull]
    · simpa [hd] using h.ring hd
  have hfe : s.firstMoveErr (fun _ => trigger op) s.turn [(Arg.slot op m, s.moved m, some (s.trigOf op m))] =
      ((trigger op).check s (s.trigOf op m)).map (fun e => (Arg.slot op m, e)) := by
    have hwe : (Slot.walker? (Arg.slot op m)).bind (s.walkerReadErr s.turn) = none := by
      cases hm : m.org <;> simp [Slot.walker?, Arg.slot, hm]
      exact (h.walker _ hm).2
    simp only [State.firstMoveErr, State.moveErr, hwe, Option.bind_some]
    have e1 : (s.trigOf op m).op = op := rfl
    cases hc : (trigger op).check s (s.trigOf op m) <;> rfl
  have hgv : s.me.guardValue (Arg.slot op m).guard = true := h.guard
  unfold issueOne State.issue
  rw [hme, h.mode, h.hold]
  simp only []
  unfold State.issueRun
  rw [hw, hme]
  simp only [he, List.map_cons, List.map_nil, List.filter_cons, hgv, if_true, List.filter_nil, List.foldl_cons, List.foldl_nil]
  have hlatch : ∀ v, s.me.writeLatch (Arg.slot op m).tgt v = s.me := fun _ => rfl
  have hms : trigOf s.turn s.me s.me.order 4 (Arg.slot op m) (s.moved m) = some (s.trigOf op m) := rfl
  simp only [hv, hlatch, hms, hwk, hsb, Bool.false_or, hfe]
  have hdet : ∀ x : Trig, (if ((Option.map (fun t => (trigger op).detached s t) (some x)).getD false) = true then
      [(Arg.slot op m, s.moved m, some x)] else []) =
      List.filter (fun y : Slot × Word × Option Trig => (Option.map (fun t : Trig => (trigger op).detached s t) y.2.2).getD false)
        [(Arg.slot op m, s.moved m, some x)] := by
    intro x
    simp [List.filter_cons]
  rw [hdet, hring]
  cases (trigger op).check s (s.trigOf op m) <;> rfl

theorem issueOne_carries {s : State} {op : Op} {m : Arg} (h : s.Carries op m) :
    issueOne op (trigger op) m s =
      s.performWord (fun _ => trigger op) s.turn (m.issue op)
        [(Arg.slot op m, s.moved m, some (s.trigOf op m))] s.me := by
  rw [issueOne_tries h.toTries, h.checks]

/-! ### The end of a word -/

/-- What the end of a word, with no return in it, leaves of the core: pipelines move on by a stage, and nothing else but the
pc, the walkers' times, the owed effect and what comes next changes. -/
structure Core.Closed (a b : Core) : Prop where
  regs : a.SameRegs b
  stages : b.stages = a.stages.map (fun st => { st with left := st.left - 1 })
  stores : b.stores = a.stores.map (fun st => { st with left := st.left - 1 })
  sflags : b.sflags = a.sflags
  vflags : b.vflags = a.vflags
  order : b.order = a.order + 4
  cyc : b.cyc = a.cyc + 1
  sb : b.sb = a.sb
  walkers : b.walkers = a.walkers.map Walker.tick

/-- A state that another differs from in one core, the messages on their way and the blocks of traces alone. -/
def State.SameBut (s t : State) (n : Nat) (c : Core) : Prop :=
  t.cores = tabPut n c s.cores ∧ (∃ ms, t = { s with cores := t.cores, msgs := s.msgs ++ ms, clusters := t.clusters }) ∧
    ∀ cl, ∃ bs, t.cluster cl = { s.cluster cl with blocks := bs }

theorem State.SameBut.core {s t : State} {n : Nat} {c : Core} (h : s.SameBut t n c) : t.core n = c := by
  simp [State.core, h.1]

theorem State.SameBut.core_ne {s t : State} {n k : Nat} {c : Core} (h : s.SameBut t n c) (hk : k ≠ n) : t.core k = s.core k := by
  simp [State.core, h.1, tabFind_tabPut_ne _ _ hk]

theorem State.SameBut.onCore {s t : State} {n : Nat} {c : Core} (h : s.SameBut t n c) (f : Core → Core) :
    s.SameBut (t.onCore n f) n (f c) := by
  obtain ⟨h1, ⟨ms, h2⟩, h3⟩ := h
  refine ⟨?_, ⟨ms, ?_⟩, h3⟩
  · simp [State.onCore, State.setCore, h1, tabPut_tabPut, State.core]
  · rw [h2]; rfl

theorem State.SameBut.of_onCore (s : State) (n : Nat) (f : Core → Core) : s.SameBut (s.onCore n f) n (f (s.core n)) :=
  ⟨rfl, ⟨[], by simp [State.onCore, State.setCore]⟩, fun cl => ⟨(s.cluster cl).blocks, rfl⟩⟩

theorem State.SameBut.onCluster {s t : State} {n : Nat} {c : Core} (h : s.SameBut t n c) (k : Nat) (f : Cluster → Cluster)
    (hf : ∀ x : Cluster, ∃ bs, f x = { x with blocks := bs }) : s.SameBut (t.onCluster k f) n c := by
  obtain ⟨h1, ⟨ms, h2⟩, h3⟩ := h
  refine ⟨h1, ⟨ms, ?_⟩, fun cl => ?_⟩
  · rw [h2]; rfl
  · obtain ⟨bs, hb⟩ := h3 cl
    by_cases hk : cl = k
    · subst hk
      obtain ⟨bs', hf'⟩ := hf (t.cluster cl)
      exact ⟨bs', by simp [State.cluster, State.onCluster] at hf' ⊢; rw [hf']; simp [State.cluster] at hb; rw [hb]⟩
    · refine ⟨bs, ?_⟩
      rw [← hb]
      simp [State.cluster, State.onCluster, tabFind_tabPut_ne _ _ hk]

theorem State.SameBut.addMsgs {s t : State} {n : Nat} {c : Core} (h : s.SameBut t n c) (ns : List Msg) :
    s.SameBut { t with msgs := t.msgs ++ ns } n c := by
  obtain ⟨h1, ⟨ms, h2⟩, h3⟩ := h
  exact ⟨h1, ⟨ms ++ ns, by rw [h2]; simp [List.append_assoc]⟩, h3⟩

theorem State.reportHit_msgs (s : State) (cn : Nat) (h : Hit) :
    ∃ ms, s.reportHit cn h = { s with msgs := s.msgs ++ ms } := by
  unfold State.reportHit State.watchEvent
  split
  · exact ⟨_, rfl⟩
  · exact ⟨[], by simp⟩

/-- The end of a word on a core that owes no return: `a` is the core after the word's operation (02 R83, R85). -/
theorem State.afterHit_closed {s : State} {n : Nat} {a : Core} {t : State} {c : Core} (hs : List Hit) (h : s.SameBut t n c)
    (hc : a.Closed c) : ∃ c', s.SameBut (t.afterHit n hs) n c' ∧ a.Closed c' ∧ c'.pc = c.pc ∧ c'.owe = c.owe ∧
      c'.check = c.check ∧ (hs = [] → c' = c) := by
  unfold State.afterHit
  split
  · exact ⟨c, h, hc, rfl, rfl, rfl, fun _ => rfl⟩
  · rename_i hit he
    have hne : hs ≠ [] := by rintro rfl; simp [pickHit] at he
    have key : ∀ (b : Core) (d : TrapDue), a.Closed b → a.Closed (b.raiseTrap d) := by
      intro b d hb
      refine ⟨hb.regs.trans (Core.sameRegs_raiseTrap b d), ?_, ?_, ?_, ?_, ?_, ?_, ?_, ?_⟩ <;> unfold Core.raiseTrap <;>
        split <;> simp [Core.stopAt, hb.stages, hb.stores, hb.sflags, hb.vflags, hb.order, hb.cyc, hb.sb, hb.walkers]
    split
    · refine ⟨_, h.onCore _, key _ _ hc, ?_, ?_, ?_, fun hh => absurd hh hne⟩
      all_goals (unfold Core.raiseTrap; split <;> rfl)
    · rename_i k arg _
      have hk : a.Closed { c with owedSusp := some (k, arg) } :=
        ⟨hc.regs.trans (by constructor <;> rfl), hc.stages, hc.stores, hc.sflags, hc.vflags, hc.order, hc.cyc, hc.sb, hc.walkers⟩
      refine ⟨_, h.onCore _, key _ _ hk, ?_, ?_, ?_, fun hh => absurd hh hne⟩
      all_goals (unfold Core.raiseTrap; split <;> rfl)
    · obtain ⟨ms, hm⟩ := t.reportHit_msgs n hit
      refine ⟨c, ?_, hc, rfl, rfl, rfl, fun _ => rfl⟩
      rw [hm]
      exact h.addMsgs ms

theorem State.takeOwed_closed {s : State} {n : Nat} {a : Core} {t : State} {c : Core} (o : Owe) (next : CodePtr)
    (ho : o.kind ≠ .rett) (h : s.SameBut t n c) (hc : a.Closed c) :
    ∃ c', s.SameBut (t.takeOwed n o next) n c' ∧ a.Closed c' := by
  have key : ∀ f : Core → Core, (∀ x : Core, x.SameRegs (f x)) → (∀ x : Core, (f x).stages = x.stages ∧ (f x).stores = x.stores ∧
      (f x).sflags = x.sflags ∧ (f x).vflags = x.vflags ∧ (f x).order = x.order ∧ (f x).cyc = x.cyc ∧ (f x).sb = x.sb ∧ (f x).walkers = x.walkers) →
      ∃ c', s.SameBut (t.onCore n f) n c' ∧ a.Closed c' := by
    intro f hr hf
    refine ⟨f c, h.onCore f, hc.regs.trans (hr c), ?_, ?_, ?_, ?_, ?_, ?_, ?_, ?_⟩ <;>
      simp [hf c, hc.stages, hc.stores, hc.sflags, hc.vflags, hc.order, hc.cyc, hc.sb, hc.walkers]
  unfold State.takeOwed
  split
  · apply key
    · intro x; split <;> constructor <;> rfl
    · intro x; split <;> simp
  · exact key _ (fun x => by constructor <;> rfl) (fun x => by simp)
  · exact key _ (fun x => by constructor <;> rfl) (fun x => by simp)
  · exact key _ (fun x => by constructor <;> rfl) (fun x => by simp)
  · dsimp only
    apply key
    · intro x
      split
      · exact Core.SameRegs.trans (by constructor <;> rfl : x.SameRegs { x with pc := next }) (Core.sameRegs_raiseTrap _ _)
      · exact Core.SameRegs.trans (by constructor <;> rfl : x.SameRegs { x with pc := next }) (Core.sameRegs_stopAt _ _)
    · intro x
      split
      · unfold Core.raiseTrap; split <;> simp [Core.stopAt]
      · simp [Core.stopAt]
  · apply key
    · intro x
      exact Core.SameRegs.trans (by constructor <;> rfl : x.SameRegs { x with pc := next }) (Core.sameRegs_raiseTrap _ _)
    · intro x; unfold Core.raiseTrap; split <;> simp [Core.stopAt]
  · exact absurd ‹_› ho

/-- The state once the side effects of a single-trigger word's origin have been made (02 R85). -/
def State.sourced (s : State) (op : Op) (m : Arg) : State :=
  (s.originEffects s.turn [Arg.slot op m] (m.org == .port .fsX)).onCore s.turn (fun c => { c with ports := s.me.ports })

/-- What the operation of a single-trigger word meets: its counter has been incremented (02 R85). -/
def State.opened (s : State) (op : Op) (m : Arg) : State := (s.sourced op m).onCore s.turn (·.sbInc m.sb)

/-- The state after the operation of a single-trigger word, before the end of its cycle. -/
def State.operated (s : State) (op : Op) (m : Arg) : State :=
  let x := s.trigOf op m
  let p := ((trigger op).perform (s.opened op m) x).noteTouches s.turn s.me.order ((trigger op).touches (s.sourced op m) x)
  if (trigger op).sbAtOnce then p.onCore s.turn (·.sbDec m.sb) else p

theorem State.operated_eq (s : State) (op : Op) (m : Arg) :
    State.performMove (fun _ => trigger op) (s.sourced op m) (Arg.slot op m, s.moved m, some (s.trigOf op m)) =
      s.operated op m := rfl

/-- The watched ranges that the accesses of a single-trigger word meet (04 R172). -/
def State.wordHits (s : State) (op : Op) (m : Arg) : List Hit :=
  (((Arg.slot op m).walker?.map (s.walkerHits s.turn)).getD []) ++ (trigger op).hits s (s.trigOf op m)

/-- The core at the end of a word's cycle, before what the word before it owes. -/
def Core.cycled (c : Core) : Core := ({ c with order := c.order + 4 } : Core).endCycle

theorem performWord_carries {s : State} (op : Op) (m : Arg) :
    s.performWord (fun _ => trigger op) s.turn ⟨[Arg.slot op m], false, 0, 4⟩
        [(Arg.slot op m, s.moved m, some (s.trigOf op m))] s.me =
      match s.me.owe with
      | none => (((s.operated op m).onCore s.turn Core.cycled).onCore s.turn
          (fun c => { c with pc := s.me.pc.plus 4 })).afterHit s.turn (s.wordHits op m)
      | some o =>
        match o.kind, pickHit (s.wordHits op m) with
        | .rett, some h => (((s.operated op m).onCore s.turn Core.cycled).onCore s.turn (fun c => { c with owe := none })).onCore
            s.turn (fun c => c.stopAt (TrapDue.escalated
              ⟨0x0A, h.info, BitVec.ofNat 40 h.off, o.target.getD (s.me.pc.plus 4)⟩))
        | _, _ => ((((s.operated op m).onCore s.turn Core.cycled).onCore s.turn (fun c => { c with owe := none })).takeOwed
            s.turn o (s.me.pc.plus 4)).afterHit s.turn (s.wordHits op m) := by
  have hw : ∀ (S : State) (F : Core → Core), (S.onCore s.turn (fun c => c)).onCore s.turn F = S.onCore s.turn F := by
    intro S F; rw [State.onCore_onCore]
  have hf : (Arg.slot op m).readsFsx = (m.org == .port .fsX) := by simp [Slot.readsFsx, Arg.slot]
  have hh : List.flatMap (fun x : Slot × Word × Option Trig => (Option.map (s.walkerHits s.turn) x.1.walker?).getD [] ++
      (Option.map (fun t => (trigger op).hits s t) x.2.2).getD [])
      [(Arg.slot op m, s.moved m, some (s.trigOf op m))] = s.wordHits op m := by
    simp [State.wordHits]
  have hme : s.core s.turn = s.me := rfl
  unfold State.performWord
  simp only [List.map_cons, List.map_nil, List.any_cons, List.any_nil, Bool.or_false, hf, hh, hme]
  have hq : (List.foldl (State.performMove (fun _ => trigger op)) ((s.originEffects s.turn [Arg.slot op m]
      (m.org == .port .fsX)).onCore s.turn (fun c => { c with ports := s.me.ports }))
      [(Arg.slot op m, s.moved m, some (s.trigOf op m))]).onCore s.turn (fun c => List.foldl
        (fun c (x : Slot × Word × Option Trig) => c.writeReg x.1.tgt x.2.1) c
        [(Arg.slot op m, s.moved m, some (s.trigOf op m))]) = (s.operated op m).onCore s.turn (fun c => c) := rfl
  rw [hq, hw]
  cases s.me.owe <;> rfl

/-- A single-trigger word that is carried out where nothing is owed: its operation's effect, then the next word's pc, then
the trap of a watched range that it met (02 R85; 04 R153). -/
theorem issueOne_plain {s : State} {op : Op} {m : Arg} (h : s.Carries op m) (ho : s.me.owe = none) :
    issueOne op (trigger op) m s = (((s.operated op m).onCore s.turn Core.cycled).onCore s.turn
      (fun c => { c with pc := s.me.pc.plus 4 })).afterHit s.turn (s.wordHits op m) := by
  rw [issueOne_carries h, issue_word (guard_live h.guard) h.origin.1, performWord_carries, ho]

/-- A single-trigger word that is carried out as a delay word: its operation's effect, then what is owed (02 R83). -/
theorem issueOne_owed {s : State} {op : Op} {m : Arg} {o : Owe} (h : s.Carries op m) (ho : s.me.owe = some o)
    (hk : o.kind ≠ .rett) :
    issueOne op (trigger op) m s = ((((s.operated op m).onCore s.turn Core.cycled).onCore s.turn
      (fun c => { c with owe := none })).takeOwed s.turn o (s.me.pc.plus 4)).afterHit s.turn (s.wordHits op m) := by
  rw [issueOne_carries h, issue_word (guard_live h.guard) h.origin.1, performWord_carries, ho]
  dsimp only
  split
  · rename_i e _
    exact absurd e hk
  · rfl

/-- A single-trigger word that is carried out, no return being owed: its operation's effect, and then the end of the word. -/
theorem issueOne_closed {s : State} {op : Op} {m : Arg} (h : s.Carries op m) (hr : s.noReturn) :
    ∃ c, (s.operated op m).SameBut (issueOne op (trigger op) m s) s.turn c ∧ ((s.operated op m).core s.turn).Closed c ∧
      (s.me.owe = none → c.pc = s.me.pc.plus 4 ∧ c.owe = ((s.operated op m).core s.turn).owe ∧
        c.check = ((s.operated op m).core s.turn).check ∧ (s.wordHits op m = [] →
          c.mode = ((s.operated op m).core s.turn).mode ∧ c.hold = ((s.operated op m).core s.turn).hold)) := by
  have hc : ((s.operated op m).core s.turn).Closed ((s.operated op m).core s.turn).cycled :=
    ⟨by constructor <;> rfl, rfl, rfl, rfl, rfl, rfl, rfl, rfl, rfl⟩
  have hs := State.SameBut.of_onCore (s.operated op m) s.turn Core.cycled
  have pass : ∀ {t : State} {c : Core} (f : Core → Core), (s.operated op m).SameBut t s.turn c →
      ((s.operated op m).core s.turn).Closed c → (∀ x : Core, x.SameRegs (f x)) → (∀ x : Core, (f x).stages = x.stages ∧
        (f x).stores = x.stores ∧ (f x).sflags = x.sflags ∧ (f x).vflags = x.vflags ∧ (f x).order = x.order ∧
        (f x).cyc = x.cyc ∧ (f x).sb = x.sb ∧ (f x).walkers = x.walkers) →
      (s.operated op m).SameBut (t.onCore s.turn f) s.turn (f c) ∧ ((s.operated op m).core s.turn).Closed (f c) := by
    intro t c f h1 h2 hr hf
    refine ⟨h1.onCore f, h2.regs.trans (hr c), ?_, ?_, ?_, ?_, ?_, ?_, ?_, ?_⟩ <;>
      simp [hf c, h2.stages, h2.stores, h2.sflags, h2.vflags, h2.order, h2.cyc, h2.sb, h2.walkers]
  cases ho : s.me.owe with
  | none =>
    rw [issueOne_plain h ho]
    obtain ⟨h1, h2⟩ := pass (fun c => { c with pc := s.me.pc.plus 4 }) hs hc (fun _ => by constructor <;> rfl)
      (fun _ => by simp)
    obtain ⟨c, h3, h4, h5, h6, h7, h8⟩ := State.afterHit_closed (s.wordHits op m) h1 h2
    refine ⟨c, h3, h4, fun _ => ⟨h5, h6, h7, fun hh => ?_⟩⟩
    rw [h8 hh]
    exact ⟨rfl, rfl⟩
  | some o =>
    rw [issueOne_owed h ho (hr o ho)]
    obtain ⟨h1, h2⟩ := pass (fun c => { c with owe := none }) hs hc (fun _ => by constructor <;> rfl) (fun _ => by simp)
    obtain ⟨c, h3, h4⟩ := State.takeOwed_closed o (s.me.pc.plus 4) (hr o ho) h1 h2
    obtain ⟨c, h5, h6, -⟩ := State.afterHit_closed (s.wordHits op m) h3 h4
    exact ⟨c, h5, h6, fun hn => by cases hn⟩

end Sys2Proof.Machine
end

