-- ==== Sys2Proof/Laws/Links.lean ====
section
/-! SUPPORT. Lemmas about sealed payloads and the fields of flits (12 R433, R459). -/

namespace Sys2Proof.Machine

theorem leBytes_length (n x : Nat) : (leBytes n x).length = n := by
  induction n generalizing x with
  | zero => rfl
  | succ n ih => simp [leBytes, ih]

theorem leNat_leBytes (n x : Nat) : leNat (leBytes n x) = x % 256 ^ n := by
  induction n generalizing x with
  | zero => simp [leBytes, leNat, Nat.mod_one]
  | succ n ih =>
    simp only [leBytes, leNat, ih]
    rw [BitVec.toNat_ofNat, show (2 : Nat) ^ 8 = 256 from rfl, Nat.pow_succ, Nat.mul_comm (256 ^ n), Nat.mod_mul]

theorem leBytes_leNat (bs : List Byte) : leBytes bs.length (leNat bs) = bs := by
  induction bs with
  | nil => rfl
  | cons b bs ih =>
    have h : (b.toNat + 256 * leNat bs) / 256 = leNat bs := by have := b.isLt; omega
    simp only [List.length_cons, leBytes, leNat, h, ih]
    congr 1
    apply BitVec.eq_of_toNat_eq
    have := b.isLt
    simp only [BitVec.toNat_ofNat]
    omega

theorem pow_256 (n : Nat) : 256 ^ n = 2 ^ (8 * n) := by rw [Nat.pow_mul]

theorem leNat_lt (bs : List Byte) : leNat bs < 256 ^ bs.length := by
  induction bs with
  | nil => simp [leNat]
  | cons b bs ih => simp only [leNat, List.length_cons, Nat.pow_succ]; have := b.isLt; omega

/-! ### Lengths -/

theorem xorBytes_length (a b : List Byte) : (xorBytes a b).length = min a.length b.length := by simp [xorBytes]

theorem aesNextWord_length (i : Nat) (w : List (List Byte)) (h8 : 8 ≤ w.length) (h : ∀ x ∈ w, x.length = 4) :
    (aesNextWord i w).length = 4 := by
  have ht : (w.headD []).length = 4 := by
    cases w with
    | nil => simp at h8
    | cons x xs => exact h x (by simp)
  have h7 : (w.getD 7 []).length = 4 := by
    rw [List.getD_eq_getElem _ _ (by omega)]
    exact h _ (List.getElem_mem ..)
  unfold aesNextWord
  generalize w.headD [] = t at ht ⊢
  simp only [List.length_zipWith, h7]
  split
  · simp [ht]
  · split <;> simp [ht]

theorem aesWords_length (l : List Nat) (w : List (List Byte)) (h8 : 8 ≤ w.length) (h : ∀ x ∈ w, x.length = 4) :
    let all := l.foldl (fun w i => aesNextWord (i + 8) w :: w) w
    all.length = w.length + l.length ∧ ∀ x ∈ all, x.length = 4 := by
  induction l generalizing w with
  | nil => exact ⟨rfl, h⟩
  | cons i l ih =>
    have := ih (aesNextWord (i + 8) w :: w) (by simp; omega) (by
      intro x hx
      rcases List.mem_cons.1 hx with rfl | hx
      · exact aesNextWord_length _ _ h8 h
      · exact h x hx)
    simp only [List.foldl_cons, List.length_cons] at this ⊢
    exact ⟨by omega, this.2⟩

theorem aesRoundKeys_last (key : List Byte) (hk : key.length = 32) : ((aesRoundKeys key).getD 14 []).length = 16 := by
  have h := aesWords_length (List.range 52) ((List.range 8).map (fun i => (key.drop (4 * i)).take 4)).reverse (by simp) (by
    intro x hx
    simp only [List.mem_reverse, List.mem_map, List.mem_range] at hx
    obtain ⟨i, hi, rfl⟩ := hx
    simp only [List.length_take, List.length_drop, hk]
    omega)
  simp only [List.length_reverse, List.length_map, List.length_range] at h
  unfold aesRoundKeys
  simp only
  generalize List.foldl (fun w i => aesNextWord (i + 8) w :: w) _ (List.range 52) = all at h ⊢
  rw [List.getD_eq_getElem _ _ (by simp)]
  simp only [List.getElem_map, List.getElem_range, List.length_flatten]
  have h4 : ((all.reverse.drop (4 * 14)).take 4).map List.length = List.replicate 4 4 := by
    apply List.ext_getElem
    · simp; omega
    · intro i h1 h2
      simp only [List.getElem_map, List.getElem_replicate]
      exact h.2 _ (List.mem_reverse.1 (List.mem_of_mem_drop (List.mem_of_mem_take (List.getElem_mem ..))))
  rw [h4]
  rfl

theorem aesEncrypt_length (ks : List (List Byte)) (x : List Byte) (h : (ks.getD 14 []).length = 16) :
    (aesEncrypt ks x).length = 16 := by
  simp only [aesEncrypt, xorBytes_length, h, aesPermute, List.length_map, List.length_range]
  rfl

/-! ### A sealed payload opens -/

theorem xorBytes_xorBytes (a k : List Byte) (h : a.length ≤ k.length) : xorBytes (xorBytes a k) k = a := by
  induction a generalizing k with
  | nil => simp [xorBytes]
  | cons x a ih =>
    cases k with
    | nil => simp at h
    | cons y k =>
      simp only [xorBytes, List.zipWith_cons_cons] at ih ⊢
      rw [ih k (by simpa using h)]
      congr 1
      rw [BitVec.xor_assoc, BitVec.xor_self, BitVec.xor_zero]

/-- Blocks of 16 bytes each, joined, have the blocks as their pieces. -/
theorem blocks_pieces (n : Nat) (f : Nat → List Byte) (h : ∀ i, (f i).length = 16) (i : Nat) (hi : i < n) :
    (((List.range n).flatMap f).drop (16 * i)).take 16 = f i := by
  induction n generalizing f i with
  | zero => omega
  | succ n ih =>
    rw [List.range_succ_eq_map, List.flatMap_cons, List.flatMap_map]
    cases i with
    | zero => simp [h]
    | succ i =>
      have h16 : (f 0).length = 16 := h 0
      rw [show 16 * (i + 1) = (f 0).length + 16 * i by omega, List.drop_append]
      simp only [Nat.add_sub_cancel_left, List.drop_eq_nil_of_le (Nat.le_add_right _ _), List.nil_append]
      exact ih (fun i => f (i + 1)) (fun i => h _) i (by omega)

theorem flatMap_blocks_length (n : Nat) (f : Nat → List Byte) (h : ∀ i, (f i).length = 16) :
    ((List.range n).flatMap f).length = 16 * n := by
  rw [List.length_flatMap]
  simp [h, Nat.mul_comm]

/-- The pieces of 16 bytes of a list of whole blocks make the list. -/
theorem pieces_join (n : Nat) (bs : List Byte) (h : bs.length = 16 * n) :
    (List.range n).flatMap (fun i => (bs.drop (16 * i)).take 16) = bs := by
  induction n generalizing bs with
  | zero => simp at h; simp [h]
  | succ n ih =>
    rw [List.range_succ_eq_map, List.flatMap_cons, List.flatMap_map]
    have := ih (bs.drop 16) (by simp [h]; omega)
    simp only [List.drop_drop] at this
    simp only [Nat.mul_zero, List.drop_zero, Nat.mul_succ, Nat.add_comm (16 * _) 16]
    rw [this, List.take_append_drop]

theorem gcmCrypt_eq (ks : List (List Byte)) (iv bs : List Byte) (n : Nat) (h : bs.length = 16 * n) : gcmCrypt ks iv bs =
    (List.range n).flatMap (fun i => xorBytes ((bs.drop (16 * i)).take 16) (aesEncrypt ks (iv ++ (leBytes 4 (i + 2)).reverse))) := by
  unfold gcmCrypt
  rw [h, show (16 * n + 15) / 16 = n by omega]

theorem gcmCrypt_length (ks : List (List Byte)) (iv bs : List Byte) (n : Nat) (hk : (ks.getD 14 []).length = 16)
    (h : bs.length = 16 * n) : (gcmCrypt ks iv bs).length = 16 * n := by
  rw [gcmCrypt_eq ks iv bs n h, List.length_flatMap]
  have : (List.range n).map (fun i => (xorBytes ((bs.drop (16 * i)).take 16) (aesEncrypt ks (iv ++ (leBytes 4 (i + 2)).reverse))).length)
      = (List.range n).map (fun _ => 16) := by
    apply List.map_congr_left
    intro i hi
    have := List.mem_range.1 hi
    simp only [xorBytes_length, aesEncrypt_length _ _ hk, List.length_take, List.length_drop, h]
    omega
  rw [this]
  simp [Nat.mul_comm]

/-- Deciphering undoes enciphering. -/
theorem gcmCrypt_gcmCrypt (ks : List (List Byte)) (iv bs : List Byte) (n : Nat) (hk : (ks.getD 14 []).length = 16)
    (h : bs.length = 16 * n) : gcmCrypt ks iv (gcmCrypt ks iv bs) = bs := by
  have hl := gcmCrypt_length ks iv bs n hk h
  conv_rhs => rw [← pieces_join n bs h]
  rw [gcmCrypt_eq ks iv _ n hl]
  rw [List.flatMap_def, List.flatMap_def]
  congr 1
  apply List.map_congr_left
  intro i hi
  have hi := List.mem_range.1 hi
  let f (i : Nat) : List Byte := xorBytes ((bs.drop (16 * i)).take 16 ++ List.replicate (16 - ((bs.drop (16 * i)).take 16).length) 0)
    (aesEncrypt ks (iv ++ (leBytes 4 (i + 2)).reverse))
  have hf : ∀ i, (f i).length = 16 := by
    intro i
    simp only [f, xorBytes_length, aesEncrypt_length _ _ hk, List.length_append, List.length_replicate, List.length_take]
    omega
  have hfull : ∀ j, j < n → f j = xorBytes ((bs.drop (16 * j)).take 16) (aesEncrypt ks (iv ++ (leBytes 4 (j + 2)).reverse)) := by
    intro j hj
    have : ((bs.drop (16 * j)).take 16).length = 16 := by simp only [List.length_take, List.length_drop, h]; omega
    simp only [f, this, Nat.sub_self, List.replicate_zero, List.append_nil]
  have hg : gcmCrypt ks iv bs = (List.range n).flatMap f := by
    rw [gcmCrypt_eq ks iv bs n h, List.flatMap_def, List.flatMap_def]
    congr 1
    apply List.map_congr_left
    intro j hj
    exact (hfull j (List.mem_range.1 hj)).symm
  rw [hg, blocks_pieces n f hf i hi, hfull i hi]
  apply xorBytes_xorBytes
  rw [aesEncrypt_length _ _ hk]
  simp

/-- A payload opens to what has been sealed (12 R459). -/
theorem gcmOpen_gcmSeal (key : BitVec 256) (iv aad : BitVec 96) (x : BitVec 2048) :
    gcmOpen key iv aad (gcmSeal key iv aad x).1 (gcmSeal key iv aad x).2 = some x := by
  have hk := aesRoundKeys_last (leBytes 32 key.toNat) (leBytes_length _ _)
  have hx : (leBytes 256 x.toNat).length = 16 * 16 := leBytes_length _ _
  have hl := gcmCrypt_length _ (ivBytes iv) _ 16 hk hx
  have hc : leBytes 256 (gcmSeal key iv aad x).1.toNat = gcmCrypt (aesRoundKeys (leBytes 32 key.toNat)) (ivBytes iv) (leBytes 256 x.toNat) := by
    have := leNat_lt (gcmCrypt (aesRoundKeys (leBytes 32 key.toNat)) (ivBytes iv) (leBytes 256 x.toNat))
    rw [hl] at this
    rw [pow_256] at this
    show leBytes 256 (BitVec.ofNat 2048 _).toNat = _
    rw [BitVec.toNat_ofNat, Nat.mod_eq_of_lt this]
    have := leBytes_leNat (gcmCrypt (aesRoundKeys (leBytes 32 key.toNat)) (ivBytes iv) (leBytes 256 x.toNat))
    rwa [hl] at this
  have ht (body : List Byte) : leBytes 16 (BitVec.ofNat 128 (leNat (gcmTag (aesRoundKeys (leBytes 32 key.toNat)) (ivBytes iv)
      (leBytes 12 aad.toNat) body))).toNat = gcmTag (aesRoundKeys (leBytes 32 key.toNat)) (ivBytes iv) (leBytes 12 aad.toNat) body := by
    have hlen : (gcmTag (aesRoundKeys (leBytes 32 key.toNat)) (ivBytes iv) (leBytes 12 aad.toNat) body).length = 16 := by
      simp only [gcmTag, xorBytes_length, aesEncrypt_length _ _ hk, blockBytes, List.length_reverse, leBytes_length, Nat.min_self]
    have := leNat_lt (gcmTag (aesRoundKeys (leBytes 32 key.toNat)) (ivBytes iv) (leBytes 12 aad.toNat) body)
    rw [hlen] at this
    rw [pow_256] at this
    rw [BitVec.toNat_ofNat, Nat.mod_eq_of_lt this]
    have := leBytes_leNat (gcmTag (aesRoundKeys (leBytes 32 key.toNat)) (ivBytes iv) (leBytes 12 aad.toNat) body)
    rwa [hlen] at this
  have hT : leBytes 16 (gcmSeal key iv aad x).2.toNat = gcmTag (aesRoundKeys (leBytes 32 key.toNat)) (ivBytes iv)
      (leBytes 12 aad.toNat) (gcmCrypt (aesRoundKeys (leBytes 32 key.toNat)) (ivBytes iv) (leBytes 256 x.toNat)) := ht _
  unfold gcmOpen
  simp only [hc, hT, if_true]
  rw [gcmCrypt_gcmCrypt _ _ _ 16 hk hx, leNat_leBytes]
  rw [Nat.mod_eq_of_lt (show x.toNat < 256 ^ 256 by rw [pow_256]; exact x.isLt), BitVec.ofNat_toNat, BitVec.setWidth_eq]

/-! ### The fields of a flit (12 R433) -/

theorem flitOf_head (head : BitVec 96) (payload : BitVec 2048) (tag : BitVec 128) :
    (flitOf head payload tag).extractLsb' 0 96 = head := by
  unfold flitOf
  exact BitVec.extractLsb'_append_eq_right

theorem flitOf_field (head : BitVec 96) (payload : BitVec 2048) (tag : BitVec 128) (lo n : Nat) (h : lo + n ≤ 96) :
    (flitOf head payload tag).extractLsb' lo n = head.extractLsb' lo n := by
  unfold flitOf
  ext i hi
  rw [BitVec.getElem_extractLsb', BitVec.getElem_extractLsb', BitVec.getLsbD_append]
  simp [show lo + i < 96 by omega]

theorem flitOf_crc (head : BitVec 96) (payload : BitVec 2048) (tag : BitVec 128) :
    (flitOf head payload tag).extractLsb' 96 32 = crc32 (imageBytes head ++ imageBytes payload) := by
  unfold flitOf
  ext i hi
  rw [BitVec.getElem_extractLsb', BitVec.getLsbD_append, if_neg (by omega), BitVec.getLsbD_append]
  simp [show 96 + i - 96 = i by omega, hi]

theorem flitOf_tag (head : BitVec 96) (payload : BitVec 2048) (tag : BitVec 128) :
    (flitOf head payload tag).extractLsb' 128 128 = tag := by
  unfold flitOf
  ext i hi
  rw [BitVec.getElem_extractLsb', BitVec.getLsbD_append, if_neg (by omega), BitVec.getLsbD_append, if_neg (by omega),
    BitVec.getLsbD_append]
  simp [show 128 + i - 96 - 32 = i by omega, hi]

theorem flitOf_payload (head : BitVec 96) (payload : BitVec 2048) (tag : BitVec 128) :
    (flitOf head payload tag).extractLsb' 256 2048 = payload := by
  unfold flitOf
  ext i hi
  rw [BitVec.getElem_extractLsb', BitVec.getLsbD_append, if_neg (by omega), BitVec.getLsbD_append, if_neg (by omega),
    BitVec.getLsbD_append, if_neg (by omega)]
  simp [show 256 + i - 96 - 32 - 128 = i by omega, hi]

/-! ### Beats on the lanes (12 R435) -/

/-- A part of a number in beats is that number modulo what the beats hold. -/
theorem beatsNat_parts (n x : Nat) :
    beatsNat ((List.range n).map (fun j => BitVec.ofNat 64 (x / 2 ^ (64 * j)))) = x % 2 ^ (64 * n) := by
  induction n generalizing x with
  | zero => simp [beatsNat, Nat.mod_one]
  | succ n ih =>
    have h : ∀ j, x / 2 ^ (64 * (j + 1)) = x / 2 ^ 64 / 2 ^ (64 * j) := by
      intro j
      rw [Nat.div_div_eq_div_mul, ← Nat.pow_add, Nat.mul_add, Nat.mul_one, Nat.add_comm]
    simp only [List.range_succ_eq_map, List.map_cons, List.map_map, beatsNat, Function.comp_def, Nat.succ_eq_add_one, h, ih]
    rw [Nat.mul_add, Nat.mul_one, Nat.add_comm (64 * n), Nat.pow_add, Nat.mod_mul]
    simp

/-- The beats of a flit, in order, are the flit. -/
theorem beatsNat_beatOf (raw : BitVec 2304) : BitVec.ofNat 2304 (beatsNat ((List.range 36).map (beatOf raw))) = raw := by
  have h : (List.range 36).map (beatOf raw) = (List.range 36).map (fun j => BitVec.ofNat 64 (raw.toNat / 2 ^ (64 * j))) := by
    apply List.map_congr_left
    intro j _
    simp [beatOf, BitVec.extractLsb', Nat.shiftRight_eq_div_pow]
  rw [h, beatsNat_parts]
  apply BitVec.eq_of_toNat_eq
  have := raw.isLt
  simp [Nat.mod_eq_of_lt this]

/-- Among the beats of one residue, that of index `j / a` is `j`. -/
theorem residue_get : ∀ a, a < 17 → 0 < a → ∀ j, j < 36 →
    ((List.range 36).filter (fun i => i % a == j % a))[j / a]? = some j := by decide +kernel

theorem lanesIn_nodup (m : BitVec 16) : (lanesIn m).Nodup := List.nodup_range.filter _

theorem lanesIn_lt (m : BitVec 16) {n : Nat} (h : n ∈ lanesIn m) : n < 16 := by
  have := List.mem_of_mem_filter h
  simpa using this

theorem lanesIn_length (m : BitVec 16) : (lanesIn m).length ≤ 16 := (List.length_filter_le _ _).trans (by simp)

/-- Two beats of a flit go on one lane when their places agree modulo the active lanes. -/
theorem beatLane_eq (m : BitVec 16) (h : lanesIn m ≠ []) (p i j : Nat) :
    (beatLane m p i == beatLane m p j) = (i % (lanesIn m).length == j % (lanesIn m).length) := by
  have ha : 0 < (lanesIn m).length := List.length_pos_iff.mpr h
  have hi := Nat.mod_lt (p + i) ha
  have hj := Nat.mod_lt (p + j) ha
  simp only [beatLane, List.getElem?_eq_getElem hi, List.getElem?_eq_getElem hj, Option.getD_some]
  rw [Bool.eq_iff_iff, beq_iff_eq, beq_iff_eq, (lanesIn_nodup m).getElem_inj_iff]
  exact ⟨fun h => Nat.ModEq.add_left_cancel' p h, fun h => Nat.ModEq.add_left p h⟩

/-- What the transmitter puts on the lanes the receiver puts together again (12 R435). -/
theorem assemble_stripeFlit (k : Link) (h : lanesIn k.rxact ≠ []) (raw : BitVec 2304) :
    k.assemble ((stripeFlit k.rxact k.rxPos raw).map (fun bs => bs.map some)) = ⟨raw, false⟩ := by
  have ha : 0 < (lanesIn k.rxact).length := List.length_pos_iff.mpr h
  have hb : (List.range 36).map (fun j => ((((stripeFlit k.rxact k.rxPos raw).map (fun bs => bs.map some))[beatLane k.rxact k.rxPos j]?).getD
      [])[j / (lanesIn k.rxact).length]?.join) = (List.range 36).map (fun j => some (beatOf raw j)) := by
    apply List.map_congr_left
    intro j hj
    have hj : j < 36 := by simpa using hj
    have hm : beatLane k.rxact k.rxPos j < 16 := by
      have hi := Nat.mod_lt (k.rxPos + j) ha
      simp only [beatLane, List.getElem?_eq_getElem hi, Option.getD_some]
      exact lanesIn_lt _ (List.getElem_mem _)
    simp only [stripeFlit, List.map_map, List.getElem?_map, List.getElem?_range hm, Option.map_some, Option.getD_some,
      Function.comp_def, beatLane_eq _ h, residue_get _ (Nat.lt_succ_of_le (lanesIn_length _)) ha j hj, Option.join_some]
  simp only [Link.assemble, hb, List.map_map, Function.comp_def, Option.getD_some, beatsNat_beatOf]
  simp [List.any_map]

end Sys2Proof.Machine
end

