-- ==== Sys2Proof/Laws/Words.lean ====
section
/-! SUPPORT. Every single-trigger word issues with the trigger of its operation (02 R71, R85). -/

namespace Sys2Proof.Machine

set_option maxHeartbeats 4000000 in
theorem exec_trigger {i : Instr} {op : Op} {m : Arg} (h : i.trigger? = some (op, m)) (s : State) :
    exec i s = .next (issueOne op (trigger op) m s) := by
  cases i <;> first
    | (have e := Option.some.inj h; cases e; rfl)
    | exact nomatch h

end Sys2Proof.Machine
end

