-- ==== Sys2Proof/Laws/Pipelines.lean ====
section
/-! SUPPORT. The words whose operation has a fixed latency: what starting one does (02 R86 to R89). -/

namespace Sys2Proof.Machine

/-- A core that a word's origin and its counter alone have changed. -/
structure Core.Opened (m : Arg) (a b : Core) : Prop where
  regs : a.SameRegs b
  sb : b.sb = (a.sbInc m.sb).sb
  stages : b.stages = a.stages
  stores : b.stores = a.stores
  order : b.order = a.order
  cyc : b.cyc = a.cyc
  mode : b.mode = a.mode
  hold : b.hold = a.hold
  pc : b.pc = a.pc
  owe : b.owe = a.owe
  check : b.check = a.check
  sflags : b.sflags = if m.org = .port .fsX then 0 else a.sflags
  vflags : b.vflags = if m.org = .port .fsX then 0 else a.vflags

/-- A core of which no more than the walkers differs. -/
def Core.OnlyWalkers (a b : Core) : Prop := ∃ w, b = { a with walkers := w }

theorem Core.onlyWalkers_advance (c : Core) (n : BitVec 2) : c.OnlyWalkers (c.walkerAdvance n) := by
  unfold Core.walkerAdvance
  dsimp only
  split
  · exact ⟨_, rfl⟩
  · exact ⟨c.walkers, rfl⟩

theorem Core.onlyWalkers_foldl (ns : List (BitVec 2)) (c : Core) : c.OnlyWalkers (ns.foldl Core.walkerAdvance c) := by
  induction ns generalizing c with
  | nil => exact ⟨c.walkers, rfl⟩
  | cons n ns ih =>
    obtain ⟨w, hw⟩ := c.onlyWalkers_advance n
    obtain ⟨v, hv⟩ := ih (c.walkerAdvance n)
    exact ⟨v, by rw [List.foldl_cons, hv, hw]⟩

theorem Core.sbInc_eq (c : Core) (f : BitVec 4) : c.sbInc f = { c with sb := (c.sbInc f).sb } := by
  unfold Core.sbInc
  split <;> rfl

theorem Core.sbInc_congr {a b : Core} (f : BitVec 4) (h : b.sb = a.sb) : (b.sbInc f).sb = (a.sbInc f).sb := by
  unfold Core.sbInc
  split <;> simp [Core.setSb, Core.rsb, h]

/-- What the operation of a word meets differs from the state before in the core alone, by its origin and its counter. -/
theorem State.opened_spec (s : State) (op : Op) (m : Arg) :
    s.SameBut (s.opened op m) s.turn ((s.opened op m).core s.turn) ∧ s.me.Opened m ((s.opened op m).core s.turn) := by
  unfold State.opened State.sourced State.originEffects
  simp only [State.onCore_onCore, State.core_onCore]
  refine ⟨State.SameBut.of_onCore s s.turn _, ?_⟩
  obtain ⟨w, hw⟩ := Core.onlyWalkers_foldl (List.filterMap Slot.walker? [Arg.slot op m]).eraseDups (s.core s.turn)
  rw [hw]
  rw [Core.sbInc_eq]
  constructor
  · constructor <;> rfl
  · exact Core.sbInc_congr _ rfl
  all_goals first
    | rfl
    | (cases h : (m.org == .port .fsX) <;> simp_all [State.me])

/-! ### The rest of the device -/

/-- A byte reads from memory, vector registers, accumulators and cluster bank formats alone. -/
theorem State.byteAt_congr {s t : State} (hm : t.mem = s.mem) (hv : ∀ c, (t.core c).v = (s.core c).v)
    (ha : ∀ c, (t.core c).mx.acc = (s.core c).mx.acc) (hb : ∀ c, (t.cluster c).bf = (s.cluster c).bf) (a : Nat) :
    t.byteAt a = s.byteAt a := by
  unfold State.byteAt
  split <;> simp only [hm, hv, ha, hb]

theorem State.SameBut.sameRest {s t : State} {c : Core} (h : s.SameBut t s.turn c) (hv : c.v = s.me.v)
    (hm : c.mx.acc = s.me.mx.acc) : s.SameRest t := by
  have hcore : ∀ k, k ≠ s.turn → t.core k = s.core k := fun k hk => h.core_ne hk
  have hall : ∀ k, (t.core k).v = (s.core k).v ∧ (t.core k).mx.acc = (s.core k).mx.acc := by
    intro k
    by_cases hk : k = s.turn
    · subst hk; rw [h.core]; exact ⟨hv, hm⟩
    · rw [hcore k hk]; exact ⟨rfl, rfl⟩
  obtain ⟨h1, ⟨ms, h2⟩, h3⟩ := h
  refine ⟨hcore, fun a => State.byteAt_congr (by rw [h2]) (fun k => (hall k).1) (fun k => (hall k).2) (fun k => ?_) a, h3, ?_⟩
  · obtain ⟨bs, hb⟩ := h3 k; rw [hb]
  · rw [h2]

theorem State.SameBut.trans {s t u : State} {n : Nat} {a b : Core} (h : s.SameBut t n a) (k : t.SameBut u n b) :
    s.SameBut u n b := by
  obtain ⟨h1, ⟨ms, h2⟩, h3⟩ := h
  obtain ⟨k1, ⟨ns, k2⟩, k3⟩ := k
  refine ⟨by rw [k1, h1, tabPut_tabPut], ⟨ms ++ ns, ?_⟩, fun cl => ?_⟩
  · rw [k2, h2]
    simp [List.append_assoc]
  · obtain ⟨bs, hb⟩ := h3 cl
    obtain ⟨cs, hc⟩ := k3 cl
    exact ⟨cs, by rw [hc, hb]⟩

/-! ### Starting an operation -/

theorem Cluster.mergeRange_blocks (part : BitVec 4) (t : Traced) (c : Cluster) (r : TraceRange) :
    ∃ bs, c.mergeRange part t r = { c with blocks := bs } := by
  unfold Cluster.mergeRange Cluster.onBlock
  dsimp only
  split <;> exact ⟨_, rfl⟩

theorem Cluster.foldl_mergeRange_blocks (part : BitVec 4) (t : Traced) (rs : List TraceRange) (c : Cluster) :
    ∃ bs, rs.foldl (Cluster.mergeRange part t) c = { c with blocks := bs } := by
  induction rs generalizing c with
  | nil => exact ⟨c.blocks, rfl⟩
  | cons r rs ih =>
    obtain ⟨b1, h1⟩ := c.mergeRange_blocks part t r
    obtain ⟨b2, h2⟩ := ih (c.mergeRange part t r)
    exact ⟨b2, by rw [List.foldl_cons, h2, h1]⟩

/-- A flush of the recorder changes blocks of traces and the recorder alone. -/
theorem State.SameBut.flushRanges {s t : State} {n : Nat} {c : Core} (h : s.SameBut t n c) :
    ∃ rg, s.SameBut (t.flushRanges n) n { c with ranges := rg } := by
  unfold State.flushRanges
  dsimp only
  have h1 : s.SameBut (match (t.core n).res.bind (fun r => r.trace.map (fun t => (r.part, t))) with
      | some (p, x) => t.onCluster (clusterOf n) (fun k => (t.core n).ranges.foldl (Cluster.mergeRange p x) k)
      | none => t) n c := by
    split
    · exact h.onCluster _ _ (fun x => Cluster.foldl_mergeRange_blocks _ _ _ x)
    · exact h
  split
  · exact ⟨c.ranges, h1⟩
  · exact ⟨[], h1.onCore _⟩

theorem State.SameBut.recordTouch {s t : State} {n : Nat} {c : Core} (h : s.SameBut t n c) (x : Touch) :
    ∃ rg, s.SameBut (t.recordTouch n x) n { c with ranges := rg } := by
  have hid : ∃ rg, s.SameBut t n { c with ranges := rg } := ⟨c.ranges, h⟩
  unfold State.recordTouch
  split
  · exact hid
  · split
    · exact hid
    · split
      · split
        · exact hid
        · split
          · exact hid
          · dsimp only
            split
            · exact (h.onCore _).flushRanges
            · exact ⟨_, h.onCore _⟩
      · exact hid

theorem State.SameBut.recordAll {s t : State} {n : Nat} {c : Core} (h : s.SameBut t n c) (xs : List Touch) :
    ∃ rg, s.SameBut (t.recordAll n xs) n { c with ranges := rg } := by
  unfold State.recordAll
  induction xs generalizing t c with
  | nil => exact ⟨c.ranges, h⟩
  | cons x xs ih =>
    obtain ⟨rg, h1⟩ := h.recordTouch x
    obtain ⟨rg', h2⟩ := ih h1
    exact ⟨rg', h2⟩

/-- What a trigger's accesses are noted in: the recorder, blocks of traces, and what its waiting store covers. -/
theorem State.SameBut.noteTouches {s t : State} {n : Nat} {c : Core} (h : s.SameBut t n c) (order : Nat) (xs : List Touch) :
    ∃ rg st, s.SameBut (t.noteTouches n order xs) n { c with ranges := rg, stores := st } ∧
      st.map (fun x => (x.order, x.left, x.sb, x.writes)) = c.stores.map (fun x => (x.order, x.left, x.sb, x.writes)) := by
  have h1 : ∃ rg, s.SameBut (if ((t.core n).res.bind (·.trace)).isSome then t.recordAll n xs else t) n { c with ranges := rg } := by
    split
    · exact h.recordAll xs
    · exact ⟨c.ranges, h⟩
  obtain ⟨rg, h1⟩ := h1
  unfold State.noteTouches
  dsimp only
  generalize (if ((t.core n).res.bind (·.trace)).isSome then t.recordAll n xs else t) = u at h1 ⊢
  split
  · refine ⟨rg, _, h1.onCore _, ?_⟩
    simp only [List.map_map]
    apply List.map_congr_left
    intro x _
    by_cases hx : x.order = order <;> simp [hx]
  · exact ⟨rg, c.stores, h1, rfl⟩

theorem Core.sbDec_eq (c : Core) (f : BitVec 4) : c.sbDec f = { c with sb := (c.sbDec f).sb } := by
  unfold Core.sbDec
  split
  · split <;> rfl
  · rfl

/-- The operation in progress that is discarded leaves the core but for its stage and counters. -/
theorem Core.discardSlow_eq (c : Core) (unit : Nat) : ∃ sb, c.discardSlow unit = { c with stages := c.stagesBut unit, sb := sb } := by
  have key : ∀ (xs : List Stage) (d : Core), ∃ sb, xs.foldl (fun (c : Core) (st : Stage) => c.sbDec st.sb) d = { d with sb := sb } := by
    intro xs
    induction xs with
    | nil => exact fun d => ⟨d.sb, rfl⟩
    | cons x xs ih =>
      intro d
      obtain ⟨sb, h⟩ := ih (d.sbDec x.sb)
      exact ⟨sb, by rw [List.foldl_cons, h, Core.sbDec_eq]⟩
  obtain ⟨sb, h⟩ := key (c.stages.filter (fun st => st.slow && st.unit == unit))
    { c with stages := c.stages.filter (fun st => !(st.slow && st.unit == unit)) }
  exact ⟨sb, h⟩

/-- What a single-trigger word comes to whose operation changes one core alone, messages and blocks of traces apart: `b` is the core
as the operation leaves it, `c` the core after the word (02 R85). -/
theorem word_of_core {s : State} {i : Instr} {op : Op} {m : Arg} {b : Core} (h : s.Runs i op m)
    (hb : s.SameBut ((trigger op).perform (s.opened op m) (s.trigOf op m)) s.turn b) :
    ∃ t c rg st, exec i s = .next t ∧ s.SameBut t s.turn c ∧
      (if (trigger op).sbAtOnce then ({ b with ranges := rg, stores := st } : Core).sbDec m.sb
        else { b with ranges := rg, stores := st }).Closed c ∧
      st.map (fun x => (x.order, x.left, x.sb, x.writes)) = b.stores.map (fun x => (x.order, x.left, x.sb, x.writes)) ∧
      (s.me.owe = none → c.pc = s.me.pc.plus 4 ∧ c.owe = b.owe ∧ c.check = b.check ∧
        (s.wordHits op m = [] → c.mode = b.mode ∧ c.hold = b.hold)) := by
  obtain ⟨rg, st, h1, h2⟩ := hb.noteTouches s.me.order ((trigger op).touches (s.sourced op m) (s.trigOf op m))
  obtain ⟨c, h3, h4, h6⟩ := issueOne_closed h.carries h.plain
  refine ⟨_, c, rg, st, exec_trigger h.word s, ?_, ?_, h2, ?_⟩
  all_goals cases hn : (trigger op).sbAtOnce with
    | false =>
      have he : s.operated op m = ((trigger op).perform (s.opened op m) (s.trigOf op m)).noteTouches s.turn s.me.order
          ((trigger op).touches (s.sourced op m) (s.trigOf op m)) := by simp [State.operated, hn]
      rw [← he] at h1
      rw [h1.core] at h4 h6
      first
        | exact h1.trans h3
        | exact h4
        | exact h6
    | true =>
      have he : s.operated op m = (((trigger op).perform (s.opened op m) (s.trigOf op m)).noteTouches s.turn s.me.order
          ((trigger op).touches (s.sourced op m) (s.trigOf op m))).onCore s.turn (·.sbDec m.sb) := by simp [State.operated, hn]
      have h7 := h1.onCore (·.sbDec m.sb)
      rw [← he] at h7
      rw [h7.core] at h4 h6
      first
        | exact h7.trans h3
        | exact h4
        | (rw [Core.sbDec_eq] at h6; exact h6)

/-- A single-trigger word whose operation has a fixed latency delivers its result (02 R86 to R89). -/
theorem delivers_of_start {s : State} {i : Instr} {op : Op} {m : Arg} {lat : Nat} {slow : Bool} {r : Result}
    (h : s.Runs i op m) (hp : (trigger op).perform (s.opened op m) (s.trigOf op m) =
      (s.trigOf op m).start lat slow r (s.opened op m)) (hn : (trigger op).sbAtOnce = false) :
    ∃ t, exec i s = .next t ∧ s.Delivers t m op.unit lat slow r := by
  obtain ⟨ho, hop⟩ := s.opened_spec op m
  set a := (s.opened op m).core s.turn with ha
  -- the core once the operation has started
  obtain ⟨b, hb, sb, rfl, hsb⟩ : ∃ b : Core, s.SameBut ((trigger op).perform (s.opened op m) (s.trigOf op m)) s.turn b ∧
      ∃ sb, b = { a with
        stages := (if slow then a.stagesBut op.unit else a.stages) ++ [⟨op.unit, s.me.order, lat, slow, m.sb, r⟩], sb := sb } ∧
        (slow = false → sb = a.sb) := by
    refine ⟨_, by rw [hp]; exact ho.onCore _, ?_⟩
    cases slow with
    | true =>
      obtain ⟨sb, hd⟩ := a.discardSlow_eq op.unit
      refine ⟨sb, ?_, by simp⟩
      simp only [if_true]
      have hu : (s.trigOf op m).op.unit = op.unit := rfl
      rw [hu, hd]
      rfl
    | false => exact ⟨a.sb, rfl, fun _ => rfl⟩
  obtain ⟨t, c, rg, st, he, h5, h4, h2, h6⟩ := word_of_core h hb
  simp only [hn, Bool.false_eq_true, if_false] at h4
  have hregs : s.me.SameRegs c := hop.regs.trans (Core.SameRegs.trans (by constructor <;> rfl) h4.regs)
  refine ⟨t, he, ?_, ?_, ?_, ?_, ?_, ?_, ?_, ?_, h5.sameRest hregs.v (by rw [hregs.mx])⟩
  · rw [h5.core, h4.stages]
    show List.map Stage.next _ = _
    have hb : a.stagesBut op.unit = s.me.stagesBut op.unit := by unfold Core.stagesBut; rw [hop.stages]
    simp only [hop.stages, hb]
  · rw [h5.core, h4.order]
    show a.order + 4 = _
    rw [hop.order]
  · intro hq
    rw [h5.core]
    exact (h6 hq).1
  · intro hs
    rw [h5.core, h4.sb]
    show sb = _
    rw [hsb hs, hop.sb]
  · rw [h5.core]; exact hregs
  · rw [h5.core, h4.sflags]; exact hop.sflags
  · rw [h5.core, h4.vflags]; exact hop.vflags
  · rw [h5.core, h4.stores, List.map_map]
    show List.map (fun x : LocalStore => x.writes) st = _
    have h7 := congrArg (List.map (fun y : Nat × Nat × BitVec 4 × List BitWrite => y.2.2.2)) h2
    simp only [List.map_map] at h7
    exact h7.trans (by rw [← hop.stores]; rfl)

/-- A single-trigger word whose operation puts a store among those that wait, and stages of its own into the pipelines
(05 R180; 06 R224). -/
theorem storesWith_of_store {s : State} {i : Instr} {op : Op} {m : Arg} {lat : Nat} {ws : List BitWrite} {xs : List Stage}
    (h : s.Runs i op m) (hp : (trigger op).perform (s.opened op m) (s.trigOf op m) =
      ((s.trigOf op m).store lat ws (s.opened op m)).onCore s.turn (fun c => { c with stages := c.stages ++ xs }))
    (hn : (trigger op).sbAtOnce = false) :
    ∃ t, exec i s = .next t ∧ s.StoresWith t m lat ws xs := by
  obtain ⟨ho, hop⟩ := s.opened_spec op m
  set a := (s.opened op m).core s.turn with ha
  obtain ⟨b, hb, rfl⟩ : ∃ b : Core, s.SameBut ((trigger op).perform (s.opened op m) (s.trigOf op m)) s.turn b ∧
      b = { a with stores := a.stores ++ [⟨s.me.order, lat, m.sb, ws, []⟩], stages := a.stages ++ xs } :=
    ⟨_, by rw [hp]; exact (ho.onCore _).onCore _, rfl⟩
  obtain ⟨t, c, rg, st, he, h5, h4, h2, h6⟩ := word_of_core h hb
  simp only [hn, Bool.false_eq_true, if_false] at h4
  have hregs : s.me.SameRegs c := hop.regs.trans (Core.SameRegs.trans (by constructor <;> rfl) h4.regs)
  refine ⟨t, he, ?_, ?_, ?_, ?_, ?_, ?_, ?_, ?_, h5.sameRest hregs.v (by rw [hregs.mx])⟩
  · rw [h5.core, h4.stores, List.map_map]
    show List.map (fun x : LocalStore => (x.order, x.left - 1, x.sb, x.writes)) st = _
    have h7 := congrArg (List.map (fun y : Nat × Nat × BitVec 4 × List BitWrite => (y.1, y.2.1 - 1, y.2.2))) h2
    simp only [List.map_map] at h7
    refine h7.trans ?_
    rw [← hop.stores]
    simp only [List.map_append, List.map_cons, List.map_nil]
    rfl
  · rw [h5.core, h4.stages]
    show List.map Stage.next _ = _
    simp only [hop.stages]
  · rw [h5.core, h4.order]
    show _ + 4 = _
    exact congrArg (· + 4) hop.order
  · intro hq
    rw [h5.core]
    exact (h6 hq).1
  · rw [h5.core, h4.sb]
    exact hop.sb
  · rw [h5.core]; exact hregs
  · rw [h5.core, h4.sflags]; exact hop.sflags
  · rw [h5.core, h4.vflags]; exact hop.vflags

/-- A single-trigger word whose operation puts a store among those that wait (05 R180). -/
theorem stores_of_store {s : State} {i : Instr} {op : Op} {m : Arg} {lat : Nat} {ws : List BitWrite}
    (h : s.Runs i op m) (hp : (trigger op).perform (s.opened op m) (s.trigOf op m) =
      (s.trigOf op m).store lat ws (s.opened op m)) (hn : (trigger op).sbAtOnce = false) :
    ∃ t, exec i s = .next t ∧ s.Stores t m lat ws :=
  storesWith_of_store h (by
    rw [hp]
    show State.onCore _ s.turn _ = (State.onCore _ s.turn _).onCore s.turn _
    rw [State.onCore_onCore]
    simp only [List.append_nil]) hn

/-! ### Operations that change their core at once -/

theorem Core.sbInc_sbDec (c : Core) (f : BitVec 4) (h : ∀ n, sbSel f = some n → c.rsb n ≠ 4095) (sb : Vector (BitVec 12) 8)
    (hs : sb = (c.sbInc f).sb) (d : Core) (hd : d.sb = sb) : (d.sbDec f).sb = c.sb := by
  subst hs
  unfold Core.sbDec
  unfold Core.sbInc at hd
  split
  · rename_i n hn
    simp only [hn] at hd
    have h1 : d.rsb n = c.rsb n + 1 := by simp [Core.rsb, hd, Core.setSb]
    have h2 : c.rsb n + 1 ≠ 0 := by
      intro h0
      apply h n hn
      have := congrArg BitVec.toNat h0
      simp [BitVec.toNat_add] at this
      apply BitVec.eq_of_toNat_eq
      have := (c.rsb n).isLt
      simp
      omega
    rw [h1, if_neg h2]
    have h3 : c.rsb n + 1 - 1 = c.rsb n := by simp
    simp only [Core.setSb, hd, h3]
    apply Vector.ext
    intro i hi
    by_cases hni : n.toNat = i
    · subst hni; simp [Core.rsb]
    · simp [hni]
  · rename_i hn
    simpa [hn] using hd

/-- A single-trigger word whose operation changes its core alone, and is counted for its own cycle alone (02 R85; 04 R137):
`a` is the core that the operation meets. -/
theorem ends_of_onCore {s : State} {i : Instr} {op : Op} {m : Arg} {f : Core → Core} (h : s.Runs i op m)
    (hp : ∀ S, (trigger op).perform S (s.trigOf op m) = S.onCore s.turn f) (hn : (trigger op).sbAtOnce = true)
    (hf : ∀ c : Core, (f c).stages = c.stages ∧ (f c).stores = c.stores ∧ (f c).order = c.order ∧ (f c).sb = c.sb ∧
      (f c).sflags = c.sflags ∧ (f c).vflags = c.vflags ∧ (f c).v = c.v ∧ (f c).mx.acc = c.mx.acc) :
    ∃ t a b, exec i s = .next t ∧ s.Ends t m ∧ s.me.Opened m a ∧ (f a).SameRegs (t.core s.turn) ∧
      (∃ sb rg st, b = { f a with sb := sb, ranges := rg, stores := st }) ∧ b.Closed (t.core s.turn) ∧
      (s.me.owe = none → (t.core s.turn).owe = (f a).owe ∧ (t.core s.turn).check = (f a).check ∧
        (s.wordHits op m = [] → (t.core s.turn).mode = (f a).mode ∧ (t.core s.turn).hold = (f a).hold)) := by
  obtain ⟨ho, hop⟩ := s.opened_spec op m
  obtain ⟨c, h3, h4, h6⟩ := issueOne_closed h.carries h.plain
  refine ⟨_, (s.opened op m).core s.turn, (s.operated op m).core s.turn, exec_trigger h.word s, ?_⟩
  set a := (s.opened op m).core s.turn with ha
  have hb : s.SameBut ((trigger op).perform (s.opened op m) (s.trigOf op m)) s.turn (f a) := by rw [hp]; exact ho.onCore f
  obtain ⟨rg, st, h1, h2⟩ := hb.noteTouches s.me.order ((trigger op).touches (s.sourced op m) (s.trigOf op m))
  have he : s.operated op m = (((trigger op).perform (s.opened op m) (s.trigOf op m)).noteTouches s.turn s.me.order
        ((trigger op).touches (s.sourced op m) (s.trigOf op m))).onCore s.turn (·.sbDec m.sb) := by
    simp [State.operated, hn]
  have h7 := h1.onCore (·.sbDec m.sb)
  rw [← he] at h7
  rw [h7.core] at h4 h6 ⊢
  have hreg : (f a).SameRegs (({ f a with ranges := rg, stores := st } : Core).sbDec m.sb) := by
    rw [Core.sbDec_eq]; constructor <;> rfl
  have h5 := h7.trans h3
  have hall : (f a).SameRegs c := hreg.trans h4.regs
  obtain ⟨f1, f2, f3, f4, f5, f6, f7, f8⟩ := hf a
  rw [h5.core]
  refine ⟨⟨?_, ?_, ?_, ?_, ?_, ?_, ?_, h5.sameRest ?_ ?_⟩, hop, hall, ?_, h4, ?_⟩
  · rw [h5.core, h4.stages, Core.sbDec_eq]
    show List.map Stage.next (f a).stages = _
    rw [f1, hop.stages]
  · rw [h5.core, h4.order, Core.sbDec_eq]
    show (f a).order + 4 = _
    rw [f3, hop.order]
  · intro hq; rw [h5.core]; exact (h6 hq).1
  · rw [h5.core, h4.sb]
    exact Core.sbInc_sbDec s.me m.sb h.carries.room _ rfl _ (by show (f a).sb = _; rw [f4, hop.sb])
  · rw [h5.core, h4.sflags, Core.sbDec_eq]
    show (f a).sflags = _
    rw [f5, hop.sflags]
  · rw [h5.core, h4.vflags, Core.sbDec_eq]
    show (f a).vflags = _
    rw [f6, hop.vflags]
  · rw [h5.core, h4.stores, Core.sbDec_eq, List.map_map]
    show List.map (fun x : LocalStore => x.writes) st = _
    have h8 := congrArg (List.map (fun y : Nat × Nat × BitVec 4 × List BitWrite => y.2.2.2)) h2
    simp only [List.map_map] at h8
    refine h8.trans ?_
    show (f a).stores.map _ = _
    rw [f2, hop.stores]
    rfl
  · rw [hall.v, f7, hop.regs.v]
  · rw [hall.mx, f8, hop.regs.mx]
  · exact ⟨_, rg, st, Core.sbDec_eq _ _⟩
  · intro hq
    obtain ⟨-, e2, e3, e4⟩ := h6 hq
    rw [Core.sbDec_eq] at e2 e3 e4
    exact ⟨e2, e3, e4⟩

end Sys2Proof.Machine
end

