-- ==== Sys2Proof/Tests/Slice0.lean ====
section
/-! SUPPORT. Tests: words written out from the spec's encoding, terms that are refused as ill-formed, single steps on small states,
and a state for the hypotheses of each statement. -/

set_option Elab.async false

namespace Sys2Proof.Machine

/-! ### Small states -/

/-- The state after reset with core 0 running, as `f` makes it. -/
def run0 (f : Core → Core) : State := State.reset.onCore 0 (fun c => f { c with mode := .run })

/-- A buffer of a class, from an address on, of `n` granules. -/
def buffer (cls : BitVec 3) (base n : Nat) : Desc :=
  { cls := cls, fmt := 0, owner := ownerReg 0 0, base := BitVec.ofNat 64 base, lenm1 := BitVec.ofNat 35 (n - 1) }

/-- Core 0 runs with a buffer's capability in k0, with every right. -/
def holding (d : Desc) (f : Core → Core) : State :=
  (run0 (fun c => f (c.setK 0 (.cap ⟨.whole, 0, 0, 0x3F, 0⟩)))).putDesc 0 0 d

/-- The buffer is the whole scratchpad of core 0. -/
def local0 (f : Core → Core) : State := holding (buffer 0 (slotBase 0) 0x4000) f

/-- The buffer is in HBM, mapped onto itself by the translation unit of cluster 0. -/
def hbm0 (f : Core → Core) : State := holding (buffer 2 0x100000 64) f

/-- The origin of the words of tests: g1, guard 1, no counter. -/
def g1 : Arg := ⟨0, .g 1, 0⟩

/-- The conditions of `State.Tries` for a word with origin g1. -/
def readyFor (s : State) : Bool :=
  decide (s.me.mode = .run) && decide (s.me.hold = .none) && decide (s.me.owe = none) && s.me.guardValue 0 && !s.ringFull s.turn 1

theorem tries_g1 {s : State} {op : Op} (h : readyFor s = true) : s.Tries op g1 := by
  simp only [readyFor, Bool.and_eq_true, decide_eq_true_eq, Bool.not_eq_true'] at h
  obtain ⟨⟨⟨⟨h1, h2⟩, h3⟩, h4⟩, h5⟩ := h
  exact ⟨h1, h2, ⟨nofun, nofun⟩, fun _ => h3, h4, nofun, nofun, fun _ => h5⟩

theorem noReturn_of {s : State} (h : readyFor s = true) : s.noReturn := by
  simp only [readyFor, Bool.and_eq_true, decide_eq_true_eq, Bool.not_eq_true'] at h
  intro o ho
  rw [h.1.1.2] at ho
  cases ho

theorem runs_g1 {s : State} {i : Instr} {op : Op} (hi : i.trigger? = some (op, g1)) (h : readyFor s = true)
    (hc : (trigger op).check s (s.trigOf op g1) = none) : s.Runs i op g1 :=
  ⟨hi, ⟨tries_g1 h, hc⟩, noReturn_of h⟩

/-! ### States for the hypotheses of the statements about words -/

theorem wit_IntegerUnits : (Instr.iaAdd 0 g1).trigger? = some (.ia 0 .add, g1) ∧ (run0 id).Tries (.ia 0 .add) g1 ∧ (run0 id).noReturn :=
  ⟨rfl, tries_g1 (by decide), noReturn_of (by decide)⟩

theorem wit_MultiplierAndDivider : (Instr.imDiv g1).trigger? = some (.im .div, g1) ∧ (run0 id).Tries (.im .div) g1 ∧ (run0 id).noReturn :=
  ⟨rfl, tries_g1 (by decide), noReturn_of (by decide)⟩

theorem wit_ScalarFloatUnit : (Instr.fsFadd g1).trigger? = some (.fs .fadd, g1) ∧ (run0 id).Tries (.fs .fadd) g1 ∧ (run0 id).noReturn :=
  ⟨rfl, tries_g1 (by decide), noReturn_of (by decide)⟩

theorem wit_VectorUnit : (run0 id).Runs (.vxVadd g1) (.vx .vadd) g1 ∧ vxMemory .vadd = false :=
  ⟨runs_g1 rfl (by decide) (by decide), rfl⟩

theorem wit_LocalLoads : (local0 id).Runs (.lsLdw g1) (.ls .ldw) g1 ∧ ((local0 id).moved g1).getLsbD 63 = false :=
  ⟨runs_g1 rfl (by decide) (by decide), by decide⟩

theorem wit_LocalStores : (local0 id).Runs (.lsStw g1) (.ls .stw) g1 ∧ ((local0 id).moved g1).getLsbD 63 = false :=
  ⟨runs_g1 rfl (by decide) (by decide), by decide⟩

theorem wit_ElementAccesses : (local0 id).Runs (.lsLdf g1) (.ls .ldf) g1 ∧ (local0 id).Runs (.lsStf g1) (.ls .stf) g1 ∧
    ((local0 id).moved g1).getLsbD 63 = false :=
  ⟨runs_g1 rfl (by decide) (by decide), runs_g1 rfl (by decide) (by decide), by decide⟩

/-- The last bank's format register, of the scratchpad and of the cluster. -/
def bankArg (f : Core → Core) : Core → Core := fun c => f (c.setG 1 0x8000000000000078)

theorem wit_BankFormatAccesses : (local0 (bankArg id)).Runs (.lsLdd g1) (.ls .ldd) g1 ∧
    (local0 (bankArg id)).Runs (.lsStd g1) (.ls .std) g1 ∧ (buffer 0 (slotBase 0) 0x4000).localTo 0 = true ∧
    (holding (buffer 1 (sramBase 0) 0x80000) (bankArg id)).Runs (.lsStd g1) (.ls .std) g1 ∧
    (buffer 1 (sramBase 0) 0x80000).localTo 0 = false ∧ ((local0 (bankArg id)).moved g1).getLsbD 63 = true :=
  ⟨runs_g1 rfl (by decide) (by decide), runs_g1 rfl (by decide) (by decide), by decide,
    runs_g1 rfl (by decide) (by decide), by decide, by decide⟩

theorem wit_VectorLanesFollowTheMask : vxResult .viadd ((run0 id).trigOf (.vx .viadd) g1) =
    vxResult .viadd ((run0 id).trigOf (.vx .viadd) g1) ∧ ∃ vd mask val fl r,
      vxResult .viadd ((run0 id).trigOf (.vx .viadd) g1) = .vector vd mask val fl r :=
  ⟨rfl, _, _, _, _, _, rfl⟩

theorem wit_FloatComparisons : (0x7F800001 : Nat) < 2 ^ 32 ∧ 0x7F800000 < (0x7F800001 : Nat) % 2 ^ 31 ∧
    (0x7F800001 : Nat).testBit 22 = false ∧ ¬ 0x7F800000 < (0x80000000 : Nat) % 2 ^ 31 := by decide

theorem wit_VectorLocalMemory : (local0 id).Runs (.vxVld g1) (.vx .vld) g1 ∧ (local0 id).Runs (.vxVst g1) (.vx .vst) g1 ∧
    vxOwn (local0 id) ((local0 id).trigOf (.vx .vld) g1) = true ∧ vxOwn (local0 id) ((local0 id).trigOf (.vx .vst) g1) = true :=
  ⟨runs_g1 rfl (by decide) (by decide), runs_g1 rfl (by decide) (by decide), by decide, by decide⟩

/-- Walker 0 is bound and checked, with `n` elements of eight bytes. -/
def bound0 (n : Nat) (f : Core → Core) : State :=
  local0 (fun c => f (c.setWalker 0 { ({} : Walker) with
    bound := true, desc := BitVec.ofNat 512 (2 ^ 256 + 2 ^ 192 + 2 ^ 128 + 8 * 2 ^ 96 + n * 2 ^ 64 + 3 * 2 ^ 48) }))

theorem wit_WalkerOperations_bind : (local0 id).Runs (.swBind 0 g1) (.sw 0 .bind) g1 ∧ g1.org ≠ .swR 0 :=
  ⟨runs_g1 rfl (by decide) (by decide), nofun⟩

theorem wit_WalkerOperations_rest : (bound0 4 id).Runs (.swRewind 0 g1) (.sw 0 .rewind) g1 ∧
    (bound0 4 id).Runs (.swSkip 0 g1) (.sw 0 .skip) g1 ∧ (bound0 4 id).Runs (.swFeeda 0 g1) (.sw 0 .feeda) g1 ∧
    (bound0 4 id).Runs (.swStop 0 g1) (.sw 0 .stop) g1 ∧
    let w := (bound0 4 id).me.walker 0
    w.bound = true ∧ w.bad = false ∧ w.held = [] ∧ w.feeding = false ∧ w.checkIn = none ∧ w.exh = false :=
  ⟨runs_g1 rfl (by decide +kernel) (by decide +kernel), runs_g1 rfl (by decide +kernel) (by decide +kernel), runs_g1 rfl (by decide +kernel) (by decide +kernel),
    runs_g1 rfl (by decide +kernel) (by decide +kernel), by decide +kernel⟩

/-- Skipping past the end of a walker's elements, and by none. -/
theorem wit_WalkerOperations_skip :
    min ((bound0 4 (fun c => c.setG 1 9)).moved g1).toNat ((bound0 4 id).me.walker 0).left ≠ 0 ∧
    min ((bound0 4 id).moved g1).toNat ((bound0 4 id).me.walker 0).left = 0 := by decide +kernel

theorem wit_TimeUnitArmsAndCancels : (run0 id).Runs (.tmAt g1) (.tm .arm) g1 ∧ (run0 id).Runs (.tmCancel g1) (.tm .cancel) g1 ∧
    (((run0 id).me.timed[0]?).getD (⟨0, 0, false⟩ : TimedSlot)).armed = false :=
  ⟨runs_g1 rfl (by decide) (by decide), runs_g1 rfl (by decide) (by decide), by decide⟩

/-- Every slot of the time unit is armed. -/
theorem wit_TimeUnitArmsAndCancels_full :
    let s := run0 (fun c => { c with timed := Vector.replicate 8 ⟨0, 0, true⟩ })
    s.Runs (.tmAt g1) (.tm .arm) g1 ∧ ∀ k, k < 8 → ((s.me.timed[k]?).getD (⟨0, 0, false⟩ : TimedSlot)).armed = true :=
  ⟨runs_g1 rfl (by decide) (by decide), by decide⟩

theorem wit_MatrixCommandsQueue : (run0 id).Runs (.mxZero g1) (.mx .zero) g1 ∧ (run0 (fun c => c.setG 1 0x55)).Runs (.mxCfg g1) (.mx .cfg) g1 ∧
    (run0 id).Runs (.mxWracc g1) (.mx .wracc) g1 ∧ isCompute (run0 id).turn = true :=
  ⟨runs_g1 rfl (by decide) (by decide), runs_g1 rfl (by decide) (by decide), runs_g1 rfl (by decide) (by decide), by decide⟩

theorem wit_CapabilitiesGivenAway : (hbm0 id).Runs (.capSend g1) (.cap .send) g1 ∧ (hbm0 id).Runs (.capFree g1) (.cap .free) g1 ∧
    (local0 (fun c => c.setK 0 (.cap ⟨.fraction, 0, 0, 9, 2⟩))).Runs (.capDrop g1) (.cap .drop) g1 ∧
    isCompute (hbm0 id).turn = true :=
  ⟨runs_g1 rfl (by decide) (by decide), runs_g1 rfl (by decide) (by decide), runs_g1 rfl (by decide) (by decide), by decide⟩

/-- Fractions of one buffer in k0 and k1, and t as joining k0 to k1. -/
def fractions (t : Word) : State := hbm0 (fun c =>
  ((c.setK 0 (.cap ⟨.fraction, 0, 0, 9, 2⟩)).setK 1 (.cap ⟨.fraction, 0, 0, 9, 3⟩)).setG 1 t)

theorem wit_CapabilitiesGivenAway_join : (fractions 0).Runs (.capJoin g1) (.cap .join) g1 ∧
    (fractions 0x21).Runs (.capJoin g1) (.cap .join) g1 ∧ ((fractions 0x21).moved g1).getLsbD 5 = true ∧
    (fractions 0x21).me.rk 1 = .cap ⟨.fraction, 0, 0, 9, 3⟩ :=
  ⟨runs_g1 rfl (by decide) (by decide), runs_g1 rfl (by decide) (by decide), by decide, by decide⟩

/-- Core 0's g1 and an operand latch, as a word finds them. -/
def operands (l : Latch) (o t : Word) : Core → Core := fun c => (c.setG 1 t).writeLatch (.latch l) o

/-- Two buffers, whose capabilities with every right are in k0 and k1. -/
def two (d e : Desc) (f : Core → Core) : State :=
  (holding d (fun c => f (c.setK 1 (.cap ⟨.whole, 0, 1, 0x3F, 0⟩)))).putDesc 0 1 e

/-- Two buffers of HBM, the second behind the first. -/
def halves (f : Core → Core) : State := two (buffer 2 0x100000 64) (buffer 2 0x100800 64) f

theorem wit_CapabilitiesPending : (hbm0 (operands .capO 64 0x30201)).Runs (.capAlloc g1) (.cap .alloc) g1 ∧
    (hbm0 (operands .capO 0 0x10000)).Runs (.capRecv g1) (.cap .recv) g1 ∧
    (hbm0 (operands .capO 32 1)).Runs (.capCut g1) (.cap .cut) g1 ∧ (halves (operands .capO 0 1)).Runs (.capFuse g1) (.cap .fuse) g1 :=
  ⟨runs_g1 rfl (by decide) (by decide), runs_g1 rfl (by decide) (by decide), runs_g1 rfl (by decide) (by decide),
    runs_g1 rfl (by decide) (by decide)⟩

theorem wit_CapabilitiesLentOrQueried : (hbm0 (operands .capO 0 0x10001)).Runs (.capSplit g1) (.cap .split) g1 ∧
    (fractions 0x10002).Runs (.capSplit g1) (.cap .split) g1 ∧ (hbm0 id).Runs (.capMcast g1) (.cap .mcast) g1 ∧
    (hbm0 (operands .capO 0 1)).Runs (.capNarrow g1) (.cap .narrow) g1 ∧ (hbm0 id).Runs (.capInfo g1) (.cap .info) g1 ∧
    (hbm0 id).Runs (.capBindmb g1) (.cap .bindmb) g1 ∧ (hbm0 id).Runs (.capClosemb g1) (.cap .closemb) g1 ∧
    (hbm0 id).Runs (.capPeek g1) (.cap .peek) g1 ∧ (hbm0 id).Runs (.capSub g1) (.cap .sub) g1 ∧
    (hbm0 id).Runs (.capUnsub g1) (.cap .unsub) g1 :=
  ⟨runs_g1 rfl (by decide) (by decide), runs_g1 rfl (by decide) (by decide), runs_g1 rfl (by decide) (by decide),
    runs_g1 rfl (by decide) (by decide), runs_g1 rfl (by decide) (by decide), runs_g1 rfl (by decide) (by decide),
    runs_g1 rfl (by decide) (by decide), runs_g1 rfl (by decide) (by decide), runs_g1 rfl (by decide) (by decide),
    runs_g1 rfl (by decide) (by decide)⟩

/-- A list of rows in core 0's scratchpad, and the buffer that has them. -/
def rows (f : Core → Core) : State := two (buffer 0 (slotBase 0) 64) (buffer 2 0x100000 64) f

theorem wit_CopiesSetOut : (halves (operands .cpO 0x10000000000 0x10000000000)).Runs (.cpCopy g1) (.cp .copy) g1 ∧
    (halves (operands .cpO 0x10000000000 0)).Runs (.cpCopys g1) (.cp .copys) g1 ∧
    (halves (operands .cpO 7 0x10000000000)).Runs (.cpFill g1) (.cp .fill) g1 ∧
    (rows (operands .cpO 0x10000000000 0x1000100000000)).Runs (.cpGath g1) (.cp .gath) g1 ∧
    (halves (operands .cpO 0 0x1000000)).Runs (.cpSig g1) (.cp .sig) g1 ∧ (halves id).Runs (.cpStat g1) (.cp .stat) g1 :=
  ⟨runs_g1 rfl (by decide) (by decide), runs_g1 rfl (by decide) (by decide), runs_g1 rfl (by decide) (by decide),
    runs_g1 rfl (by decide) (by decide), runs_g1 rfl (by decide) (by decide), runs_g1 rfl (by decide) (by decide)⟩

theorem wit_RemoteAccessesSetOut : (hbm0 id).Runs (.rmRld g1) (.rm .rld) g1 ∧ (hbm0 id).Runs (.rmRst g1) (.rm .rst) g1 ∧
    (hbm0 id).Runs (.rmRacc g1) (.rm .racc) g1 ∧ (hbm0 id).Runs (.rmRfop g1) (.rm .rfop) g1 ∧
    (hbm0 (fun c => c.setG 1 1)).Runs (.rmBatch g1) (.rm .batch) g1 ∧ (hbm0 id).Runs (.rmUnbatch g1) (.rm .unbatch) g1 ∧
    (hbm0 id).Runs (.vxVld g1) (.vx .vld) g1 ∧ vxOwn (hbm0 id) ((hbm0 id).trigOf (.vx .vld) g1) = false :=
  ⟨runs_g1 rfl (by decide) (by decide), runs_g1 rfl (by decide) (by decide), runs_g1 rfl (by decide) (by decide),
    runs_g1 rfl (by decide) (by decide), runs_g1 rfl (by decide) (by decide), runs_g1 rfl (by decide) (by decide),
    runs_g1 rfl (by decide) (by decide), by decide⟩

theorem wit_TraceOperationsSetOut : (hbm0 id).Runs (.trSlot g1) (.tr .slot) g1 ∧ (hbm0 id).Runs (.trUnslot g1) (.tr .unslot) g1 ∧
    (hbm0 id).Runs (.trInfo g1) (.tr .info) g1 ∧ (hbm0 (operands .trO 32 0)).Runs (.trMark g1) (.tr .mark) g1 ∧
    (hbm0 (fun c => c.setG 1 0x400000000)).Runs (.trRelaunch g1) (.tr .relaunch) g1 :=
  ⟨runs_g1 rfl (by decide) (by decide), runs_g1 rfl (by decide) (by decide), runs_g1 rfl (by decide) (by decide),
    runs_g1 rfl (by decide) (by decide), runs_g1 rfl (by decide) (by decide)⟩

theorem wit_LaunchesSetOut : (hbm0 (fun c => c.setG 1 0x400000000)).Runs (.sqLaunch g1) (.sq .launch) g1 ∧
    (hbm0 (fun c => c.setG 1 0x400000000)).Runs (.sqTask g1) (.sq .task) g1 ∧
    (hbm0 (fun c => c.setG 1 0x200001)).Runs (.sqCall g1) (.sq .call) g1 ∧ (hbm0 id).Runs (.sqSpawn g1) (.sq .spawn) g1 :=
  ⟨runs_g1 rfl (by decide) (by decide), runs_g1 rfl (by decide) (by decide), runs_g1 rfl (by decide) (by decide),
    runs_g1 rfl (by decide) (by decide)⟩

/-- A task's template number that lies outside the table is refused, and so is a spawn outside a launch. -/
theorem wit_LaunchesSetOut_refused : (hbm0 id).taskCode 0 0 255 ≠ 0 ∧ (hbm0 id).spawnIn 0 0 = none := by decide +kernel

theorem wit_SchedulerRequests : (hbm0 id).Runs (.sqDec g1) (.sq .dec) g1 ∧ (hbm0 id).Runs (.sqFillf g1) (.sq .fillf) g1 ∧
    (run0 (fun c => c.setG 1 0x100)).Tries (.sq .tickets) g1 ∧ (run0 id).Tries (.sq .gang) g1 ∧
    ((run0 (fun c => c.setG 1 0x100)).moved g1 &&& 0xFFFFFFFFE0E00000 = 0) ∧
    ((run0 (fun c => c.setG 1 0x100)).moved g1).extractLsb' 8 13 = 1 ∧ (run0 id).moved g1 &&& 0xFFFFFFFFFF00FE00 = 0 :=
  ⟨runs_g1 rfl (by decide) (by decide), runs_g1 rfl (by decide) (by decide), tries_g1 (by decide), tries_g1 (by decide),
    by decide, by decide, by decide⟩

/-- A kernel core's store of `v` to the port page's place `a`. -/
def storing (a : Nat) (v : Word) : State :=
  { State.reset.onSvc 2176 (fun c => { c with halted := false, access := some ⟨0, 4, .store, portPage + a, 8, v, false, none⟩ }) with
    focus := { sluice := 2176 } }

/-- Posting a switch and setting a queue through the port page; a switch in progress. -/
theorem wit_SchedulerRequests_port :
    (storing (8 * 0x248) 0).portErr ((storing (8 * 0x248) 0).portTrig 2176 (.sq .gang) 0) = none ∧
    (storing (8 * 0x247) 0x100).portErr ((storing (8 * 0x247) 0x100).portTrig 2176 (.sq .tickets) 0x100) = none ∧
    Target.ofCode (BitVec.ofNat 11 (8 * 0x248 / 8)) = .trig (.sq .gang) ∧
    Target.ofCode (BitVec.ofNat 11 (8 * 0x247 / 8)) = .trig (.sq .tickets) ∧
    (storing (8 * 0x248) 0).portAccess 2176 true = some (8 * 0x248, 0) ∧ sluiceKind 2176 = 0b10 ∧
    ({ storing (8 * 0x248) 0 with gang := some (gangOf 0 0) }).gang.isSome = true := by decide

theorem wit_WeirOperations : (hbm0 id).Runs (.wrArm g1) (.wr .arm) g1 ∧
    (hbm0 (fun c => c.setG 1 0x18000)).Runs (.wrArrive g1) (.wr .arrive) g1 ∧ (hbm0 id).Runs (.wrQuery g1) (.wr .query) g1 ∧
    (hbm0 id).Runs (.wrDisarm g1) (.wr .disarm) g1 ∧ (hbm0 id).barForeign 0 0 0 = false :=
  ⟨runs_g1 rfl (by decide) (by decide), runs_g1 rfl (by decide) (by decide), runs_g1 rfl (by decide) (by decide),
    runs_g1 rfl (by decide) (by decide), by decide⟩

/-- A barrier of another partition, which waits. -/
theorem wit_WeirOperations_foreign : ((hbm0 id).setBar 0 0 (armedBar 3 1 1 0 0 0)).barForeign 0 0 0 = true ∧
    barArmed (((hbm0 id).setBar 0 0 (armedBar 3 1 1 0 0 0)).bar 0 0) = true := by decide

/-- Indexed forms access the own scratchpad. -/
theorem wit_VectorLocalMemory_indexed : (local0 id).Runs (.vxVldx g1) (.vx .vldx) g1 ∧ (local0 id).Runs (.vxVstx g1) (.vx .vstx) g1 ∧
    vxOwn (local0 id) ((local0 id).trigOf (.vx .vldx) g1) = true ∧ vxOwn (local0 id) ((local0 id).trigOf (.vx .vstx) g1) = true :=
  ⟨runs_g1 rfl (by decide) (by decide +kernel), runs_g1 rfl (by decide) (by decide +kernel), by decide, by decide⟩

/-- Such a form on a buffer of HBM. -/
theorem wit_RemoteAccessesSetOut_indexed : (Instr.vxVldx g1).trigger? = some (.vx .vldx, g1) ∧ (hbm0 id).Tries (.vx .vldx) g1 ∧
    vxErr .vldx ((hbm0 id).trigOf (.vx .vldx) g1) = none ∧ vxErr .vstx ((hbm0 id).trigOf (.vx .vstx) g1) = none ∧
    (buffer 2 0x100000 64).localTo 0 = false :=
  ⟨rfl, tries_g1 (by decide), by decide, by decide, by decide⟩

/-- A walker that is not bound, one that feeds, one that waits for its check and one that is at its end. -/
theorem wit_WalkerOperations_others : (local0 id).Runs (.swRewind 0 g1) (.sw 0 .rewind) g1 ∧ ((local0 id).me.walker 0).bound = false ∧
    let s := (bound0 4 id).onCore 0 (fun c => c.setWalker 0 { c.walker 0 with feeding := true, checkIn := some 2 })
    s.Runs (.swRewind 0 g1) (.sw 0 .rewind) g1 ∧ s.Runs (.swSkip 0 g1) (.sw 0 .skip) g1 ∧ s.Runs (.swFeedb 0 g1) (.sw 0 .feedb) g1 ∧
    (s.me.walker 0).feeding = true ∧ (s.me.walker 0).checkIn ≠ none ∧
    ((s.onCore 0 (fun c => c.setWalker 0 { c.walker 0 with exh := true })).me.walker 0).exh = true :=
  ⟨runs_g1 rfl (by decide) (by decide), by decide, runs_g1 rfl (by decide +kernel) (by decide +kernel),
    runs_g1 rfl (by decide +kernel) (by decide +kernel), runs_g1 rfl (by decide +kernel) (by decide +kernel), by decide +kernel⟩

/-- The sluice of core 0 is on. -/
def admitted (s : State) : State := s.onCore 0 (fun c => { c with sluice := { c.sluice with en := true } })

/-- Operations set out with the sluice of their core on: nothing stands in their way, and none of the core's requests is on its way to
the scheduler. -/
theorem wit_RemoteAccessesSetOut_open : (admitted (hbm0 id)).Runs (.rmRld g1) (.rm .rld) g1 ∧
    (admitted (hbm0 id)).Runs (.vxVld g1) (.vx .vld) g1 ∧ ((admitted (hbm0 id)).sluiceOf 0).en = true ∧ ((hbm0 id).sluiceOf 0).en = false ∧
    (admitted (hbm0 id)).tableWaits 0 = 0 ∧ (admitted (hbm0 id)).tableUsed 0 = 0 ∧ (admitted (hbm0 id)).me.kx[0]? = some none ∧
    (admitted (hbm0 id)).clusters = [] ∧ (admitted (hbm0 id)).asks = [] ∧ (hbm0 id).feature 3 = false ∧
    ({ hbm0 id with sec := { (hbm0 id).sec with accept := (hbm0 id).sec.accept.set 0 8 } }).feature 3 = true ∧
    ((hbm0 id).onPart 0 (fun p => { p with cslen := 4 })).freeSets 0 1 ≠ [] :=
  ⟨runs_g1 rfl (by decide) (by decide), runs_g1 rfl (by decide) (by decide), by decide, by decide, by decide +kernel⟩

theorem wit_LaunchesSetOut_open : (admitted (hbm0 (fun c => c.setG 1 0x400000000))).Runs (.sqLaunch g1) (.sq .launch) g1 ∧
    (admitted (hbm0 (fun c => c.setG 1 0x400000000))).Runs (.trRelaunch g1) (.tr .relaunch) g1 ∧
    (admitted (hbm0 id)).Runs (.wrArm g1) (.wr .arm) g1 ∧ (admitted (hbm0 id)).Runs (.sqDec g1) (.sq .dec) g1 :=
  ⟨runs_g1 rfl (by decide) (by decide), runs_g1 rfl (by decide) (by decide), runs_g1 rfl (by decide) (by decide),
    runs_g1 rfl (by decide) (by decide)⟩

/-! ### Issue -/

theorem wit_EncodingFaultStopsTheWord :
    (SWord.bad 0 0 none).issue.illegal = true ∧
    (SWord.one ⟨0, .g 1, .reserved 0x7FF, 0⟩).issue.moves.any (fun m => m.tgt == .reserved 0x7FF) = true ∧
    (SWord.one ⟨0, .reserved 0x1FF, .g 1, 0⟩).issue.moves.any (fun m => m.org == .reserved 0x1FF) = true ∧
    (SWord.b3 ⟨0, .g 1, .g 2, 0⟩ ⟨0, .g 1, .g 2, 0⟩ ⟨0, .g 1, .g 3, 0⟩ 0 none).issue.illegal = false ∧
    (run0 (fun c => { c with owe := some ⟨.transfer, none, 0⟩ })).me.owe ≠ none ∧ (Op.ctl .jmp).transfers = true ∧
    (run0 id).me.mode = .run ∧ (run0 id).me.hold = .none := by decide

theorem wit_FailedCheckStopsTheWord : (Instr.lsLdw g1).trigger? = some (.ls .ldw, g1) ∧ (run0 id).Tries (.ls .ldw) g1 ∧
    (trigger (.ls .ldw)).check (run0 id) ((run0 id).trigOf (.ls .ldw) g1) = some ⟨0x10, 0, 1⟩ :=
  ⟨rfl, tries_g1 (by decide), by decide⟩

theorem wit_WaitingWordStalls : (Instr.iaAdd 0 ⟨0, .g 1, 0b1001⟩).trigger? = some (.ia 0 .add, ⟨0, .g 1, 0b1001⟩) ∧
    sbSel 0b1001 = some 1 ∧ (run0 (fun c => c.setSb 1 4095)).me.rsb 1 = 4095 ∧
    ((bound0 4 (fun c => c.setWalker 1 { ({} : Walker) with bound := true, readyIn := 3 })).me.walker 1).stalls = true := by decide

theorem wit_GuardOfZeroDoesNothing : (Instr.iaAdd 0 ⟨1, .g 1, 0b1001⟩).trigger? = some (.ia 0 .add, ⟨1, .g 1, 0b1001⟩) ∧
    (run0 id).me.guardValue 1 = false ∧ (run0 id).me.rsb 1 ≠ 4095 ∧ (run0 id).me.owe = none := by decide

/-- A guard that is false, a register, a latch and q0 as targets, in the two long forms. -/
theorem wit_MovesWriteTheirTargets :
    (SWord.b3 ⟨0, .g 1, .g 2, 0⟩ ⟨1, .lit, .latch .ia0O, 0⟩ ⟨0, .port .fsX, .q 0, 0⟩ 2 (some 7)).issue.illegal = false ∧
    (SWord.bi ⟨0, 0x3FFFFFFFFFF, .g 3, 0⟩ ⟨0, .g 1, .q 2, 0⟩ 0 none).issue.illegal = false ∧
    (run0 id).me.mode = .run ∧ (run0 id).me.hold = .none ∧ (run0 id).me.owe = none := by decide

/-- Core 0 owes an effect, outside of a handler. -/
def owing (k : OweKind) (target : Option CodePtr) (arg : Word) : State := run0 (fun c => { c with owe := some ⟨k, target, arg⟩ })

theorem wit_OwedEffectsAreTaken : (owing .transfer (some ⟨64, 1⟩) 0).me.owe = some ⟨.transfer, some ⟨64, 1⟩, 0⟩ ∧
    (owing .trap none 15).me.shadow = none ∧ ((15 : Word).extractLsb' 0 8).toNat < 16 ∧ 16 ≤ ((16 : Word).extractLsb' 0 8).toNat := by
  decide

/-- Core 0 is in a handler, and owes the return from it. -/
def returning : State := run0 (fun c => { c with
  shadow := some (c.shadowOf)
  owe := some ⟨.rett, some ⟨64, 0⟩, 0⟩ })

theorem wit_OwedEffectsAreTaken_rett : returning.me.owe = some ⟨.rett, some ⟨64, 0⟩, 0⟩ ∧ returning.me.shadow.isSome = true ∧
    returning.me.stores = [] := by decide

/-! ### Control -/

theorem wit_TransfersOweADelayWord : (run0 id).Runs (.ctlJmp g1) (.ctl .jmp) g1 ∧ (run0 id).Runs (.ctlBra g1) (.ctl .bra) g1 ∧
    (run0 id).Runs (.ctlCall g1) (.ctl .call) g1 ∧ (run0 id).Runs (.ctlRet g1) (.ctl .ret) g1 ∧
    (run0 (fun c => operands .ctlO 0x1000000000000 0 { c with xb := 4096 })).Runs (.ctlJtab g1) (.ctl .jtab) g1 ∧
    (run0 id).Runs (.ctlBre g1) (.ctl .bre) g1 ∧ (run0 (fun c => c.setG 1 2)).Tries (.ctl .jmp) g1 ∧
    ((run0 (fun c => c.setG 1 2)).moved g1).toNat % 4 ≠ 0 :=
  ⟨runs_g1 rfl (by decide) (by decide), runs_g1 rfl (by decide) (by decide), runs_g1 rfl (by decide) (by decide),
    runs_g1 rfl (by decide) (by decide), runs_g1 rfl (by decide) (by decide), runs_g1 rfl (by decide) (by decide),
    tries_g1 (by decide), by decide⟩

/-- Core 0 is in a handler. -/
def handling : State := run0 (fun c => { c with shadow := some (c.shadowOf) })

theorem wit_SuspensionsAndTrapsAreOwed : (run0 id).Runs (.ctlYield g1) (.ctl .yield) g1 ∧ (run0 id).Runs (.ctlWait g1) (.ctl .wait) g1 ∧
    (run0 id).Runs (.ctlDone g1) (.ctl .done) g1 ∧ (run0 id).Runs (.ctlTrap g1) (.ctl .trap) g1 ∧
    (run0 id).Runs (.ctlBrk g1) (.ctl .brk) g1 ∧ handling.Runs (.ctlRett g1) (.ctl .rett) g1 ∧
    handling.Tries (.ctl .yield) g1 ∧ handling.me.shadow ≠ none ∧ (run0 id).Tries (.ctl .rett) g1 ∧
    (run0 (fun c => { c with vaway := 1 })).Tries (.ctl .yield) g1 ∧ (run0 (fun c => { c with vaway := 1 })).me.vaway ≠ 0 :=
  ⟨runs_g1 rfl (by decide) (by decide), runs_g1 rfl (by decide) (by decide), runs_g1 rfl (by decide) (by decide),
    runs_g1 rfl (by decide) (by decide), runs_g1 rfl (by decide) (by decide), runs_g1 rfl (by decide) (by decide),
    tries_g1 (by decide), by decide, tries_g1 (by decide), tries_g1 (by decide), by decide⟩

theorem wit_WaitsAndSettings : (run0 id).Runs (.ctlSbwait g1) (.ctl .sbwait) g1 ∧ (run0 id).Runs (.ctlDrain g1) (.ctl .drain) g1 ∧
    (run0 (fun c => c.setG 1 6)).Tries (.ctl .setrm) g1 ∧ (run0 (fun c => c.setG 1 0x41000)).Tries (.ctl .setxb) g1 ∧
    (run0 (fun c => c.setG 1 4)).Tries (.ctl .setovh) g1 ∧ ((run0 (fun c => c.setG 1 0x41000)).moved g1).toNat > 262144 :=
  ⟨runs_g1 rfl (by decide) (by decide), runs_g1 rfl (by decide) (by decide), tries_g1 (by decide), tries_g1 (by decide),
    tries_g1 (by decide), by decide⟩

theorem wit_WatchArmsItsSlot : (local0 (operands .ctlO (4 * 2 ^ 26 + 2 ^ 7) 33)).Runs (.ctlWatch g1) (.ctl .watch) g1 ∧
    (run0 id).Runs (.ctlWatch g1) (.ctl .watch) g1 ∧ (local0 (operands .ctlO (4 * 2 ^ 26 + 2 ^ 7) 33)).me.latchO (.ctl .watch) ≠ 0 :=
  ⟨runs_g1 rfl (by decide) (by decide), runs_g1 rfl (by decide) (by decide), by decide⟩

theorem wit_UnwatchDisarmsItsSlot : (Instr.ctlUnwatch g1).trigger? = some (.ctl .unwatch, g1) ∧ (run0 id).Tries (.ctl .unwatch) g1 ∧
    (run0 id).noReturn :=
  ⟨rfl, tries_g1 (by decide), noReturn_of (by decide)⟩

/-- The word's moves in the reverse of their roles. -/
theorem wit_OperandWritesComeFirst :
    let a : Move := ⟨0, .g 0, .latch .ia0O, 0⟩
    let b : Move := ⟨0, .g 1, .trig (.ia 0 .add), 0⟩
    let c : Move := ⟨0, .g 2, .g 1, 0⟩
    [c, b, a].Perm [a, b, c] ∧ (run0 id).me.mode = .run ∧ (run0 id).me.hold = .none ∧ (run0 id).noReturn :=
  ⟨by decide, by decide, by decide, noReturn_of (by decide)⟩

/-! ### States for the hypotheses of the statements about events

`focus` is the subject that the step gives the event. -/

/-- An operation of core 0 in flight, whose sequence number is 0. -/
def flying (op : Op) (phase : Phase) (t o : Word) : Flight :=
  { Flight.start 0 0 op t o 0 0 0 ⟨0, 0⟩ 0 Resident.none 0 0 with phase := phase }

/-- The state with a list of operations in flight. -/
def State.with_ (s : State) (fs : List Flight) : State := { s with flights := fs }

/-- A result due for `im.r`, and one behind it that is not due; a store that is due; core 0 in its handler's first word. -/
theorem wit_CoreBoundaryActions :
    let st : Stage := ⟨3, 0, 0, false, 0, .port 14 5⟩
    let c := (run0 (fun c => { c with stages := [st] })).core 0
    c.stages.filter Stage.due = [st] ∧ (run0 id).me.stages.filter Stage.due = [] ∧
    (run0 (fun c => { c with hold := .sbwait 1 3 })).me.hold = .sbwait 1 3 ∧
    (run0 (fun c => { c with hold := .drain 3 })).me.hold = .drain 3 := by decide

theorem wit_CoreBoundaryActions_store :
    let w : BitWrite := ⟨slotBase 0, 0xFF, 7⟩
    let k := (run0 (fun c => { c with stores := [⟨0, 0, 0, [w], []⟩] })).core 0
    k.stores.filter (fun x => x.left == 0) = [⟨0, 0, 0, [w], []⟩] ∧ k.shadow = none ∧ placeOf w.addr = .pad 0 0 := by decide

theorem wit_CoreBoundaryActions_trap :
    let d : TrapDue := ⟨9, 5, 0, ⟨4, 0⟩⟩
    let s := State.reset.onCore 0 (fun c => { c with mode := .trapDue d })
    s.me.mode = .trapDue d ∧ s.me.stops = [] ∧ (run0 (fun c => { c with stops := [boundaryStop 0x20 0 1] })).me.stops ≠ [] := by
  decide

/-- A stage that loads bytes of the scratchpad is due. -/
theorem wit_CoreBoundaryActions_load :
    let st : Stage := ⟨5, 0, 0, false, 0, .load (.bytes (slotBase 0) 8 false) 0 []⟩
    let k := (run0 (fun c => { c with stages := [st] })).core 0
    st ∈ k.stages ∧ st.left = 0 ∧ k.stores = [] ∧ k.shadow = none := by decide

/-- An operation of the scheduler's unit that is done, with a result or with a late fault. -/
theorem wit_ContinuationsComeAndGo_completion :
    let f := { flying (.sq .dec) .ready 0 0 with result := some 3 }
    let e := { flying (.sq .dec) .ready 0 0 with fault := some ⟨0x31, 0, 0⟩ }
    let s := (run0 (fun c => c.setRing 0 { ({} : RingEntry) with state := ringIssued })).with_ [f]
    s.flight? 0 0 = some f ∧ f.counted = true ∧ f.frame = none ∧ f.retry = false ∧ f.earliest ≤ s.me.cyc ∧ s.marks = [] ∧
    s.falls = [] ∧ s.spilled = [] ∧ s.hostq = [] ∧ (s.me.ringAt 0).seq = 0 ∧ (s.me.ringAt 0).state = ringIssued ∧
    e.fault = some ⟨0x31, 0, 0⟩ ∧ s.me.stops = [] := by decide +kernel

/-- A continuation with a record in HBM. -/
def resident : Resident := ⟨0x200000, 0, 0, 0, 0, 0xFFFFFFFF, none⟩

/-- Partition 0 with four TCBs at 0x10000, two templates at 0x20000, four futures at 0x30000 and eight records at 0x40000, in
cluster 0; template 0 has a fault area of one slot. -/
def tables (f : Core → Core) : State :=
  let block := 1 + 0x10000 * 2 ^ 128 + 4 * 2 ^ 192 + 0x20000 * 2 ^ 256 + 2 * 2 ^ 320 + 0x30000 * 2 ^ 384 + 4 * 2 ^ 448 +
    0x40000 * 2 ^ 512 + 8 * 2 ^ 576
  (((run0 f).onPart 0 (fun p => { p with pblock := BitVec.ofNat 1024 block })).writeBytes 0x20000 (leBytes 4 1)).writeBytes 0x20060 (leBytes 12 (0x300000 + 2 ^ 64))

/-- Core 0 stops. -/
def stopping (taken : Option (Nat × Word × Nat)) : State := (tables id).onCore 0 (fun c => { c with
  mode := .stopping (boundaryStop 0x20 0 1)
  res := some resident
  taken := taken })

/-- The stop is to be taken, and has been taken with a slot of the fault area free. -/
theorem wit_ContinuationsComeAndGo_stop :
    (stopping none).me.mode = .stopping (boundaryStop 0x20 0 1) ∧ (stopping none).me.taken = none ∧
    (stopping (some (0, 0, 0))).me.taken = some (0, 0, 0) ∧ (stopping (some (0, 0, 0))).stopReady 0 = true ∧
    (stopping (some (0, 0, 0))).freeFrame resident = some 0x300000 := by decide +kernel

theorem wit_ContinuationsComeAndGo_suspension :
    let s := State.reset.onCore 0 (fun c => { c with mode := .suspending .yield 0, res := some resident })
    s.me.mode = .suspending .yield 0 ∧ s.me.res = some resident ∧ s.me.stops = [] ∧ s.me.stores = [] ∧ s.ownFlights 0 = [] := by
  decide +kernel

/-- A continuation on the ready list of cluster 0, which core 0 may take. -/
def readyList (x : Ready) : State :=
  (State.reset.onCore 0 (fun c => { c with sluice := { c.sluice with en := true } })).onCluster 0 (fun c => { c with ready := [x] })

theorem wit_ContinuationsComeAndGo_start :
    (readyList ⟨0, 0x200000, none⟩).nextReady 0 = some ⟨0, 0x200000, none⟩ ∧
    (readyList ⟨0, 0x200000, none⟩).fld 0x200000 recFrame ≠ 1 := by decide +kernel

/-- A stopped continuation, whose frame stands in HBM. -/
def stopped (x : Ready) : State :=
  ((readyList x).setFld 0x200000 recFrame 1).onPart 0 (fun p => { p with stopped := [(0x200000, 0x300000)] })

theorem wit_ContinuationsComeAndGo_restore :
    (stopped ⟨0, 0x200000, none⟩).nextReady 0 = some ⟨0, 0x200000, none⟩ ∧
    (stopped ⟨0, 0x200000, none⟩).frameFor ⟨0, 0x200000, none⟩ = some 0x300000 ∧
    (stopped ⟨0, 0x200000, none⟩).ringRoom 0 0x300000 = true := by decide +kernel

theorem wit_ContinuationsComeAndGo_resume :
    let s := { (State.reset.setFld 0x200000 recFrame 1).setFld 0x200000 recState 4 with focus := { n := 0x200000 } }.onPart 0
      (fun p => { p with stopped := [(0x200000, 0x300000)] })
    tabFind s.focus.n (s.part (s.queue (s.fld s.focus.n recQueue)).part).stopped = some 0x300000 ∧
    s.fld s.focus.n recFrame = 1 ∧ s.fld s.focus.n recState = 4 ∧ s.queues = [] ∧ s.clusters = [] := by decide +kernel

/-- A copy of 2^16 cycles that the core waits for as it stops. -/
theorem wit_ContinuationsComeAndGo_retry :
    let f := flying (.vx .vld) .active 0 0
    let s := ((State.reset.onCore 0 (fun c => { c with
      mode := .stopping (boundaryStop 0x20 0 1), res := some resident, taken := some (1, 0, 0), cyc := 65536 })).with_ [f])
    s.retryDue 0 = true ∧ (s.ownFlights 0).filter (fun f => f.writesCore && !f.neverRetried) = [f] := by decide +kernel

theorem wit_ContinuationsComeAndGo_timed :
    let s := run0 (fun c => { c with
      hold := .drain 0
      timed := c.timed.set 0 ⟨0, ((⟨0, .g 1, .g 2, 0⟩ : Move).bits).extractLsb' 0 30, true⟩ })
    s.timedDue 0 = true ∧ s.me.hold ≠ .none ∧ s.timedChosen 0 [] 0 ≠ [] := by decide +kernel

/-- Walker 0 of core 0, as `f` makes it from a bound one of four elements. -/
def walking (f : Walker → Walker) : State := (bound0 4 id).onCore 0 (fun c => c.setWalker 0 (f (c.walker 0)))

theorem wit_WalkersAndMatrixEngineWork_walkers :
    ((walking (fun w => { w with checkIn := some 0 })).me.walker 0).checkIn = some 0 ∧
    (walking (fun w => { w with checkIn := some 0 })).walkerContents 0 ((walking id).me.walker 0) = none ∧
    ((walking id).me.walker 0).held = [] ∧ ((walking id).me.walker 0).exh = false ∧
    ((walking (fun w => { w with checkIn := some 0, desc := 0 })).walkerContents 0 { ((walking id).me.walker 0) with desc := 0 }).isSome ∧
    ((walking (fun w => { w with checkIn := some 0, held := [(false, 1)] })).me.walker 0).held = [(false, 1)] ∧
    ((walking (fun w => { w with readyIn := 2 })).me.walker 0).stalls = true := by decide +kernel

/-- Walker 0 feeds: from its buffer, from below XB and from a poisoned granule. -/
theorem wit_WalkersAndMatrixEngineWork_feeds :
    let s := walking (fun w => { w with feeding := true, feedLeft := 2 })
    let w := s.me.walker 0
    s.me.feedReady 0 = true ∧ s.focus.ecc = .clean ∧ s.me.xb.toNat ≤ s.walkerAddr w - slotBase 0 ∧
    s.poisoned? (s.walkerAddr w) w.width = none ∧ s.me.pendingStores = [] ∧
    ¬ (4096 : Word).toNat ≤ s.walkerAddr w - slotBase 0 ∧
    ({ s with poison := [slotBase 0 / 32] }.poisoned? (s.walkerAddr w) w.width).isSome = true := by decide +kernel

/-- The engine with INT8 operands and K = 4. -/
def engine (f : Mx → Mx) (g : Flight) : State :=
  (run0 (fun c => { c with cyc := 8, mx := f { Mx.reset with ecfg := 0x10000000311 } })).with_ [g]

theorem wit_WalkersAndMatrixEngineWork_next :
    ((engine id (flying (.mx .zero) .issued 0 0)).mxNext 0).isSome = true ∧
    ((engine id (flying (.mx .cfg) .issued 0x55 0)).mxNext 0).isSome = true ∧
    ((engine id (flying (.mx .rdacc) .issued 0 0)).mxNext 0).isSome = true ∧
    ((engine id (flying (.mx .stat) .issued 0 0)).mxNext 0).isSome = true ∧
    ((engine id (flying (.mx .mmaz) .issued 0 0)).mxNext 0).isSome = true := by decide +kernel

/-- An mma that has begun, with four k-vectors of either operand in its FIFOs, and one that has waited for long. -/
def mma (f : Mx → Mx) : State := engine f { flying (.mx .mma) .active 0 0 with born := 0 }

theorem wit_WalkersAndMatrixEngineWork_group :
    ((mma (fun m => { m with
      fifoA := List.replicate 256 1, fifoB := List.replicate 256 1, hvalid := true, hseq := 0 })).mxActive 0).isSome = true ∧
    (mma (fun m => { m with
      fifoA := List.replicate 256 1, fifoB := List.replicate 256 1, hvalid := true, hseq := 0 })).me.mxGroupReady = true ∧
    (mma (fun m => { m with hvalid := true, hseq := 0, stall := 0x100000 })).mxStalled 0 = true := by decide +kernel

/-- An operation of the handover engine whose change comes next. -/
def changing (op : CapOp) (t : Word) (f : Flight → Flight) : State :=
  (hbm0 id).with_ [f { flying (.cap op) .change t 0 with ca := some ⟨.whole, 0, 0, 0x3F, 0⟩ }]

theorem wit_DescriptorChanges :
    let s := changing .free 0 id
    let f := { flying (.cap .free) .change 0 0 with ca := some (⟨.whole, 0, 0, 0x3F, 0⟩ : Cap) }
    s.flight? 0 0 = some f ∧ f.phase = .change ∧ f.counted = true ∧ s.bufDesc 0 0 = some (buffer 2 0x100000 64) ∧
    s.descOf ⟨.whole, 0, 0, 0x3F, 0⟩ = some (buffer 2 0x100000 64) ∧ (buffer 2 0x100000 64).cls = 2 ∧
    (s.mailbox 0 0).bound = .unbound ∧ (s.mailbox 0 0).bound.held Resident.none = false := by decide

/-- Buffers of HBM lie in a pool of 64 KiB, and the table has room. -/
theorem wit_DescriptorChanges_alloc :
    let s := ((changing .alloc 0x30201 (fun f => { f with o := 64 })).onPart 0 (fun p => { p with
      hpool := 0x100000, hplen := 0x10000, btlen := 4 }))
    let f := { flying (.cap .alloc) .change 0x30201 64 with ca := some (⟨.whole, 0, 0, 0x3F, 0⟩ : Cap) }
    s.flight? 0 0 = some f ∧ (s.allocRange f).isSome = true ∧ (s.freeDesc 0).isSome = true ∧
    (changing .alloc 0x30201 id).freeDesc 0 = none := by decide +kernel

theorem wit_DescriptorChanges_mailbox :
    let s := (changing .recv 0 id).onMailbox 0 0 (fun m => { m with bound := .cont 0 0 })
    (s.mailbox 0 0).bound.held Resident.none = true ∧ (s.mailbox 0 0).queue = [] ∧
    (s.mailbox 0 0).bound = .cont Resident.none.record Resident.none.part := by decide

/-- A capability at the head of the mailbox that core 0's continuation holds. -/
def message : Msg := ⟨0, some 0, 0, 0, false, none, false, .cap ⟨.whole, 0, 0, 0x3F, 0⟩ 0 false false, none, none, none, none, []⟩

/-- Mailbox 0 of cluster 0 with a binding and a queue. -/
def boxed (b : Binding) (ms : List Msg) (s : State) : State := s.onMailbox 0 0 (fun m => { m with bound := b, queue := ms })

theorem wit_DescriptorChanges_head :
    let s := boxed (.cont 0 0) [message] (changing .recv 0 id)
    (s.mailbox 0 0).bound = .cont Resident.none.record Resident.none.part ∧ (s.mailbox 0 0).queue = [message] ∧
    message.pay = .cap ⟨.whole, 0, 0, 0x3F, 0⟩ 0 false false := by decide +kernel

/-- The split of a buffer in the scratchpad of core 0, whose descriptor has an error. -/
theorem wit_DescriptorChanges_error :
    let f := { flying (.cap .split) .change 0x10001 0 with ca := some (⟨.whole, 0, 0, 0x3F, 0⟩ : Cap) }
    let s := { (local0 id).with_ [f] with focus := { ecc := .uncorrectable } }
    s.flight? 0 0 = some f ∧ s.focus.ecc = .uncorrectable ∧ (⟨.whole, 0, 0, 0x3F, 0⟩ : Cap).owns = true ∧
    s.descOf ⟨.whole, 0, 0, 0x3F, 0⟩ = some (buffer 0 (slotBase 0) 0x4000) ∧ translated (0 : BitVec 3) = false := by decide +kernel

theorem wit_DescriptorChanges_send :
    let f := { flying (.cap .send) .change 0 0 with ca := some (⟨.whole, 0, 0, 0x3F, 0⟩ : Cap), index := 1 }
    f.index = 1 ∧ f.t.getLsbD 32 = false ∧ f.t.getLsbD 33 = false ∧ ((hbm0 id).with_ [f]).flight? 0 0 = some f := by decide

/-- An operation of the handover engine in one of its phases. -/
def handing (op : CapOp) (p : Phase) (t : Word) : Flight :=
  { flying (.cap op) p t 0 with ca := some ⟨.whole, 0, 0, 0x3F, 0⟩ }

theorem wit_HandoversProceed_phases :
    let f := handing .send .drain 0
    let s := (hbm0 id).with_ [f]
    s.flight? 0 0 = some f ∧ f.phase = .drain ∧ s.drained f = true ∧
    ((holding (buffer 2 0x100000 64) (fun c => { c with stores := [⟨0, 0, 0, [], [⟨⟨.whole, 0, 0, 0x3F, 0⟩, true, 0, 1⟩]⟩] })).with_ [{ f with order := 1 }]).drained
      { f with order := 1 } = false ∧
    (handing .send .snoop 0x200000000).phase = .snoop ∧ (handing .send .snoop 0x200000000).stalled = false ∧ s.focus.data ≠ 1 ∧
    (s.ports[s.focus.die]?).isSome = true ∧ (handing .send .snoop 0x200000000).snoopAt.toNat ≤ s.now.toNat := by decide +kernel

/-- A copy for mailbox 0 of cluster 0, which places it in the cluster's SRAM, where the buffer lies too. -/
def hauling (f : Haul → Haul) : State :=
  { (((holding (buffer 1 (sramBase 0) 32) id).onMailbox 0 0 (fun m => { m with bound := .cont 0 0, place := 16 })).onCluster 0 (fun c =>
      { c with cpool := 0x4 })).with_ [{ handing .send .copying 0 with index := 0 }] with
    hauls := [(0, f { agent := 0, goal := .mailbox 0, src := some ⟨.whole, 0, 0, 0x3F, 0⟩, desc := buffer 1 (sramBase 0) 32, place := none })] }

/-- Before it has a place, with one; with nothing read, a granule read, and everything written. -/
theorem wit_HandoversProceed_copy :
    let h (p : Option CopyTo) (ds : List (List Byte)) (n : Nat) : Haul → Haul := fun x => { x with place := p, data := ds, put := n }
    let there : CopyTo := .place (sramBase 0 + 2 * sramBank) 1
    let s (p : Option CopyTo) (ds : List (List Byte)) (n : Nat) : State := { hauling (h p ds n) with flights := [] }
    (tabFind 0 (s none [] 0).hauls).isSome = true ∧ (∀ x ∈ (s none [] 0).hauls, x.2.goes = true ∧ x.2.fault = none) ∧
    (∀ x ∈ (s (some there) [] 0).hauls, x.2.goes = true) ∧ (∀ x ∈ (s (some there) [List.replicate 32 7] 0).hauls, x.2.goes = true) ∧
    (∀ x ∈ (s (some there) (List.replicate 32 (List.replicate 32 7)) 32).hauls, x.2.goes = true) ∧
    ((s none [] 0).mailbox 0 0).bound.part? = some 0 ∧
    (s none [] 0).copyTo 0 ((s none [] 0).mailbox 0 0) 0 (buffer 1 (sramBase 0) 32) = there ∧
    placeOf (sramBase 0) = .sram 0 0 ∧ placeOf (sramBase 0 + 2 * sramBank) = .sram 0 (2 * sramBank) := by decide +kernel

/-- A subscription sets out for its source, with the sluice on or off, and for a mailbox that it does not hold. -/
def joining (on : Bool) : State :=
  let s := (boxed (.cont 0 0) [] ((hbm0 (fun c => { c with sluice := { c.sluice with en := on } })))).with_ [handing .sub .packets 0]
  { s with sec := { s.sec with accept := s.sec.accept.set 0 2 } }

theorem wit_HandoversProceed_packets :
    let f := handing .sub .packets 0
    let s := joining true
    s.flight? 0 0 = some f ∧ (f.subOf s).dev = s.dev ∧ (s.core 0).subs = [] ∧ (s.sluiceOf 0).en = true ∧
    ((joining false).sluiceOf 0).en = false ∧ s.feature 1 = true ∧
    (s.mailbox (agentCluster 0) (f.subOf s).mbox.toNat).bound.held f.res = true ∧
    (∀ r ∈ joinMarks 0 (s.subEnd (f.subOf s) 0), (s.cluster r.1).branchRoom (f.subOf s).dev (f.subOf s).core (f.subOf s).tag = true) ∧
    (hbm0 id).feature 1 = false ∧
    ((hbm0 id).mailbox (agentCluster 0) (f.subOf s).mbox.toNat).bound.held f.res = false := by decide +kernel

/-- Core 0 has a subscriber of its tag 0: mailbox 3 of cluster 0. -/
theorem wit_HandoversProceed_mcast :
    let f := handing .mcast .packets 0
    let s := (((hbm0 (fun c => { c with subs := [⟨0, 0, 0, 3, true⟩], sluice := { c.sluice with en := true } })).onCluster 0 (fun c => { c with
      branches := [⟨0, 0, 0, 0x20⟩] })).onMailbox 0 3 (fun m => { m with bound := .cont 0 0 })).with_ [f]
    s.flight? 0 0 = some f ∧ s.subscribers (agentCore 0) 0 = [3] ∧ s.subLinks (agentCore 0) 0 = [] ∧ s.mcastWaits f = false ∧
    s.sluicePasses 0 3 none false = true ∧ f.agent = 0 ∧ (buffer 2 0x100000 64).cls = 2 := by decide +kernel

theorem wit_HandoversProceed_message :
    let s := { (boxed (.cont 0 0) [] (hbm0 id)).with_ [handing .send .message 0] with msgs := [message] }
    s.msgs[s.focus.n]? = some message ∧ s.msgReady s.focus.n = true ∧ message.dev = none ∧ message.host = false ∧ message.peer = none ∧
    message.cmd = none ∧ message.haul = none ∧ s.flight? message.src 0 = some (handing .send .message 0) ∧
    (s.mailbox (mboxCluster message.mbox) (mboxIndex message.mbox)).bound.part? = some 0 := by decide +kernel

theorem wit_HandoversProceed_recall : (stopping none).me.mode = .stopping (boundaryStop 0x20 0 1) ∧
    (stopping none).windowsQuiet 0 = true := by decide +kernel

/-- A copy-like operation of core 0, from the buffer of k0 to that of k1, in one of its phases. -/
def copying (op : CpOp) (p : Phase) (t o : Word) : Flight :=
  { flying (.cp op) p t o with ca := some ⟨.whole, 0, 0, 0x3F, 0⟩, cb := some ⟨.whole, 0, 1, 0x3F, 0⟩ }

theorem wit_CopiesProceed_start :
    let f := copying .copy .issued 0x10000000000 0x10000000000
    let g := copying .copy .issued 0x10000000000 0x2210000000000
    let s := (halves id).with_ [f]
    s.flights.filter (fun g => g.agent == 0 && g.seq == 0) = [f] ∧ s.copyMayStart f = true ∧
    s.startErr f .bytes .bytes ⟨.whole, 0, 0, 0x3F, 0⟩ ⟨.whole, 0, 1, 0x3F, 0⟩ (buffer 2 0x100000 64) (buffer 2 0x100800 64) = none ∧
    (s.startErr g .int32 .int8 ⟨.whole, 0, 0, 0x3F, 0⟩ ⟨.whole, 0, 1, 0x3F, 0⟩ (buffer 2 0x100000 64) (buffer 2 0x100800 64)).isSome =
      true ∧ f.counted = true ∧ f.retry = false ∧ f.frame = none ∧ s.me.mode = .run ∧ s.me.stops = [] := by decide +kernel

/-- An operation of core 0, as `f` makes it, between two buffers in cluster 0's SRAM. -/
def inBanks (op : CpOp) (t o : Word) (f : Flight → Flight) : State :=
  (two (buffer 1 (sramBase 0) 64) (buffer 1 (sramBase 0 + sramBank) 64) (fun c => { c with sluice := { c.sluice with en := true } })).with_
    [f (copying op .active t o)]

theorem wit_CopiesProceed_piece :
    let f := copying .fill .active 0x10000000000 7
    let s := inBanks .fill 0x10000000000 7 id
    s.flights.filter (fun g => g.agent == 0 && g.seq == 0) = [f] ∧ f.open_ = 0 ∧ f.fault = none ∧ f.stream = none ∧ f.stage = 0 ∧
    s.hostq = [] ∧ f.pos < f.cpTotal s ∧ (s.sluiceOf 0).en = true ∧ s.tableWaits 0 = 0 ∧ s.tableUsed 0 < 4096 ∧
    s.copyBehind f (f.ca.orElse (fun _ => f.cb)) = false ∧ translated (1 : BitVec 3) = false ∧
    s.descOf ⟨.whole, 0, 1, 0x3F, 0⟩ = some (buffer 1 (sramBase 0 + sramBank) 64) ∧
    (let g := copying .copy .active 0x10000000000 0x10000000000
     (inBanks .copy 0x10000000000 0x10000000000 id).copyBehind g g.ca = false ∧ g.pos < g.cpTotal s) := by decide +kernel

/-- A piece that has been read is to be written; everything has been written; a gath has come to a row outside its source. -/
theorem wit_CopiesProceed_end :
    let f : Flight → Flight := fun f => { f with pos := 32, pieces := [⟨0, 32, 0, List.replicate 32 7, []⟩] }
    let s := inBanks .copy 0x10000000000 0x10000000000 f
    (s.flights.map (fun g => (g.pieces, s.copyBehind g g.cb))) = [([⟨0, 32, 0, List.replicate 32 7, []⟩], false)] ∧
    (let e := inBanks .fill 0x10000000000 7 (fun f => { f with pos := 32 })
     e.flights.map (fun g => (g.pieces, g.open_, decide (g.goal e ≤ g.pos), e.indexDue g)) = [([], 0, true, false)]) ∧
    (let b := inBanks .gath 0x1000100000000 0x10000000000 (fun f => { f with rows := [5000] })
     b.flights.map (fun g => (g.pieces, decide (g.goal b ≤ g.pos), b.indexDue g, (g.badRow b).isSome)) = [([], true, false, true)]) := by
  decide +kernel

theorem wit_CopiesProceed_signals :
    let f := copying .fill .signals 0x10000000000 7
    let s := inBanks .fill 0x10000000000 7 id
    f.phase = .signals ∧ f.open_ = 0 ∧ f.fault = none ∧ f.stage = 0 ∧ f.sigs = none ∧ (copying .fill .flush 0 0).phase = .flush ∧
    ({ f with sigs := some ⟨none, some 1, none, true⟩ }).sigs = some ⟨none, some 1, none, true⟩ ∧
    ({ f with sigs := some ⟨none, none, some 3, false⟩ }).sigs = some ⟨none, none, some 3, false⟩ ∧
    ({ f with sigs := some ⟨some (⟨.whole, 0, 1, 0x3F, 0⟩, 8), none, none, false⟩ }).sigs.isSome = true ∧
    s.barForeign 0 0 3 = false ∧ s.ordWaits f = false ∧ s.hostq = [] ∧
    s.descOf ⟨.whole, 0, 1, 0x3F, 0⟩ = some (buffer 1 (sramBase 0 + sramBank) 64) := by decide +kernel

/-- A request of core 0's operation 0 for the buffer of descriptor 0. -/
def asking (cls : BitVec 3) (acc : Access) : Req where
  src := .op 0 0
  path := 5
  part := 0
  desc := 0
  cls := cls
  off := 0
  va := acc.addr
  xpart := 0
  rm := 0
  xRead := false
  xWrite := false
  dev := 0
  core := 0
  nc := false
  home := 0
  kreg := none
  acc := acc

/-- The operation that waits for the answer. -/
def waiting : Flight := { flying (.rm .rld) .active 0 0 with open_ := 1 }

/-- A request stands at cluster 0's crossbar. -/
def crossing (acc : Access) : State := ((hbm0 id).onCluster 0 (fun c => { c with xbar := [asking 1 acc] })).with_ [waiting]

theorem wit_MemoriesServe_crossbar :
    (crossing (.read (sramBase 0) 32 0)).focus.ecc = .clean ∧
    (crossing (.read (sramBase 0) 32 0)).pickReq (sramUnit 0) .access 0 = some 0 ∧
    (crossing (.read (sramBase 0) 32 0)).belowXb (asking 1 (.read (sramBase 0) 32 0)) false (sramBase 0) = none ∧
    (crossing (.read (sramBase 0) 32 0)).readPoison (asking 1 (.read (sramBase 0) 32 0)) (sramBase 0) 32 = none ∧
    (crossing (.write (sramBase 0) [1] [])).pickReq (sramUnit 0) .access 0 = some 0 ∧
    (crossing (.write (sramBase 0) [1] [])).belowXb (asking 1 (.write (sramBase 0) [1] [])) true (sramBase 0) = none ∧
    (crossing (.acc (sramBase 0) 0 0 1 true false)).pickReq (sramUnit 0) .apply 0 = some 0 ∧
    (crossing (.acc (sramBase 0) 0 0 1 true false)).queueAt (sramUnit 0) = [asking 1 (.acc (sramBase 0) 0 0 1 true false)] ∧
    (crossing (.acc (sramBase 0) 0 0 1 true false)).flight? 0 0 = some waiting := by decide +kernel

/-- A batch of the buffer is open, with three markers to come. -/
def batching (acc : Access) : State := { crossing acc with batches := [⟨0, 0, sramUnit 0, 3, none, []⟩] }

theorem wit_MemoriesServe_batch :
    (batching (.acc (sramBase 0) 0 0 1 false true)).pickReq (sramUnit 0) .hold 0 = some 0 ∧
    (batching (.acc (sramBase 0) 0 0 1 false true)).batchOf 0 0 = some ⟨0, 0, sramUnit 0, 3, none, []⟩ ∧
    (batching (.acc (sramBase 0) 0 0 1 false true)).heldAt (sramUnit 0) < 8192 ∧
    (batching (.batchClose (sramBase 0) false)).pickReq (sramUnit 0) .close 0 = some 0 ∧
    (batching (.batchClose (sramBase 0) true)).pickReq (sramUnit 0) .close 0 = some 0 := by decide +kernel

/-- Requests at the port of core 0's scratchpad, and at the slice of die 0. -/
theorem wit_MemoriesServe_others :
    let r := asking 0 (.read (slotBase 0) 32 0)
    let q := asking 2 (.read 0x100000 32 0)
    ((local0 (fun c => { c with port := [r] })).with_ [waiting]).pickReq 0 .access 0 = some 0 ∧
    ({ (hbm0 id).with_ [waiting] with llc := [(0, [q])] }).pickReq (sliceUnit 0) .access 0 = some 0 ∧ placeOf (slotBase 0) = .pad 0 0 ∧
    placeOf 0x100000 = .hbm := by decide +kernel

/-- Page tables that map the first 256 MiB of partition 0 onto themselves, in cluster 0, where a request waits for a walk. -/
def mapped (r : Req) : State :=
  (((({ hbm0 id with lines := [⟨0, none, 0x2000, 0, 0, 0xF, 0⟩] }).writeBytes 0x80000 (leBytes 8 0x88001)).writeBytes 0x88000
    (leBytes 8 0x90001)).writeBytes 0x90000 (leBytes 8 11)).onCluster 0 (fun c => { c with
      xbase := c.xbase.set 0 0x80001
      walks := [r] })

/-- The read that the walk waits for. -/
def wanted : Req := asking 2 (.read 0x100000 32 0)

/-- A translation of the first 256 MiB, whose leaf allows writes or not. -/
def leaf0 (wr : Bool) : Xlate := ⟨0, 0, 2 ^ 28, 0, 0, 0, wr, false⟩

theorem wit_TranslationUnitsWork_walk :
    pickWalk ((mapped wanted).cluster 0).walks 0 = some 0 ∧ ((mapped wanted).cluster 0).walks[0]? = some wanted ∧
    (mapped wanted).heldXlate wanted = none ∧ ((mapped wanted).cluster 0).walking = [] ∧
    ((mapped wanted).cluster 0).xbase[0].getLsbD 0 = true ∧ ((mapped wanted).with_ [waiting]).reqDead wanted = false ∧
    (mapped wanted).walk 0 0 0x100000 = .ok (leaf0 true) := by decide +kernel

/-- The capability register holds the translation of a read, and of a write that its leaf forbids. -/
theorem wit_TranslationUnitsWork_held :
    let s (x : Xlate) : State := (mapped { wanted with kreg := some 0 }).onCore 0 (fun c => { c with kx := c.kx.set 0 (some x) })
    (s (leaf0 true)).heldXlate { wanted with kreg := some 0 } = some (leaf0 true) ∧ (leaf0 true).allows 2 false = true ∧
    (s (leaf0 false)).heldXlate { wanted with kreg := some 0, acc := .write 0x100000 [1] [] } = some (leaf0 false) ∧
    (leaf0 false).allows 2 true = false ∧ ({ waiting with open_ := 2 }).open_ = 2 := by decide +kernel

/-- A slice is to read an entry of a walk: a pointer of level 1 and a leaf of level 3. -/
def walkingAt (level table : Nat) : State :=
  let w : Walk := ⟨0, 0, 16, level, table, [], 0⟩
  let r : Req := { asking 2 (.read table 8 0) with src := .walk 0 0 }
  { (mapped wanted).onCluster 0 (fun c => { c with walking := [w], walkNext := 1 }) with llc := [(0, [r])] }

theorem wit_TranslationUnitsWork_entry :
    (walkingAt 1 0x80000).pickReq (sliceUnit 0) .access 0 = some 0 ∧ (walkingAt 3 0x90000).pickReq (sliceUnit 0) .access 0 = some 0 ∧
    placeOf 0x80000 = .hbm ∧ (walkingAt 1 0x80000).poisoned? 0x80000 8 = none ∧
    (let e := leNat ((walkingAt 1 0x80000).readBytes 0x80000 8)
     pteV e = true ∧ pteLeaf e = false ∧ pointerBad 1 e = false) ∧
    (let e := leNat ((walkingAt 3 0x90000).readBytes 0x90000 8)
     pteV e = true ∧ pteLeaf e = true ∧ leafBad 3 e = false ∧ pteCh e = false) := by decide +kernel

/-- An invalidation of one page of partition 0 is over while a walk of that page goes on. -/
theorem wit_TranslationUnitsWork_invalidation :
    let k := ({ (walkingAt 1 0x80000).cluster 0 with inval := some ⟨0, 0, 16⟩ } : Cluster)
    k.inval = some ⟨0, 0, 16⟩ ∧ (k.walking.map (·.id)).Nodup ∧ (∀ w ∈ k.walking, w.id < k.walkNext) ∧
    (∀ w ∈ k.walking, (⟨0, 0, 16⟩ : Inval).restarts w = true) ∧ k.xbase[0].getLsbD 0 = true := by decide +kernel

theorem wit_TranslationUnitsWork_line :
    (mapped wanted).lines.find? (fun x => x.die == 0 && x.num == 0x100000 / 128) = some ⟨0, none, 0x2000, 0, 0, 0xF, 0⟩ ∧
    ({ data := 1 } : Focus).data = 1 ∧ (({ } : Cluster).inval = none) := by decide +kernel

/-- A TCB of partition 0 with its first words; queue 0 is partition 0's. -/
def tcbState0 (bits : Nat) (us : List Work) : State :=
  (((tables (fun c => { c with mode := .idle, sluice := { c.sluice with en := true } })).writeBytes 0x10000 (leBytes 16 bits)).onQueue 0
    (fun q => { q with en := true, units := us }))

theorem wit_SchedulerWorks_again :
    let s := tcbState0 0 [.again 0x40000 0 none]
    (s.cluster 0).ready = [] ∧ (earliestQueue (s.candidates 0)).isSome = true ∧
    s.eligible 0 0 (.again 0x40000 0 none) = true ∧ s.queue 0 = { s.queue 0 with en := true } := by decide +kernel

/-- A launch of one item of template 0, ready in queue 0. -/
theorem wit_SchedulerWorks_groups :
    let s := ((tcbState0 (1 + 2 * 16 + 0xFFFFFFFF * 2 ^ 96) [.groups 0]).writeBytes 0x20020 [1]).writeBytes 0x20028 (leBytes 8 1)
    let s := s.onPart 0 (fun p => { p with cslen := 4 })
    (s.tmplAt 0 (s.tcb 0 0 tcbTmpl)) = some 0x20000 ∧ s.tcb 0 0 tcbKind = 1 ∧ s.tcb 0 0 tcbState = 2 ∧
    s.eligible 0 0 (.groups 0) = true ∧ (s.nextGroup 0 0 0x20000).isSome = true ∧ (earliestQueue (s.candidates 0)).isSome = true := by
  decide +kernel

/-- A request of core 1's operation. -/
def asked (a : Ask) : Request := ⟨a, 0, 1, none, 0, 0⟩

theorem wit_SchedulerWorks_dec :
    let s := { tcbState0 (1 + 1 * 16 + 2 * 2 ^ 16) [] with asks := [asked (.dec 0)] }
    pickAsk s.asks .dec 0 = some 0 ∧ (0 : BitVec 32).toNat < (s.part 0).tcbLen ∧ s.tcb 0 0 tcbKind = 1 ∧ s.tcb 0 0 tcbState = 1 ∧
    s.tcb 0 0 tcbCount ≠ 0 ∧ s.tcbAt 0 0 = 0x10000 := by decide +kernel

theorem wit_SchedulerWorks_fill :
    let s := { (tcbState0 0 []).setFld 0x30000 futAlloc 1 with asks := [asked (.fill 0 7)] }
    pickAsk s.asks .fill 0 = some 0 ∧ (0 : BitVec 32).toNat < (s.part 0).futLen ∧ s.futAt 0 0 = 0x30000 ∧
    s.fld 0x30000 futAlloc = 1 ∧ s.fld 0x30000 futFilled = 0 ∧ s.waitersOf 0 0 0 0 = [] ∧
    (s.addWaiter 0 0 0 0 0x40000).waitersOf 0 0 0 0 = [⟨0, 0, 0, 0, 0x40000, 0⟩] := by decide +kernel

theorem wit_SchedulerWorks_weir :
    let s := { (run0 id).setBar 0 0 (armedBar 3 64 0 0 0 0) with asks := [asked (.arrive 0 2), asked (.bytes 0 32)] }
    pickAsk s.asks .arrive 0 = some 0 ∧ barArmed (s.bar 0 0) = true ∧ 2 ≤ barCount (s.bar 0 0) ∧ 32 ≤ barBytes (s.bar 0 0) ∧
    pickAsk [asked (.bytes 0 32)] .bytes 0 = some 0 := by decide +kernel

/-- A query stands among the requests. -/
theorem wit_SchedulerWorks_query :
    let f := flying (.wr .query) .request 0 0
    let s := { (run0 id).with_ [f] with asks := [⟨.query 0, 0, 0, some 0, 0, 0⟩] }
    pickAsk s.asks .arrive 0 = some 0 ∧ s.flight? 0 0 = some f := by decide +kernel

theorem wit_SchedulerWorks_finish :
    let s := { tcbState0 (2 + 3 * 16) [] with fins := [(0, 0)] }
    ((s.fins[s.focus.n]?).orElse (fun _ => s.fins.head?)) = some (0, 0) ∧ s.launchTrace 0 0 = none ∧ s.tcb 0 0 tcbKind ≠ 0 ∧
    tabFind 0 (s.part 0).jobs = none := by decide +kernel

/-- The bytes of an HBM range are plain. -/
theorem plain_of_hbm {a n : Nat} (h : a + n ≤ 0xC000000000) : plainRange a n := by
  intro j hj
  refine Or.inl ?_
  unfold placeOf
  rw [if_pos (by omega)]

/-- A gang switch that takes partition 0 out, whose cluster is cluster 0 and whose spill area is at 2^32. -/
def switching (phase : GangPhase) (left : List Nat) : State :=
  { (State.reset.onPart 0 (fun p => { p with pblock := BitVec.ofNat 1024 (1 + 2 ^ 32 * 2 ^ 640) })) with
    gang := some ⟨0, 1, true, 4, 0, phase, [0], left⟩ }

theorem wit_GangSwitchProceeds_posted :
    (switching .posted []).gang = some ⟨0, 1, true, 4, 0, .posted, [0], []⟩ ∧ (0 : Word).toNat ≤ (switching .posted []).now.toNat ∧
    ((switching .posted []).part 0).out = false ∧ (switching (.window 0) []).gang = some ⟨0, 1, true, 4, 0, .window 0, [0], []⟩ := by
  decide +kernel

theorem wit_GangSwitchProceeds_image :
    let s := switching .saving [0]
    s.focus.core = 0 ∧ isCompute 0 = true ∧ [0].contains 0 = true ∧ s.imageReady 0 = true ∧ imageAt (s.part 0).spill 0 = 0x101801000 :=
  by decide +kernel

/-- The image lies in HBM. -/
theorem wit_GangSwitchProceeds_hbm : ∀ j, j < 0xA0000 → placeOf (0x101801000 + j) = .hbm := by
  intro j hj
  unfold placeOf
  rw [if_pos (by omega)]

theorem wit_GangSwitchProceeds_restore :
    (switching .saving []).outWritten ⟨0, 1, true, 4, 0, .saving, [0], []⟩ = true ∧ ((switching .saving []).part 0).out = false := by
  decide +kernel

/-- A mark has fallen out. -/
def fallen : FallOut := ⟨0, 0, 0, 0, 0, .mark ⟨0, 0, 0, 0, 0, 0, 0, none⟩⟩

theorem wit_GangSwitchProceeds_spill :
    let s := { switching .saving [] with falls := [fallen] }
    s.falls.head? = some fallen ∧ (s.spilled.filter (fun f => f.part == 0)).length < 65536 ∧ (s.part 0).spill = 2 ^ 32 := by decide +kernel

theorem wit_GangSwitchProceeds_area : plainRange (2 ^ 32) 0x1001000 := plain_of_hbm (by decide)

/-- A trace buffer of partition 0 at 0x100000, of one block and a slot of 8 tiles. -/
def traceMap : TraceMap := ⟨0x100000, 0x4000, [⟨0, 0x100000, 0x4000, 0x100000, 0, 0, true, false⟩], []⟩

theorem traceMap_pa (o : Nat) (h : o < 0x4000) : traceMap.pa o = some (0x100000 + o) := by
  simp [TraceMap.pa, traceMap, List.find?_cons]
  split
  · exact ⟨_, rfl, by simp⟩
  · rename_i e
    have := of_decide_eq_false e
    omega

/-- Core 0's continuation records into the trace; its cluster has a block whose continuations have retired, and a mark is on its way. -/
def traced : State :=
  let s := ((State.reset.onCore 0 (fun c => { c with res := some { resident with trace := some ⟨0, 0⟩ }, ranges := [⟨0, true, 0, 1⟩] })).onPart 0
    (fun p => { p with traces := [(0, traceMap)] })).onCluster 0 (fun c => { c with blocks := [⟨0, 0, 0, 0, false, [⟨0, true, 0, 1⟩]⟩] })
  let s := s.setTraceField traceMap 1024 32 8
  let s := s.setHdr traceMap hdrDirty 0x1000
  { s with marks := [⟨0, 0, 0, 0, 7, 0, 0, none⟩] }

theorem wit_TracesProceed_flush : ∃ r, (traced.core traced.focus.core).res = some r ∧ r.trace = some ⟨0, 0⟩ := by
  refine ⟨{ resident with trace := some ⟨0, 0⟩ }, ?_⟩
  decide +kernel

theorem wit_TracesProceed_close :
    (traced.cluster 0).blocks.find? (fun b => b.live == 0) = some ⟨0, 0, 0, 0, false, [⟨0, true, 0, 1⟩]⟩ ∧
    traced.trace? 0 0 = some traceMap ∧ recordOff 0 + 256 ≤ traceMap.len ∧
    (∀ o, o < traceMap.len → traceMap.pa o = some (0x100000 + o)) ∧ plainRange 0x100000 traceMap.len :=
  ⟨by decide +kernel, by decide +kernel, by decide, traceMap_pa, plain_of_hbm (by decide)⟩

theorem wit_TracesProceed_mark :
    traced.marks = [⟨0, 0, 0, 0, 7, 0, 0, none⟩] ∧ traced.hdr traceMap (slotNt 0) = 8 ∧
    traced.bitmapOff traceMap 0 (traced.hdr traceMap hdrCur) = 0x1000 ∧ 0x1000 + bankBytes 8 ≤ traceMap.len := by decide +kernel

/-- A relaunch of the trace buffer's capability is at its snapshot point. -/
def relaunching (s : State) : State :=
  (s.onPart 0 (fun p => { p with
    bufs := [(0, buffer 2 0x100000 512)]
    pblock := BitVec.ofNat 1024 (1 + 0x10000 * 2 ^ 128 + 4 * 2 ^ 192 + 0x20000 * 2 ^ 256 + 2 * 2 ^ 320)
    sets := [(0, (Vector.replicate 32 KReg.empty).set 0 (.cap ⟨.whole, 0, 0, 0x3F, 0⟩))] })).with_
      [{ flying (.tr .relaunch) .issued 0 0 with ca := some ⟨.whole, 0, 0, 0x3F, 0⟩, pos := 0 }]

/-- The trace is not live. -/
theorem wit_TracesProceed_refused :
    let f := { flying (.tr .relaunch) .issued 0 0 with ca := some (⟨.whole, 0, 0, 0x3F, 0⟩ : Cap), pos := 0 }
    let s := relaunching traced
    let s := { s with marks := [] }
    let r : Relaunch := ⟨0, ⟨.whole, 0, 0, 0x3F, 0⟩, 0, 0, none, []⟩
    s.nextSnapshot s.focus.n = some f ∧ f.pos ≠ noSet ∧ s.flight? f.agent f.seq = some f ∧
    s.bufDesc f.res.part 0 = some (buffer 2 0x100000 512) ∧
    s.relaunchReason r (s.traceIn 0 0 (buffer 2 0x100000 512)) = 1 := by decide +kernel

/-- The relaunch is accepted: the trace is live, and was recorded of template 0, whose digest it holds. -/
theorem wit_TracesProceed_relaunch :
    let s := relaunching ((traced.writeBytes 0x20000 (leBytes 4 0x401)).writeBytes 0x20180 [0])
    let m := traceMap
    let s := s.setTraceField m 0 256 (s.tmplDigest 0x20000)
    let s := s.setHdr m hdrLive 1
    let s := { s with marks := [], sec := { s.sec with accept := s.sec.accept.set 0 15 } }
    let r : Relaunch := ⟨0, ⟨.whole, 0, 0, 0x3F, 0⟩, 0, 0, none, []⟩
    s.relaunchReason r m = 0 ∧ (s.queue r.queue).part = r.part ∧ s.freeTcb 0 = some 0 ∧
    s.tmplAt 0 (s.hdr m hdrTmpl) = some 0x20000 ∧ s.traceIn 0 0 (buffer 2 0x100000 512) = m ∧
    ((s.newRelaunch r 0 0 (s.relaunchBlocks m)).makeSlices 0 0 0x20000 (s.relaunchSlots r)).isSome = true := by decide +kernel

/-- Link 0 with a job key waits for SEQ 4 of device 1. -/
def keyed : Link := { state := 3, key := some (5, 7), rxSeq := 4, peerDev := 1, rxact := 0xFF }

/-- The state with link 0, and a slot's beats received, as a transmitter puts a flit on the lanes. -/
def linked (k : Link) (raw : BitVec 2304) : State := { State.reset with
  links := [(0, k)]
  focus := { beats := (stripeFlit k.rxact k.rxPos raw).map (fun bs => bs.map some) } }

/-- What the receiver of `LinksRun` puts together is the flit. -/
theorem linked_flit (k : Link) (raw : BitVec 2304) (h : lanesIn k.rxact ≠ []) (hq : k.inq = []) :
    (((linked k raw).settleStripe 0).link 0).assemble (linked k raw).focus.beats = ⟨raw, false⟩ ∧
    ((linked k raw).settleStripe 0).link 0 = k ∧ (linked k raw).link 0 = k := by
  have hl : (linked k raw).link 0 = k := rfl
  have hs : (linked k raw).settleStripe 0 = linked k raw := by
    unfold State.settleStripe
    rw [hl, hq]
    rfl
  rw [hs, hl]
  exact ⟨assemble_stripeFlit k h raw, rfl, rfl⟩

/-- The head of a flit of a kind with SEQ 4, of stream 9. -/
def headOf (kind : BitVec 4) : BitVec 96 := flitHead 4 0 0 kind false 0 9 0

/-- A flit as the peer seals a payload. -/
def sealed (kind : BitVec 4) (x : BitVec 2048) : Flit :=
  let c := gcmSeal 5 (flitIv 7 1 0 0 4) (flitAad (headOf kind)) x
  ⟨flitOf (headOf kind) c.1 c.2, false⟩

/-- A flit that its sender has made is sound, and holds what it has been made of. -/
theorem made_sound {head : BitVec 96} {x : BitVec 2048} {tag : BitVec 128} (h : head.extractLsb' 40 4 ≤ 3)
    (hc : head.extractLsb' 45 3 ≤ 4) :
    flitSound ⟨flitOf head x tag, false⟩ = true := by
  have h0 : flitField ⟨flitOf head x tag, false⟩ 0 96 = head := flitOf_head ..
  have hc' : flitCls ⟨flitOf head x tag, false⟩ = head.extractLsb' 45 3 := flitOf_field _ _ _ _ _ (by decide)
  have hk : flitKind ⟨flitOf head x tag, false⟩ = head.extractLsb' 40 4 := flitOf_field _ _ _ _ _ (by decide)
  have hx : flitField ⟨flitOf head x tag, false⟩ 96 32 = crc32 (imageBytes head ++ imageBytes x) := flitOf_crc ..
  have hp : flitField ⟨flitOf head x tag, false⟩ 256 2048 = x := flitOf_payload ..
  unfold flitSound
  rw [hk, h0, hc', hx, hp]
  have h' : (head.extractLsb' 40 4).toNat ≤ 3 := h
  have hc'' : (head.extractLsb' 45 3).toNat ≤ 4 := hc
  rw [decide_eq_true h', decide_eq_true hc'']
  simp

theorem headOf_fields (kind : BitVec 4) : (headOf kind).extractLsb' 40 4 = kind ∧ (headOf kind).extractLsb' 0 16 = 4 ∧
    (headOf kind).extractLsb' 45 3 ≤ 4 := by
  revert kind
  decide

/-- A sealed flit is sound, its SEQ is the one waited for, and its payload passes. -/
theorem sealed_passes (kind : BitVec 4) (x : BitVec 2048) (h : kind ≤ 3) :
    flitSound (sealed kind x) = true ∧ flitField (sealed kind x) 0 16 = keyed.rxSeq ∧ keyed.payload (sealed kind x) = .ok x ∧
    flitKind (sealed kind x) = kind := by
  obtain ⟨h1, h2, h3⟩ := headOf_fields kind
  have hs : flitField (sealed kind x) 0 16 = 4 := (flitOf_field _ _ _ _ _ (by decide)).trans h2
  have h0 : flitField (sealed kind x) 0 96 = headOf kind := flitOf_head ..
  have ht : flitField (sealed kind x) 128 128 = _ := flitOf_tag ..
  have hp : flitField (sealed kind x) 256 2048 = _ := flitOf_payload ..
  refine ⟨made_sound (by rw [h1]; exact h) h3, hs, ?_, (flitOf_field _ _ _ _ _ (by decide)).trans h1⟩
  simp only [Link.payload, keyed, hs, h0, ht, hp, gcmOpen_gcmSeal]

/-- A packet that opens a stream, alone in its flit. -/
def opening : BitVec 2048 := 12 + 7 * 2 ^ 8

theorem wit_LinksRun_packet : keyed.runs = true ∧ flitSound (sealed 1 opening) = true ∧
    flitField (sealed 1 opening) 0 16 = keyed.rxSeq ∧ keyed.payload (sealed 1 opening) = .ok opening ∧
    controlOk (sealed 1 opening) opening = true ∧ flitKind (sealed 1 opening) = 1 ∧
    packetsOf 8 (imageBytes opening) = [Packet.ofBits (BitVec.ofNat 256 (12 + 7 * 2 ^ 8)) ((imageBytes opening).drop 32)] ∧
    (Packet.ofBits (BitVec.ofNat 256 (12 + 7 * 2 ^ 8)) ((imageBytes opening).drop 32)).type = 12 ∧
    (Packet.ofBits (BitVec.ofNat 256 (12 + 7 * 2 ^ 8)) ((imageBytes opening).drop 32)).ddev = State.reset.dev ∧
    keyed.inq = [] ∧ lanesIn keyed.rxact ≠ [] := by
  obtain ⟨h1, h2, h3, h4⟩ := sealed_passes 1 opening (by decide)
  refine ⟨by decide, h1, h2, h3, ?_, h4, by decide +kernel, by decide +kernel, by decide +kernel, rfl, by decide⟩
  unfold controlOk
  rw [h4]
  rfl

theorem wit_LinksRun_stream : keyed.runs = true ∧ flitSound (sealed 2 0) = true ∧ flitField (sealed 2 0) 0 16 = keyed.rxSeq ∧
    keyed.payload (sealed 2 0) = .ok 0 ∧ controlOk (sealed 2 0) 0 = true ∧ flitKind (sealed 2 0) = 2 := by
  obtain ⟨h1, h2, h3, h4⟩ := sealed_passes 2 0 (by decide)
  refine ⟨by decide, h1, h2, h3, ?_, h4⟩
  unfold controlOk
  rw [h4]
  rfl

/-- A tag with a bit changed does not pass. -/
theorem gcmOpen_other {key : BitVec 256} {iv aad : BitVec 96} {b x : BitVec 2048} {t : BitVec 128}
    (h : gcmOpen key iv aad b t = some x) : gcmOpen key iv aad b (t ^^^ 1) = none := by
  simp only [gcmOpen] at h ⊢
  split at h
  · rename_i e
    rw [e, if_neg]
    intro hl
    have hn := congrArg leNat hl
    rw [leNat_leBytes, leNat_leBytes, show (256 : Nat) ^ 16 = 2 ^ 128 from rfl, Nat.mod_eq_of_lt t.isLt, Nat.mod_eq_of_lt (t ^^^ 1).isLt] at hn
    have hb := congrArg (fun y => t ^^^ y) (BitVec.eq_of_toNat_eq hn)
    simp at hb
  · cases h

/-- A flit whose tag fails. -/
theorem wit_LinksRun_tag : ∃ f : Flit, flitSound f = true ∧ flitKind f ≠ 0 ∧ flitField f 0 16 = keyed.rxSeq ∧
    keyed.payload f = .error true := by
  obtain ⟨h1, h2, h3⟩ := headOf_fields 2
  obtain ⟨b, t, ho⟩ : ∃ b t, gcmOpen 5 (flitIv 7 1 0 0 4) (flitAad (headOf 2)) b t = some 0 := ⟨_, _, gcmOpen_gcmSeal ..⟩
  have hs : flitField ⟨flitOf (headOf 2) b (t ^^^ 1), false⟩ 0 16 = 4 := (flitOf_field _ _ _ _ _ (by decide)).trans h2
  have hk : flitKind ⟨flitOf (headOf 2) b (t ^^^ 1), false⟩ = 2 := (flitOf_field _ _ _ _ _ (by decide)).trans h1
  have h0 : flitField ⟨flitOf (headOf 2) b (t ^^^ 1), false⟩ 0 96 = headOf 2 := flitOf_head ..
  have ht : flitField ⟨flitOf (headOf 2) b (t ^^^ 1), false⟩ 128 128 = t ^^^ 1 := flitOf_tag ..
  have hp : flitField ⟨flitOf (headOf 2) b (t ^^^ 1), false⟩ 256 2048 = b := flitOf_payload ..
  refine ⟨⟨flitOf (headOf 2) b (t ^^^ 1), false⟩, made_sound (by rw [h1]; decide) h3, by rw [hk]; decide, hs, ?_⟩
  simp only [Link.payload, keyed, hs, h0, ht, hp, gcmOpen_other ho]

/-- A control flit that says LANEUP, on a link without a key. -/
theorem wit_LinksRun_control :
    let k : Link := { state := 2, rxSeq := 4 }
    let f : Flit := ⟨flitOf (headOf 3) 3 0, false⟩
    k.runs = true ∧ flitSound f = true ∧ flitField f 0 16 = k.rxSeq ∧ k.payload f = .ok 3 ∧ controlOk f 3 = true ∧ flitKind f = 3 := by
  have hk : flitKind ⟨flitOf (headOf 3) 3 0, false⟩ = 3 := (flitOf_field _ _ _ _ _ (by decide)).trans (headOf_fields 3).1
  have hp : flitField ⟨flitOf (headOf 3) 3 0, false⟩ 256 2048 = 3 := flitOf_payload ..
  refine ⟨by decide, made_sound (by decide) (by decide), (flitOf_field _ _ _ _ _ (by decide)).trans (headOf_fields 3).2.1, ?_, ?_, hk⟩
  · simp only [Link.payload, hk, hp, if_true]
  · unfold controlOk
    rw [hk]
    decide +kernel

/-- An idle flit that acknowledges SEQ 2; a damaged flit; one whose SEQ is not the one waited for. -/
theorem wit_LinksRun_others :
    let k : Link := { state := 2, rxSeq := 5 }
    let f : Flit := ⟨flitOf (headOf 3) 3 0, false⟩
    let g : Flit := ⟨flitOf (flitHead 4 2 0 0 false 0 0 0) 0 0, false⟩
    k.runs = true ∧ flitSound g = true ∧ flitKind g = 0 ∧ k.outq = [] ∧ flitSound ⟨0, true⟩ = false ∧ flitKind f ≠ 0 ∧
    flitField f 0 16 ≠ k.rxSeq := by
  refine ⟨by decide, made_sound (by decide) (by decide), (flitOf_field _ _ _ _ _ (by decide)).trans (by decide), rfl, rfl, ?_, ?_⟩
  · rw [show flitKind ⟨flitOf (headOf 3) 3 0, false⟩ = 3 from (flitOf_field _ _ _ _ _ (by decide)).trans (headOf_fields 3).1]
    decide
  · rw [show flitField ⟨flitOf (headOf 3) 3 0, false⟩ 0 16 = 4 from
      (flitOf_field _ _ _ _ _ (by decide)).trans (headOf_fields 3).2.1]
    decide

theorem wit_LinksRun_resends :
    let k : Link := { state := 3, held := [(2, 0, [])], resend := some 2 }
    let s := { linked k 0 with now := 2000 }
    (s.link 0) = k ∧ k.resend.isSome = true ∧ k.runs = true ∧ k.held ≠ [] ∧ k.ackAt.toNat + 2000 ≤ s.now.toNat ∧ k.tries < 8 ∧
    8 ≤ ({ k with tries := 8 } : Link).tries ∧ ({ k with tries := 8 } : Link).trains < 3 ∧ 3 ≤ ({ k with trains := 3 } : Link).trains :=
  by decide +kernel

/-- Link 0 can train all of its eight lanes; lane 3 fails; no lane can be trained. -/
theorem wit_LinksRun_training :
    let s := linked { en := true } 0
    s.link 0 = { en := true } ∧ s.linkOff 0 = false ∧ laneSet false 0xFFFF 0 = 0xFF ∧ laneSet false 0xFFFF 8 = 0xF7 ∧
    laneSet false 0xFFFF 0xFF = 0 ∧ (0x8 &&& ((0xFF : BitVec 16) ||| 0)) ≠ 0 ∧ ({ en := true } : Link).trains < 2 ∧
    2 ≤ ({ trains := 2 } : Link).trains ∧ ({ state := 1, en := true } : Link).state = 1 ∧ ({ state := 5 } : Link).state = 5 ∧
    ({ state := 2 } : Link).en = false := by decide +kernel

/-- Link 0 runs with eight lanes, and a control flit waits. -/
def controlled_ (x : BitVec 2048) : Link := { state := 3, rxact := 0xFF, txact := 0xFF, inq := [.control x] }

theorem wit_LanesAndControlFlits :
    (controlled_ 0x801).control? 1 = some 0x801 ∧ (controlled_ 0x802).control? 2 = some 0x802 ∧
    (controlled_ 0x802).txact &&& ~~~ctlLanes 0x802 ≠ 0 ∧ (controlled_ 3).control? 3 = some 3 ∧ (controlled_ 0x1FF04).control? 4 = some 0x1FF04 ∧
    ctlLanes 0x1FF04 &&& ~~~(controlled_ 0x1FF04).rxact ≠ 0 ∧ (controlled_ 0x802).held.length < 1024 ∧ (controlled_ 0x802).runs = true ∧ (controlled_ 5).control? 5 = some 5 ∧ (controlled_ 6).control? 6 = some 6 ∧
    ({ controlled_ 7 with quietSent := true } : Link).control? 7 = some 7 ∧ (controlled_ 7).peerQuiet = false := by decide +kernel

theorem wit_LanesAndControlFlits_own :
    let k : Link := { state := 3, rxact := 0xFF, txact := 0xFF, rxtrain := 0x100, quiesce := true }
    let o : Link := { k with corr := k.corr.set 7 1343 }
    k.control? 6 = none ∧ k.control? 7 = none ∧ k.runs = true ∧ k.outq = [] ∧ k.held.length < 1024 ∧ k.resend = none ∧ k.state ≠ 4 ∧
    k.streamless = true ∧ ({ k with quietSent := true } : Link).held = [] ∧ ({ k with quiesce := false } : Link).quiesce = false ∧
    (lanesIn (o.rxact &&& ~~~o.noted)).filter (fun i => decide (o.thresh.toNat < ((o.corr[i]?).getD 0).toNat)) = [7] ∧
    k.rxtrain.getLsbD 8 = true ∧ k.upSent.getLsbD 8 = false := by decide +kernel

/-- The replay buffer is full. -/
theorem wit_LanesAndControlFlits_full : ({ held := List.replicate 1024 (0, 0, []) } : Link).held.length ≥ 1024 := by
  rw [List.length_replicate]

/-- A packet of device 1 that opens a stream of two flits to the buffer of descriptor 0. -/
def openPacket : Packet := { type := 12, sdev := 1, ddev := 0, addr := 0x100000, desc := 0, rights := 0x3F, data := leBytes 32 (9 + 2 * 2 ^ 16) }

/-- Link 0 with what it has accepted. -/
def streaming (k : Link) : State := { hbm0 id with links := [(0, k)] }

/-- The stream. -/
def inStream (written : Nat) : InStream := ⟨9, openPacket, 2, written, true⟩

theorem wit_StreamsAndKeys_open :
    (streaming { state := 3, inq := [.open_ openPacket] }).link 0 = { state := 3, inq := [.open_ openPacket] } ∧
    leNat (openPacket.data.take 8) / 2 ^ 16 = 2 ∧ ({ state := 3, inStreams := [inStream 4] } : Link).inStreams.find? (fun x =>
      decide (2 * x.flits ≤ x.written)) = some (inStream 4) := by decide +kernel

/-- The stream's source is reached over link 0, which is up. -/
theorem wit_StreamsAndKeys_done :
    let s : State := { State.reset with links := [(0, { state := 3, peerDev := 1 })], routes := State.reset.routes.set 0 0x80001 }
    s.route? 1 = some 0 ∧ (s.link 0).takes = true := by decide +kernel

/-- Partition 0's tables map the buffer onto itself, and a flit's bytes have come for it; or there is no such buffer. -/
theorem wit_StreamsAndKeys_data :
    let k : Link := { state := 3, inq := [.stream 9 0 (List.replicate 256 7)], inStreams := [inStream 0] }
    let s := { mapped (asking 2 (.read 0x100000 32 0)) with links := [(0, k)] }
    let req (s : State) (a : Nat) (b : List Byte) := s.peerReq 0 { openPacket with addr := a } (streamTag 9) 128 (.write a b [])
    (s.link 0).inq = [.stream 9 0 (List.replicate 256 7)] ∧ k.inStreams.find? (fun y => y.num == 9) = some (inStream 0) ∧
    ((req s 0x100000 (List.replicate 128 7)).toOption.map (·.cls)) = some 2 ∧
    ((req s 0x100080 (List.replicate 128 7)).toOption.map (·.cls)) = some 2 ∧
    (req State.reset 0x100000 (List.replicate 128 7)).toOption.isSome = false ∧
    (req State.reset 0x100080 (List.replicate 128 7)).toOption.isSome = false := by decide +kernel

/-- The load of a key ends; link 0's replay buffer is empty, link 1's is not; and it fails or not, which is Config's. -/
theorem wit_StreamsAndKeys_key :
    let s := { State.reset with sec := { ({} : Security) with klBusy := true, klLinks := 3 }, links := [(1, { held := [(0, 0, [])] })] }
    s.sec.klBusy = true ∧ s.sec.klLinks.getLsbD 0 = true ∧ s.sec.klLinks.getLsbD 1 = true ∧ (s.link 0).held = [] ∧ (s.link 1).held ≠ [] := by
  decide +kernel

theorem wit_StreamsAndKeys_either :
    unwrapKey 0 0 0 = none ∨ ∃ key, unwrapKey 0 0 0 = some key := by
  cases unwrapKey 0 0 0 with
  | none => exact .inl rfl
  | some key => exact .inr ⟨key, rfl⟩

/-! ### The host, service cores and registers -/

/-- A command record of the first lap. -/
def recordOf (op : Nat) (w0 w1 w2 : Nat) : BitVec 512 := BitVec.ofNat 512 (w0 + w1 * 2 ^ 64 + w2 * 2 ^ 128 + op * 2 ^ 448 + 2 ^ 456)

/-- Partition 0 with its tables, a buffer of HBM whose capability is in host slot 5, and a command in its window. -/
def commanded (r : BitVec 512) : State :=
  let s := (tables id).putDesc 0 0 (buffer 2 0x100000 512)
  { s.onPart 0 (fun p => { p with slots := [(5, ⟨.whole, 0, 0, 0x3F, 0⟩)], cmdSlots := [(0, (r, true))], cslen := 4 }) with
    sec := { ({} : Security) with state := 4, accept := (Vector.replicate 4 0).set 0 15 } }

/-- The state in which the command has started. -/
def started (r : BitVec 512) : State := (commanded r).onPart 0 (fun p => p.startCommand r)

theorem wit_HostCommandsRun_plain :
    let nop := recordOf 0 0 0 0
    let send := recordOf 3 5 0 7
    let drop := recordOf 4 5 0 0
    let s := started send
    (commanded nop).focus.bytes = [] ∧ ((commanded nop).part 0).nextCommand = some nop ∧ (commanded nop).sec.state = 4 ∧ cmdOpcode nop = 0 ∧
    operandsIn nop 0 = true ∧ cmdOpcode send = 3 ∧ operandsIn send (0xFF + 0x1FFFF * 2 ^ 64 + 0xFFFFFFFF * 2 ^ 128) = true ∧
    s.hostSlot 0 5 = some ⟨.whole, 0, 0, 0x3F, 0⟩ ∧ s.descOf ⟨.whole, 0, 0, 0x3F, 0⟩ = some (buffer 2 0x100000 512) ∧
    (s.mailbox 0 0).bound.part? = none ∧ cmdOpcode drop = 4 ∧ operandsIn drop 0xFF = true := by decide +kernel

/-- A launch of template 1, which has one item and no entries, into queue 3. -/
theorem wit_HostCommandsRun_launch :
    let r := recordOf 1 (1 + 3 * 2 ^ 16 + 2 ^ 32) 5 0
    let add (s : State) := ((s.writeBytes 0x20200 [1]).writeBytes 0x20220 [1]).writeBytes 0x20228 (leBytes 8 1)
    let s := add (started r)
    let is_ := cmdSlotList r
    let taken := s.takeSlots 0 is_
    ((add (commanded r)).part 0).nextCommand = some r ∧ cmdOpcode r = 1 ∧ is_ = [5] ∧ operandsIn r (launchMask r 0xFF00FFFFFF) = true ∧
    s.slotsFull 0 is_ = true ∧ taken.launchCode 0 1 3 (is_.map (fun i => s.hostSlot 0 i)) = 0 ∧ taken.tmplAt 0 1 = some 0x20200 ∧
    taken.freeTcb 0 = some 0 ∧ s.tTrace 0x20200 = false ∧ s.tCaps 0x20200 = [] ∧ s.tcbAt 0 0 = 0x10000 := by decide +kernel

/-- A relaunch of the trace in slot 5, recorded of template 0. -/
theorem wit_HostCommandsRun_relaunch :
    let r := recordOf 2 (2 ^ 32) 5 0
    let s := (started r).onPart 0 (fun p => { p with traces := [(0, traceMap)] })
    let s := (s.writeBytes 0x20000 (leBytes 4 0x401)).writeBytes 0x20180 [0]
    let s := s.setTraceField traceMap 0 256 (s.tmplDigest 0x20000)
    let v := s.setHdr traceMap hdrLive 1
    let y := (some ⟨.whole, 0, 0, 0x3F, 0⟩ : Option Cap).toList.foldl (fun s c => s.setOwner c (ownerSet 0))
      ((v.takeSlots 0 [5]).onPart 0 (fun p => { p with sets := tabPut 0 (slotVector [some ⟨.whole, 0, 0, 0x3F, 0⟩]) p.sets }))
    cmdOpcode r = 2 ∧ cmdSlotList r = [5] ∧ v.hostSlot 0 5 = some ⟨.whole, 0, 0, 0x3F, 0⟩ ∧
    operandsIn r (launchMask r 0xFFFF00FFFFFF) = true ∧ v.slotsFull 0 [5] = true ∧ (buffer 2 0x100000 512).cls = 2 ∧
    v.freeSets 0 1 = [0] ∧
    (y.relaunch 4095 0 0 ⟨0, ⟨.whole, 0, 0, 0x3F, 0⟩, 0, 0, none, []⟩).2.1 = 0 := by decide +kernel

theorem wit_HostCommandsRun_apertures :
    let r := recordOf 5 (5 + 9 * 2 ^ 16 + 2 ^ 32) 0x40000000 0
    let q := recordOf 6 (9 * 2 ^ 16) 0 0
    let s := started r
    cmdOpcode r = 5 ∧ operandsIn r (0x30FFF00FF + (2 ^ 64 - 65536) * 2 ^ 64) = true ∧ s.feature 2 = true ∧
    s.hostSlot 0 5 = some ⟨.whole, 0, 0, 0x3F, 0⟩ ∧ 0x40000000 ≤ cmdWord r 1 ∧ tabFind 9 s.apertures = none ∧ s.apertures = [] ∧
    cmdOpcode q = 6 ∧ operandsIn q 0xFFF0000 = true := by decide +kernel

theorem wit_HostCommandsRun_mark :
    let r := recordOf 7 5 32 64
    cmdOpcode r = 7 ∧ operandsIn r (0xFF + (2 ^ 64 - 1) * 2 ^ 64 + (2 ^ 64 - 1) * 2 ^ 128) = true ∧ cmdWord r 1 = 32 ∧ cmdWord r 2 = 64 ∧
    (started r).hostSlot 0 5 = some ⟨.whole, 0, 0, 0x3F, 0⟩ ∧ (⟨.whole, 0, 0, 0x3F, 0⟩ : Cap).has rightW = true ∧
    32 + 64 ≤ (buffer 2 0x100000 512).len := by decide +kernel

theorem wit_HostCommandsRun_tables :
    let d := recordOf 8 0 0 0
    let f := recordOf 9 0 77 0
    let s := ((started d).writeBytes 0x10000 (leBytes 4 (1 + 16 + 2 * 2 ^ 16))).setFld 0x30000 futAlloc 1
    cmdOpcode d = 8 ∧ operandsIn d 0xFFFFFF = true ∧ 0 < (s.part 0).tcbLen ∧ s.tcb 0 0 tcbKind = 1 ∧ s.tcb 0 0 tcbState = 1 ∧
    s.tcb 0 0 tcbCount ≠ 0 ∧ cmdOpcode f = 9 ∧ operandsIn f (0xFFFFFFFF + (2 ^ 64 - 1) * 2 ^ 64) = true ∧ 0 < (s.part 0).futLen ∧
    s.futAt 0 0 = 0x30000 ∧ s.fld 0x30000 futAlloc = 1 ∧ s.fld 0x30000 futFilled = 0 ∧ s.waitersOf 0 0 0 0 = [] := by decide +kernel

theorem wit_HostReadsAndWrites_record :
    let c : Command := ⟨0, 0, true, some 0, 0, 0, [], none, false, false⟩
    let s := State.reset.onPart 0 (fun p => { p with cmds := [(0, c)] })
    tabFind 0 (s.part 0).cmds = some c ∧ s.commandOver 0 0 c = true ∧ s.leftSet 0 0 c = none ∧ s.jobOf 0 0 = none := by decide +kernel

/-- A write of a command slot's last word, with the phase of the window's lap, and one of another word. -/
theorem wit_HostReadsAndWrites_slot :
    let s := State.reset
    (0x38 % 64 ≤ 56 ∧ 0x38 % 64 + (List.replicate 8 (1 : Byte)).length = 64) ∧ (0x38 : Nat) % 65536 < 0x8000 ∧
    lapBit (foldBytes setImageByte 0 (0x38 % 64) [0, 1, 0, 0, 0, 0, 0, 0]) = (s.part 0).lapPhase 0 ∧
    lapBit (foldBytes setImageByte 0 (0x38 % 64) [0, 0, 0, 0, 0, 0, 0, 0]) ≠ (s.part 0).lapPhase 0 := by decide +kernel

/-- An aperture of slot 5's buffer is bound at HDM offset 2^30. -/
theorem wit_HostReadsAndWrites_aperture :
    let a : Aperture := ⟨true, true, 0x40000000, 0x10000, 5, 0⟩
    let m := (mapped (asking 2 (.read 0x100000 32 0))).onPart 0 (fun p => { p with slots := [(5, ⟨.whole, 0, 0, 0x3F, 0⟩)] })
    let s := { m with apertures := [(9, a)] }
    s.apertureAt 0x40000000 = some a ∧ s.apertureTarget a 0 64 true = some (⟨.whole, 0, 0, 0x3F, 0⟩, 0x100000) ∧
    s.apertureTarget a 0 64 false = some (⟨.whole, 0, 0, 0x3F, 0⟩, 0x100000) ∧ (buffer 2 0x100000 64).traces = [] := by decide +kernel

theorem wit_HostReadsAndWrites_raw :
    let p : HostPort := { rawen := true }
    let s := { State.reset with ports := Vector.replicate 2 p }
    s.ports[s.focus.die]? = some p ∧ s.shielded 0x100000 64 = false ∧ (0x10000100000 : Nat) = 0x10000000000 + 0x100000 ∧
    plainRange 0x100000 64 := ⟨by decide, by decide, rfl, plain_of_hbm (by decide)⟩

/-- Kernel core 0 runs at 0x200000, where an instruction stands, with an access under way; its window is all of HBM. -/
def serving (insn : BitVec 32) (r : Option RawAccess) : State :=
  let s := State.reset.writeBytes 0x200000 (leBytes 4 insn.toNat)
  { s with
    svcs := [(2176, ({ halted := false, pc := 0x200000, sluice := kernelSluice, access := r } : Svc))]
    focus := { sluice := 2176 } }

/-- ADD x3, x1, x2 is fetched, and LD x3, 0(x1) with x1 = 0. -/
theorem wit_ServiceCoresRun_instruction :
    let add : BitVec 32 := 0#7 ++ 2#5 ++ 1#5 ++ 0#3 ++ 3#5 ++ 0x33#7
    let ld : BitVec 32 := 0#12 ++ 1#5 ++ 3#3 ++ 3#5 ++ 0x03#7
    (serving add none).fetchRv 2176 = .insn add 4 (add.setWidth 64) ∧
    (∃ c', (((serving add none).svcCycles 2176).svc 2176).execute 0 add 4 (add.setWidth 64) = .next c') ∧
    (∃ a d, (((serving ld none).svcCycles 2176).svc 2176).execute 0 ld 4 (ld.setWidth 64) = .mem .load a 8 d) :=
  ⟨by decide +kernel, ⟨_, rfl⟩, ⟨_, _, rfl⟩⟩

/-- An access of core 2176 that has its answer; one that sets out for HBM; one for a register of the hub. -/
def access (kind : RvMem) (a : Nat) (d : Word) : RawAccess := { insn := 0, len := 4, kind := kind, addr := a, n := 8, data := d }

theorem wit_ServiceCoresRun_raw :
    let s (k : RvMem) (a : Nat) : State := serving 0 (some (access k a 0))
    (s .load 0x100000).rawRefused 2176 0x100000 8 false = false ∧ placeOf 0x100000 = .hbm ∧
    (s .load 0x2000000200000).rawRefused 2176 0x2000000200000 8 false = false ∧ placeOf 0x2000000200000 = .hub 0x200000 ∧
    (s .store 0x2000000200000).rawRefused 2176 0x2000000200000 8 true = false ∧ (s .load 0x100000).hostq = [] ∧
    ({ access .load 0x100000 0 with reply := some 0 } : RawAccess).reply = some 0 ∧ 0x2000000200000 < portPage := by decide +kernel

/-- An invalidation of cluster 0 is in progress, and a write of its control register finds it. -/
theorem wit_ServiceCoresRun_busy :
    let r := access .store 0x2800000000088 0
    let s (i : Option Inval) : State := (serving 0 (some r)).onCluster 0 (fun c => { c with inval := i })
    placeOf r.addr = .control 0 0x88 ∧ (s (some ⟨0, 0, 0⟩)).invalBusy r = true ∧ (s none).invalBusy r = false ∧
    (s none).rawRefused 2176 r.addr r.n true = false := by decide +kernel

/-- SDs to the port page: the latch of `cap`, `cap.t.info` of slot 0, PPIN and PORPH; and what they need. -/
def paging (o : Nat) (d : Word) (store : Bool) : State :=
  let s := serving 0 (some (access (if store then .store else .load) (portPage + o) d))
  (s.onSvc 2176 (fun v => { v with k := v.k.set 0 (.cap ⟨.whole, 0, 0, 0x3F, 0⟩) })).putDesc 0 0 (buffer 2 0x100000 512)

theorem wit_ServiceCoresRun_stores :
    (paging (8 * (Target.latch .capO).code.toNat) 3 true).portAccess 2176 true = some (8 * (Target.latch .capO).code.toNat, 3) ∧
    Target.ofCode (BitVec.ofNat 11 (8 * (Target.latch .capO).code.toNat / 8)) = .latch .capO ∧ portLatch .capO = true ∧
    8 * (Target.latch .capO).code.toNat < 0x3F00 ∧
    (paging (8 * (Target.trig (.cap .free)).code.toNat) 0 true).portAccess 2176 true = some (8 * (Target.trig (.cap .free)).code.toNat, 0) ∧
    Target.ofCode (BitVec.ofNat 11 (8 * (Target.trig (.cap .free)).code.toNat / 8)) = .trig (.cap .free) ∧
    portUnit (Op.cap .free).unit = true ∧ 8 * (Target.trig (.cap .free)).code.toNat < 0x3F00 ∧
    (paging (8 * (Target.trig (.cap .free)).code.toNat) 0 true).portErr
      ((paging (8 * (Target.trig (.cap .free)).code.toNat) 0 true).portTrig 2176 (.cap .free) 0) = none := by decide +kernel

theorem wit_ServiceCoresRun_control :
    let s := paging 0x3F20 0x100 true
    let t := (paging 0x3F28 1 true).onPart 0 (fun p => { p with orphans := [(0, ⟨.whole, 0, 3, 0x3F, 0⟩)] })
    s.portAccess 2176 true = some (0x3F20, 0x100) ∧ sluiceKind 2176 = 0b10 ∧ portSlot 0x100 = 0 ∧
    s.agentK 2176 0 = .cap ⟨.whole, 0, 0, 0x3F, 0⟩ ∧ s.descOf ⟨.whole, 0, 0, 0x3F, 0⟩ = some (buffer 2 0x100000 512) ∧
    t.agentK 2176 (portSlot 1) = .empty ∧ (t.part 0).orphans = [(0, ⟨.whole, 0, 3, 0x3F, 0⟩)] := by decide +kernel

theorem wit_ServiceCoresRun_loads :
    (paging 0x3F00 0 false).portAccess 2176 false = some (0x3F00, 0) ∧ (paging 0x3F10 0 false).portOut 2176 = 0 ∧
    (paging 0x3F18 0 false).partOf 2176 = 0 ∧ ((paging 0x3F18 0 false).queue ((paging 0x3F18 0 false).part 0).svcq).part = 0 ∧
    (((paging 0x3F18 0 false).onQueue 0 (fun q => { q with units := [.service 3] })).queue 0).units.findSome? Work.call? = some 3 ∧
    ((paging 0x3F18 0 false).queue 0).units.findSome? Work.call? = none := by decide +kernel

/-- Registers of the control space and of the hub are written; a continuation is on core 0, whose sluice keeps its PART. -/
theorem wit_RegistersAreWritten :
    placeOf 0x2800000000000 = .control 0 0 ∧ placeOf 0x2800000001100 = .control 0 0x1100 ∧ placeOf 0x2800000002000 = .control 0 0x2000 ∧
    placeOf 0x2800000003000 = .control 0 0x3000 ∧ placeOf 0x2000000020028 = .hub 0x20028 ∧ placeOf 0x2000000208008 = .hub 0x208008 ∧
    placeOf 0x2000000001000 = .hub 0x1000 ∧ (run0 (fun c => { c with res := some resident })).occupied 0 = true ∧
    (1 : BitVec 4) ≠ ((run0 id).sluiceOf 0).part ∧ (run0 id).occupied 0 = false ∧ 0x120 % 0x1000 / 8 = 0x24 ∧
    ({ ({} : Security) with cfgst := 1 } : Security).cfgst = 1 := by decide +kernel

/-- A configuration block is signed or not, which is Config's. -/
theorem wit_RegistersAreWritten_block (s : State) (n : Nat) :
    let body := s.readBytes s.sec.cfg (16 * n)
    let pairs := (List.range n).map (s.cfgPair s.sec.cfg)
    let ok := Config.blockSigned (sha384 body) (s.readBytes (s.sec.cfg + 16 * n) 96) = true ∧ ∀ p ∈ pairs, cfgOffset p.1 = true
    ok ∨ ¬ ok := Classical.em _

theorem wit_BringUpAndClocks :
    let s (n : BitVec 4) : State := { State.reset with sec := { ({} : Security) with state := n } }
    (s 1).sec.state = 1 ∧ (s 2).sec.state = 2 ∧ (s 3).sec.deadline.toNat ≤ (s 3).now.toNat ∧ (s 3).sec.state = 3 ∧
    State.reset.focus.bytes = [] ∧ ([1] : List Byte) ≠ [] ∧ (s 1).sec.state ≠ 0 := by decide +kernel

theorem wit_BringUpAndClocks_either :
    (Config.firmwareSigned [1] = false ∨ Config.firmwareSigned [1] = true) ∧ plainRange 0x100000 1 := by
  refine ⟨?_, plain_of_hbm (by decide)⟩
  cases Config.firmwareSigned [1]
  · exact .inl rfl
  · exact .inr rfl

/-! ### States for the statements about encoding and steps -/

theorem wit_DecodeInvertsEncode : (Instr.iaAdd 0 g1).WellFormed ∧ encode (Instr.iaAdd 0 g1) ≠ [] :=
  ⟨by unfold Instr.WellFormed; decide, by decide⟩

theorem wit_EveryWordDecodes : 20 ≤ (List.replicate 20 (0 : Byte)).length := by decide

/-- Core 0 moves next, or one is chosen; the word at its program counter is the canonical NOP. -/
theorem wit_StepRunsDecodedWord :
    let s := (run0 id).withFetchWord 32 0x20
    s.agenda = [] ∧ s.sole = true ∧ (s.core s.turn).mode = .run ∧ (s.core s.turn).hold = .none ∧
    (s.core 0).overlayReason (wordLen (s.byteAt (s.fetchAddr 0))) = 0 ∧
    s.poisoned? (s.fetchAddr 0) (wordLen (s.byteAt (s.fetchAddr 0))) = none ∧
    decode (s.readBytes (s.fetchAddr 0) (wordLen (s.byteAt (s.fetchAddr 0)))) = .ok (.nop 0 0 0, []) := by decide +kernel

theorem wit_StepKeepsMemoryCanonical : State.reset.canonical := ⟨by decide, by decide⟩

/-! ### Decoding: words written out from the encoding of R71 and R76 with the codes of R99 -/

/-- The word of the move g1 -> code: scoreboard 0b0000, origin 0x001, the target, guard 0b0000, length 0b00. -/
def single (code : BitVec 11) : Nat := (0b0000#4 ++ 0b00000000001#11 ++ code ++ 0b0000#4 ++ 0b00#2).toNat

/-- Every listed target code decodes to its instruction. -/
def decodesTo (l : List (BitVec 11 × Instr)) : Bool := l.all (fun p => decodeTableWord 32 (single p.1) == some p.2)

theorem test_decode_ctl : decodesTo [
    (0x061, .ctlJmp g1), (0x062, .ctlBra g1), (0x063, .ctlCall g1), (0x064, .ctlRet g1), (0x065, .ctlJtab g1),
    (0x066, .ctlBre g1), (0x067, .ctlSbwait g1), (0x068, .ctlDrain g1), (0x069, .ctlYield g1), (0x06A, .ctlWait g1),
    (0x06B, .ctlDone g1), (0x06C, .ctlTrap g1), (0x06D, .ctlRett g1), (0x06E, .ctlSetrm g1), (0x06F, .ctlSetxb g1),
    (0x070, .ctlSetovh g1), (0x071, .ctlWatch g1), (0x072, .ctlUnwatch g1), (0x073, .ctlBrk g1)] = true := by decide

theorem test_decode_ia : decodesTo [
    (0x081, .iaAdd 0 g1), (0x0A1, .iaAdd 1 g1), (0x082, .iaSub 0 g1), (0x083, .iaAnd 0 g1), (0x084, .iaOr 0 g1),
    (0x085, .iaXor 0 g1), (0x086, .iaAndn 0 g1), (0x087, .iaShl 0 g1), (0x088, .iaShr 0 g1), (0x089, .iaSar 0 g1),
    (0x08A, .iaRol 0 g1), (0x08B, .iaMin 0 g1), (0x08C, .iaMax 0 g1), (0x08D, .iaMinu 0 g1), (0x08E, .iaMaxu 0 g1),
    (0x08F, .iaEq 0 g1), (0x090, .iaNe 0 g1), (0x091, .iaLt 0 g1), (0x092, .iaLtu 0 g1), (0x093, .iaLe 0 g1),
    (0x094, .iaLeu 0 g1), (0x095, .iaSext 0 g1), (0x096, .iaZext 0 g1), (0x097, .iaClz 0 g1), (0x098, .iaCtz 0 g1),
    (0x099, .iaPopc 0 g1), (0x09A, .iaBswap 0 g1), (0x09B, .iaAdds 0 g1), (0x09C, .iaSubs 0 g1), (0x09D, .iaBfx 0 g1),
    (0x09E, .iaPass 0 g1), (0x0BE, .iaPass 1 g1)] = true := by decide

theorem test_decode_im : decodesTo [
    (0x0C2, .imMul g1), (0x0C3, .imMulh g1), (0x0C4, .imMulhu g1), (0x0C5, .imMad g1), (0x0C6, .imDiv g1),
    (0x0C7, .imDivu g1), (0x0C8, .imRem g1), (0x0C9, .imRemu g1)] = true := by decide

theorem test_decode_fs : decodesTo [
    (0x0E2, .fsFadd g1), (0x0E3, .fsFsub g1), (0x0E4, .fsFmul g1), (0x0E5, .fsFma g1), (0x0E6, .fsFmin g1),
    (0x0E7, .fsFmax g1), (0x0E8, .fsFdiv g1), (0x0E9, .fsFsqrt g1), (0x0EA, .fsFeq g1), (0x0EB, .fsFlt g1),
    (0x0EC, .fsFle g1), (0x0ED, .fsFcvti g1), (0x0EE, .fsFcvtf g1), (0x0EF, .fsFclass g1), (0x0F0, .fsFexp2 g1),
    (0x0F1, .fsFlog2 g1), (0x0F2, .fsFrcp g1), (0x0F3, .fsFrsq g1), (0x0F4, .fsFsigm g1)] = true := by decide

theorem test_decode_ls : decodesTo [
    (0x102, .lsLdb g1), (0x103, .lsLdbu g1), (0x104, .lsLdh g1), (0x105, .lsLdhu g1), (0x106, .lsLdw g1),
    (0x107, .lsLdwu g1), (0x108, .lsLdd g1), (0x109, .lsStb g1), (0x10A, .lsSth g1), (0x10B, .lsStw g1),
    (0x10C, .lsStd g1), (0x10D, .lsLdf g1), (0x10E, .lsStf g1)] = true := by decide

theorem test_decode_sw : decodesTo [
    (0x121, .swBind 0 g1), (0x139, .swBind 3 g1), (0x122, .swFeeda 0 g1), (0x123, .swFeedb 0 g1),
    (0x124, .swSkip 0 g1), (0x125, .swRewind 0 g1), (0x126, .swStop 0 g1), (0x13E, .swStop 3 g1)] = true := by decide

theorem test_decode_tm : decodesTo [
    (0x141, .tmAt g1), (0x142, .tmCancel g1)] = true := by decide

theorem test_decode_wr : decodesTo [
    (0x161, .wrArm g1), (0x162, .wrArrive g1), (0x163, .wrQuery g1), (0x164, .wrDisarm g1)] = true := by decide

theorem test_decode_vx_fp32 : decodesTo [
    (0x181, .vxVadd g1), (0x182, .vxVsub g1), (0x183, .vxVmul g1), (0x184, .vxVfma g1), (0x185, .vxVfms g1),
    (0x186, .vxVfnma g1), (0x187, .vxVmin g1), (0x188, .vxVmax g1), (0x189, .vxVabs g1), (0x18A, .vxVneg g1),
    (0x18B, .vxVdiv g1), (0x18C, .vxVsqrt g1), (0x18D, .vxVrcp g1), (0x18E, .vxVrsq g1), (0x18F, .vxVexp2 g1),
    (0x190, .vxVlog2 g1), (0x191, .vxVsigm g1)] = true := by decide

theorem test_decode_vx_integer : decodesTo [
    (0x192, .vxViadd g1), (0x193, .vxVisub g1), (0x194, .vxVimul g1), (0x195, .vxVimin g1), (0x196, .vxVimax g1),
    (0x197, .vxViminu g1), (0x198, .vxVimaxu g1), (0x199, .vxVand g1), (0x19A, .vxVor g1), (0x19B, .vxVxor g1),
    (0x19C, .vxVshl g1), (0x19D, .vxVshr g1), (0x19E, .vxVsar g1)] = true := by decide

theorem test_decode_vx_compare : decodesTo [
    (0x19F, .vxVfeq g1), (0x1A0, .vxVflt g1), (0x1A1, .vxVfle g1), (0x1A2, .vxVieq g1), (0x1A3, .vxVilt g1),
    (0x1A4, .vxMlog g1)] = true := by decide

theorem test_decode_vx_move : decodesTo [
    (0x1A5, .vxVcvt g1), (0x1A6, .vxVpack g1), (0x1A7, .vxVunpack g1), (0x1A8, .vxVmov g1), (0x1A9, .vxVsel g1),
    (0x1AA, .vxVbcast g1), (0x1AB, .vxVidx g1), (0x1AC, .vxVperm g1), (0x1AD, .vxVslide g1), (0x1AE, .vxVext g1),
    (0x1AF, .vxVins g1)] = true := by decide

theorem test_decode_vx_memory : decodesTo [
    (0x1B0, .vxVfsum g1), (0x1B1, .vxVfrmax g1), (0x1B2, .vxVfrmin g1), (0x1B3, .vxVisum g1), (0x1B4, .vxVld g1),
    (0x1B5, .vxVst g1), (0x1B6, .vxVldx g1), (0x1B7, .vxVstx g1)] = true := by decide

theorem test_decode_mx : decodesTo [
    (0x1C1, .mxCfg g1), (0x1C2, .mxMma g1), (0x1C3, .mxMmaz g1), (0x1C4, .mxZero g1), (0x1C5, .mxLdscale g1),
    (0x1C6, .mxRdacc g1), (0x1C7, .mxWracc g1), (0x1C8, .mxFfl g1), (0x1C9, .mxStat g1)] = true := by decide

theorem test_decode_cap : decodesTo [
    (0x1E2, .capSend g1), (0x1E3, .capRecv g1), (0x1E4, .capSplit g1), (0x1E5, .capJoin g1), (0x1E6, .capDrop g1),
    (0x1E7, .capCut g1), (0x1E8, .capFuse g1), (0x1E9, .capAlloc g1), (0x1EA, .capFree g1), (0x1EB, .capInfo g1),
    (0x1EC, .capNarrow g1), (0x1ED, .capSub g1), (0x1EE, .capUnsub g1), (0x1EF, .capMcast g1), (0x1F0, .capBindmb g1),
    (0x1F1, .capClosemb g1), (0x1F2, .capPeek g1)] = true := by decide

theorem test_decode_cp : decodesTo [
    (0x202, .cpCopy g1), (0x203, .cpCopys g1), (0x204, .cpFill g1), (0x205, .cpGath g1), (0x206, .cpSig g1),
    (0x207, .cpStat g1)] = true := by decide

theorem test_decode_rm : decodesTo [
    (0x222, .rmRld g1), (0x223, .rmRst g1), (0x224, .rmRacc g1), (0x225, .rmRfop g1), (0x226, .rmBatch g1),
    (0x227, .rmUnbatch g1)] = true := by decide

theorem test_decode_sq : decodesTo [
    (0x241, .sqLaunch g1), (0x242, .sqTask g1), (0x243, .sqDec g1), (0x244, .sqCall g1), (0x245, .sqFillf g1),
    (0x246, .sqSpawn g1), (0x247, .sqTickets g1), (0x248, .sqGang g1)] = true := by decide

theorem test_decode_tr : decodesTo [
    (0x262, .trRelaunch g1), (0x263, .trMark g1), (0x264, .trSlot g1), (0x265, .trUnslot g1),
    (0x266, .trInfo g1)] = true := by decide

/-- Origins and the literal (02 R70 to R74, R77, R100): imm -1, lit, pc, the ports of units, and a bank-format access. -/
theorem test_decode_origins :
    decodeTableWord 32 (0b0000_11111111111_00010000001_0000_00) = some (.iaAdd 0 ⟨0, .imm 0x3FF, 0⟩) ∧
    decodeTableWord 32 (0b0000_00001010001_00010000001_0000_00) = some (.iaAdd 0 ⟨0, .pc, 0⟩) ∧
    decodeTableWord 32 (0b0000_00010000000_00010000001_0000_00) = some (.iaAdd 0 ⟨0, .port .ia0R, 0⟩) ∧
    decodeTableWord 32 (0b0000_11111111111_00100001000_0000_00) = some (.bankFormatRead ⟨0, .imm 0x3FF, 0⟩) ∧
    decodeTableWord 32 (0b0000_11111111111_00100001100_0000_00) = some (.bankFormatWrite ⟨0, .imm 0x3FF, 0⟩) := by decide

/-- A move and a literal: L = 0b10, origin 0x050, target g9, then 64 bits. -/
theorem test_decode_literal :
    decodeTableWord 96 (0x1122334455667788 * 2 ^ 32 + 0b0000_00001010000_00000001001_0000_10) =
      some (.wordIssue (.oneLit ⟨0, .lit, .g 9, 0⟩ 0x1122334455667788)) := by decide

/-- B3: LS = 0b00, slots 3, 2 and 1 (g3 -> g13, g2 -> g12, g1 -> g11), form 0b00, L = 0b01. -/
theorem test_decode_b3 :
    decodeTableWord 96 (0b00#2 ++ 0b0000_00000000011_00000001101_0000#30 ++ 0b0000_00000000010_00000001100_0000#30 ++
        0b0000_00000000001_00000001011_0000#30 ++ 0b00#2 ++ 0b01#2).toNat =
      some (.wordIssue (.b3 ⟨0, .g 1, .g 11, 0⟩ ⟨0, .g 2, .g 12, 0⟩ ⟨0, .g 3, .g 13, 0⟩ 0 none)) := by decide

/-- BI: bit 95, an ordinary move g2 -> g12, IMM = -2, scoreboard 0b1001, target g11, guard 0b0000, form 0b01, L = 0b01. -/
theorem test_decode_bi :
    decodeTableWord 96 (0#1 ++ 0b0000_00000000010_00000001100_0000#30 ++ 0b111111111111111111111111111111111111111110#42 ++
        0b1001_00000001011_0000#19 ++ 0b01#2 ++ 0b01#2).toNat =
      some (.wordIssue (.bi ⟨0, 0x3FFFFFFFFFE, .g 11, 9⟩ ⟨0, .g 2, .g 12, 0⟩ 0 none)) := by decide

/-- The forms 0b10 and 0b11 are words that fault when they issue (02 R72). -/
theorem test_decode_illegal_form : decodeTableWord 96 0b10_01 = some (.wordIssue (.bad 0 0 none)) := by decide

/-- A reserved target or origin decodes to a word that is refused when it issues (02 R98, R100). -/
theorem test_decode_reserved : decodeTableWord 32 (single 0x07F) = some (.wordIssue (.one ⟨0, .g 1, .reserved 0x07F, 0⟩)) := by decide

/-! ### Terms that are ill-formed -/

/-- A code that the target map gives a meaning, written as a reserved one; an origin written so; a trigger, which has a row of its own,
as a general word. -/
theorem test_illformed_codes : (Instr.wordIssue (.one ⟨0, .g 1, .reserved 0x061, 0⟩)).wf = false ∧
    (Instr.iaAdd 0 ⟨0, .reserved 0x050, 0⟩).wf = false ∧ (Instr.wordIssue (.one ⟨0, .g 1, .trig (.ia 0 .add), 0⟩)).wf = false := by decide

/-- A word of its own row with the guard of a NOP. -/
theorem test_illformed_guard : (Instr.iaAdd 0 ⟨0b1000, .g 1, 0⟩).wf = false := by decide

/-- A NOP as a general word of one move. -/
theorem test_illformed_nop : (Instr.wordIssue (.one ⟨0b1000, .g 1, .g 2, 0⟩)).wf = false := by decide

/-- `ls.t.ldd` and `ls.t.std` with a negative immediate are accesses of bank formats, and those need one. -/
theorem test_illformed_bankFormats : (Instr.lsLdd ⟨0, .imm 0x3FF, 0⟩).wf = false ∧ (Instr.lsStd ⟨0, .imm 0x3FF, 0⟩).wf = false ∧
    (Instr.bankFormatRead g1).wf = false ∧ (Instr.bankFormatWrite g1).wf = false := by decide

/-! ### Single steps, with results worked out by hand from the rules -/

/-- The state after an instruction. -/
def after (i : Instr) (s : State) : State :=
  match exec i s with
  | .next t => t
  | _ => s

/-- The move of an immediate: always, no counter. -/
def imm (v : BitVec 10) : Arg := ⟨0, .imm v, 0⟩

/-- 1 + -1 = 0 on ia0 (04 R144). -/
theorem test_add_wraps : (after (.iaAdd 0 (imm 0x3FF)) (run0 (fun c => c.writeLatch (.latch .ia0O) 1))).me.stages.map (·.res) =
    [.port 6 0] := by decide

/-- The least word minus one saturates (04 R144). -/
theorem test_subs_saturates : (after (.iaSubs 0 (imm 1)) (run0 (fun c => c.writeLatch (.latch .ia0O) 0x8000000000000000))).me.stages.map
    (·.res) = [.port 6 0x8000000000000000] := by decide

/-- The least word divided by -1 is itself, with remainder 0 (04 R145). -/
theorem test_div_corner : (after (.imDiv (imm 0x3FF)) (run0 (fun c => c.writeLatch (.latch .imO) 0x8000000000000000))).me.stages.map
    (·.res) = [.product 0x8000000000000000 0] := by decide

/-- A division by zero gives all ones, and the dividend as its remainder (04 R145). -/
theorem test_div_by_zero : (after (.imDivu (imm 0)) (run0 (fun c => c.writeLatch (.latch .imO) 9))).me.stages.map (·.res) =
    [.product 0xFFFFFFFFFFFFFFFF 9] := by decide

/-- A branch by -2 words owes its transfer to the delay word (04 R139). -/
theorem test_branch_owes : ((after (.ctlBra (imm 0x3F8)) (run0 (fun c => { c with pc := ⟨64, 0⟩ }))).me.owe.map (·.kind)) = some .transfer := by
  decide

/-- The word with L = 0b00 at offset 0 is passed (02 R75). -/
theorem test_nop_advances : (after (.nop 0 0 0) (run0 id)).me.pc.off = 4 := by decide

/-- A reserved target stops the continuation with cause 0x02 (02 R98). -/
theorem test_reserved_target : (match (after (.wordIssue (.one ⟨0, .g 1, .reserved 0x7F, 0⟩)) (run0 id)).me.mode with
    | .stopping d => d.cause | _ => 0) = 0x02 := by decide

/-- A word with a guard that reads 0 writes nothing (02 R76). -/
theorem test_guard_zero : (after (.wordIssue (.one ⟨1, .imm 5, .g 9, 0⟩)) (run0 id)).me.rg 9 = 0 := by decide

/-- g0 is written like any other register, and q0 reads 1 whatever is written (02 R76, R98). -/
theorem test_q0 : (after (.wordIssue (.one ⟨0, .imm 0, .q 0, 0⟩)) (run0 id)).me.guardValue 0 = true ∧
    (after (.wordIssue (.one ⟨0, .imm 5, .g 0, 0⟩)) (run0 id)).me.rg 0 = 5 := by decide

/-- The words of Examples 2.4 to 2.6, 6.1 and 7.2. -/
theorem test_examples :
    decodeTableWord 32 0x01800140 = some (.wordIssue (.one ⟨0, .port .imR, .g 5, 0⟩)) ∧
    decodeTableWord 96 (0x00A00242 + 0x123456789ABC * 2 ^ 32) = some (.wordIssue (.oneLit ⟨0, .lit, .g 9, 0⟩ 0x123456789ABC)) ∧
    decodeTableWord 96 (0x50000205 + 0x000000C3 * 2 ^ 32 + 0x00031020 * 2 ^ 64) =
      some (.wordIssue (.bi ⟨0, 100000, .g 2, 0⟩ ⟨0, .g 3, .trig (.ia 0 .add), 0⟩ 0 none)) ∧
    decodeTableWord 32 0x00043880 = some (.fsFadd ⟨0, .g 2, 0⟩) ∧
    decodeTableWord 96 (0xAAD1C105 + 0x00000003 * 2 ^ 32 + 0x00000010 * 2 ^ 64) =
      some (.wordIssue (.bi ⟨0, 0x755, .trig (.mx .cfg), 0b1010⟩ ⟨0b1000, .g 0, .g 0, 0⟩ 0 none)) := by decide

/-- A step from a placed word runs it. -/
theorem test_step_runs : (match step ((run0 id).withFetchWord 32 (0b0000_00000000111_00000001001_0000_00)) with
    | .next t => t.me.pc.off == 4
    | _ => false) = true := by decide +kernel

end Sys2Proof.Machine
end

section
/-! The registers: what each word of the register blocks reads as after a write of bits under a mask, and the bring-up steps that
registers start (00 R5; 01 R46; 05 R185; 08 R261, R262, R303; 13 R477 to R483). -/

namespace Sys2Proof.Machine

/-! ### Parts of the device, read after a change -/

@[simp] theorem State.cluster_onCluster (s : State) (cl : Nat) (f : Cluster → Cluster) :
    (s.onCluster cl f).cluster cl = f (s.cluster cl) := by
  simp [State.onCluster, State.cluster]

theorem State.cluster_onCluster_ne (s : State) {cl c : Nat} (f : Cluster → Cluster) (h : c ≠ cl) :
    (s.onCluster cl f).cluster c = s.cluster c := by
  simp [State.onCluster, State.cluster, tabFind_tabPut_ne _ _ h]

@[simp] theorem State.part_onPart (s : State) (p : BitVec 4) (f : Partition → Partition) :
    (s.onPart p f).part p = f (s.part p) := by
  simp [State.onPart, State.part]

@[simp] theorem State.svc_onSvc (s : State) (x : Nat) (f : Svc → Svc) : (s.onSvc x f).svc x = f (s.svc x) := by
  simp [State.onSvc, State.svc]

@[simp] theorem State.sluiceOf_setSluice (s : State) (a : Nat) (x : Sluice) : (s.setSluice a x).sluiceOf a = x := by
  cases h : isCompute a <;> simp [State.setSluice, State.sluiceOf, h]

/-! ### Words of wide registers -/

/-- The word of a wide register that was replaced reads as its new value. -/
theorem wordOf_putWord {n : Nat} (v : BitVec n) (i : Nat) (x : Word) (h : 64 * i + 64 ≤ n) : wordOf (putWord v i x) i = x := by
  refine BitVec.eq_of_getLsbD_eq fun j hj => ?_
  have hin : 64 * i + j < n := by omega
  have hsub : 64 * i + j - 64 * i = j := by omega
  have hones : (BitVec.allOnes 64).getLsbD j = true := by rw [BitVec.getLsbD_allOnes, decide_eq_true hj]
  rw [wordOf, BitVec.getLsbD_extractLsb', putWord, BitVec.getLsbD_or, BitVec.getLsbD_and, BitVec.getLsbD_not,
    BitVec.getLsbD_shiftLeft, BitVec.getLsbD_shiftLeft, BitVec.getLsbD_setWidth, BitVec.getLsbD_setWidth, hsub, hones]
  have hjn : j < n := by omega
  simp [hj, hin, hjn]

/-! ### Cluster control blocks (01 R46; 05 R185; 08 R262) -/

/-- A control block reads from its own cluster alone. -/
theorem State.readControl_congr {s t : State} {cl : Nat} (o : Nat) (h : t.cluster cl = s.cluster cl) :
    t.readControl cl o = s.readControl cl o := by
  simp only [State.readControl, State.bar, h]

theorem State.cluster_writeControl_ne (s : State) {cl c : Nat} (o : Nat) (mask v : Word) (h : c ≠ cl) :
    (s.writeControl cl o mask v).cluster c = s.cluster c :=
  s.cluster_onCluster_ne _ h

/-- XLAT_BASE (01 R46). -/
theorem State.readControl_writeControl_xbase (s : State) (cl : Nat) {o : Nat} (mask v : Word) (h : o < 0x80) :
    (s.writeControl cl o mask v).readControl cl o = mergeBits (ones 51 15 ||| 1) mask (s.readControl cl o) v := by
  have hi : o / 8 < 16 := by omega
  simp [State.writeControl, State.readControl, h, hi]

/-- Bank format registers of the SRAM (05 R185). -/
theorem State.readControl_writeControl_bankFormat (s : State) (cl : Nat) {o : Nat} (mask v : Word) (h : 0x1000 ≤ o) (h' : o < 0x1200) :
    (s.writeControl cl o mask v).readControl cl o =
      mergeBits (ones 25 16 ||| ones 13 8 ||| ones 3 0) mask (s.readControl cl o) v := by
  have hi : (o - 0x1000) / 8 < 64 := by omega
  have hx : ¬ o < 0x80 := by omega
  have hv : o ≠ 0x80 := by omega
  have hc : o ≠ 0x88 := by omega
  simp [State.writeControl, State.readControl, h, h', hi, hx, hv, hc]

/-- HO_CPOOL (08 R262). -/
theorem State.readControl_writeControl_cpool (s : State) (cl : Nat) (mask v : Word) :
    (s.writeControl cl 0x2000 mask v).readControl cl 0x2000 =
      mergeBits (BitVec.allOnes 64) mask (s.readControl cl 0x2000) v := by
  simp [State.writeControl, State.readControl]

/-- Barriers are read-only here (10 R376). -/
theorem State.readControl_writeControl_barrier (s : State) (cl : Nat) {o : Nat} (mask v : Word) (h : 0x3000 ≤ o) (h' : o < 0x3800) :
    (s.writeControl cl o mask v).readControl cl o = s.readControl cl o := by
  refine State.readControl_congr o ?_
  have hx : ¬ o < 0x80 := by omega
  have hv : o ≠ 0x80 := by omega
  have hc : o ≠ 0x88 := by omega
  have hb : ¬ o < 0x1200 := by omega
  have hp : o ≠ 0x2000 := by omega
  have hm : ¬ 0x3800 ≤ o := by omega
  simp [State.writeControl, hx, hv, hc, hb, hp, hm]

/-! ### The hub register block (08 R261; 13 R477) -/

/-- FAULTMB of partition `p`'s handover block (08 R261). -/
theorem State.writeHub_faultmb (s : State) {o : Nat} (mask v : Word) (h : 0x20000 ≤ o) (h' : o < 0x20400) (hw : o / 8 % 8 = 5) :
    let p : BitVec 4 := BitVec.ofNat 4 ((o - 0x20000) / 64)
    ((s.writeHub o mask v).part p).faultmb = (mergeBits (ones 16 0) mask ((s.part p).faultmb.setWidth 64) v).setWidth 17 := by
  have hs : ¬ o < 0x20000 := by omega
  simp [State.writeHub, h, h', hs, hw, State.writeHandover, State.readHandover]

/-- RPC of the core that control register `n` is for (13 R477). -/
theorem State.writeHub_rpc (s : State) {n : Nat} (mask v : Word) (h : n < 136) :
    s.writeHub (0x208008 + 16 * n) mask v =
      s.onSvc (controlled n) (fun x => { x with rpc := mergeBits (BitVec.allOnes 64) mask x.rpc v }) := by
  have hs : ¬ 0x208008 + 16 * n < 0x20000 := by omega
  have hh : ¬ 0x208008 + 16 * n < 0x20400 := by omega
  have hr : 0x208000 ≤ 0x208008 + 16 * n ∧ 0x208008 + 16 * n < 0x208000 + 16 * 136 ∧ (0x208008 + 16 * n) % 16 = 8 := by omega
  have hn : (0x208008 + 16 * n - 0x208000) / 16 = n := by omega
  rw [State.writeHub, if_neg (fun c => hs c.2), if_neg (fun c => hh c.2), if_pos hr, hn]

/-- The device time, HUB_IDENT and GPASS are read-only (01 R35; 10 R357). -/
theorem State.writeHub_readOnly (s : State) {o : Nat} (mask v : Word) (h : o = 0x1000 ∨ o = 0 ∨ o = 0x11000) :
    s.writeHub o mask v = s := by
  obtain rfl | rfl | rfl := h <;> simp [State.writeHub, State.writeSched]

/-! ### REGISTER_WRITE (00 R5) -/

theorem exec_registerWrite_control {s : State} {cl o : Nat} (h : placeOf s.focus.addr = .control cl o) :
    exec .registerWrite s = .next (s.writeControl cl o (BitVec.ofNat 64 s.focus.n) s.focus.data) := by
  change execRegisterWrite s = _
  simp only [execRegisterWrite, State.writeReg, h]

theorem exec_registerWrite_hub {s : State} {o : Nat} (h : placeOf s.focus.addr = .hub o) :
    exec .registerWrite s = .next (s.writeHub o (BitVec.ofNat 64 s.focus.n) s.focus.data) := by
  change execRegisterWrite s = _
  simp only [execRegisterWrite, State.writeReg, h]

/-! ### Sluice configuration spaces (08 R301, R303) -/

/-- Word 0 of a sluice's space: EN follows the write, MBR and WIN stay, and PART is refused to a resident continuation (08 R303). -/
theorem State.sluiceOf_writeSluiceHead (s : State) (x : Nat) (mask v : Word) :
    let w := mergeBits (ones 3 0 ||| ones 7 7 ||| ones 31 16) mask (s.readSluice x 0) v
    let refused : Bool := s.occupied x && mask &&& 0xF != 0
    (s.writeSluiceHead x mask v).sluiceOf x = { s.sluiceOf x with
      part := if refused then (s.sluiceOf x).part else w.extractLsb' 0 4
      perr := refused || ((s.sluiceOf x).perr && !(mask.getLsbD 6 && v.getLsbD 6))
      en := w.getLsbD 7
      pool := if isCompute x then w.extractLsb' 16 16 else (s.sluiceOf x).pool } :=
  s.sluiceOf_setSluice x _

/-- A write that reaches PART is refused while a continuation is resident (08 R303). -/
theorem State.partRefused_iff (s : State) (x : Nat) (mask : Word) :
    (s.occupied x && mask &&& 0xF != 0) = true ↔ s.occupied x = true ∧ mask &&& 0xF ≠ 0 := by
  rw [Bool.and_eq_true, bne_iff_ne]

/-- The mailbox ranges (08 R301). -/
theorem State.readSluice_writeSluice_mbr (s : State) (x : Nat) {i : Nat} (mask v : Word) (h : 1 ≤ i) (h' : i < 9) :
    (s.writeSluice x i mask v).readSluice x i = mergeBits (ones 47 0 ||| ones 63 63) mask (s.readSluice x i) v := by
  have h0 : i ≠ 0 := by omega
  have hi : i - 1 < 8 := by omega
  simp [State.writeSluice, State.readSluice, h0, h', hi]

/-- The windows, two words each (08 R301). -/
theorem State.readSluice_writeSluice_win (s : State) (x : Nat) {i : Nat} (mask v : Word) (h : 9 ≤ i) (h' : i < 25) :
    (s.writeSluice x i mask v).readSluice x i =
      mergeBits (if (i - 9) % 2 = 0 then ones 1 0 ||| ones 51 12 else ones 51 12) mask (s.readSluice x i) v := by
  have h0 : i ≠ 0 := by omega
  have h9 : ¬ i < 9 := by omega
  have hi : (i - 9) / 2 < 8 := by omega
  have hw : 64 * ((i - 9) % 2) + 64 ≤ 128 := by omega
  simp [State.writeSluice, State.readSluice, h0, h9, h', hi, wordOf_putWord _ _ _ hw]

/-! ### HUB_ACCEPT and configuration blocks (13 R480 to R483) -/

/-- Word 0 of HUB_ACCEPT: bits that are offered, while LOCK is clear (13 R481). -/
theorem State.writeAccept_first (s : State) {o : Nat} (mask v : Word) (h : (o - 0x120) / 8 = 0) :
    s.writeAccept o mask v = { s with sec := (s.writeAccept o mask v).sec } ∧
    (s.writeAccept o mask v).sec.accept[0] = if s.sec.lock then s.sec.accept[0] else mergeBits 0xF mask s.sec.accept[0] v := by
  cases hl : s.sec.lock <;> simp [State.writeAccept, hl, h]

/-- The signature of a configuration block of `n` pairs is good, and it may write every offset that it names (13 R482). -/
def State.configBlockPasses (s : State) (n : Nat) : Prop :=
  Config.blockSigned (sha384 (s.readBytes s.sec.cfg (16 * n))) (s.readBytes (s.sec.cfg + 16 * n) 96) = true ∧
    ∀ p ∈ (List.range n).map (s.cfgPair s.sec.cfg), cfgOffset p.1 = true

/-- A block that passes is measured into the chain, and the writes of its pairs come next (13 R482, R483). -/
theorem State.checkConfig_pass {s : State} (hb : s.sec.cfgst = cfgBusy) (h : s.configBlockPasses s.focus.n) :
    s.checkConfig = { s with
      sec := { s.sec with
        cfgst := cfgOk
        chain := BitVec.ofNat 384 (leNat (sha384 (leBytes 48 s.sec.chain.toNat ++ s.readBytes s.sec.cfg (16 * s.focus.n)))) }
      agenda := ((List.range s.focus.n).map (s.cfgPair s.sec.cfg)).flatMap
        (fun p => regSteps s (0x2000000000000 + p.1) (BitVec.allOnes 64) p.2) ++ s.agenda } := by
  obtain ⟨hsig, hoff⟩ := h
  have hall := List.all_eq_true.2 hoff
  rw [State.checkConfig, if_neg (not_not.2 hb)]
  simp only [hsig, hall, Bool.and_self, if_true]

/-- A block that does not pass is BAD, and nothing is written (13 R482). -/
theorem State.checkConfig_bad {s : State} (hb : s.sec.cfgst = cfgBusy) (h : ¬ s.configBlockPasses s.focus.n) :
    s.checkConfig = { s with sec := { s.sec with cfgst := cfgBad } } := by
  rw [State.checkConfig, if_neg (not_not.2 hb)]
  refine if_neg fun hc => h ?_
  obtain ⟨hsig, hall⟩ := Bool.and_eq_true_iff.1 hc
  exact ⟨hsig, List.all_eq_true.1 hall⟩

/-! ### The statement -/

/-- Settles O59: each word by the law of its own block, and each step of bring-up by its own. -/
theorem registersAreWritten : Obligations.RegistersAreWritten := by
  intro s
  refine ⟨fun cl o hp => ?control, fun o hp => ?hub, ?sluice, fun ha => ?accept, ⟨_, rfl, rfl⟩, ⟨_, rfl, rfl, rfl, rfl⟩,
    fun hb => ⟨_, rfl, fun hok => ?pass, fun hbad => State.checkConfig_bad hb hbad⟩⟩
  case control =>
    refine ⟨fun h _ => ⟨_, exec_registerWrite_control hp, fun c hc => s.cluster_writeControl_ne o _ _ hc,
        s.readControl_writeControl_xbase cl _ _ h⟩,
      fun h h' _ => ⟨_, exec_registerWrite_control hp, s.readControl_writeControl_bankFormat cl _ _ h h'⟩, ?_,
      fun h h' => ⟨_, exec_registerWrite_control hp, s.readControl_writeControl_barrier cl _ _ h h'⟩⟩
    rintro rfl
    exact ⟨_, exec_registerWrite_control hp, s.readControl_writeControl_cpool cl _ _⟩
  case hub =>
    refine ⟨?_, ?_, fun h => ⟨s, ?_, rfl⟩⟩
    · rintro p h h' hw rfl
      exact ⟨_, exec_registerWrite_hub hp, s.writeHub_faultmb _ _ h h' hw⟩
    · rintro n hn rfl
      exact ⟨_, (exec_registerWrite_hub hp).trans (by rw [s.writeHub_rpc _ _ hn]), rfl, by rw [State.svc_onSvc]⟩
    · rw [exec_registerWrite_hub hp, s.writeHub_readOnly _ _ h]
  case sluice =>
    refine ⟨_, rfl, fun hi => ?_, fun h h' => s.readSluice_writeSluice_mbr _ _ _ h h', fun h h' => s.readSluice_writeSluice_win _ _ _ h h'⟩
    rw [State.writeSluice, if_pos hi, State.sluiceOf_writeSluiceHead]
    refine ⟨rfl, rfl, rfl, fun hr => ?_, fun hr => ?_⟩
    · rw [(s.partRefused_iff _ _).2 hr]
      exact ⟨rfl, rfl⟩
    · rw [Bool.eq_false_iff.2 (mt (s.partRefused_iff _ _).1 hr)]
      exact ⟨rfl, rfl⟩
  case accept =>
    obtain ⟨hsec, hval⟩ := s.writeAccept_first (BitVec.ofNat 64 s.focus.n) s.focus.data
      (o := s.focus.addr % 0x1000) (by omega)
    exact ⟨_, rfl, hsec, hval⟩
  case pass =>
    rw [State.checkConfig_pass hb hok]
    exact ⟨rfl, rfl, rfl⟩

end Sys2Proof.Machine
end

section
/-! Integer loads and stores of the local load/store unit: the address that their checks have passed, and the bytes that a store puts
there (05 R179, R180). -/

namespace Sys2Proof.Machine

/-- A byte access whose checks have passed goes through a capability whose descriptor stands (05 R179). -/
theorem State.selected_of_lsBytesErr {n : Nat} {store : Bool} {s : State} {x : Trig} (h : lsBytesErr n store s x = none) :
    ∃ cap d, x.at_.rk x.k = .cap cap ∧ s.descOf cap = some d ∧ s.selected x = some (cap, d) := by
  cases hsel : s.selected x with
  | none =>
    simp only [lsBytesErr, hsel] at h
    split at h <;> contradiction
  | some p =>
    obtain ⟨cap, hcap, hmap⟩ := Option.bind_eq_some_iff.1 hsel
    obtain ⟨d, hd, rfl⟩ := Option.map_eq_some_iff.1 hmap
    refine ⟨cap, d, ?_, hd, rfl⟩
    generalize x.at_.rk x.k = r at hcap ⊢
    cases r <;> simp_all [KReg.cap?]

/-- The start of a word changes no descriptor, so its operation selects the buffer that its checks did (05 R180). -/
theorem lsAddr_opened {s : State} {op : Op} {m : Arg} {x : Trig} {cap : Cap} {d : Desc} (h : s.selected x = some (cap, d)) :
    lsAddr (s.opened op m) x = d.base.toNat + x.t.toNat := by
  have hsel : (s.opened op m).selected x = s.selected x := rfl
  simp only [lsAddr, hsel, h]

/-- The trigger of an integer load, by its row (05 R180). -/
theorem trigger_ls_load {op : LsOp} {n : Nat} {signed : Bool}
    (h : (op, n, signed) ∈ [(LsOp.ldb, 1, true), (.ldbu, 1, false), (.ldh, 2, true), (.ldhu, 2, false), (.ldw, 4, true),
      (.ldwu, 4, false), (.ldd, 8, false)]) : ∃ dword, trigger (.ls op) = trigLoad n signed dword := by
  simp only [List.mem_cons, Prod.mk.injEq, List.not_mem_nil, or_false] at h
  obtain ⟨rfl, rfl, rfl⟩ | ⟨rfl, rfl, rfl⟩ | ⟨rfl, rfl, rfl⟩ | ⟨rfl, rfl, rfl⟩ | ⟨rfl, rfl, rfl⟩ | ⟨rfl, rfl, rfl⟩ | ⟨rfl, rfl, rfl⟩ := h <;>
    exact ⟨_, rfl⟩

/-- The trigger of an integer store, by its row (05 R180). -/
theorem trigger_ls_store {op : LsOp} {n : Nat} (h : (op, n) ∈ [(LsOp.stb, 1), (.sth, 2), (.stw, 4), (.std, 8)]) :
    n ≤ 8 ∧ ∃ dword, trigger (.ls op) = trigStore n dword := by
  simp only [List.mem_cons, Prod.mk.injEq, List.not_mem_nil, or_false] at h
  obtain ⟨rfl, rfl⟩ | ⟨rfl, rfl⟩ | ⟨rfl, rfl⟩ | ⟨rfl, rfl⟩ := h <;> exact ⟨by decide, _, rfl⟩

/-- The bytes of a number one by one (00 R3). -/
theorem leBytes_eq_map (n x : Nat) : leBytes n x = (List.range n).map (fun j => BitVec.ofNat 8 (x / 256 ^ j)) := by
  induction n generalizing x with
  | zero => rfl
  | succ n ih =>
    simp only [leBytes, ih, List.range_succ_eq_map, List.map_cons, List.map_map, pow_zero, Nat.div_one, Function.comp_def,
      Nat.div_div_eq_div_mul, pow_succ']

/-- The bit changes of whole bytes one by one. -/
theorem bitWrites_eq_map (a : Nat) (bs : List Byte) :
    bitWrites a bs = bs.zipIdx.map (fun p => ⟨a + p.2, 0xFF, p.1⟩) := by
  have key : ∀ (k : Nat), bitWrites (a + k) bs = (bs.zipIdx k).map (fun p => ⟨a + p.2, 0xFF, p.1⟩) := by
    induction bs with
    | nil => exact fun _ => rfl
    | cons b bs ih => exact fun k => by rw [bitWrites, Nat.add_assoc, ih, List.zipIdx_cons, List.map_cons]
  exact key 0

/-- The first `n` bytes of a 64-bit value as a store makes them, low byte first (00 R3; 05 R180). -/
theorem bitWrites_take_imageBytes (a : Nat) (v : Word) {n : Nat} (h : n ≤ 8) :
    bitWrites a ((imageBytes v).take n) = (List.range n).map (fun j => ⟨a + j, 0xFF, v.extractLsb' (8 * j) 8⟩) := by
  have hbyte (j : Nat) : v.extractLsb' (8 * j) 8 = BitVec.ofNat 8 (v.toNat / 256 ^ j) := by
    rw [BitVec.extractLsb', Nat.shiftRight_eq_div_pow, Nat.pow_mul]
  rw [bitWrites_eq_map, imageBytes, leBytes_eq_map, ← List.map_take, List.take_range, Nat.min_eq_left h]
  refine List.ext_getElem (by simp) fun j _ _ => ?_
  simp [hbyte]

/-- Settles O20: the load reads at the address that its checks have passed (05 R180). -/
theorem localLoads : Obligations.LocalLoads := by
  intro s i op m n signed h hrow hbit
  obtain ⟨dword, htr⟩ := trigger_ls_load hrow
  have hb : (s.trigOf (.ls op) m).bankAccess = false := hbit
  have hcheck := h.carries.checks
  simp only [htr, trigLoad, hb, Bool.false_eq_true, if_false] at hcheck
  obtain ⟨cap, d, hcap, hd, hsel⟩ := State.selected_of_lsBytesErr hcheck
  obtain ⟨t, ht, hdel⟩ := delivers_of_start (lat := 4) (slow := false)
    (r := .load (.bytes (d.base.toNat + (s.moved m).toNat) n signed) s.me.rm []) h
    (by simp only [htr, trigLoad, hb, Bool.false_eq_true, if_false, lsAddr_opened hsel]; rfl) (by rw [htr]; rfl)
  exact ⟨t, cap, d, hcap, hd, ht, hdel⟩

/-- Settles O21: the store waits with the bytes of its latch, at the address that its checks have passed (05 R180). -/
theorem localStores : Obligations.LocalStores := by
  intro s i op m n h hrow hbit
  obtain ⟨hn, dword, htr⟩ := trigger_ls_store hrow
  have hb : (s.trigOf (.ls op) m).bankAccess = false := hbit
  have hcheck := h.carries.checks
  simp only [htr, trigStore, hb, Bool.false_eq_true, if_false] at hcheck
  obtain ⟨cap, d, hcap, hd, hsel⟩ := State.selected_of_lsBytesErr hcheck
  obtain ⟨t, ht, hst⟩ := stores_of_store (lat := 4) h
    (by simp only [htr, trigStore, hb, Bool.false_eq_true, if_false, lsAddr_opened hsel, bitWrites_take_imageBytes _ _ hn]; rfl)
    (by rw [htr]; rfl)
  exact ⟨t, cap, d, hcap, hd, ht, hst⟩

end Sys2Proof.Machine
end

section
/-! A word whose operation goes into flight: its ring entry, its flight, and what the issue leaves alone (02 R85, R92 to R94). -/

namespace Sys2Proof.Machine

/-! ### The last copy-like operation, which a word alone does not change (09 R310) -/

theorem Core.lastCopy_raiseTrap (c : Core) (d : TrapDue) : (c.raiseTrap d).lastCopy = c.lastCopy := by
  unfold Core.raiseTrap
  split <;> rfl

theorem State.lastCopy_opened (s : State) (op : Op) (m : Arg) : ((s.opened op m).core s.turn).lastCopy = s.me.lastCopy := by
  unfold State.opened State.sourced State.originEffects
  simp only [State.core_onCore]
  obtain ⟨w, hw⟩ := Core.onlyWalkers_foldl (List.filterMap Slot.walker? [Arg.slot op m]).eraseDups (s.core s.turn)
  rw [hw, Core.sbInc_eq]
  rfl

theorem State.lastCopy_afterHit (s : State) (n : Nat) (hs : List Hit) :
    ((s.afterHit n hs).core n).lastCopy = (s.core n).lastCopy := by
  unfold State.afterHit
  split
  · rfl
  · split
    · rw [State.core_onCore, Core.lastCopy_raiseTrap]
    · rw [State.core_onCore, Core.lastCopy_raiseTrap]
    · obtain ⟨ms, hms⟩ := s.reportHit_msgs n ‹Hit›
      rw [hms]
      rfl

theorem State.lastCopy_takeOwed (s : State) (n : Nat) (o : Owe) (next : CodePtr) (h : o.kind ≠ .rett) :
    ((s.takeOwed n o next).core n).lastCopy = (s.core n).lastCopy := by
  unfold State.takeOwed
  split
  case h_7 => exact absurd ‹_› h
  all_goals simp only [State.core_onCore]
  case h_1 => split <;> rfl
  case h_5 =>
    split
    · rw [Core.lastCopy_raiseTrap]
    · rfl
  case h_6 => rw [Core.lastCopy_raiseTrap]

theorem lastCopy_issueOne {s : State} {op : Op} {m : Arg} (h : s.Carries op m) (hr : s.noReturn) :
    ((issueOne op (trigger op) m s).core s.turn).lastCopy = ((s.operated op m).core s.turn).lastCopy := by
  cases ho : s.me.owe with
  | none => rw [issueOne_plain h ho, State.lastCopy_afterHit, State.core_onCore, State.core_onCore]; rfl
  | some o =>
    rw [issueOne_owed h ho (hr o ho), State.lastCopy_afterHit, State.lastCopy_takeOwed _ _ _ _ (hr o ho), State.core_onCore,
      State.core_onCore]
    rfl

/-! ### A word whose operation changes the device (02 R85, R92) -/

/-- What a single-trigger word comes to whose operation leaves the device as `u` has it, but for the core, messages and blocks of
traces: `b` is the core as the operation leaves it, `c` the core after the word (02 R85). -/
theorem word_of_perform {s u : State} {i : Instr} {op : Op} {m : Arg} {b : Core} (h : s.Runs i op m)
    (hb : u.SameBut ((trigger op).perform (s.opened op m) (s.trigOf op m)) s.turn b) (hn : (trigger op).sbAtOnce = false) :
    ∃ t c rg st, exec i s = .next t ∧ u.SameBut t s.turn c ∧ ({ b with ranges := rg, stores := st } : Core).Closed c ∧
      c.lastCopy = b.lastCopy ∧ (s.me.owe = none → c.pc = s.me.pc.plus 4) := by
  obtain ⟨rg, st, hnote, -⟩ := hb.noteTouches s.me.order ((trigger op).touches (s.sourced op m) (s.trigOf op m))
  obtain ⟨c, hend, hclosed, hpc⟩ := issueOne_closed h.carries h.plain
  have hop : s.operated op m = ((trigger op).perform (s.opened op m) (s.trigOf op m)).noteTouches s.turn s.me.order
      ((trigger op).touches (s.sourced op m) (s.trigOf op m)) := by simp [State.operated, hn]
  have hcopy := lastCopy_issueOne h.carries h.plain
  rw [← hop] at hnote
  rw [hnote.core] at hclosed hcopy
  rw [hend.core] at hcopy
  exact ⟨_, c, rg, st, exec_trigger h.word s, hnote.trans hend, hclosed, hcopy, fun ho => (hpc ho).1⟩

/-- States that differ in one core do so with other operations in flight and other requests on their way. -/
theorem State.SameBut.withFlights {s t : State} {n : Nat} {c : Core} (h : s.SameBut t n c) (fs : List Flight) (as : List Request) :
    ({ s with flights := fs, asks := as } : State).SameBut { t with flights := fs, asks := as } n c := by
  obtain ⟨hcores, ⟨ms, hrest⟩, hblocks⟩ := h
  exact ⟨hcores, ⟨ms, by rw [hrest]⟩, hblocks⟩

theorem Core.ringAt_setRing_same (c : Core) (q : BitVec 16) (e : RingEntry) : (c.setRing q e).ringAt q = e := by
  simp [Core.setRing, Core.ringAt]

theorem Core.ringAt_setRing_ne (c : Core) {q p : BitVec 16} (e : RingEntry) (h : p.toNat % 64 ≠ q.toNat % 64) :
    (c.setRing q e).ringAt p = c.ringAt p := by
  simp [Core.setRing, Core.ringAt, Ne.symm h]

/-- The operation that a word's trigger issues is the one that the state at the word's start describes (02 R93). -/
theorem flight_opened {s : State} (op : Op) (m : Arg) (n : Nat) (hc : isCompute s.turn = true) :
    (s.trigOf op m).flight (s.opened op m) n = s.started op m n := by
  obtain ⟨-, hop⟩ := s.opened_spec op m
  unfold Trig.flight State.started
  simp only [State.trigOf, State.view, hc, if_true]
  rw [hop.regs.seq, hop.pc, hop.regs.res, hop.cyc]
  rfl

/-- What a compute core puts in flight takes its next sequence number and ring entry (02 R93, R94). -/
theorem State.launch_compute {s : State} {f : Flight} (h : isCompute f.agent = true) :
    s.launch f = { s.onCore f.agent (·.takeSeq f) with flights := s.flights ++ [f] } := by
  rw [State.launch, h]
  rfl

/-- States that differ in one core do so once the core's operation is in flight in both. -/
theorem State.SameBut.launch {s t : State} {c : Core} {f : Flight} (h : s.SameBut t f.agent c) (hc : isCompute f.agent = true)
    (as : List Request) : ({ s with flights := s.flights ++ [f], asks := as } : State).SameBut { t.launch f with asks := as }
      f.agent (c.takeSeq f) := by
  have hfl : t.flights = s.flights := by
    obtain ⟨-, ⟨ms, hrest⟩, -⟩ := h
    rw [hrest]
  rw [State.launch_compute hc, hfl]
  exact (h.onCore (·.takeSeq f)).withFlights (s.flights ++ [f]) as

@[simp] theorem State.launch_asks (s : State) (f : Flight) : (s.launch f).asks = s.asks := by
  unfold State.launch
  split <;> rfl

/-- The registers that a trigger leaves as they are, across the issue of its operation and the end of its word. -/
theorem Core.SameRegs.sameAtIssue {a b c : Core} {f : Flight} {rg : List TraceRange} {st : List LocalStore} (h : a.SameRegs b)
    (k : ({ b.takeSeq f with ranges := rg, stores := st } : Core).SameRegs c) : a.SameAtIssue c where
  g := k.g.trans h.g
  q := k.q.trans h.q
  ports := k.ports.trans h.ports
  lnk := k.lnk.trans h.lnk
  epc := k.epc.trans h.epc
  cause := k.cause.trans h.cause
  rm := k.rm.trans h.rm
  xb := k.xb.trans h.xb
  ovh := k.ovh.trans h.ovh
  bf := k.bf.trans h.bf
  shadow := k.shadow.trans h.shadow
  m := k.m.trans h.m
  timed := k.timed.trans h.timed
  sluice := k.sluice.trans h.sluice
  subs := k.subs.trans h.subs
  code := k.code.trans h.code
  res := k.res.trans h.res
  taken := k.taken.trans h.taken
  reissue := k.reissue.trans h.reissue

/-- A word whose operation puts one operation in flight, and requests of it on their way, has set it out (02 R92 to R94). -/
theorem setsOut_of_launch {s : State} {i : Instr} {op : Op} {m : Arg} {f : Flight} (rs : List Request) (h : s.Runs i op m)
    (hc : isCompute s.turn = true) (hn : (trigger op).sbAtOnce = false)
    (hf : f.agent = s.turn ∧ f.seq = s.me.seq ∧ f.entry = (s.started op m 0).entry)
    (hp : (trigger op).perform (s.opened op m) (s.trigOf op m) =
      { (s.opened op m).launch f with asks := s.asks ++ rs }) :
    ∃ t, exec i s = .next t ∧ s.SetsOut t op m f ∧ s.CapsAre t (fun _ => none) ∧ t.asks = s.asks ++ rs := by
  obtain ⟨hagent, hseq, hentry⟩ := hf
  obtain ⟨hs, hop⟩ := s.opened_spec op m
  have hopened := s.lastCopy_opened op m
  generalize (s.opened op m).core s.turn = a at hs hop hopened
  have hb : ({ s with flights := s.flights ++ [f], asks := s.asks ++ rs } : State).SameBut
      ((trigger op).perform (s.opened op m) (s.trigOf op m)) s.turn (a.takeSeq f) := by
    rw [hp]
    exact hagent ▸ (hagent ▸ hs : s.SameBut (s.opened op m) f.agent a).launch (hagent ▸ hc) (s.asks ++ rs)
  obtain ⟨t, c, rg, st, hexec, hsame, hclosed, hcopy, hpc⟩ := word_of_perform h hb hn
  have hcore := hsame.core
  have hregs := hclosed.regs
  have hold := hop.regs
  have hcv : c.v = s.me.v := hregs.v.trans hold.v
  have hcmx : c.mx = s.me.mx := hregs.mx.trans hold.mx
  obtain ⟨hothers, hbytes, -, -⟩ := hsame.sameRest hcv (congrArg Mx.acc hcmx)
  have hfl : t.flights = s.flights ++ [f] := by
    obtain ⟨-, ⟨ms, hrest⟩, -⟩ := hsame
    rw [hrest]
  have hring : c.ring = (a.takeSeq f).ring := hregs.ring
  have hentryAt : (t.core s.turn).ringAt s.me.seq = (s.started op m 0).entry := by
    rw [hcore, ← hentry, ← Core.ringAt_setRing_same a s.me.seq f.entry, ← hseq]
    simp only [Core.ringAt, hring, Core.takeSeq]
  have hsb : (t.core s.turn).sb = (s.me.sbInc m.sb).sb := by
    rw [hcore, hclosed.sb]
    exact hop.sb
  refine ⟨t, hexec, ?_, fun k => ?_, ?_⟩
  case refine_3 =>
    obtain ⟨-, ⟨ms, hrest⟩, -⟩ := hsame
    rw [hrest]
  case refine_2 =>
    simp only [hcore, Core.rk, hregs.k]
    simp only [Core.takeSeq, Core.setRing, hold.k, Option.getD_none]
  refine
    { seq := ?seq, entry := ?entry, ring := ?ring, stages := ?stages, order := ?order, pc := ?pc, sflags := ?sflags
      vflags := ?vflags, registers := ?registers, watch := ?watch, others := ?others, earlier := ?earlier, v := ?v
      apart := ?apart, bytes := hbytes, mx := fun _ => ?mx, sig := fun _ => ⟨?sig, ?lastCopy⟩, batches := fun _ _ _ _ => ?batches
      away := ?away, listed := ?listed, issued := ?issued, counted := hsb, stops := ?stops, flights := hfl }
  case seq =>
    rw [hcore, hregs.seq]
    exact congrArg (· + 1) hold.seq
  case entry =>
    rw [hentryAt]
    exact ⟨rfl, rfl, rfl, rfl, rfl, rfl⟩
  case ring =>
    intro q hq
    rw [hcore]
    have hne := Core.ringAt_setRing_ne a f.entry (hseq ▸ hq)
    simp only [Core.ringAt, hring, Core.takeSeq, hold.ring] at hne ⊢
    exact hne
  case stages =>
    rw [hcore, hclosed.stages]
    show a.stages.map _ = _
    rw [hop.stages]
    rfl
  case order =>
    rw [hcore, hclosed.order]
    exact congrArg (· + 4) hop.order
  case pc => rw [hcore]; exact hpc
  case sflags => rw [hcore, hclosed.sflags]; exact hop.sflags
  case vflags => rw [hcore, hclosed.vflags]; exact hop.vflags
  case registers =>
    rw [hcore]
    exact hold.sameAtIssue hregs
  case watch =>
    intro n w hw
    rw [hcore, hregs.watch]
    exact .inl ((congrArg (·[n]?) hold.watch).trans hw)
  case others => exact fun k hk => ⟨_, _, _, _, _, hothers k hk⟩
  case earlier => exact fun g hg => ⟨g, by simp [hfl, hg], rfl, rfl⟩
  case v => rw [hcore]; exact hcv
  case apart =>
    intro k hk
    rw [hothers k hk]
    exact ⟨rfl, rfl⟩
  case mx => rw [hcore]; exact hcmx
  case sig => rw [hcore]; exact hregs.sig.trans hold.sig
  case lastCopy => rw [hcore, hcopy]; exact hopened
  case batches => rw [hcore]; exact hregs.batches.trans hold.batches
  case away =>
    intro k _
    by_cases hk : k = s.turn
    · rw [hk, hcore]
      exact ⟨hregs.vaway.trans hold.vaway, hregs.taway.trans hold.taway⟩
    · rw [hothers k hk]
      exact ⟨rfl, rfl⟩
  case listed => simp [hfl]
  case issued => rw [hentryAt]; rfl
  case stops => rw [hcore]; exact hregs.stops.trans hold.stops

/-- The sluice of a compute core is as it was when its word's operation meets it (08 R301). -/
theorem sluiceOf_opened (s : State) (op : Op) (m : Arg) (hc : isCompute s.turn = true) :
    (s.opened op m).sluiceOf s.turn = s.sluiceOf s.turn := by
  obtain ⟨-, hop⟩ := s.opened_spec op m
  simp only [State.sluiceOf, hc, if_true]
  exact hop.regs.sluice

/-- A word whose operation's checks fail stops its core with that fault, and nothing else changes (02 R85). -/
theorem exec_wordFault {s : State} {i : Instr} {op : Op} {m : Arg} {e : Err} (hw : i.trigger? = some (op, m)) (h : s.Tries op m)
    (he : (trigger op).check s (s.trigOf op m) = some e) :
    exec i s = .next (s.onCore s.turn (fun c => { c with
      mode := .stopping (preciseStop s.me.pc (some (Arg.slot op m)) e), hold := .none })) := by
  rw [exec_trigger hw, issueOne_tries h, he]
  rfl

end Sys2Proof.Machine
end

section
/-! Operations on the scheduler: the requests that a compute core sends, and tickets and gang through the port page of a kernel core (10
R353, R362, R366, R373, R387, R389; 13 R478). -/

namespace Sys2Proof.Machine

/-! ### Words of a compute core (10 R353, R362, R366) -/

/-- An operation of the scheduler that sends a request, or is refused where the sluice is off (08 R301; log 129). -/
theorem setsOut_of_sqAsk {s : State} {i : Instr} {op : SqOp} {m : Arg} {a : Ask} (h : s.Runs i (.sq op) m)
    (hc : isCompute s.turn = true) (htr : trigger (.sq op) = trigSq op)
    (hask : ∀ S, sqPerform op S (s.trigOf (.sq op) m) = sqAsk a S (s.trigOf (.sq op) m)) (hkeep : op = .dec ∨ op = .fillf) :
    let r := s.me.res.getD Resident.none
    ∃ t f n, exec i s = .next t ∧ s.SetsOut t (.sq op) m f ∧ s.CapsAre t (fun _ => none) ∧
      ((s.sluiceOf s.turn).en = true → f = { s.started (.sq op) m n with phase := .request } ∧
        t.asks = s.asks ++ [⟨a, r.part, s.turn, some s.me.seq, r.launch, r.wid⟩]) ∧
      ((s.sluiceOf s.turn).en = false → f = { s.started (.sq op) m n with phase := .ready, fault := some ⟨0x20, 0, 1⟩ } ∧
        t.asks = s.asks) := by
  intro r
  have hdone : (trigger (.sq op)).sbAtOnce = false := by rw [htr]; rfl
  have hfl := flight_opened (s := s) (.sq op) m (sqCycles (s.trigOf (.sq op) m)) hc
  have hen : ((s.opened (.sq op) m).sluiceOf (s.trigOf (.sq op) m).c).en = (s.sluiceOf s.turn).en :=
    congrArg Sluice.en (sluiceOf_opened s (.sq op) m hc)
  refine (Bool.eq_false_or_eq_true (s.sluiceOf s.turn).en).elim (fun hon => ?on) (fun hoff => ?off)
  case on =>
    obtain ⟨t, ht, hout, hcaps, hasks⟩ := setsOut_of_launch
      (f := { s.started (.sq op) m (sqCycles (s.trigOf (.sq op) m)) with phase := .request })
      [⟨a, r.part, s.turn, some s.me.seq, r.launch, r.wid⟩] h hc hdone ⟨rfl, rfl, rfl⟩ (by
        simp only [htr, trigSq]
        rw [Trig.throughSluice, hen, if_pos hon, if_pos hkeep, hask, sqAsk, hfl]
        simp only [State.launch_asks]
        rfl)
    exact ⟨t, _, _, ht, hout, hcaps, fun _ => ⟨rfl, hasks⟩, fun hoff => by simp [hon] at hoff⟩
  case off =>
    obtain ⟨t, ht, hout, hcaps, hasks⟩ := setsOut_of_launch
      (f := { s.started (.sq op) m (sqCycles (s.trigOf (.sq op) m)) with phase := .ready, fault := some ⟨0x20, 0, 1⟩ })
      [] h hc hdone ⟨rfl, rfl, rfl⟩ (by
        simp only [htr, trigSq]
        rw [Trig.throughSluice, hen, if_neg (by simp [hoff]), Trig.detach, hfl, List.append_nil]
        have hasks := State.launch_asks (s.opened (.sq op) m)
          { s.started (.sq op) m (sqCycles (s.trigOf (.sq op) m)) with phase := .ready, fault := some ⟨0x20, 0, 1⟩ }
        rw [show s.asks = (s.opened (.sq op) m).asks from rfl, ← hasks])
    exact ⟨t, _, _, ht, hout, hcaps, fun hon => by simp [hoff] at hon, fun _ => ⟨rfl, by rw [hasks, List.append_nil]⟩⟩

/-- Where the fields of tickets or gang pass, a compute core may not issue it (10 R366). -/
theorem sqErr_kernel {s : State} {op : SqOp} {x : Trig} (hc : isCompute x.c = true) (hop : op = .tickets ∨ op = .gang)
    (hok : x.t &&& ~~~sqTBits op = 0 ∧ x.o &&& ~~~sqOBits op = 0 ∧ sqRangeOk op x.t x.o = true) :
    sqErr op s x = some ⟨0x11, s.free 0, 0x80⟩ := by
  obtain ⟨ht, ho, hr⟩ := hok
  obtain rfl | rfl := hop <;> simp [sqErr, ht, ho, hr, require, firstErr, sluiceKind, hc]

theorem check_sq (op : SqOp) : (trigger (.sq op)).check = sqErr op := by cases op <;> rfl

/-! ### The port page of a kernel core (13 R478) -/

theorem not_isCompute_of_kernel {x : Nat} (h : sluiceKind x = 0b10) : isCompute x = false := by
  cases hc : isCompute x with
  | false => rfl
  | true => simp [sluiceKind, hc] at h

/-- A store of a service or kernel core that completes leaves what its operations have set (13 R474). -/
theorem Svc.complete_store {v : Svc} {r : RawAccess} (w : Word) (h : r.kind = .store) :
    (v.complete r w).access = none ∧ (v.complete r w).seq = v.seq ∧ (v.complete r w).pseq = v.pseq := by
  simp only [Svc.complete, h]
  split <;> exact ⟨rfl, rfl, rfl⟩

/-- A pending store to the port page is a store (13 R478). -/
theorem State.kind_of_portAccess {s : State} {x a : Nat} {v : Word} {r : RawAccess} (hr : (s.svc x).access = some r)
    (h : s.portAccess x true = some (a, v)) : r.kind = .store := by
  obtain ⟨q, hq, -⟩ := Option.map_eq_some_iff.1 h
  obtain ⟨hsome, hok⟩ := Option.filter_eq_some_iff.1 hq
  obtain rfl : r = q := Option.some.inj (hr.symm.trans hsome)
  simp only [Bool.and_eq_true, beq_iff_eq] at hok
  exact hok.1.2

/-- A service or kernel core whose next sequence number has been taken (13 R478, R479). -/
def Svc.takeSeq (v : Svc) : Svc := { v with seq := v.seq + 1, pseq := v.seq }

/-- What a service or kernel core puts in flight takes its next sequence number (13 R478). -/
theorem State.launch_svc {s : State} {f : Flight} (h : isCompute f.agent = false) :
    s.launch f = { s.onSvc f.agent Svc.takeSeq with flights := s.flights ++ [f] } := by
  rw [State.launch, h]
  rfl

/-- An operation that a port-page store triggers is in flight, and the store completes (13 R478, R479). -/
theorem State.portDone_launch {s : State} {f : Flight} {r : RawAccess} (w : Word) (hf : isCompute f.agent = false)
    (hr : (s.svc f.agent).access = some r) (hk : r.kind = .store) :
    let t := (s.launch f).portDone f.agent w
    t = { s with svcs := t.svcs, flights := t.flights } ∧ t.flights = s.flights ++ [f] ∧
      (t.svc f.agent).seq = (s.svc f.agent).seq + 1 ∧ (t.svc f.agent).pseq = (s.svc f.agent).seq ∧ (t.svc f.agent).access = none := by
  have hsvc : (s.launch f).svc f.agent = (s.svc f.agent).takeSeq := by
    rw [State.launch_svc hf]
    exact s.svc_onSvc _ _
  have hacc : (s.svc f.agent).takeSeq.access = some r := hr
  have hdone : ((s.launch f).portDone f.agent w).svc f.agent = (s.svc f.agent).takeSeq.complete r w := by
    rw [State.portDone, State.svc_onSvc, hsvc, hacc]
  obtain ⟨hnone, hseq, hpseq⟩ := Svc.complete_store (v := (s.svc f.agent).takeSeq) w hk
  refine ⟨?_, ?_, hdone ▸ hseq, hdone ▸ hpseq, hdone ▸ hnone⟩
  all_goals
    rw [State.portDone, State.launch_svc hf]
    rfl

/-- No request of an agent is on its way that its later operations must let arrive first (01 R19). -/
theorem State.settleAsks_eq_self {s : State} {a : Nat} (h : ∀ q ∈ s.asks, q.agent = a → q.seq = none) : s.settleAsks a = s := by
  have hnone : ∀ q ∈ s.asks, (q.agent == a && q.seq.isSome) = false := fun q hq => by
    by_cases hqa : q.agent = a
    · simp [h q hq hqa]
    · simp [hqa]
  have hf : s.asks.filter (fun q => q.agent == a && q.seq.isSome) = [] :=
    List.filter_eq_nil_iff.2 fun q hq => by simp [hnone q hq]
  have hk : s.asks.filter (fun q => !(q.agent == a && q.seq.isSome)) = s.asks :=
    List.filter_eq_self.2 fun q hq => by simp [hnone q hq]
  simp only [State.settleAsks, hf, hk, List.foldl_nil]

/-- A port-page store to a trigger of the scheduler whose checks pass (13 R478). -/
theorem exec_portPageStore_sq {s : State} {op : SqOp} {a : Nat} {v : Word} (h : s.portAccess s.focus.sluice true = some (a, v))
    (ha : a < 0x3F00) (ht : Target.ofCode (BitVec.ofNat 11 (a / 8)) = .trig (.sq op))
    (hok : s.portErr (s.portTrig s.focus.sluice (.sq op) v) = none) :
    exec .portPageStore s =
      .next (((trigger (.sq op)).perform s (s.portTrig s.focus.sluice (.sq op) v)).portDone s.focus.sluice 0) := by
  have h1 : ¬ (a = 0x3F20 ∨ a = 0x3F28) := by omega
  show execPortPageStore s = _
  simp only [execPortPageStore, h, if_neg h1, State.portStore, if_pos ha, State.portMove, ht, hok]
  rfl

/-- A change of a queue is made, but for the pass that it may take (10 R359). -/
theorem State.queue_changeQueue (s : State) (q : Nat) (g : Queue → Queue) :
    ∃ p, (s.changeQueue q g).queue q = { g (s.queue q) with pass := p } := by
  have hq : (s.changeQueue q g).queue q =
      if (g (s.queue q)).active && !(s.queue q).active then { g (s.queue q) with pass := s.gpass } else g (s.queue q) := by
    simp only [State.changeQueue, State.onQueue, State.queue, tabFind_tabPut_same, Option.getD_some]
  rw [hq]
  split
  · exact ⟨_, rfl⟩
  · exact ⟨(g (s.queue q)).pass, rfl⟩

theorem State.queue_changeQueue_ne (s : State) {q p : Nat} (g : Queue → Queue) (h : p ≠ q) :
    (s.changeQueue q g).queue p = s.queue p := by
  simp [State.changeQueue, State.onQueue, State.queue, tabFind_tabPut_ne _ _ h]


/-- Bytes read as before where no more than service cores, queues and what is in flight has changed (01 R19). -/
theorem State.byteAt_of_svcs {s t : State} (hm : t.mem = s.mem) (hc : t.cores = s.cores) (hl : t.clusters = s.clusters) (b : Nat) :
    t.byteAt b = s.byteAt b := by
  refine State.byteAt_congr hm (fun c => ?_) (fun c => ?_) (fun c => ?_) b
  · simp only [State.core, hc]
  · simp only [State.core, hc]
  · simp only [State.cluster, hl]

/-- A port-page store to an operation of the scheduler that does its work at once, `u`: the operation is in flight, ready, with its
result, and the store completes (13 R478). -/
theorem exec_portPageStore_sqDone {s u : State} {op : SqOp} {r : RawAccess} {a n : Nat} {v w : Word}
    (hr : (s.svc s.focus.sluice).access = some r) (hacc : s.portAccess s.focus.sluice true = some (a, v)) (ha : a < 0x3F00)
    (htgt : Target.ofCode (BitVec.ofNat 11 (a / 8)) = .trig (.sq op)) (hx : sluiceKind s.focus.sluice = 0b10)
    (hok : s.portErr (s.portTrig s.focus.sluice (.sq op) v) = none)
    (hp : (trigger (.sq op)).perform s (s.portTrig s.focus.sluice (.sq op) v) =
      sqDone ((s.portTrig s.focus.sluice (.sq op) v).flight s n) w u)
    (hu : u = { s with queues := u.queues, gang := u.gang, gstat := u.gstat }) :
    let x := s.focus.sluice
    ∃ t f, exec .portPageStore s = .next t ∧ t = { u with svcs := t.svcs, flights := t.flights } ∧ t.flights = s.flights ++ [f] ∧
      f.agent = x ∧ f.seq = (s.svc x).seq ∧ f.op = .sq op ∧ f.phase = .ready ∧ f.result = some w ∧
      (t.svc x).seq = (s.svc x).seq + 1 ∧ (t.svc x).pseq = (s.svc x).seq ∧ (t.svc x).access = none ∧
      ∀ b, t.byteAt b = s.byteAt b := by
  intro x
  have hc : isCompute x = false := not_isCompute_of_kernel hx
  have hview : s.view x = (s.svc x).view := by rw [State.view, hc]; rfl
  have hsvc : u.svc x = s.svc x := by rw [hu]; rfl
  have hfl : u.flights = s.flights := by rw [hu]
  obtain ⟨f, hf⟩ : ∃ f : Flight, f = { (s.portTrig x (.sq op) v).flight s n with phase := .ready, result := some w } := ⟨_, rfl⟩
  have hagent : f.agent = x := by rw [hf]; rfl
  have hseq : f.seq = (s.svc x).seq := by
    rw [hf]
    exact congrArg Core.seq hview
  obtain ⟨heq, hflights, hnext, hlast, hnone⟩ := State.portDone_launch (s := u) (f := f) 0 (hagent ▸ hc)
    (by rw [hagent, hsvc]; exact hr) (State.kind_of_portAccess hr hacc)
  rw [hagent] at heq hflights hnext hlast hnone
  rw [hsvc] at hnext hlast
  generalize ht : (u.launch f).portDone x 0 = t at heq hflights hnext hlast hnone
  have hexec := exec_portPageStore_sq hacc ha htgt hok
  rw [hp, sqDone, ← hf, ht] at hexec
  refine ⟨t, f, hexec, heq, by rw [hflights, hfl], hagent, hseq, by rw [hf]; rfl, by rw [hf], by rw [hf], hnext, hlast, hnone,
    State.byteAt_of_svcs ?_ ?_ ?_⟩
  all_goals rw [heq, hu]

/-- A field of a word, as a number and as bits (02 R107). -/
theorem fieldN_eq_extractLsb' (x : Word) (lo w : Nat) : fieldN x.toNat lo w = (x.extractLsb' lo w).toNat := by
  rw [BitVec.extractLsb'_toNat, Nat.shiftRight_eq_div_pow, fieldN]

/-- CODE 5 of a refused switch (10 R389). -/
theorem code_gangRefused (g : Word) : ((g &&& ~~~0xFF#64) ||| 5#64).extractLsb' 0 8 = 5 := by
  ext i hi
  simp only [BitVec.getElem_extractLsb', BitVec.getLsbD_or, BitVec.getLsbD_and, BitVec.getLsbD_not]
  interval_cases i <;> simp

/-- A posted switch is in progress, with CODE 0 (10 R389). -/
theorem code_gangPosted (g : Word) : ((g &&& ~~~0x1FF#64) ||| 0x100#64).extractLsb' 0 9 = 0x100 := by
  ext i hi
  simp only [BitVec.getElem_extractLsb', BitVec.getLsbD_or, BitVec.getLsbD_and, BitVec.getLsbD_not]
  interval_cases i <;> simp

theorem State.gangRefused_iff (s : State) (v : Word) : s.gangRefused v = true ↔ s.gang.isSome = true ∨
    v.getLsbD 8 = true ∧ (s.part (v.extractLsb' 0 4)).cmask ≠ (s.part (v.extractLsb' 4 4)).cmask := by
  simp [State.gangRefused]

/-- A queue as tickets sets it (10 R373). -/
def Queue.ticketed (v : Word) (q : Queue) : Queue :=
  { q with part := v.extractLsb' 24 4, en := v.getLsbD 28, tickets := v.extractLsb' 8 13 }

/-- tickets through the port page of a kernel core whose sluice is on (10 R373; 13 R478). -/
theorem perform_tickets {s : State} {x : Nat} {v : Word} (hen : (s.sluiceOf x).en = true)
    (hasks : ∀ q ∈ s.asks, q.agent = x → q.seq = none) :
    let y := s.portTrig x (.sq .tickets) v
    (trigger (.sq .tickets)).perform s y = sqDone (y.flight s (sqCycles y)) 0 (s.changeQueue (v.toNat % 256) (Queue.ticketed v)) := by
  have hturn : (s.portTrig x (.sq .tickets) v).c = x := rfl
  have hq : fieldN v.toNat 0 8 = v.toNat % 256 := by simp [fieldN]
  rw [show trigger (.sq .tickets) = trigSq .tickets from rfl, ← hq]
  simp only [trigSq, Trig.throughSluice, hturn, hen, if_true, reduceCtorEq, or_self, if_false, State.settleAsks_eq_self hasks, sqPerform]
  rfl

/-- Settles O35: the requests are put behind those on their way, the kernel operations fail check 2 on a compute core, and through
the port page they act on their queue or post their switch. -/
theorem schedulerRequests : Obligations.SchedulerRequests := by
  refine ⟨?request, ?precise, ?port⟩
  case request =>
    rintro s i op m h hc (rfl | rfl)
    · exact setsOut_of_sqAsk h hc rfl (fun _ => rfl) (.inl rfl)
    · exact setsOut_of_sqAsk h hc rfl (fun _ => rfl) (.inr rfl)
  case precise =>
    intro s i op m hw htries hc v hfields
    have hkernel : op = .tickets ∨ op = .gang := hfields.imp (·.1) (·.1)
    have hok : v &&& ~~~sqTBits op = 0 ∧ s.me.latchO (.sq op) &&& ~~~sqOBits op = 0 ∧ sqRangeOk op v (s.me.latchO (.sq op)) = true := by
      obtain ⟨rfl, ht, ho, hlo, hhi⟩ | ⟨rfl, ht, hwin⟩ := hfields
      · refine ⟨ht, by rw [ho]; decide, ?_⟩
        rw [← fieldN_eq_extractLsb'] at hlo hhi
        simp [sqRangeOk, hlo, hhi]
      · refine ⟨ht, by simp [sqOBits], ?_⟩
        rw [← fieldN_eq_extractLsb'] at hwin
        simp [sqRangeOk, hwin]
    have herr := (congrFun (congrFun (check_sq op) s) _).trans (sqErr_kernel (s := s) (x := s.trigOf (.sq op) m) hc hkernel hok)
    exact ⟨_, rfl, rfl, rfl, exec_wordFault hw htries herr⟩
  case port =>
    intro s op r a v x hr hacc ha htgt hk hen hasks hok hop
    obtain rfl | rfl := hop
    case inl =>
      obtain ⟨t, f, hexec, heq, hfl, hagent, hseq, hfop, hphase, hres, hnext, hlast, hnone, hbytes⟩ :=
        exec_portPageStore_sqDone hr hacc ha htgt hk hok (perform_tickets hen hasks) rfl
      have hqueue (q : Nat) : t.queue q = (s.changeQueue (v.toNat % 256) (Queue.ticketed v)).queue q := by rw [heq]; rfl
      obtain ⟨p, hput⟩ := s.queue_changeQueue (v.toNat % 256) (Queue.ticketed v)
      refine ⟨t, f, 0, hexec, hfl, hagent, hseq, hfop, hphase, hres, hnext, hlast, hnone, hbytes, fun _ => ⟨rfl, ?_, ?_, ?_, ?_, ?_⟩,
        nofun⟩
      case refine_5 => exact fun q hne => (hqueue q).trans (s.queue_changeQueue_ne _ hne)
      all_goals rw [hqueue, hput]; rfl
    case inr =>
      by_cases hno : s.gangRefused v = true
      · obtain ⟨t, f, hexec, heq, hfl, hagent, hseq, hfop, hphase, hres, hnext, hlast, hnone, hbytes⟩ :=
          exec_portPageStore_sqDone hr hacc ha htgt hk hok (if_pos hno) rfl
        exact ⟨t, f, _, hexec, hfl, hagent, hseq, hfop, hphase, hres, hnext, hlast, hnone, hbytes, nofun,
          fun _ => ⟨fun _ => ⟨by rw [heq], by rw [heq], code_gangRefused _⟩, fun h => absurd ((s.gangRefused_iff v).1 hno) h⟩⟩
      · obtain ⟨t, f, hexec, heq, hfl, hagent, hseq, hfop, hphase, hres, hnext, hlast, hnone, hbytes⟩ :=
          exec_portPageStore_sqDone hr hacc ha htgt hk hok (if_neg hno) rfl
        have hview : s.view x = (s.svc x).view := by rw [State.view, not_isCompute_of_kernel hk]; rfl
        have hg : t.gang = some (gangOf v ((s.svc x).view.latchO (.sq .gang))) := by rw [heq, ← hview]; rfl
        exact ⟨t, f, _, hexec, hfl, hagent, hseq, hfop, hphase, hres, hnext, hlast, hnone, hbytes, nofun,
          fun _ => ⟨fun h => absurd ((s.gangRefused_iff v).2 h) hno,
            fun _ => ⟨_, hg, rfl, rfl, rfl, fieldN_eq_extractLsb' v 16 8, rfl, rfl, by rw [heq], by rw [heq]; exact code_gangPosted _⟩⟩⟩

end Sys2Proof.Machine
end

section
/-! A close marker whose answer goes to a translation walk: the request that it puts where the marker stood (01 R43; 09 R333). -/

namespace Sys2Proof.Machine

/-- A close marker at the slice of die 0 whose answer goes to a translation walk of cluster 0. -/
def markerOfWalk : Req := { asking 2 (.batchClose 0 false) with src := .walk 0 0 }

/-- That marker stands before the slice, a batch with three markers to come is open, and the walk has begun to read a run of 32 leaves. -/
def closingForWalk : State :=
  { State.reset.onCluster 0 (fun c => { c with walking := [⟨0, 0, 0, 4, 0, [], 32⟩] }) with
    llc := [(0, [markerOfWalk])]
    batches := [⟨0, 0, sliceUnit 0, 3, none, []⟩]
    focus := { addr := sliceUnit 0 } }

/-- The answered walk puts its next read where the marker stood (01 R43). -/
theorem queueAt_closeMarker_closingForWalk :
    (match exec .closeMarker closingForWalk with
      | .next t => (t.queueAt (sliceUnit 0)).length
      | _ => 0) = 1 := by decide +kernel

/-- Refutes O48: the queue of the last clause need not be what the marker leaves. A marker of any source but a copy is admitted, and the
answer to one whose source is a translation walk makes the walk send its next read, which joins the queue of the same slice. -/
theorem not_memoriesServe : ¬ Obligations.MemoriesServe := by
  intro h
  obtain ⟨-, hclose⟩ := h closingForWalk .closeMarker (sliceUnit 0) 0 .close rfl
    (.inr (.inr (.inr (.inr (.inr ⟨rfl, rfl, rfl, rfl⟩))))) 0 markerOfWalk (by decide +kernel) (by decide) (by decide)
  obtain ⟨t, ht, -, hkeep⟩ := hclose 0 false ⟨0, 0, sliceUnit 0, 3, none, []⟩ (fun _ _ => nofun) rfl (by decide)
  obtain ⟨-, hqueue⟩ := hkeep rfl (by decide)
  have hlen := queueAt_closeMarker_closingForWalk
  simp only [ht, hqueue] at hlen
  exact absurd hlen (by decide)

end Sys2Proof.Machine
end

section
/-! Lines of a slice that come and go, and a request of this device's memory that a unit serves at once (01 R30, R49, R50; 09 R339). -/

namespace Sys2Proof.Machine

/-! ### Lines of the last-level cache (01 R49, R50; 09 R339) -/

/-- From `s` to `t` no more than lines have changed, and what carries dirty ones home: links, request tables and requests that wait
for an entry of them. -/
def State.LinesOnly (s t : State) : Prop :=
  ∃ ls ks as bs, t = { s with lines := ls, links := ks, away := as, outbox := bs }

theorem State.LinesOnly.refl (s : State) : s.LinesOnly s := ⟨_, _, _, _, rfl⟩

theorem State.LinesOnly.trans {s t u : State} (h : s.LinesOnly t) (k : t.LinesOnly u) : s.LinesOnly u := by
  obtain ⟨_, _, _, _, rfl⟩ := h
  obtain ⟨_, _, _, _, rfl⟩ := k
  exact ⟨_, _, _, _, rfl⟩

theorem State.LinesOnly.clusters_eq {s t : State} (h : s.LinesOnly t) : t.clusters = s.clusters := by
  obtain ⟨_, _, _, _, rfl⟩ := h
  rfl

theorem State.linesOnly_foldl {α : Type} (f : State → α → State) (h : ∀ s x, State.LinesOnly s (f s x)) (xs : List α) (s : State) :
    s.LinesOnly (xs.foldl f s) := by
  induction xs generalizing s with
  | nil => exact .refl s
  | cons x xs ih => exact (h s x).trans (ih _)

/-- A request that no operation waits for leaves for its home: nothing here changes but links and tables. -/
theorem State.linesOnly_sendAway {s : State} {r : Req} {fill : Option Nat} (h : r.src = .engine) : s.LinesOnly (s.sendAway r fill) := by
  unfold State.sendAway
  split
  · unfold State.sendTagged
    split
    · rename_i _ _ t _ hsend
      unfold State.sendPacket at hsend
      split at hsend
      · split at hsend
        · obtain rfl := Option.some.inj hsend
          exact ⟨_, _, _, _, rfl⟩
        · exact nomatch hsend
      · exact nomatch hsend
    · rw [State.failReq, h]
      exact .refl s
  · exact ⟨_, _, _, _, rfl⟩

theorem State.linesOnly_writeBackLine (s : State) (l : Line) : s.LinesOnly (s.writeBackLine l) := by
  unfold State.writeBackLine
  split
  · exact .refl s
  · exact State.linesOnly_foldl _ (fun _ _ => State.linesOnly_sendAway rfl) _ _

theorem State.linesOnly_makeRoom (s : State) (die num : Nat) : s.LinesOnly (s.makeRoom die num) := by
  unfold State.makeRoom
  split
  · exact .refl s
  · split
    · exact .refl s
    · exact State.LinesOnly.trans ⟨_, _, _, _, rfl⟩ (State.linesOnly_writeBackLine _ _)

/-- An access puts its sectors into lines of its slice (09 R339). -/
theorem State.linesOnly_allocate (s : State) (die : Nat) (remote : Option (BitVec 12)) (r : Req) :
    s.LinesOnly (s.allocate die remote r) := by
  refine State.linesOnly_foldl _ (fun s g => ?_) _ _
  unfold State.putSector
  dsimp only
  split
  · exact ⟨_, _, _, _, rfl⟩
  · exact (s.linesOnly_makeRoom die (g / 4)).trans ⟨_, _, _, _, rfl⟩

/-- A line of this device's memory that is evicted leaves its slice (01 R49). -/
theorem State.evict_clean {s : State} {die num n : Nat} {l : Line} (hl : s.lines.find? (fun x => x.die == die && x.num == num) = some l)
    (hr : l.remote = none) : s.evict die num n .clean = { s with lines := s.lines.filter (· != l) } := by
  simp only [State.evict, hl, State.writeBackLine, hr]

/-! ### A request that is served (01 R30, R49) -/

/-- A unit serves a request of this device's memory, whose answer is given at once: it leaves its queue (01 R30, R49). -/
theorem State.serveOne_clean {s t : State} {u n j gran : Nat} {k : Serve} {r : Req} {rep : Reply} (hj : s.pickReq u k n = some j)
    (hr : (s.queueAt u)[j]? = some r) (hcls : r.cls ≠ 4) (hp : s.performHere r = (t, rep)) (hpo : s.poison.length ≤ t.poison.length)
    (hrep : rep ≠ .wait ∧ ∀ i bs x, rep ≠ .rest i bs x) :
    ∃ v, t.LinesOnly v ∧ s.serveOne u k n .clean gran = (v.unqueue u j).answer r rep := by
  obtain ⟨hwait, hrest⟩ := hrep
  have hecc : s.eccOf u r .clean gran = s := by simp [State.eccOf]
  have hcount : t.recountPoison s.poison = t := by rw [State.recountPoison, if_pos hpo]
  refine ⟨if 4096 ≤ u && !r.nc && r.cls != 4 then t.allocate (u - 4096) none r else t, ?_, ?_⟩
  · split
    · exact State.linesOnly_allocate _ _ _ _
    · exact .refl t
  · simp only [State.serveOne, hj, hr, hecc, if_neg hcls, hp, hcount]

end Sys2Proof.Machine
end

section
/-! The translation unit's walks: a request that goes on to its memory or is refused, a walk that begins, and what an entry does to one
(01 R39 to R44). -/

namespace Sys2Proof.Machine

/-! ### TRANSLATION_WALK (01 R39 to R44) -/

/-- The classes of translated buffers (01 R39). -/
theorem translated_iff (c : BitVec 3) : translated c = true ↔ c = 2 ∨ c = 3 ∨ c = 4 := by
  simp [translated, or_assoc]

/-- A waiting request leaves the translation unit (01 R44). -/
def State.dequeueWalk (s : State) (cl j : Nat) : State := s.onCluster cl (fun c => { c with walks := c.walks.eraseIdx j })

theorem State.walks_dequeueWalk (s : State) (cl j : Nat) : ((s.dequeueWalk cl j).cluster cl).walks = (s.cluster cl).walks.eraseIdx j := by
  rw [State.dequeueWalk, State.cluster_onCluster]

/-- What TRANSLATION_WALK does for the request that it picks (01 R42, R44). -/
theorem State.walkStep_eq {s : State} {cl n j : Nat} {r : Req}
    (hj : (pickWalk (s.cluster cl).walks n).orElse (fun _ => pickWalk (s.cluster cl).walks 0) = some j)
    (hr : (s.cluster cl).walks[j]? = some r) (hdead : s.reqDead r = false) :
    s.walkStep cl n =
      match s.heldXlate r with
      | some x => (s.dequeueWalk cl j).applyXlate r x
      | none => if (s.cluster cl).walking.any (·.serves r) then s else s.walkStart cl r := by
  simp only [State.walkStep, hj, hr, hdead, Bool.false_eq_true, if_false]
  rfl

/-- A change of a core that keeps its register file and accumulator changes no byte (01 R32). -/
theorem State.byteAt_onCore {s : State} {n : Nat} {g : Core → Core} (hv : (g (s.core n)).v = (s.core n).v)
    (ha : (g (s.core n)).mx.acc = (s.core n).mx.acc) (y : Nat) : (s.onCore n g).byteAt y = s.byteAt y := by
  refine State.byteAt_congr (s := s) (t := s.onCore n g) rfl (fun c => ?_) (fun c => ?_) (fun _ => rfl) y
  all_goals
    by_cases hc : c = n
    · subst hc
      rwa [State.core_onCore]
    · rw [State.core_onCore_ne _ _ hc]

/-- A change of a cluster that keeps its bank formats changes no byte (01 R32). -/
theorem State.byteAt_onCluster {s : State} {n : Nat} {g : Cluster → Cluster} (h : (g (s.cluster n)).bf = (s.cluster n).bf) (y : Nat) :
    (s.onCluster n g).byteAt y = s.byteAt y := by
  refine State.byteAt_congr (s := s) (t := s.onCluster n g) rfl (fun _ => rfl) (fun _ => rfl) (fun c => ?_) y
  by_cases hc : c = n
  · subst hc
    rwa [State.cluster_onCluster]
  · rw [State.cluster_onCluster_ne _ _ hc]

/-- Caching a translation changes a core's or a service core's cache alone (01 R45). -/
theorem State.cacheXlate_rest (s : State) (r : Req) (x : Xlate) :
    (∃ cs vs, s.cacheXlate r x = { s with cores := cs, svcs := vs }) ∧ ∀ a, (s.cacheXlate r x).byteAt a = s.byteAt a := by
  unfold State.cacheXlate
  dsimp only
  split
  · split
    · exact ⟨⟨_, _, rfl⟩, State.byteAt_onCore rfl rfl⟩
    · exact ⟨⟨_, _, rfl⟩, fun _ => rfl⟩
  · exact ⟨⟨_, _, rfl⟩, fun _ => rfl⟩

/-- The earliest time of an operation is all that the sending of its request changes in it (09 R488). -/
theorem State.timeReq_rest (s : State) (r : Req) : ∃ fs, s.timeReq r = { s with flights := fs } := by
  unfold State.timeReq
  split <;> exact ⟨_, rfl⟩

/-- A request of a translated buffer goes to a slice or to the host port: it stands there, and nothing else changes but the time
of its operation (01 R30, R49; 09 R317). -/
theorem State.dispatch_translated {s : State} {r : Req} (h : translated r.cls = true) :
    (s.dispatch r).StandsAt r ∧ ∃ fs ls hs, s.dispatch r = { s with flights := fs, llc := ls, hostq := hs } := by
  obtain ⟨fs, ht⟩ := s.timeReq_rest r
  have hslice (d : Nat) : r ∈ (tabFind d ((s.timeReq r).atSlice d r).llc).getD [] := by
    simp [State.atSlice]
  obtain hc | hc | hc := (translated_iff _).1 h
  case inl =>
    have hd : s.dispatch r = (s.timeReq r).atSlice (hbmDie r.acc.addr) r := by
      rw [State.dispatch, hc]
      rfl
    refine ⟨?_, _, _, _, by rw [hd, ht]; rfl⟩
    rw [hd]
    simp only [State.StandsAt, hc]
    exact hslice _
  case inr.inl =>
    have hd : s.dispatch r = { s.timeReq r with hostq := (s.timeReq r).hostq ++ [r] } := by
      rw [State.dispatch, hc]
      rfl
    refine ⟨?_, _, _, _, by rw [hd, ht]⟩
    rw [hd]
    simp [State.StandsAt, hc]
  case inr.inr =>
    have hd : s.dispatch r = (s.timeReq r).atSlice (remoteDie r.va) r := by
      rw [State.dispatch, hc]
      rfl
    refine ⟨?_, _, _, _, by rw [hd, ht]; rfl⟩
    rw [hd]
    simp only [State.StandsAt, hc]
    exact hslice _



/-- The clusters stay as they are while a request goes to its memory. -/
theorem State.applyXlate_allowed {s : State} {r : Req} {x : Xlate} (ha : x.allows r.cls r.acc.writes = true)
    (hc : translated r.cls = true) :
    (s.applyXlate r x).clusters = s.clusters ∧
    (s.applyXlate r x).StandsAt { r with nc := x.nc, home := x.dev, acc := r.acc.moveTo (x.pa + (r.va - x.va)) } ∧
    ∀ y, (s.applyXlate r x).byteAt y = s.byteAt y := by
  obtain ⟨⟨cs, vs, hcache⟩, hbytes⟩ := s.cacheXlate_rest r x
  obtain ⟨hstands, fs, ls, hs, hrest⟩ := State.dispatch_translated (s := s.cacheXlate r x)
    (r := { r with nc := x.nc, home := x.dev, acc := r.acc.moveTo (x.pa + (r.va - x.va)) }) hc
  rw [State.applyXlate, if_pos ha]
  refine ⟨by rw [hrest, hcache], hstands, fun y => ?_⟩
  rw [← hbytes y, hrest]
  rfl

/-- An operation in flight after a change that keeps its name. -/
theorem State.flight?_onFlight {s : State} {a : Nat} {q : BitVec 16} {f : Flight} {g : Flight → Flight} (h : s.flight? a q = some f)
    (hg : ∀ x, (g x).agent = x.agent ∧ (g x).seq = x.seq) : (s.onFlight a q g).flight? a q = some (g f) := by
  have hname : (f.agent == a && f.seq == q) = true := List.find?_some (p := fun f : Flight => f.agent == a && f.seq == q) h
  have hkeep : ((fun f : Flight => f.agent == a && f.seq == q) ∘ fun x => if x.agent == a && x.seq == q then g x else x) =
      fun f => f.agent == a && f.seq == q := by
    funext x
    by_cases hx : (x.agent == a && x.seq == q) = true <;> simp only [Function.comp_apply, hx, if_true, if_false, hg, Bool.false_eq_true]
  rw [State.flight?] at h
  rw [State.flight?, State.onFlight, List.find?_map, hkeep, h, Option.map_some, if_pos hname]

/-- A request of an operation that waits for others too ends with a late fault: the operation notes it (02 R92). -/
theorem State.failReq_pending {s : State} {r : Req} {a : Nat} {q : BitVec 16} {f : Flight} {cause : BitVec 8} {d e : Word}
    (hr : r.src = .op a q) (hf : s.flight? a q = some f) (hopen : 1 < f.open_) (hfault : f.fault = none) :
    (s.failReq r cause d e).clusters = s.clusters ∧
    ∃ g, (s.failReq r cause d e).flight? a q = some g ∧ g.fault = some ⟨cause, d, e⟩ := by
  have hnote := State.flight?_onFlight (g := fun f => { f with fault := some (f.fault.getD ⟨cause, d, e⟩), open_ := f.open_ - 1 }) hf
    fun _ => ⟨rfl, rfl⟩
  have hleft : ¬f.open_ - 1 = 0 := by omega
  have hfail : s.failReq r cause d e =
      s.onFlight a q (fun f => { f with fault := some (f.fault.getD ⟨cause, d, e⟩), open_ := f.open_ - 1 }) := by
    simp [State.failReq, hr, State.answeredFault, State.answered, hnote, hleft]
  rw [hfail]
  exact ⟨rfl, _, hnote, by rw [hfault]; rfl⟩


/-- An operation that still sends has no late fault (02 R92). -/
theorem fault_eq_none_of_alive {s : State} {r : Req} {a : Nat} {q : BitVec 16} {f : Flight} (h : s.reqDead r = false)
    (hr : r.src = .op a q) (hf : s.flight? a q = some f) : f.fault = none := by
  simpa [State.reqDead, hr, State.faulted, hf] using h

/-- The queue of a die's slice. -/
theorem State.queueAt_sliceUnit (s : State) (d : Nat) : s.queueAt (sliceUnit d) = (tabFind d s.llc).getD [] := by
  have hlow : ¬4096 + d < 2048 := by omega
  simp [State.queueAt, sliceUnit, hlow]

/-- A request put at a slice stands at the end of its queue. -/
theorem State.queueAt_atSlice (s : State) (d : Nat) (r : Req) :
    (s.atSlice d r).queueAt (sliceUnit d) = s.queueAt (sliceUnit d) ++ [r] := by
  rw [State.queueAt_sliceUnit, State.queueAt_sliceUnit, State.atSlice, tabFind_tabPut_same, Option.getD_some]

/-- A request that a slice has served leaves the queue, and nothing else changes. -/
theorem State.unqueue_sliceUnit (s : State) (d j : Nat) : ∃ ls, s.unqueue (sliceUnit d) j = { s with llc := ls } := by
  have hlow : ¬4096 + d < 2048 := by omega
  exact ⟨tabPut d ((s.queueAt (sliceUnit d)).eraseIdx j) s.llc, by simp [State.unqueue, sliceUnit, hlow]⟩

theorem State.cluster_walkRead (s : State) (cl c : Nat) (w : Walk) : (s.walkRead cl w).cluster c = s.cluster c := rfl

/-- A walk that reads single entries reads the one of its level (01 R40). -/
theorem Walk.read_acc {w : Walk} (h : w.runLen = 0) (cl : Nat) (dev : BitVec 12) :
    (w.read cl dev).acc = .read (w.table + 8 * levelIndex w.level (65536 * w.page)) 8 0 := by
  simp [Walk.read, h]

/-- The first level's index is of the address bits 63:52 (01 R40). -/
theorem levelIndex_one_page (va : Nat) : levelIndex 1 (65536 * (va / 65536)) = va / 2 ^ 52 % 4096 := by
  unfold levelIndex fieldN
  omega

/-- The read of a walk joins the queue of a slice (01 R44). -/
theorem State.queueAt_walkRead (s : State) (cl : Nat) (w : Walk) :
    (s.walkRead cl w).queueAt (sliceUnit (hbmDie (w.read cl s.dev).acc.addr)) =
      s.queueAt (sliceUnit (hbmDie (w.read cl s.dev).acc.addr)) ++ [w.read cl s.dev] :=
  State.queueAt_atSlice _ _ _

/-- A walk begins for a request: its first read joins the queue of a slice (01 R44). -/
theorem State.walkStart_root {s : State} {cl : Nat} {r : Req} (hroom : (s.cluster cl).walking.length < 64)
    (hroot : ((s.cluster cl).xbase[r.xpart.toNat]'(r.xpart.isLt)).getLsbD 0 = true) :
    let k := s.cluster cl
    let w : Walk := ⟨k.walkNext, r.xpart, r.va / 65536, 1,
      32768 * ((k.xbase[r.xpart.toNat]'(r.xpart.isLt)).extractLsb' 15 37).toNat, [], 0⟩
    s.walkStart cl r =
      (s.onCluster cl (fun c => { c with walking := c.walking ++ [w], walkNext := c.walkNext + 1 })).walkRead cl w := by
  have hlen : ¬64 ≤ (s.cluster cl).walking.length := by omega
  have htable (b : Word) : fieldN b.toNat 15 37 * 2 ^ 15 = 32768 * (b.extractLsb' 15 37).toNat := by
    rw [fieldN_eq_extractLsb', Nat.mul_comm]
    norm_num
  simp only [State.walkStart, if_neg hlen, hroot, if_true, htable]


/-- A walk's read of one entry of HBM brings the entry (01 R40). -/
theorem State.performHere_walk {s : State} {r : Req} {c id p : Nat} (hsrc : r.src = .walk c id) (hacc : r.acc = .read p 8 0)
    (hp : placeOf p = .hbm) (hpo : s.poisoned? p 8 = none) : s.performHere r = (s, .bytes 0 (s.readBytes p 8)) := by
  have hbelow : s.belowXb r false p = none := by rw [State.belowXb, hp]
  have hclean : s.readPoison r p 8 = none := by rw [State.readPoison, hsrc]; simp [hpo]
  simp only [State.performHere, hsrc, State.performAccess, hacc, hbelow, hclean, orFault, Option.orElse]

/-- LLC_ACCESS serves a request when no line is to be evicted (01 R49). -/
theorem exec_llcAccess_serve {s : State} (h : s.focus.data ≠ 1) :
    exec .llcAccess s = .next (s.serveOne (sliceUnit s.focus.die) .access s.focus.n s.focus.ecc s.focus.gran) := by
  change execLlcAccess s = _
  rw [execLlcAccess, if_neg h]

/-- A walk that reads single entries takes the one that a slice brings (01 R42). -/
theorem State.answer_walk {s : State} {r : Req} {c id i : Nat} {w : Walk} {bs : List Byte} (hsrc : r.src = .walk c id)
    (hw : (s.cluster c).walking.find? (fun x => x.id == id) = some w) (hrun : w.runLen = 0) :
    s.answer r (.bytes i bs) = s.walkEntry c w (leNat bs) := by
  simp only [State.answer, hsrc, Reply.data, State.walkAnswer, hw, hrun, if_true]

/-- LLC_ACCESS serves a walk's read of an entry: the entry comes to the walk, and the clusters are else as they were (01 R44). -/
theorem State.exec_llcAccess_walk {s : State} {j c id p : Nat} {r : Req} {w : Walk} (hdata : s.focus.data ≠ 1)
    (hecc : s.focus.ecc = .clean) (hj : s.pickReq (sliceUnit s.focus.die) .access s.focus.n = some j)
    (hr : (s.queueAt (sliceUnit s.focus.die))[j]? = some r) (hcls : r.cls = 2) (hsrc : r.src = .walk c id) (hacc : r.acc = .read p 8 0)
    (hp : placeOf p = .hbm) (hpo : s.poisoned? p 8 = none)
    (hw : (s.cluster c).walking.find? (fun x => x.id == id) = some w) (hrun : w.runLen = 0) :
    ∃ v : State, v.clusters = s.clusters ∧ exec .llcAccess s = .next (v.walkEntry c w (leNat (s.readBytes p 8))) := by
  obtain ⟨v, hv, hserve⟩ := State.serveOne_clean (gran := s.focus.gran) hj hr (by rw [hcls]; decide)
    (State.performHere_walk hsrc hacc hp hpo) le_rfl (by simp)
  obtain ⟨ls, hun⟩ := v.unqueue_sliceUnit s.focus.die j
  have hcl : (v.unqueue (sliceUnit s.focus.die) j).clusters = s.clusters := by
    rw [hun]
    exact hv.clusters_eq
  have hwalk : ((v.unqueue (sliceUnit s.focus.die) j).cluster c).walking.find? (fun x => x.id == id) = some w := by
    rw [State.cluster, hcl]
    exact hw
  exact ⟨_, hcl, by rw [exec_llcAccess_serve hdata, hecc, hserve, State.answer_walk hsrc hwalk hrun]⟩

/-- An entry that is a leaf ends the walk, and the unit takes its translation (01 R44). -/
theorem State.walkEntry_leaf {s : State} {c : Nat} {w : Walk} {e : Nat} (hv : pteV e = true) (hl : pteLeaf e = true)
    (hb : leafBad w.level e = false) (hch : pteCh e = false) :
    s.walkEntry c w e = s.walkEnds c w (leafXlate w.part (65536 * w.page) e (leafSize w.level)) := by
  simp [State.walkEntry, hv, hl, hb, hch]

/-- An entry that is a pointer sends the walk to the next level (01 R42). -/
theorem State.walkEntry_pointer {s : State} {c : Nat} {w : Walk} {e : Nat} (hv : pteV e = true) (hl : pteLeaf e = false)
    (hb : pointerBad w.level e = false) :
    s.walkEntry c w e = (s.setWalk c { w with level := w.level + 1, table := pteTable e }).walkRead c
      { w with level := w.level + 1, table := pteTable e } := by
  simp [State.walkEntry, hv, hl, hb]

/-- The unit of a cluster after a walk has ended in a translation. -/
theorem State.cluster_walkEnds (s : State) (c : Nat) (w : Walk) (x : Xlate) :
    (s.walkEnds c w x).cluster c = { s.cluster c with
      walking := (s.cluster c).walking.filter (fun y => y.id != w.id), tlb := tlbPut (s.cluster c).tlb x } := by
  simp [State.walkEnds, State.dropWalk]

end Sys2Proof.Machine
end

section
/-! Invalidations of translations: the commands that start one, and what is left of the unit, of registers and of walks when it has
finished (01 R45 to R47). -/

namespace Sys2Proof.Machine

/-! ### Invalidations (01 R45 to R47) -/

/-- A write of XLAT_INVAL while an invalidation is in progress is held (01 R46). -/
theorem Cluster.startInval_held {c : Cluster} (h : c.inval ≠ none) (ctl : BitVec 6) :
    c.startInval ctl = { c with invalHeld := c.invalHeld ++ [ctl] } := by
  obtain ⟨i, hi⟩ := Option.ne_none_iff_exists'.1 h
  simp only [Cluster.startInval, hi]

/-- A write of XLAT_INVAL while none is in progress starts one (01 R46). -/
theorem Cluster.startInval_free {c : Cluster} (h : c.inval = none) {scope : BitVec 2} (hs : scope ≠ 3) (part : BitVec 4) :
    c.startInval (scope ++ part) =
      { c with invalCtl := scope ++ part, inval := some ⟨scope, part, (c.iva.extractLsb' 16 48).toNat⟩ } := by
  have hhigh : (scope ++ part).extractLsb' 4 2 = scope := BitVec.extractLsb'_append_eq_left
  have hlow : (scope ++ part).extractLsb' 0 4 = part := BitVec.extractLsb'_append_eq_right
  simp only [Cluster.startInval, h, hhigh, hlow, if_neg hs, fieldN_eq_extractLsb']

/-- Starting an invalidation leaves the unit's entries, walks and page tables. -/
theorem Cluster.startInval_rest (c : Cluster) (ctl : BitVec 6) :
    (c.startInval ctl).tlb = c.tlb ∧ (c.startInval ctl).walking = c.walking ∧ (c.startInval ctl).walkNext = c.walkNext ∧
      (c.startInval ctl).xbase = c.xbase := by
  unfold Cluster.startInval
  split
  · exact ⟨rfl, rfl, rfl, rfl⟩
  · dsimp only
    split <;> exact ⟨rfl, rfl, rfl, rfl⟩

/-- The cluster's unit when an invalidation is over, before the walks that it restarts (01 R46, R47). -/
def Cluster.afterInval (c : Cluster) (i : Inval) : Cluster :=
  match c.invalHeld with
  | [] => { c with tlb := c.tlb.filter (fun x => !i.covers x), inval := none }
  | h :: t => ({ c with tlb := c.tlb.filter (fun x => !i.covers x), inval := none, invalHeld := t } : Cluster).startInval h

theorem Cluster.afterInval_rest (c : Cluster) (i : Inval) :
    (c.afterInval i).tlb = c.tlb.filter (fun x => !i.covers x) ∧ (c.afterInval i).walking = c.walking ∧
      (c.afterInval i).walkNext = c.walkNext ∧ (c.afterInval i).xbase = c.xbase := by
  unfold Cluster.afterInval
  split
  · exact ⟨rfl, rfl, rfl, rfl⟩
  · exact Cluster.startInval_rest _ _

/-- A walk that begins anew at its partition's root `b`, under number `n` (01 R47). -/
def Walk.anew (w : Walk) (b : Word) (n : Nat) : Walk := ⟨n, w.part, w.page, 1, fieldN b.toNat 15 37 * 2 ^ 15, [], 0⟩

/-- A walk is that of another begun anew, under no number below `next`. -/
def Walk.IsAgain (v w : Walk) (next : Nat) : Prop :=
  v.part = w.part ∧ v.page = w.page ∧ v.level = 1 ∧ v.run = [] ∧ next ≤ v.id

theorem Walk.isAgain_anew (w : Walk) (b : Word) (n : Nat) : (w.anew b n).IsAgain w n := ⟨rfl, rfl, rfl, rfl, le_rfl⟩

theorem Walk.IsAgain.mono {v w : Walk} {m n : Nat} (h : v.IsAgain w n) (hmn : m ≤ n) : v.IsAgain w m := by
  obtain ⟨hpart, hpage, hlevel, hrun, hid⟩ := h
  exact ⟨hpart, hpage, hlevel, hrun, hmn.trans hid⟩

/-- The root of a walk's partition in a cluster is valid (01 R39). -/
def Cluster.rooted (k : Cluster) (w : Walk) : Prop := (k.xbase[w.part.toNat]'(w.part.isLt)).getLsbD 0 = true

/-- What restarting a walk does to its cluster (01 R47). -/
def Cluster.again (k : Cluster) (w : Walk) : Cluster :=
  { k with
    walking := k.walking.map (fun x => if x.id = w.id then w.anew (k.xbase[w.part.toNat]'(w.part.isLt)) k.walkNext else x)
    walkNext := k.walkNext + 1 }

theorem Cluster.mem_again_of_ne {k : Cluster} {w x : Walk} (hx : x ∈ k.walking) (hne : x.id ≠ w.id) : x ∈ (k.again w).walking :=
  List.mem_map.2 ⟨x, hx, if_neg hne⟩

theorem Cluster.exists_anew {k : Cluster} {w : Walk} (hw : w ∈ k.walking) :
    ∃ v ∈ (k.again w).walking, v.IsAgain w k.walkNext ∧ v.id = k.walkNext :=
  ⟨_, List.mem_map.2 ⟨w, hw, if_pos rfl⟩, w.isAgain_anew _ _, rfl⟩

/-- A walk with a valid root begins anew: its cluster changes so, and the rest of the machine but for the slices is as before. -/
theorem State.walkAgain_rooted {s : State} {cl : Nat} {w : Walk} (h : (s.cluster cl).rooted w) :
    (s.walkAgain cl w).cluster cl = (s.cluster cl).again w ∧ (s.walkAgain cl w).cores = s.cores ∧
      (s.walkAgain cl w).svcs = s.svcs := by
  unfold Cluster.rooted at h
  simp only [State.walkAgain, h, if_true, State.cluster_walkRead, State.cluster_onCluster]
  exact ⟨rfl, rfl, rfl⟩

/-- Walks of a cluster restarted one after another, each under its own number (01 R47). -/
theorem State.walksAgain {s : State} {cl : Nat} (ws : List Walk) (hroot : ∀ w ∈ ws, (s.cluster cl).rooted w)
    (hnodup : (ws.map (·.id)).Nodup) (hid : ∀ w ∈ ws, w.id < (s.cluster cl).walkNext) :
    let t := ws.foldl (State.walkAgain · cl ·) s
    (t.cores = s.cores ∧ t.svcs = s.svcs ∧ (t.cluster cl).tlb = (s.cluster cl).tlb ∧ (t.cluster cl).inval = (s.cluster cl).inval) ∧
    (∀ w ∈ ws, w ∈ (s.cluster cl).walking → ∃ v ∈ (t.cluster cl).walking, v.IsAgain w (s.cluster cl).walkNext) ∧
    ∀ x ∈ (s.cluster cl).walking, (∀ w ∈ ws, x.id ≠ w.id) → x ∈ (t.cluster cl).walking := by
  induction ws generalizing s with
  | nil => exact ⟨⟨rfl, rfl, rfl, rfl⟩, nofun, fun x hx _ => hx⟩
  | cons w ws ih =>
    obtain ⟨hcl, hcores, hsvcs⟩ := State.walkAgain_rooted (hroot w List.mem_cons_self)
    obtain ⟨hfirst, hnodup⟩ := List.nodup_cons.1 hnodup
    have hother (y : Walk) (hy : y ∈ ws) : y.id ≠ w.id := fun heq => hfirst (List.mem_map.2 ⟨y, hy, heq⟩)
    have hnext : ((s.walkAgain cl w).cluster cl).walkNext = (s.cluster cl).walkNext + 1 := by rw [hcl]; rfl
    obtain ⟨⟨hcores', hsvcs', htlb, hinval⟩, hagain, hkeep⟩ := ih (s := s.walkAgain cl w)
      (fun y hy => by rw [hcl]; exact hroot y (List.mem_cons_of_mem _ hy)) hnodup
      (fun y hy => by rw [hnext]; exact (hid y (List.mem_cons_of_mem _ hy)).trans (Nat.lt_succ_self _))
    refine ⟨⟨hcores'.trans hcores, hsvcs'.trans hsvcs, htlb.trans (by rw [hcl]; rfl), hinval.trans (by rw [hcl]; rfl)⟩, ?_, ?_⟩
    · intro y hy hmem
      obtain rfl | hy := List.mem_cons.1 hy
      · obtain ⟨v, hv, hisagain, hvid⟩ := Cluster.exists_anew hmem
        refine ⟨v, hkeep v (by rwa [hcl]) (fun z hz => ?_), hisagain⟩
        have := hid z (List.mem_cons_of_mem _ hz)
        omega
      · obtain ⟨v, hv, hisagain⟩ := hagain y hy (by rw [hcl]; exact Cluster.mem_again_of_ne hmem (hother y hy))
        exact ⟨v, hv, hisagain.mono (by omega)⟩
    · intro x hx hne
      exact hkeep x (by rw [hcl]; exact Cluster.mem_again_of_ne hx (hne w List.mem_cons_self))
        (fun z hz => hne z (List.mem_cons_of_mem _ hz))

/-- No translation that the invalidation covers stays behind a register (01 R47). -/
theorem covers_of_dropXlates {n : Nat} {i : Inval} {v : Vector (Option Xlate) n} {j : Nat} {x : Xlate}
    (h : (dropXlates i v)[j]? = some (some x)) : i.covers x = false := by
  obtain ⟨hj, hget⟩ := Vector.getElem?_eq_some_iff.1 h
  simp only [dropXlates, Vector.getElem_map, Option.bind_eq_some_iff] at hget
  obtain ⟨y, -, hy⟩ := hget
  split at hy
  · exact nomatch hy
  · obtain rfl := Option.some.inj hy
    exact eq_false_of_ne_true ‹_›

/-- A table whose values are changed, each by its key. -/
theorem tabFind_map {α : Type} (k : Nat) (g : Nat → α → α) (t : Tab α) :
    tabFind k (t.map (fun (j, v) => (j, g j v))) = (tabFind k t).map (g k) := by
  induction t with
  | nil => rfl
  | cons e t ih =>
    obtain ⟨j, v⟩ := e
    by_cases h : j = k
    · subst h
      simp [tabFind]
    · simpa [tabFind, h] using ih


/-- A core of the cluster forgets the translations that an invalidation covers (01 R45, R47). -/
def Core.forget (cl : Nat) (i : Inval) (a : Nat) (c : Core) : Core :=
  if clusterOf a = cl then { c with kx := dropXlates i c.kx } else c

/-- A service or kernel core that the cluster's unit serves does so too. -/
def Svc.forget (cl : Nat) (i : Inval) (a : Nat) (v : Svc) : Svc :=
  if xlatCluster a = cl then { v with kx := dropXlates i v.kx } else v

/-- The machine when the walks that a finished invalidation covers have begun again. -/
def State.restarted (s : State) (cl : Nat) (i : Inval) : State :=
  ((s.cluster cl).walking.filter i.restarts).foldl (State.walkAgain · cl ·) (s.onCluster cl (·.afterInval i))

/-- What INVALIDATION_FINISH does (01 R46, R47). -/
theorem State.finishInval_eq {s : State} {cl : Nat} {i : Inval} (hi : (s.cluster cl).inval = some i) :
    s.finishInval cl = { s.restarted cl i with
      cores := (s.restarted cl i).cores.map (fun (a, c) => (a, c.forget cl i a))
      svcs := (s.restarted cl i).svcs.map (fun (a, v) => (a, v.forget cl i a)) } := by
  obtain ⟨-, hwalking, -, -⟩ := (s.cluster cl).afterInval_rest i
  have hstart : (s.onCluster cl (·.afterInval i)).cluster cl = (s.cluster cl).afterInval i := s.cluster_onCluster cl _
  unfold State.restarted
  rw [← hwalking, ← hstart]
  simp only [State.finishInval, hi]
  rfl

/-- A core after INVALIDATION_FINISH: nothing covered is left behind its registers, which stay. -/
theorem State.core_finishInval {s t : State} {cl : Nat} {i : Inval}
    (ht : t.cores = s.cores.map (fun (a, c) => (a, c.forget cl i a))) (a : Nat) :
    (t.core a).k = (s.core a).k ∧
      (clusterOf a = cl → ∀ (j : Nat) (x : Xlate), (t.core a).kx[j]? = some (some x) → i.covers x = false) := by
  rw [State.core, State.core, ht, tabFind_map]
  cases tabFind a s.cores with
  | none =>
    refine ⟨rfl, fun _ j x h => ?_⟩
    simp [Core.reset, Vector.getElem?_replicate] at h
  | some c =>
    simp only [Option.map_some, Option.getD_some, Core.forget]
    split
    · exact ⟨rfl, fun _ j x h => covers_of_dropXlates h⟩
    · exact ⟨rfl, fun h => absurd h ‹_›⟩

/-- A service or kernel core after INVALIDATION_FINISH. -/
theorem State.svc_finishInval {s t : State} {cl : Nat} {i : Inval}
    (ht : t.svcs = s.svcs.map (fun (a, v) => (a, v.forget cl i a))) {a : Nat} (ha : xlatCluster a = cl) {j : Nat} {x : Xlate}
    (h : (t.svc a).kx[j]? = some (some x)) : i.covers x = false := by
  rw [State.svc, ht, tabFind_map] at h
  cases hv : tabFind a s.svcs with
  | none => simp [hv, Vector.getElem?_replicate] at h
  | some v =>
    simp only [hv, Option.map_some, Option.getD_some, Svc.forget, if_pos ha] at h
    exact covers_of_dropXlates h

/-- INVALIDATION_FINISH: no entry that the invalidation covers is left, and walks that it covers have begun again (01 R45, R47). -/
theorem State.finishInval_clean {s : State} {cl : Nat} {i : Inval} (hi : (s.cluster cl).inval = some i)
    (hroot : ∀ w ∈ (s.cluster cl).walking, i.restarts w = true → (s.cluster cl).rooted w)
    (hnodup : ((s.cluster cl).walking.map (·.id)).Nodup) (hid : ∀ w ∈ (s.cluster cl).walking, w.id < (s.cluster cl).walkNext) :
    let t := s.finishInval cl
    (t.cluster cl).tlb = (s.cluster cl).tlb.filter (fun x => !i.covers x) ∧
    t.cores = s.cores.map (fun (a, c) => (a, c.forget cl i a)) ∧ t.svcs = s.svcs.map (fun (a, v) => (a, v.forget cl i a)) ∧
    (∀ w ∈ (s.cluster cl).walking, if i.restarts w = true then
        ∃ v ∈ (t.cluster cl).walking, v.IsAgain w (s.cluster cl).walkNext
      else w ∈ (t.cluster cl).walking) ∧
    ((s.cluster cl).invalHeld = [] → (t.cluster cl).inval = none) := by
  obtain ⟨htlb, hwalking, hnext, hbase⟩ := (s.cluster cl).afterInval_rest i
  have hstart : (s.onCluster cl (·.afterInval i)).cluster cl = (s.cluster cl).afterInval i := s.cluster_onCluster cl _
  obtain ⟨⟨hcores, hsvcs, htlb', hinval⟩, hagain, hkeep⟩ := State.walksAgain (s := s.onCluster cl (·.afterInval i)) (cl := cl)
    ((s.cluster cl).walking.filter i.restarts)
    (fun w hw => by
      obtain ⟨hw, hcov⟩ := List.mem_filter.1 hw
      simpa only [hstart, Cluster.rooted, hbase] using hroot w hw hcov)
    (hnodup.sublist (List.filter_sublist.map _))
    (fun w hw => by rw [hstart, hnext]; exact hid w (List.mem_filter.1 hw).1)
  rw [hstart] at htlb' hinval hagain hkeep
  rw [hwalking] at hagain hkeep
  rw [hnext] at hagain
  rw [State.finishInval_eq hi]
  refine ⟨htlb'.trans htlb, congrArg _ hcores, congrArg _ hsvcs, fun w hw => ?_, fun hheld => hinval.trans ?_⟩
  · split
    · exact hagain w (List.mem_filter.2 ⟨hw, ‹_›⟩) hw
    · refine hkeep w hw (fun z hz heq => ?_)
      obtain ⟨hz, hcov⟩ := List.mem_filter.1 hz
      have := List.inj_on_of_nodup_map hnodup hw hz heq
      exact absurd (this ▸ hcov) ‹_›
  · rw [Cluster.afterInval, hheld]

/-- The invalidation commands, each with its scope (01 R46). -/
theorem exec_xlatInval (s : State) {i : Instr} {scope : BitVec 2}
    (h : (i, scope) ∈ [(Instr.xlatInvalPage, (0 : BitVec 2)), (.xlatInvalPartition, 1), (.xlatInvalAll, 2)]) :
    exec i s = .next (s.writeInval s.focus.cluster scope s.focus.part) ∧ scope ≠ 3 := by
  simp only [List.mem_cons, Prod.mk.injEq, List.not_mem_nil, or_false] at h
  obtain ⟨rfl, rfl⟩ | ⟨rfl, rfl⟩ | ⟨rfl, rfl⟩ := h
  all_goals exact ⟨rfl, by decide⟩

/-- Settles O49, part by part: lines, walks that begin, walks that go on, and invalidations. -/
theorem translationUnitsWork : Obligations.TranslationUnitsWork := by
  intro s cl k
  refine ⟨?line, ?walk, ?entry, ?command, ?finish⟩
  case line =>
    intro l hdata hecc hremote hfind
    refine ⟨_, rfl, ?_⟩
    rw [if_pos hdata, hecc]
    exact State.evict_clean hfind hremote
  case walk =>
    intro j r hj hr hdead
    have hexec : exec .translationWalk s = .next (s.walkStep cl s.focus.n) := rfl
    rw [State.walkStep_eq hj hr hdead] at hexec
    refine ⟨fun x hx hallows htr => ?held, fun x a q f hx hallows hsrc hf hopen => ?denied, fun hx hserves hroom hroot => ?fresh⟩
    case held =>
      obtain ⟨hcl, hstands, hbytes⟩ := State.applyXlate_allowed (s := s.dequeueWalk cl j) hallows htr
      simp only [hx] at hexec
      exact ⟨_, hexec, by rw [State.cluster, hcl]; exact s.walks_dequeueWalk cl j, hstands,
        fun y => (hbytes y).trans (State.byteAt_onCluster rfl y)⟩
    case denied =>
      obtain ⟨hcl, g, hg, hfault⟩ := State.failReq_pending (s := s.dequeueWalk cl j) (cause := 0x21) (d := BitVec.ofNat 64 r.va)
        (e := BitVec.ofNat 64 x.level) hsrc hf hopen (fault_eq_none_of_alive hdead hsrc hf)
      simp only [hx, State.applyXlate, hallows, Bool.false_eq_true, if_false] at hexec
      exact ⟨_, g, hexec, by rw [State.cluster, hcl]; exact s.walks_dequeueWalk cl j, hg, hfault⟩
    case fresh =>
      have hnone : (s.cluster cl).walking.any (·.serves r) = false := List.any_eq_false.2 fun v hv => by simp [hserves v hv]
      simp only [hx, hnone, Bool.false_eq_true, if_false, State.walkStart_root hroom hroot] at hexec
      refine ⟨_, _, hexec, ?_, ?_, rfl, ?_, (State.queueAt_walkRead _ cl _).trans ?_⟩
      · rw [State.cluster_walkRead, State.cluster_onCluster]
      · rw [State.cluster_walkRead, State.cluster_onCluster]
      · exact (Walk.read_acc rfl _ _).trans (by rw [levelIndex_one_page])
      · rw [State.queueAt_sliceUnit, State.queueAt_sliceUnit]
        rfl
  case entry =>
    intro u j r c id w p hdata hecc hu hj hr hcls hsrc hacc hp hpo hw hrun e hv
    subst hu
    obtain ⟨v, hcl, hexec⟩ := State.exec_llcAccess_walk hdata hecc hj hr hcls hsrc hacc hp hpo hw hrun
    have hc : v.cluster c = s.cluster c := by rw [State.cluster, State.cluster, hcl]
    have hid : w.id = id := by simpa using List.find?_some hw
    refine ⟨fun hl hbad hch => ⟨_, hexec, ?_⟩, fun hl hbad => ?_⟩
    · rw [State.walkEntry_leaf hv hl hbad hch, State.cluster_walkEnds, hc]
      exact ⟨rfl, fun x hx => by simpa [hid] using (List.mem_filter.1 hx).2⟩
    · rw [State.walkEntry_pointer hv hl hbad] at hexec
      refine ⟨_, Walk.read { w with level := w.level + 1, table := pteTable e } c v.dev, hexec, ?_, ?_, ?_,
        Walk.read_acc (w := { w with level := w.level + 1, table := pteTable e }) hrun _ _, ?_⟩
      · rw [State.cluster_walkRead, State.setWalk, State.cluster_onCluster, hc]
        exact List.mem_map.2 ⟨w, List.mem_of_find?_eq_some hw, if_pos rfl⟩
      · rw [State.cluster_walkRead, State.setWalk, State.cluster_onCluster, hc]
      · exact congrArg _ hid
      · exact (congrArg _ (State.queueAt_walkRead _ c _)).mpr (List.mem_append_right _ List.mem_cons_self)
  case command =>
    intro i scope hi
    obtain ⟨hexec, hscope⟩ := exec_xlatInval s hi
    refine ⟨_, hexec, fun x hx => State.cluster_onCluster_ne _ _ hx, rfl, fun hfree => ?_, fun hheld => ?_⟩
    · rw [State.writeInval, State.cluster_onCluster]
      exact Cluster.startInval_free hfree hscope _
    · rw [State.writeInval, State.cluster_onCluster]
      exact Cluster.startInval_held hheld _
  case finish =>
    intro i hi hroot hnodup hid
    obtain ⟨htlb, hcores, hsvcs, hwalks, hnone⟩ := State.finishInval_clean hi hroot hnodup hid
    refine ⟨_, rfl, fun x hx => ?_, fun x hx hcov => ?_, fun c j x hc => (State.core_finishInval hcores c).2 hc j x,
      fun c j x hc => State.svc_finishInval hsvcs hc, fun w hw => ?_, hnone, fun c => (State.core_finishInval hcores c).1⟩
    · rw [htlb] at hx
      simpa using (List.mem_filter.1 hx).2
    · rw [htlb]
      exact List.mem_filter.2 ⟨hx, by simpa using hcov⟩
    · exact hwalks w hw

end Sys2Proof.Machine
end

section
/-! A completion record that takes the place of one that the host has not read (10 R354; 12 R467). -/

namespace Sys2Proof.Machine

/-- The command in slot 0 of a window, a NOP that has ended with CODE 0. -/
def endedNop : Command := ⟨0, 0, true, some 0, 0, 0, [], none, false, false⟩

/-- That command stands where the slot's last record is that of launch 0, which the host has not read: the launch's TCB is finished,
and has no future. -/
def overUnread : State :=
  (State.reset.onPart 0 (fun p => { p with
    pblock := BitVec.ofNat 1024 (0x10000 * 2 ^ 128 + 2 ^ 192)
    cmds := [(0, endedNop)]
    unread := [(0, 0)] })).writeBytes 0x10000 [0x41]

/-- The new record takes the place of the one that was not read, and the TCB is freed with it (10 R354). -/
theorem byteAt_completionRecord_overUnread :
    (match exec .completionRecord overUnread with
      | .next t => t.byteAt 0x10000
      | _ => 0x41) = 0 := by decide +kernel

/-- Refutes O57, in its part on COMPLETION_RECORD: it may change more than windows and interrupts. A record that takes the place of one
that the host has not read frees the TCB of that one's launch, whose fields stand in memory. -/
theorem not_hostReadsAndWrites : ¬ Obligations.HostReadsAndWrites := by
  intro h
  obtain ⟨hrecord, -⟩ := h overUnread
  obtain ⟨t, ht, hrest, -⟩ := hrecord endedNop (by decide +kernel) (by decide +kernel) (by decide +kernel)
  have hbyte := byteAt_completionRecord_overUnread
  simp only [ht] at hbyte
  have hsame : t.byteAt 0x10000 = overUnread.byteAt 0x10000 := by
    rw [hrest]
    rfl
  rw [hsame] at hbyte
  exact absurd hbyte (by decide +kernel)

end Sys2Proof.Machine
end

section
/-! Words and their bytes: the codes of targets and origins, moves, the forms of a word, and the decoder against the encoder (02 R70 to
R76, R98 to R100). -/

namespace Sys2Proof

/-! ### Codes of targets and origins (02 R77, R98 to R100) -/

/-- A trigger that a unit's list names has the code that it was found by, or is reserved under it (02 R99). -/
theorem code_trigAt {α : Type} {all : List α} {mk : α → Op} (base : Nat) {n : Nat} {c : BitVec 11}
    (hall : all.zipIdx.all (fun x => (mk x.1).code == base + x.2) = true) (hc : c.toNat = base + n) :
    (trigAt all n mk c).code = c := by
  unfold trigAt
  cases ho : all[n]? with
  | none => rfl
  | some o =>
    have h := List.all_eq_true.1 hall _ (List.mk_mem_zipIdx_iff_getElem?.2 ho)
    have h : (mk o).code = c.toNat := by simpa [hc] using h
    show BitVec.ofNat 11 (mk o).code = c
    rw [h, BitVec.ofNat_toNat, BitVec.setWidth_eq]

theorem code_latch {l : Latch} {c : BitVec 11} (h : c.toNat = l.code) : (Target.latch l).code = c := by
  show BitVec.ofNat 11 l.code = c
  rw [← h, BitVec.ofNat_toNat, BitVec.setWidth_eq]

theorem Target.code_ite {p : Prop} [Decidable p] {a b : Target} {c : BitVec 11} (ha : p → a.code = c) (hb : ¬ p → b.code = c) :
    (if p then a else b).code = c := by
  split
  · exact ha ‹_›
  · exact hb ‹_›

theorem code_swTarget {c : BitVec 11} (h : 0x120 ≤ c.toNat) (h' : c.toNat < 0x140) :
    (swTarget (BitVec.ofNat 2 ((c.toNat - 0x120) / 8)) ((c.toNat - 0x120) % 8) c).code = c := by
  have hall : ∀ n : BitVec 2, SwOp.all.zipIdx.all (fun x => (Op.sw n x.1).code == 0x121 + 8 * n.toNat + x.2) = true := by decide
  have hn : (BitVec.ofNat 2 ((c.toNat - 0x120) / 8)).toNat = (c.toNat - 0x120) / 8 := by
    rw [BitVec.toNat_ofNat]
    omega
  refine Target.code_ite (fun _ => code_latch ?_) (fun _ => code_trigAt _ (hall _) ?_)
  · simp only [Latch.code, hn]
    omega
  · rw [hn]
    omega

/-- The target that a code names has that code (02 R98, R99). -/
theorem Target.code_ofCode (c : BitVec 11) : (Target.ofCode c).code = c := by
  unfold Target.ofCode
  refine code_ite (fun _ => BitVec.eq_of_toNat_eq ?_) (fun _ => ?_)
  · simp [Target.code]
    omega
  refine code_ite (fun _ => BitVec.eq_of_toNat_eq ?_) (fun _ => ?_)
  · simp [Target.code]
    omega
  refine code_ite (fun _ => rfl) (fun _ => ?_)
  refine code_ite (fun h => code_latch h) (fun _ => ?_)
  refine code_ite (fun _ => code_trigAt 0x061 (by decide) (by omega)) (fun _ => ?_)
  refine code_ite (fun h => code_latch h) (fun _ => ?_)
  refine code_ite (fun _ => code_trigAt 0x081 (by decide) (by omega)) (fun _ => ?_)
  refine code_ite (fun h => code_latch h) (fun _ => ?_)
  refine code_ite (fun _ => code_trigAt 0x0A1 (by decide) (by omega)) (fun _ => ?_)
  refine code_ite (fun h => code_latch h) (fun _ => ?_)
  refine code_ite (fun h => code_latch h) (fun _ => ?_)
  refine code_ite (fun _ => code_trigAt 0x0C2 (by decide) (by omega)) (fun _ => ?_)
  refine code_ite (fun h => code_latch h) (fun _ => ?_)
  refine code_ite (fun h => code_latch h) (fun _ => ?_)
  refine code_ite (fun _ => code_trigAt 0x0E2 (by decide) (by omega)) (fun _ => ?_)
  refine code_ite (fun h => code_latch h) (fun _ => ?_)
  refine code_ite (fun h => code_latch h) (fun _ => ?_)
  refine code_ite (fun _ => code_trigAt 0x102 (by decide) (by omega)) (fun _ => ?_)
  refine code_ite (fun _ => code_swTarget (by omega) (by omega)) (fun _ => ?_)
  refine code_ite (fun h => code_latch h) (fun _ => ?_)
  refine code_ite (fun _ => code_trigAt 0x141 (by decide) (by omega)) (fun _ => ?_)
  refine code_ite (fun h => code_latch h) (fun _ => ?_)
  refine code_ite (fun _ => code_trigAt 0x161 (by decide) (by omega)) (fun _ => ?_)
  refine code_ite (fun h => code_latch h) (fun _ => ?_)
  refine code_ite (fun _ => code_trigAt 0x181 (by decide) (by omega)) (fun _ => ?_)
  refine code_ite (fun h => code_latch h) (fun _ => ?_)
  refine code_ite (fun _ => code_trigAt 0x1C1 (by decide) (by omega)) (fun _ => ?_)
  refine code_ite (fun h => code_latch h) (fun _ => ?_)
  refine code_ite (fun h => code_latch h) (fun _ => ?_)
  refine code_ite (fun _ => code_trigAt 0x1E2 (by decide) (by omega)) (fun _ => ?_)
  refine code_ite (fun h => code_latch h) (fun _ => ?_)
  refine code_ite (fun h => code_latch h) (fun _ => ?_)
  refine code_ite (fun _ => code_trigAt 0x202 (by decide) (by omega)) (fun _ => ?_)
  refine code_ite (fun h => code_latch h) (fun _ => ?_)
  refine code_ite (fun h => code_latch h) (fun _ => ?_)
  refine code_ite (fun _ => code_trigAt 0x222 (by decide) (by omega)) (fun _ => ?_)
  refine code_ite (fun h => code_latch h) (fun _ => ?_)
  refine code_ite (fun _ => code_trigAt 0x241 (by decide) (by omega)) (fun _ => ?_)
  refine code_ite (fun h => code_latch h) (fun _ => ?_)
  refine code_ite (fun h => code_latch h) (fun _ => ?_)
  refine code_ite (fun _ => code_trigAt 0x262 (by decide) (by omega)) (fun _ => ?_)
  rfl

theorem Origin.toNat_field_ite {p : Prop} [Decidable p] {a b : Origin} {c : Nat} (ha : p → a.field.toNat = c)
    (hb : ¬ p → b.field.toNat = c) : (if p then a else b).field.toNat = c := by
  split
  · exact ha ‹_›
  · exact hb ‹_›

/-- The origin that a code names has that code (02 R100). -/
theorem Origin.toNat_field_ofCode (c : BitVec 10) : (Origin.ofCode c).field.toNat = c.toNat := by
  unfold Origin.ofCode
  refine toNat_field_ite (fun _ => ?_) (fun _ => ?_)
  · simp [Origin.field]
    omega
  refine toNat_field_ite (fun _ => ?_) (fun _ => ?_)
  · simp [Origin.field]
    omega
  refine toNat_field_ite (fun _ => ?_) (fun _ => ?_)
  · simp [Origin.field]
    omega
  iterate 34 refine toNat_field_ite Eq.symm (fun _ => ?_)
  have := c.isLt
  simp [Origin.field]
  omega

/-- The origin that a field names has that field (02 R77, R100). -/
theorem Origin.field_ofField (f : BitVec 11) : (Origin.ofField f).field = f := by
  have := f.isLt
  apply BitVec.eq_of_toNat_eq
  refine toNat_field_ite (fun _ => ?_) (fun _ => ?_)
  · rw [Origin.toNat_field_ofCode, BitVec.toNat_setWidth]
    omega
  · simp [Origin.field]
    omega


theorem Target.wf_iff (t : Target) : t.wf = true ↔ Target.ofCode t.code = t := by simp [Target.wf]

theorem Origin.wf_iff (o : Origin) : o.wf = true ↔ Origin.ofField o.field = o := by simp [Origin.wf]

theorem Target.wf_ofCode (c : BitVec 11) : (Target.ofCode c).wf = true := by
  rw [Target.wf_iff, Target.code_ofCode]

theorem Origin.wf_ofField (f : BitVec 11) : (Origin.ofField f).wf = true := by
  rw [Origin.wf_iff, Origin.field_ofField]

theorem Move.wf_iff (m : Move) : m.wf = true ↔ m.tgt.wf = true ∧ m.org.wf = true := by simp [Move.wf]

theorem Move.wf_ofBits (x : BitVec 30) : (Move.ofBits x).wf = true := by
  rw [Move.wf_iff]
  exact ⟨Target.wf_ofCode _, Origin.wf_ofField _⟩

/-- A move is read back from its bits (02 R76). -/
theorem Move.ofBits_bits {m : Move} (h : m.wf = true) : Move.ofBits m.bits = m := by
  obtain ⟨ht, ho⟩ := (Move.wf_iff m).1 h
  have hguard : m.bits.extractLsb' 0 4 = m.guard := BitVec.extractLsb'_append_eq_right
  have htgt : m.bits.extractLsb' 4 11 = m.tgt.code :=
    (BitVec.extractLsb'_append_eq_of_le (by decide)).trans BitVec.extractLsb'_append_eq_right
  have horg : m.bits.extractLsb' 15 11 = m.org.field :=
    (BitVec.extractLsb'_append_eq_of_le (by decide)).trans
      ((BitVec.extractLsb'_append_eq_of_le (by decide)).trans BitVec.extractLsb'_append_eq_right)
  have hsb : m.bits.extractLsb' 26 4 = m.sb :=
    (BitVec.extractLsb'_append_eq_of_le (by decide)).trans
      ((BitVec.extractLsb'_append_eq_of_le (by decide)).trans BitVec.extractLsb'_append_eq_left)
  simp only [Move.ofBits, hguard, htgt, horg, hsb, (Target.wf_iff _).1 ht, (Origin.wf_iff _).1 ho]

/-- A long move is read back from its bits (02 R73). -/
theorem LongMove.ofBits_bits {l : LongMove} (h : l.tgt.wf = true) : LongMove.ofBits l.bits = l := by
  have hguard : l.bits.extractLsb' 0 4 = l.guard := BitVec.extractLsb'_append_eq_right
  have htgt : l.bits.extractLsb' 4 11 = l.tgt.code :=
    (BitVec.extractLsb'_append_eq_of_le (by decide)).trans BitVec.extractLsb'_append_eq_right
  have hsb : l.bits.extractLsb' 15 4 = l.sb :=
    (BitVec.extractLsb'_append_eq_of_le (by decide)).trans
      ((BitVec.extractLsb'_append_eq_of_le (by decide)).trans BitVec.extractLsb'_append_eq_right)
  have himm : l.bits.extractLsb' 19 42 = l.imm :=
    (BitVec.extractLsb'_append_eq_of_le (by decide)).trans
      ((BitVec.extractLsb'_append_eq_of_le (by decide)).trans BitVec.extractLsb'_append_eq_left)
  simp only [LongMove.ofBits, hguard, htgt, hsb, himm, (Target.wf_iff _).1 h]

/-! ### Rows of the table (02 R99) -/

/-- A trigger's code names it (02 R98, R99). -/
theorem Target.wf_trig (op : Op) : (Target.trig op).wf = true := by
  cases op
  case ia u o =>
    revert u
    cases o <;> decide
  case sw n o =>
    revert n
    cases o <;> decide
  all_goals
    rename_i o
    cases o <;> rfl

/-- The row of a trigger has that trigger. -/
theorem trigger?_instr (op : Op) (m : Arg) : (op.instr m).trigger? = some (op, m) := by
  cases op <;> rename_i o <;> cases o
  case ls.ldd | ls.std =>
    show (if m.org.isNegImm = true then _ else _ : Instr).trigger? = _
    split <;> rfl
  all_goals rfl

/-- A well-formed row is that of its trigger, and its operands are. -/
theorem instr_of_trigger? {i : Instr} {op : Op} {m : Arg} (h : i.trigger? = some (op, m)) (hw : i.wf = true) :
    op.instr m = i ∧ m.wf = true := by
  cases i <;> cases h
  case lsLdd | lsStd =>
    obtain ⟨h1, h2⟩ := Bool.and_eq_true_iff.1 hw
    exact ⟨if_neg (by simpa using h2), h1⟩
  case bankFormatRead | bankFormatWrite =>
    obtain ⟨h1, h2⟩ := Bool.and_eq_true_iff.1 hw
    exact ⟨if_pos h2, h1⟩
  all_goals exact ⟨rfl, hw⟩

/-- A word of one trigger is encoded by its move (02 R71). -/
theorem encode_of_trigger? {i : Instr} {op : Op} {m : Arg} (h : i.trigger? = some (op, m)) :
    encode i = leBytes 4 (shortBits (Move.bits ⟨m.guard, m.org, .trig op, m.sb⟩) 0b00).toNat := by
  unfold encode
  split
  · exact nomatch h
  · exact nomatch h
  · rw [h]

/-! ### Words (02 R70 to R73) -/

theorem leNat_append (a b : List Byte) : leNat (a ++ b) = leNat a + 256 ^ a.length * leNat b := by
  induction a with
  | nil => simp [leNat]
  | cons x a ih => simp only [List.cons_append, leNat, ih, List.length_cons, Nat.pow_succ]; ring

/-- A length field is read from the lowest byte (02 R70). -/
theorem toNat_append_mod_four {w : Nat} (y : BitVec w) (l : BitVec 2) : (y ++ l).toNat % 4 = l.toNat := by
  have := l.isLt
  rw [BitVec.toNat_append, ← Nat.shiftLeft_add_eq_or_of_lt l.isLt, Nat.shiftLeft_eq]
  omega

/-- The first `n` bytes of a word, with what follows them, as a number. -/
theorem ofNat_leNat {n w : Nat} (x : BitVec w) (tail : List Byte) (hw : w = 8 * n) :
    BitVec.ofNat w (leNat (leBytes n x.toNat ++ tail)) = x := by
  subst hw
  apply BitVec.eq_of_toNat_eq
  rw [BitVec.toNat_ofNat, leNat_append, Machine.leNat_leBytes, Machine.leBytes_length, Machine.pow_256, Nat.add_mul_mod_self_left,
    Nat.mod_mod, Nat.mod_eq_of_lt x.isLt]

theorem leNat_mod_four {n w : Nat} (y : BitVec w) (l : BitVec 2) (tail : List Byte) (hw : w + 2 = 8 * n) :
    leNat (leBytes n (y ++ l).toNat ++ tail) % 4 = l.toNat := by
  have h := congrArg BitVec.toNat (ofNat_leNat (n := n) (y ++ l) tail hw)
  have hd : 4 ∣ 2 ^ (w + 2) := ⟨2 ^ w, by ring⟩
  rw [BitVec.toNat_ofNat] at h
  rw [← toNat_append_mod_four y l, ← h, Nat.mod_mod_of_dvd _ hd, h]

/-- The length of a word that begins with some bytes, by its length field (02 R70). -/
theorem wordLen_head (b : Byte) (bs : List Byte) : wordLen b = wordLen (BitVec.ofNat 8 (leNat (b :: bs) % 4)) := by
  have h : fieldN b.toNat 0 2 = fieldN (BitVec.ofNat 8 (leNat (b :: bs) % 4)).toNat 0 2 := by
    simp only [fieldN, leNat, BitVec.toNat_ofNat]
    omega
  rw [wordLen, h, wordLen]

/-- A word is decoded whole, and what follows it is left (02 R70). -/
theorem decode_append {bs rest : List Byte} (h : bs.length = wordLen (BitVec.ofNat 8 (leNat bs % 4))) (hne : bs ≠ []) :
    decode (bs ++ rest) = .ok (decodeWord bs, rest) := by
  cases bs with
  | nil => exact absurd rfl hne
  | cons b bs =>
    rw [← wordLen_head] at h
    show (if ((b :: bs ++ rest).take (wordLen b)).length = wordLen b then _ else _) = _
    rw [← h, List.take_left, List.drop_left, if_pos rfl]

/-- A word is decoded by its length field `l`, whatever follows it (02 R70). -/
theorem decode_word {n w : Nat} (y : BitVec w) (l : BitVec 2) (tail rest : List Byte) (hw : w + 2 = 8 * n)
    (hlen : n + tail.length = wordLen (BitVec.ofNat 8 l.toNat)) :
    decode (leBytes n (y ++ l).toNat ++ tail ++ rest) = .ok (decodeWord (leBytes n (y ++ l).toNat ++ tail), rest) := by
  have hl : (leBytes n (y ++ l).toNat ++ tail).length = n + tail.length := by rw [List.length_append, Machine.leBytes_length]
  refine decode_append ?_ (fun h => ?_)
  · rw [leNat_mod_four y l tail hw, hl, hlen]
  · rw [h] at hl
    exact absurd hl (by simp; omega)

/-- The 64-bit literal stands after the bytes of its word (02 R70). -/
theorem litAt_append {n : Nat} (x : Nat) (v : Word) : litAt (leBytes n x ++ leBytes 8 v.toNat) n = v := by
  have h8 : (leBytes 8 v.toNat).length = 8 := Machine.leBytes_length ..
  have hv := ofNat_leNat (n := 8) v [] rfl
  rw [List.append_nil] at hv
  rw [litAt, List.drop_left' (Machine.leBytes_length ..), List.take_of_length_le (Nat.le_of_eq h8), hv]

theorem decodeWord_short (y : BitVec 30) : decodeWord (leBytes 4 (y ++ 0b00#2).toNat) = decodeShort (y ++ 0b00#2) := by
  have hm := leNat_mod_four (n := 4) y 0b00#2 [] rfl
  have hx := ofNat_leNat (n := 4) (y ++ 0b00#2) [] rfl
  rw [List.append_nil] at hm hx
  unfold decodeWord
  dsimp only
  rw [hm]
  exact congrArg decodeShort hx

theorem decodeWord_lit (y : BitVec 30) (v : Word) : decodeWord (leBytes 4 (y ++ 0b10#2).toNat ++ leBytes 8 v.toNat) =
    .wordIssue (.oneLit (.ofBits y) v) := by
  have hx := ofNat_leNat (n := 4) (y ++ 0b10#2) (leBytes 8 v.toNat) rfl
  unfold decodeWord
  dsimp only
  rw [leNat_mod_four (n := 4) y 0b10#2 _ rfl, litAt_append]
  have hy : (y ++ 0b10#2).extractLsb' 2 30 = y := BitVec.extractLsb'_append_eq_left
  show Instr.wordIssue (.oneLit (.ofBits ((BitVec.ofNat 32 _).extractLsb' 2 30)) v) = _
  rw [hx, hy]

/-- The instruction of a 96-bit form with or without its literal (02 R72, R73). -/
theorem decode_withLit (y : BitVec 94) (l : Option Word) (rest : List Byte) : ∃ b : BitVec 2,
    decode (SWord.encode.withLit y l ++ rest) = .ok (.wordIssue (decodeForm (y ++ b) l), rest) := by
  cases l with
  | none =>
    have hm := leNat_mod_four (n := 12) y 0b01#2 [] rfl
    have hx := ofNat_leNat (n := 12) (y ++ 0b01#2) [] rfl
    have hd := decode_word (n := 12) y 0b01#2 [] rest rfl rfl
    rw [List.append_nil] at hm hx hd
    refine ⟨0b01#2, hd.trans ?_⟩
    unfold decodeWord
    dsimp only
    rw [hm]
    show Except.ok (Instr.wordIssue (decodeForm (BitVec.ofNat 96 _) none), rest) = _
    rw [hx]
  | some v =>
    have hx := ofNat_leNat (n := 12) (y ++ 0b11#2) (leBytes 8 v.toNat) rfl
    have hd := decode_word (n := 12) y 0b11#2 (leBytes 8 v.toNat) rest rfl (by rw [Machine.leBytes_length]; rfl)
    refine ⟨0b11#2, hd.trans ?_⟩
    unfold decodeWord
    dsimp only
    rw [leNat_mod_four (n := 12) y 0b11#2 _ rfl, litAt_append]
    show Except.ok (Instr.wordIssue (decodeForm (BitVec.ofNat 96 _) (some v)), rest) = _
    rw [hx]

/-- A word of one move and no literal is read by its move (02 R71). -/
theorem decode_short (y : BitVec 30) (rest : List Byte) :
    decode (leBytes 4 (shortBits y 0b00).toNat ++ rest) = .ok (decodeShort (y ++ 0b00#2), rest) := by
  have hd := decode_word (n := 4) y 0b00#2 [] rest rfl rfl
  rw [List.append_nil] at hd
  exact hd.trans (by rw [decodeWord_short])

theorem short_slice (y : BitVec 30) : (y ++ 0b00#2).extractLsb' 2 30 = y := BitVec.extractLsb'_append_eq_left

/-- A move that triggers is the row of its trigger (02 R71, R99). -/
theorem decodeShort_trig {op : Op} {m : Move} (hw : m.wf = true) (hn : m.isNop = false) (ht : m.tgt = .trig op) :
    decodeShort (m.bits ++ 0b00#2) = op.instr m.arg := by
  unfold decodeShort
  dsimp only
  rw [short_slice, Move.ofBits_bits hw, if_neg (by simp [hn]), ht]

/-- A move that triggers nothing is a general word (02 R71). -/
theorem decodeShort_one {m : Move} (hw : m.wf = true) (hn : m.isNop = false) (ht : m.tgt.op? = none) :
    decodeShort (m.bits ++ 0b00#2) = .wordIssue (.one m) := by
  unfold decodeShort
  dsimp only
  rw [short_slice, Move.ofBits_bits hw, if_neg (by simp [hn])]
  split
  · rename_i h
    rw [h] at ht
    exact nomatch ht
  · rfl

/-- A word whose guard is 0b1000 is the NOP, with what stands beside (02 R76). -/
theorem decodeShort_nop (n : BitVec 4) (o t : BitVec 11) :
    decodeShort ((n ++ o ++ t ++ 0b1000#4 : BitVec 30) ++ 0b00#2) = .nop n o t := by
  have hguard : (n ++ o ++ t ++ 0b1000#4 : BitVec 30).extractLsb' 0 4 = 0b1000#4 := BitVec.extractLsb'_append_eq_right
  have ht : (n ++ o ++ t ++ 0b1000#4 : BitVec 30).extractLsb' 4 11 = t :=
    (BitVec.extractLsb'_append_eq_of_le (by decide)).trans BitVec.extractLsb'_append_eq_right
  have ho : (n ++ o ++ t ++ 0b1000#4 : BitVec 30).extractLsb' 15 11 = o :=
    (BitVec.extractLsb'_append_eq_of_le (by decide)).trans
      ((BitVec.extractLsb'_append_eq_of_le (by decide)).trans BitVec.extractLsb'_append_eq_right)
  have hn : (n ++ o ++ t ++ 0b1000#4 : BitVec 30).extractLsb' 26 4 = n :=
    (BitVec.extractLsb'_append_eq_of_le (by decide)).trans
      ((BitVec.extractLsb'_append_eq_of_le (by decide)).trans BitVec.extractLsb'_append_eq_left)
  have hnop : (Move.ofBits (n ++ o ++ t ++ 0b1000#4 : BitVec 30)).isNop = true := by
    rw [Move.isNop, Move.ofBits, hguard]
    rfl
  unfold decodeShort
  dsimp only
  rw [short_slice, if_pos hnop, ht, ho, hn]

/-- The fields of a form stand above its length field (02 R72, R73). -/
theorem form_slice (y : BitVec 94) (b : BitVec 2) (i n : Nat) : (y ++ b).extractLsb' (i + 2) n = y.extractLsb' i n :=
  BitVec.extractLsb'_append_eq_of_le (Nat.le_add_left ..)

theorem decodeForm_b3 {m1 m2 m3 : Move} (h1 : m1.wf = true) (h2 : m2.wf = true) (h3 : m3.wf = true) (ls b : BitVec 2)
    (l : Option Word) : decodeForm ((ls ++ m3.bits ++ m2.bits ++ m1.bits ++ 0b00#2 : BitVec 94) ++ b) l = .b3 m1 m2 m3 ls l := by
  set y : BitVec 94 := ls ++ m3.bits ++ m2.bits ++ m1.bits ++ 0b00#2 with hy
  have hf : y.extractLsb' 0 2 = 0b00#2 := BitVec.extractLsb'_append_eq_right
  have hm1 : y.extractLsb' 2 30 = m1.bits := (BitVec.extractLsb'_append_eq_of_le (by decide)).trans BitVec.extractLsb'_append_eq_right
  have hm2 : y.extractLsb' 32 30 = m2.bits := (BitVec.extractLsb'_append_eq_of_le (by decide)).trans
    ((BitVec.extractLsb'_append_eq_of_le (by decide)).trans BitVec.extractLsb'_append_eq_right)
  have hm3 : y.extractLsb' 62 30 = m3.bits := (BitVec.extractLsb'_append_eq_of_le (by decide)).trans
    ((BitVec.extractLsb'_append_eq_of_le (by decide)).trans
      ((BitVec.extractLsb'_append_eq_of_le (by decide)).trans BitVec.extractLsb'_append_eq_right))
  have hls : y.extractLsb' 92 2 = ls := (BitVec.extractLsb'_append_eq_of_le (by decide)).trans
    ((BitVec.extractLsb'_append_eq_of_le (by decide)).trans
      ((BitVec.extractLsb'_append_eq_of_le (by decide)).trans BitVec.extractLsb'_append_eq_left))
  unfold decodeForm
  rw [form_slice y b 0 2, form_slice y b 2 30, form_slice y b 32 30, form_slice y b 62 30, form_slice y b 92 2, hf, hm1, hm2, hm3,
    hls, Move.ofBits_bits h1, Move.ofBits_bits h2, Move.ofBits_bits h3]
  rfl

theorem decodeForm_bi {k : LongMove} {m : Move} (hk : k.tgt.wf = true) (hm : m.wf = true) (top : BitVec 1) (b : BitVec 2)
    (l : Option Word) : decodeForm ((top ++ m.bits ++ k.bits ++ 0b01#2 : BitVec 94) ++ b) l = .bi k m top l := by
  set y : BitVec 94 := top ++ m.bits ++ k.bits ++ 0b01#2 with hy
  have hf : y.extractLsb' 0 2 = 0b01#2 := BitVec.extractLsb'_append_eq_right
  have hl : y.extractLsb' 2 61 = k.bits := (BitVec.extractLsb'_append_eq_of_le (by decide)).trans BitVec.extractLsb'_append_eq_right
  have hmv : y.extractLsb' 63 30 = m.bits := (BitVec.extractLsb'_append_eq_of_le (by decide)).trans
    ((BitVec.extractLsb'_append_eq_of_le (by decide)).trans BitVec.extractLsb'_append_eq_right)
  have htop : y.extractLsb' 93 1 = top := (BitVec.extractLsb'_append_eq_of_le (by decide)).trans
    ((BitVec.extractLsb'_append_eq_of_le (by decide)).trans BitVec.extractLsb'_append_eq_left)
  unfold decodeForm
  rw [form_slice y b 0 2, form_slice y b 2 61, form_slice y b 63 30, form_slice y b 93 1, hf, hl, hmv, htop,
    LongMove.ofBits_bits hk, Move.ofBits_bits hm]
  rfl

theorem decodeForm_bad (f : BitVec 1) (r : BitVec 92) (b : BitVec 2) (l : Option Word) :
    decodeForm ((r ++ (1#1 ++ f) : BitVec 94) ++ b) l = .bad f r l := by
  set y : BitVec 94 := r ++ (1#1 ++ f) with hy
  have hf : y.extractLsb' 0 2 = 1#1 ++ f := BitVec.extractLsb'_append_eq_right
  have hlow : y.extractLsb' 0 1 = f := (BitVec.extractLsb'_append_eq_of_add_le (by decide)).trans BitVec.extractLsb'_append_eq_right
  have hr : y.extractLsb' 2 92 = r := BitVec.extractLsb'_append_eq_left
  have h2 : ∀ f : BitVec 1, 2 ≤ (1#1 ++ f : BitVec 2).toNat := by decide
  unfold decodeForm
  rw [form_slice y b 0 2, form_slice y b 0 1, form_slice y b 2 92, hf, hlow, hr]
  split
  · have := h2 f
    omega
  · have := h2 f
    omega
  · rfl

/-- The row of a trigger is read back (02 R71). -/
theorem decode_encode_of_trigger? {i : Instr} {op : Op} {m : Arg} (ht : i.trigger? = some (op, m)) (hw : i.wf = true)
    (rest : List Byte) : decode (encode i ++ rest) = .ok (i, rest) := by
  obtain ⟨hi, hm⟩ := instr_of_trigger? ht hw
  obtain ⟨horg, hg⟩ := Bool.and_eq_true_iff.1 hm
  have hmove : Move.wf ⟨m.guard, m.org, .trig op, m.sb⟩ = true := (Move.wf_iff _).2 ⟨Target.wf_trig op, horg⟩
  rw [encode_of_trigger? ht, decode_short, decodeShort_trig hmove (by simpa [Move.isNop] using hg) rfl]
  exact congrArg (fun j => Except.ok (j, rest)) hi

/-- A general word is read back (02 R70 to R73). -/
theorem decode_encode_word {w : SWord} (hw : w.wf = true) (rest : List Byte) :
    decode (w.encode ++ rest) = .ok (.wordIssue w, rest) := by
  cases w with
  | one m =>
    simp only [SWord.wf, Bool.and_eq_true, Bool.not_eq_true'] at hw
    obtain ⟨⟨hm, hn⟩, ht⟩ := hw
    have ht : m.tgt.op? = none := by cases h : m.tgt <;> simp_all [Target.op?]
    rw [SWord.encode, decode_short, decodeShort_one hm hn ht]
  | oneLit m v =>
    have hd := decode_word (n := 4) m.bits 0b10#2 (leBytes 8 v.toNat) rest rfl (by rw [Machine.leBytes_length]; rfl)
    rw [decodeWord_lit, Move.ofBits_bits hw] at hd
    exact hd
  | b3 m1 m2 m3 ls l =>
    simp only [SWord.wf, Bool.and_eq_true] at hw
    obtain ⟨⟨h1, h2⟩, h3⟩ := hw
    obtain ⟨b, hd⟩ := decode_withLit (ls ++ m3.bits ++ m2.bits ++ m1.bits ++ 0b00#2) l rest
    rw [SWord.encode, hd, decodeForm_b3 h1 h2 h3]
  | bi k m top l =>
    simp only [SWord.wf, Bool.and_eq_true] at hw
    obtain ⟨hk, hm⟩ := hw
    obtain ⟨b, hd⟩ := decode_withLit (top ++ m.bits ++ k.bits ++ 0b01#2) l rest
    rw [SWord.encode, hd, decodeForm_bi hk hm]
  | bad f r l =>
    obtain ⟨b, hd⟩ := decode_withLit (r ++ (1#1 ++ f)) l rest
    rw [SWord.encode, hd, decodeForm_bad]

/-! ### What is read is well-formed (02 R70 to R76) -/

/-- The row of a trigger with well-formed operands is well-formed. -/
theorem Op.wf_instr (op : Op) {m : Arg} (hm : m.wf = true) : (op.instr m).wf = true := by
  cases op <;> rename_i o <;> cases o
  case ls.ldd | ls.std =>
    show (if m.org.isNegImm = true then _ else _ : Instr).wf = true
    split
    · exact Bool.and_eq_true_iff.2 ⟨hm, ‹_›⟩
    · rename_i hn
      rw [Bool.not_eq_true] at hn
      exact Bool.and_eq_true_iff.2 ⟨hm, by rw [hn]; rfl⟩
  all_goals exact hm

theorem wf_decodeShort (x : BitVec 32) : (decodeShort x).wf = true := by
  unfold decodeShort
  dsimp only
  set m := Move.ofBits (x.extractLsb' 2 30) with hm
  have hw : m.wf = true := Move.wf_ofBits _
  split
  · rfl
  · rename_i hn
    split
    · exact Op.wf_instr _ (Bool.and_eq_true_iff.2 ⟨((Move.wf_iff m).1 hw).2, by
        show (m.guard != 0b1000#4) = true
        simpa [Move.isNop] using hn⟩)
    · simp only [Instr.wf, SWord.wf, hw, hn, Bool.not_false, Bool.true_and]

theorem length_encode_decodeShort (x : BitVec 32) : (encode (decodeShort x)).length = 4 := by
  unfold decodeShort
  dsimp only
  split
  · exact Machine.leBytes_length ..
  · split
    · rw [encode_of_trigger? (trigger?_instr _ _)]
      exact Machine.leBytes_length ..
    · exact Machine.leBytes_length ..

theorem length_withLit (y : BitVec 94) (l : Option Word) :
    (SWord.encode.withLit y l).length = 12 + if l.isSome then 8 else 0 := by
  cases l with
  | none => exact Machine.leBytes_length ..
  | some v => simp [SWord.encode.withLit, Machine.leBytes_length]

theorem wf_decodeForm (x : BitVec 96) (l : Option Word) : (decodeForm x l).wf = true := by
  unfold decodeForm
  split
  · simp [SWord.wf, Move.wf_ofBits]
  · simp [SWord.wf, Move.wf_ofBits, LongMove.ofBits, Target.wf_ofCode]
  · rfl

theorem length_encode_decodeForm (x : BitVec 96) (l : Option Word) :
    (decodeForm x l).encode.length = 12 + if l.isSome then 8 else 0 := by
  unfold decodeForm
  split <;> exact length_withLit ..

/-- Any bytes decode to a well-formed word whose encoding is as long as their length field says (02 R70). -/
theorem decodeWord_spec (bs : List Byte) : (decodeWord bs).wf = true ∧
    (encode (decodeWord bs)).length = wordLen (BitVec.ofNat 8 (leNat bs % 4)) := by
  unfold decodeWord
  dsimp only
  split
  · rename_i h
    exact ⟨wf_decodeShort _, by rw [h]; exact length_encode_decodeShort _⟩
  · rename_i h
    exact ⟨wf_decodeForm _ _, by rw [h]; exact length_encode_decodeForm _ _⟩
  · rename_i h
    refine ⟨Move.wf_ofBits _, ?_⟩
    rw [h]
    simp [encode, SWord.encode, Machine.leBytes_length]
    rfl
  · rename_i h0 h1 h2
    have h : leNat bs % 4 = 3 := by
      have := Nat.mod_lt (leNat bs) (show 0 < 4 by decide)
      have : leNat bs % 4 ≠ 0 := h0
      have : leNat bs % 4 ≠ 1 := h1
      have : leNat bs % 4 ≠ 2 := h2
      omega
    exact ⟨wf_decodeForm _ _, by rw [h]; exact length_encode_decodeForm _ _⟩

theorem wordLen_cases (b : Byte) : wordLen b = 4 ∨ wordLen b = 12 ∨ wordLen b = 20 := by
  unfold wordLen
  split <;> simp

/-! ### The statements -/

/-- Settles O1: a general word, the NOP and the row of a trigger are each read back from the fields of their encoding. -/
theorem decodeInvertsEncode : Obligations.DecodeInvertsEncode := by
  intro i rest hw hne
  cases ht : i.trigger? with
  | some x => exact decode_encode_of_trigger? ht hw rest
  | none =>
    unfold encode at hne ⊢
    split
    · exact decode_encode_word hw rest
    · rw [decode_short, decodeShort_nop]
    · rename_i hword hnop
      simp only [ht, ne_eq, not_true_eq_false] at hne

/-- Settles O2: the decoder takes as many bytes as the length field of the first one says, and what it reads is of that length. -/
theorem everyWordDecodes : Obligations.EveryWordDecodes := by
  intro bs hbs
  cases bs with
  | nil => exact absurd hbs (by decide)
  | cons b bs =>
    have hn := wordLen_cases b
    have hlen : ((b :: bs).take (wordLen b)).length = wordLen b := by
      rw [List.length_take]
      omega
    have hb : wordLen b = wordLen (BitVec.ofNat 8 (leNat ((b :: bs).take (wordLen b)) % 4)) := by
      rcases Nat.exists_eq_succ_of_ne_zero (show wordLen b ≠ 0 by omega) with ⟨n, hn⟩
      rw [hn, List.take_succ_cons]
      exact hn ▸ wordLen_head b _
    have hd := decode_append (rest := (b :: bs).drop (wordLen b)) (hlen.trans hb) (fun h => by rw [h] at hlen; simp at hlen; omega)
    rw [List.take_append_drop] at hd
    obtain ⟨hw, hl⟩ := decodeWord_spec ((b :: bs).take (wordLen b))
    exact ⟨_, wordLen b, hn, hd, hw, hl.trans hb.symm⟩

/-- Settles O3: the decoder reads each word as the tables say. -/
theorem writtenWordsDecode : Obligations.WrittenWordsDecode :=
  ⟨by decide, by decide, by decide, by decide, by decide⟩

end Sys2Proof
end

section
/-! A step that fetches a word, and the state at reset (02 R75, R93, R94; 04 R147; 08 R301; 13 R477). -/

namespace Sys2Proof.Machine

theorem State.coreCycle_fetch {s : State} {c : Nat} (hm : (s.core c).mode = .run) (hh : (s.core c).hold = .none) :
    s.coreCycle c = s.fetch c := by
  unfold State.coreCycle
  rw [hm, hh]

/-- A word that lies below XB and is not poisoned is fetched whole (02 R75; 04 R147). -/
theorem State.fetch_run {s : State} {c : Nat} {i : Instr} {rest : List Byte}
    (ho : (s.core c).overlayReason (wordLen (s.byteAt (s.fetchAddr c))) = 0)
    (hp : s.poisoned? (s.fetchAddr c) (wordLen (s.byteAt (s.fetchAddr c))) = none)
    (hd : decode (s.readBytes (s.fetchAddr c) (wordLen (s.byteAt (s.fetchAddr c)))) = .ok (i, rest)) :
    s.fetch c = .run i { s.onCore c (fun k => { k with check := 0 }) with turn := c } := by
  refine (if_neg (fun h => h ho)).trans ?_
  rw [hp]
  rw [hd]

/-- Where nothing is on the agenda, the core that moves next goes through its cycle (log 3). -/
theorem State.advance_core {s : State} {c : Nat} (ha : s.agenda = [])
    (hc : (s.sole = true ∧ c = s.turn) ∨ (s.sole = false ∧ s.pickOf s.choices = some (.core c) ∧ s.coreDue c = none)) :
    s.advance = ({ s with sole := false } : State).coreCycle c := by
  unfold State.advance
  rw [ha]
  rcases hc with ⟨hs, rfl⟩ | ⟨hs, hp, hd⟩
  · exact (if_pos hs).trans (by rw [← ha])
  · have he : ({ s with sole := false, agenda := [] } : State) = s := by rw [← hs, ← ha]
    refine (if_neg (by rw [hs]; decide)).trans ?_
    rw [hp]
    show s.moveCore c = _
    unfold State.moveCore
    rw [hd, he]

/-- Settles O4: time alone passes before the core that moves fetches its word. -/
theorem stepRunsDecodedWord : Obligations.StepRunsDecodedWord := by
  intro s c i rest ha hturn hm hh ho hp hd
  let u : State := { s.tickOver with sole := false }
  have haddr : u.fetchAddr c = s.fetchAddr c := rfl
  have hbyte : ∀ a, u.byteAt a = s.byteAt a := fun _ => rfl
  have hpois : ∀ a n, u.poisoned? a n = s.poisoned? a n := fun _ _ => rfl
  have hread : ∀ a n, u.readBytes a n = s.readBytes a n := fun _ _ => rfl
  have hrun := State.fetch_run (s := u) (c := c) (by rw [hbyte, haddr]; exact ho) (by rw [hbyte, haddr, hpois]; exact hp)
    (by rw [hbyte, haddr, hread]; exact hd)
  rw [step, State.advance_core (s := s.tickOver) (c := c) ha hturn, State.coreCycle_fetch (s := u) hm hh, hrun]

/-- Settles O6: at reset every table is empty, so that what it holds reads as its default. -/
theorem resetState : Obligations.ResetState := by
  refine ⟨⟨⟨rfl, rfl⟩, rfl, rfl⟩, fun c => ⟨rfl, fun q => ?_⟩, fun x => ?_, fun x => ⟨rfl, rfl⟩⟩
  · show (Vector.replicate 64 _)[_] = _
    exact Vector.getElem_replicate _
  · unfold State.sluiceOf
    split <;> exact ⟨rfl, rfl, rfl, rfl⟩

end Sys2Proof.Machine
end

section
/-! Issue of a word: the checks of its encoding, the cycle in which it waits, and the word none of whose moves is performed (02 R72 to
R85, R95; 04 R160). -/

namespace Sys2Proof.Machine

/-! ### The words (02 R71, R85) -/

theorem exec_wordIssue (w : SWord) (s : State) : exec (.wordIssue w) s = .next (s.issue trigger s.turn w.issue) := rfl

theorem exec_nop (n : BitVec 4) (o t : BitVec 11) (s : State) : exec (.nop n o t) s = .next (s.issue trigger s.turn nopWord) := rfl

theorem exec_one {i : Instr} {op : Op} {m : Arg} (h : i.trigger? = some (op, m)) (s : State) :
    exec i s = .next (s.issue (fun _ => trigger op) s.turn (m.issue op)) := exec_trigger h s

theorem State.issue_run {s : State} (hm : s.me.mode = .run) (hh : s.me.hold = .none) (tr : Op → Trigger) (w : IssueWord) :
    s.issue tr s.turn w = s.issueRun tr s.turn w := by
  have hm : (s.core s.turn).mode = .run := hm
  have hh : (s.core s.turn).hold = .none := hh
  unfold State.issue
  rw [hm, hh]

/-! ### The checks of an encoding (02 R85 steps 1 to 5) -/

theorem conflicts_iff (a b : Slot) : conflicts a b = false ↔
    a.tgt.code ≠ b.tgt.code ∧ ∀ x y, a.tgt = .trig x → b.tgt = .trig y → x.unit ≠ y.unit := by
  unfold conflicts
  cases ha : a.tgt <;> cases hb : b.tgt <;> simp [Target.op?]

theorem firstConflict_eq_none (before ms : List Slot) : firstConflict before ms = none ↔
    (∀ b ∈ before, ∀ m ∈ ms, conflicts b m = false) ∧ ms.Pairwise (fun a b => conflicts a b = false) := by
  induction ms generalizing before with
  | nil => simp [firstConflict]
  | cons m ms ih =>
    unfold firstConflict
    by_cases h : before.any (conflicts · m) = true
    · obtain ⟨b, hb, hc⟩ := List.any_eq_true.1 h
      rw [if_pos h]
      constructor
      · exact fun e => nomatch e
      · exact fun e => absurd (e.1 b hb m (by simp)) (by simp [hc])
    · rw [if_neg h, ih]
      rw [List.any_eq_true, not_exists] at h
      simp only [not_and, Bool.not_eq_true] at h
      constructor
      · rintro ⟨h1, h2⟩
        refine ⟨fun b hb => List.forall_mem_cons.2 ⟨h b hb, h1 b (by simp [hb])⟩, List.pairwise_cons.2 ⟨h1 m (by simp), h2⟩⟩
      · rintro ⟨h1, h2⟩
        rw [List.pairwise_cons] at h2
        refine ⟨fun b hb => ?_, h2.2⟩
        rcases List.mem_append.1 hb with hb | hb
        · exact fun x hx => h1 b hb x (by simp [hx])
        · rw [List.mem_singleton.1 hb]
          exact h2.1

/-- The first check that fails gives the cause of a word's fault, whatever move it names (02 R85). -/
theorem wordErr_of_first {w : IssueWord} {delay : Bool} {cause : BitVec 8} :
    let f1 := w.illegal = true ∨ ∃ m ∈ w.moves, m.sb.getLsbD 3 = true ∧ m.tgt.op? = none
    let f2 := ∃ m ∈ w.moves, m.badTarget = true
    let f3 := ∃ m ∈ w.moves, m.badOrigin = true
    let f4 := ¬ w.moves.Pairwise (fun a b => conflicts a b = false)
    let f5 := delay = true ∧ ∃ m ∈ w.moves, (m.tgt.op?.map Op.transfers).getD false = true
    (f1 ∧ cause = 0x01 ∨ ¬ f1 ∧ f2 ∧ cause = 0x02 ∨ ¬ f1 ∧ ¬ f2 ∧ f3 ∧ cause = 0x03 ∨
      ¬ f1 ∧ ¬ f2 ∧ ¬ f3 ∧ f4 ∧ cause = 0x04 ∨ ¬ f1 ∧ ¬ f2 ∧ ¬ f3 ∧ ¬ f4 ∧ f5 ∧ cause = 0x05) →
    ∃ m, wordErr w delay = some (m, cause) := by
  intro f1 f2 f3 f4 f5 h
  have e1 : (if w.illegal then some w.moves.head? else
      (w.moves.find? (fun m => m.sb.getLsbD 3 && m.tgt.op?.isNone)).map some) = none ↔ ¬ f1 := by
    cases hi : w.illegal <;> simp [f1, hi, List.find?_eq_none]
  have e2 : w.moves.find? Slot.badTarget = none ↔ ¬ f2 := by simp [f2, List.find?_eq_none]
  have e3 : w.moves.find? Slot.badOrigin = none ↔ ¬ f3 := by simp [f3, List.find?_eq_none]
  have e4 : firstConflict [] w.moves = none ↔ ¬ f4 := by simp [f4, firstConflict_eq_none]
  have e5 : (if delay then w.moves.find? (fun m => (m.tgt.op?.map Op.transfers).getD false) else none) = none ↔ ¬ f5 := by
    cases delay <;> simp [f5, List.find?_eq_none]
  unfold wordErr
  rcases h with ⟨h1, rfl⟩ | ⟨h1, h2, rfl⟩ | ⟨h1, h2, h3, rfl⟩ | ⟨h1, h2, h3, h4, rfl⟩ | ⟨h1, h2, h3, h4, h5, rfl⟩
  · obtain ⟨x, hx⟩ := Option.ne_none_iff_exists'.1 (mt e1.1 (not_not.2 h1))
    exact ⟨x, by rw [hx]⟩
  · obtain ⟨x, hx⟩ := Option.ne_none_iff_exists'.1 (mt e2.1 (not_not.2 h2))
    exact ⟨some x, by rw [e1.2 h1]; simp only [hx]⟩
  · obtain ⟨x, hx⟩ := Option.ne_none_iff_exists'.1 (mt e3.1 (not_not.2 h3))
    exact ⟨some x, by rw [e1.2 h1]; simp only [e2.2 h2, hx]⟩
  · obtain ⟨x, hx⟩ := Option.ne_none_iff_exists'.1 (mt e4.1 (not_not.2 h4))
    exact ⟨some x, by rw [e1.2 h1]; simp only [e2.2 h2, e3.2 h3, hx]⟩
  · obtain ⟨x, hx⟩ := Option.ne_none_iff_exists'.1 (mt e5.1 (not_not.2 h5))
    exact ⟨some x, by rw [e1.2 h1]; simp only [e2.2 h2, e3.2 h3, e4.2 h4, hx]⟩

/-- A word whose encoding is at fault stops its core, and none of its moves is performed (02 R85; 04 R160). -/
theorem State.issueRun_fault {s : State} {w : IssueWord} {m : Option Slot} {cause : BitVec 8} (tr : Op → Trigger)
    (h : wordErr w s.me.owe.isSome = some (m, cause)) : s.issueRun tr s.turn w = s.onCore s.turn (fun c =>
      { c with mode := .stopping (preciseStop s.me.pc m ⟨cause, 0, 0⟩), hold := .none }) := by
  have h : wordErr w (s.core s.turn).owe.isSome = some (m, cause) := h
  unfold State.issueRun
  simp only [h]
  rfl

/-- Settles O7: the first check that fails gives the cause. -/
theorem encodingFaultStopsTheWord : Obligations.EncodingFaultStopsTheWord := by
  intro s i w hi hm hh ms f1 f2 f3 f4 f5 cause hc
  have hex : ∃ tr, exec i s = .next (s.issueRun tr s.turn w.issue) := by
    rcases hi with rfl | ⟨op, m, ht, rfl⟩
    · exact ⟨trigger, by rw [exec_wordIssue, State.issue_run hm hh]⟩
    · exact ⟨fun _ => trigger op, by rw [exec_one ht, State.issue_run hm hh]; rfl⟩
  obtain ⟨tr, hex⟩ := hex
  have e2 : f2 ↔ ∃ m ∈ w.issue.moves, m.badTarget = true := by
    refine exists_congr fun m => and_congr_right fun _ => ?_
    unfold Slot.badTarget
    cases m.tgt <;> simp
  have e3 : f3 ↔ ∃ m ∈ w.issue.moves, m.badOrigin = true := by
    refine exists_congr fun m => and_congr_right fun _ => ?_
    unfold Slot.badOrigin
    cases m.long <;> cases m.org <;> simp
  have e4 : f4 ↔ ¬ w.issue.moves.Pairwise (fun a b => conflicts a b = false) := by simp only [conflicts_iff]; rfl
  have e5 : f5 ↔ s.me.owe.isSome = true ∧ ∃ m ∈ w.issue.moves, (m.tgt.op?.map Op.transfers).getD false = true := by
    refine and_congr (by cases s.me.owe <;> simp) (exists_congr fun m => and_congr_right fun _ => ?_)
    cases m.tgt <;> simp [Target.op?]
  rw [e2, e3, e4, e5] at hc
  obtain ⟨m, he⟩ := wordErr_of_first hc
  exact ⟨preciseStop s.me.pc m ⟨cause, 0, 0⟩, rfl, rfl, rfl, by rw [hex, State.issueRun_fault tr he]⟩

/-- Settles O8: the stop is that of the move, with what its operation's check gives. -/
theorem failedCheckStopsTheWord : Obligations.FailedCheckStopsTheWord := by
  intro s i op m e hi ht he
  exact ⟨preciseStop s.me.pc (some (Arg.slot op m)) e, rfl, rfl, rfl, rfl, rfl, rfl, rfl, rfl, exec_wordFault hi ht he⟩

/-! ### A word that waits (02 R85, R95) -/

/-- The encoding of a word with one trigger passes, whatever its guard and its counter (02 R85). -/
theorem wordErr_slot {op : Op} {m : Arg} {delay : Bool} (hr : ∀ c, m.org ≠ .reserved c) (hd : op.transfers = true → delay = false) :
    wordErr ⟨[Arg.slot op m], false, 0, 4⟩ delay = none := by
  have ho : (Arg.slot op m).badOrigin = false := by
    cases hm : m.org <;> simp_all [Slot.badOrigin, Arg.slot]
  have ht : (Arg.slot op m).badTarget = false := rfl
  have hop : (Arg.slot op m).tgt.op? = some op := rfl
  have hx : (delay && op.transfers) = false := by
    cases h : op.transfers
    · exact Bool.and_false _
    · rw [hd h]; rfl
  unfold wordErr
  rw [Bool.and_eq_false_iff] at hx
  rcases hx with hx | hx <;> simp [ht, hop, ho, hx, firstConflict]

/-- A word whose encoding passes and that waits takes a cycle, and does nothing else (02 R85). -/
theorem State.issueRun_waits {s : State} {w : IssueWord} (tr : Op → Trigger) (he : wordErr w s.me.owe.isSome = none)
    (hw : (w.moves.filterMap Slot.walker?).any (fun n => (s.me.walker n).stalls) = true ∨ s.me.sbFull w.moves = true) :
    s.issueRun tr s.turn w = s.onCore s.turn Core.endCycle := by
  have he : wordErr w (s.core s.turn).owe.isSome = none := he
  unfold State.issueRun
  simp only [he]
  refine if_pos ?_
  rcases hw with hw | hw
  · exact Bool.or_eq_true_iff.2 (.inl (Bool.or_eq_true_iff.2 (.inl hw)))
  · exact Bool.or_eq_true_iff.2 (.inl (Bool.or_eq_true_iff.2 (.inr hw)))

/-- A counter at its greatest value holds the word that would raise it (02 R95). -/
theorem sbFull_slot {c : Core} {op : Op} {m : Arg} {n : BitVec 3} (hn : sbSel m.sb = some n) (hc : c.rsb n = 4095) :
    c.sbFull [Arg.slot op m] = true := by
  refine List.any_eq_true.2 ⟨n.toNat, List.mem_range.2 n.isLt, ?_⟩
  simp [Arg.slot, hn, hc]

/-- The counter of a word that has room for it (02 R95). -/
theorem sbFull_slot_room {c : Core} {op : Op} {m : Arg} (h : ∀ n, sbSel m.sb = some n → c.rsb n ≠ 4095) :
    c.sbFull [Arg.slot op m] = false := by
  refine List.any_eq_false.2 fun n _ => ?_
  by_cases hs : sbSel m.sb = some (BitVec.ofNat 3 n)
  · have hlt := (c.rsb (BitVec.ofNat 3 n)).isLt
    have hne : (c.rsb (BitVec.ofNat 3 n)).toNat ≠ 4095 := fun hc => h _ hs (BitVec.eq_of_toNat_eq hc)
    simp [Arg.slot, hs]
    omega
  · simp [Arg.slot, hs]

/-- Settles O9: a word that waits takes a cycle. -/
theorem waitingWordStalls : Obligations.WaitingWordStalls := by
  intro s i op m hi hm hh hg hl hr hd hw
  have he := wordErr_slot (op := op) (m := m) (delay := s.me.owe.isSome) hr (fun h => by rw [hd h]; rfl)
  have hx : exec i s = .next (s.onCore s.turn Core.endCycle) := by
    rw [exec_one hi, State.issue_run hm hh, issue_word hg hl]
    refine congrArg _ (State.issueRun_waits _ he ?_)
    rcases hw with ⟨n, hn, hs⟩ | ⟨n, hn, hc⟩
    · exact .inl (by simp [Slot.walker?, Arg.slot, hn, hs])
    · exact .inr (sbFull_slot hn hc)
  exact ⟨hx, State.core_onCore .., rfl, s.me.sameRegs_endCycle, rfl⟩

/-! ### A word none of whose moves is performed (02 R76, R78) -/

theorem State.onCore_congr {s : State} {n : Nat} {f g : Core → Core} (h : f (s.core n) = g (s.core n)) :
    s.onCore n f = s.onCore n g := congrArg (s.setCore n) h

/-- The machine when the moves of a word have been performed, before its cycle ends (02 R80, R81, R85). -/
def State.wordMoves (s : State) (tr : Op → Trigger) (cn : Nat) (ms : List (Slot × Word × Option Trig)) (at_ : Core) : State :=
  (ms.foldl (State.performMove tr) ((s.originEffects cn (ms.map (·.1)) (ms.any (fun x => x.1.readsFsx))).onCore cn
    (fun c => { c with ports := at_.ports }))).onCore cn (fun c => ms.foldl (fun c x => c.writeReg x.1.tgt x.2.1) c)

/-- The watched ranges that the accesses of a word's moves meet (04 R172). -/
def State.movesHit (s : State) (tr : Op → Trigger) (cn : Nat) (ms : List (Slot × Word × Option Trig)) : List Hit :=
  ms.flatMap (fun x => ((x.1.walker?.map (s.walkerHits cn)).getD []) ++ ((x.2.2.map (fun t => (tr t.op).hits s t)).getD []))

/-- A word where nothing is owed: its moves, the end of its cycle, the next word's pc, and a watched range that it met (02 R85). -/
theorem State.performWord_plain {s : State} {cn : Nat} (tr : Op → Trigger) (w : IssueWord) (ms : List (Slot × Word × Option Trig))
    (at_ : Core) (ho : (s.core cn).owe = none) : s.performWord tr cn w ms at_ =
      (((s.wordMoves tr cn ms at_).onCore cn Core.cycled).onCore cn (fun c => { c with pc := (s.core cn).pc.plus w.len })).afterHit cn
        (s.movesHit tr cn ms) := by
  unfold State.performWord
  dsimp only
  rw [ho]
  rfl

/-- A delay word: its moves, the end of its cycle, and what is owed (02 R83). -/
theorem State.performWord_owed {s : State} {cn : Nat} (tr : Op → Trigger) (w : IssueWord) (ms : List (Slot × Word × Option Trig))
    (at_ : Core) {o : Owe} (ho : (s.core cn).owe = some o) (hk : o.kind ≠ .rett ∨ s.movesHit tr cn ms = []) :
    s.performWord tr cn w ms at_ = ((((s.wordMoves tr cn ms at_).onCore cn Core.cycled).onCore cn
      (fun c => { c with owe := none })).takeOwed cn o ((s.core cn).pc.plus w.len)).afterHit cn (s.movesHit tr cn ms) := by
  unfold State.performWord
  dsimp only
  rw [ho]
  dsimp only
  split
  · rename_i h hkind hh
    have hh : pickHit (s.movesHit tr cn ms) = some h := hh
    rcases hk with hk | hk
    · exact absurd hkind hk
    · rw [hk] at hh
      exact nomatch hh
  · rfl

/-- Where no move is performed, nothing changes before the end of the cycle. -/
theorem State.wordMoves_nil (s : State) (tr : Op → Trigger) (cn : Nat) : s.wordMoves tr cn [] (s.core cn) = s.onCore cn (fun c => c) := by
  unfold State.wordMoves State.originEffects
  rw [List.foldl_nil, State.onCore_onCore, State.onCore_onCore, State.onCore_onCore]
  exact State.onCore_congr rfl

theorem State.movesHit_nil (s : State) (tr : Op → Trigger) (cn : Nat) : s.movesHit tr cn [] = [] := rfl

theorem State.afterHit_nil (s : State) (cn : Nat) : s.afterHit cn [] = s := rfl

/-- A word that performs no move, where nothing is owed, is over with its cycle (02 R78). -/
theorem State.performWord_nil (s : State) (tr : Op → Trigger) (w : IssueWord) (ho : s.me.owe = none) :
    s.performWord tr s.turn w [] s.me = s.onCore s.turn (fun c => { c.cycled with pc := s.me.pc.plus w.len }) := by
  rw [State.performWord_plain _ _ _ _ ho, State.movesHit_nil, State.afterHit_nil, State.me, State.wordMoves_nil,
    State.onCore_onCore, State.onCore_onCore]

/-- A word that performs no move, where something is owed: it is taken after the cycle (02 R83). -/
theorem State.performWord_nil_owed (s : State) (tr : Op → Trigger) (w : IssueWord) {o : Owe} (ho : s.me.owe = some o) :
    s.performWord tr s.turn w [] s.me =
      (s.onCore s.turn (fun c => { c.cycled with owe := none })).takeOwed s.turn o (s.me.pc.plus w.len) := by
  rw [State.performWord_owed _ _ _ _ ho (.inr rfl), State.movesHit_nil, State.afterHit_nil, State.me, State.wordMoves_nil,
    State.onCore_onCore, State.onCore_onCore]

/-- A word whose guards are all 0 performs no move (02 R78). -/
theorem State.issueRun_off {s : State} {w : IssueWord} (tr : Op → Trigger) (he : wordErr w s.me.owe.isSome = none)
    (hs : (w.moves.filterMap Slot.walker?).any (fun n => (s.me.walker n).stalls) = false) (hb : s.me.sbFull w.moves = false)
    (hg : ∀ x ∈ w.moves, s.me.guardValue x.guard = false) : s.issueRun tr s.turn w = s.performWord tr s.turn w [] s.me := by
  have he : wordErr w (s.core s.turn).owe.isSome = none := he
  have hon : (w.moves.map (fun x => (x, s.slotValue s.turn w.lit x))).filter (fun x => (s.core s.turn).guardValue x.1.guard) = [] := by
    rw [List.filter_eq_nil_iff]
    rintro x hx
    obtain ⟨y, hy, rfl⟩ := List.mem_map.1 hx
    rw [show s.core s.turn = s.me from rfl, hg y hy]
    decide
  unfold State.issueRun
  simp only [he, hon, List.map_nil, List.filter_nil, List.length_nil, List.foldl_nil, State.firstMoveErr]
  refine if_neg ?_
  rw [show (s.core s.turn) = s.me from rfl, hs, hb]
  simp [State.ringFull]

/-- What is owed, but for a return, changes the core alone (02 R83; 04 R139, R150, R152). -/
theorem State.takeOwed_onCore (s : State) (n : Nat) {o : Owe} (next : CodePtr) (ho : o.kind ≠ .rett) :
    ∃ f, s.takeOwed n o next = s.onCore n f := by
  unfold State.takeOwed
  split
  case h_7 => exact absurd ‹_› ho
  all_goals exact ⟨_, rfl⟩

/-- The core at the end of a cycle that carries nothing out. -/
theorem Core.closed_cycled (c : Core) : c.Closed c.cycled := ⟨by constructor <;> rfl, rfl, rfl, rfl, rfl, rfl, rfl, rfl, rfl⟩

theorem Core.Closed.withPc {a b : Core} (h : a.Closed b) (p : CodePtr) : a.Closed { b with pc := p } :=
  ⟨h.regs.trans (by constructor <;> rfl), h.stages, h.stores, h.sflags, h.vflags, h.order, h.cyc, h.sb, h.walkers⟩

theorem Core.Closed.withOwe {a b : Core} (h : a.Closed b) (o : Option Owe) : a.Closed { b with owe := o } :=
  ⟨h.regs.trans (by constructor <;> rfl), h.stages, h.stores, h.sflags, h.vflags, h.order, h.cyc, h.sb, h.walkers⟩

/-- A word that performs no move, with no return owed: the cycle passes, and what is owed is taken (02 R78, R83). -/
theorem State.performWord_nil_closed (s : State) (tr : Op → Trigger) (w : IssueWord) (hr : s.noReturn) :
    ∃ c, s.performWord tr s.turn w [] s.me = s.onCore s.turn (fun _ => c) ∧ s.me.Closed c ∧
      (s.me.owe = none → c.pc = s.me.pc.plus w.len) := by
  have hc : s.me.Closed s.me.cycled := s.me.closed_cycled
  cases ho : s.me.owe with
  | none => exact ⟨{ s.me.cycled with pc := s.me.pc.plus w.len }, by rw [State.performWord_nil _ _ _ ho]; rfl,
      hc.withPc _, fun _ => rfl⟩
  | some o =>
    have hk := hr o ho
    have h0 : s.me.Closed { s.me.cycled with owe := none } := hc.withOwe _
    obtain ⟨f, hf⟩ := State.takeOwed_onCore (s.onCore s.turn (fun c => { c.cycled with owe := none })) s.turn
      (s.me.pc.plus w.len) hk
    obtain ⟨c, hb, hcl⟩ := State.takeOwed_closed o (s.me.pc.plus w.len) hk
      (State.SameBut.of_onCore s s.turn (fun c => { c.cycled with owe := none })) h0
    have he := hb.core
    rw [hf, State.onCore_onCore] at he
    rw [State.core_onCore] at he
    refine ⟨c, ?_, hcl, fun h => nomatch h⟩
    rw [State.performWord_nil_owed _ _ _ ho, hf, State.onCore_onCore]
    exact State.onCore_congr he

theorem wordErr_nop (delay : Bool) : wordErr nopWord delay = none := by cases delay <;> rfl

/-- The NOP performs no move (02 R76). -/
theorem exec_nop_run {s : State} (hm : s.me.mode = .run) (hh : s.me.hold = .none) (n : BitVec 4) (o t : BitVec 11) :
    exec (.nop n o t) s = .next (s.performWord trigger s.turn nopWord [] s.me) := by
  rw [exec_nop, State.issue_run hm hh, State.issueRun_off _ (wordErr_nop _) rfl rfl (fun _ hx => nomatch hx)]

/-- Settles O10: no move is performed, so that the cycle passes and what is owed is taken. -/
theorem guardOfZeroDoesNothing : Obligations.GuardOfZeroDoesNothing := by
  constructor
  · intro s i op m hi hm hh hg hl hr hd hret hguard hwalk hroom
    have he := wordErr_slot (op := op) (m := m) (delay := s.me.owe.isSome) hr (fun h => by rw [hd h]; rfl)
    have hs : (List.filterMap Slot.walker? [Arg.slot op m]).any (fun n => (s.me.walker n).stalls) = false := by
      cases ho : m.org <;> simp [Slot.walker?, Arg.slot, ho]
      exact hwalk _ ho
    have hb : s.me.sbFull [Arg.slot op m] = false := sbFull_slot_room hroom
    have hx : exec i s = .next (s.performWord (fun _ => trigger op) s.turn ⟨[Arg.slot op m], false, 0, 4⟩ [] s.me) := by
      rw [exec_one hi, State.issue_run hm hh, issue_word hg hl]
      exact congrArg _ (State.issueRun_off _ he hs hb (by simpa [Arg.slot] using hguard))
    obtain ⟨c, hc, hcl, hpc⟩ := State.performWord_nil_closed s (fun _ => trigger op) ⟨[Arg.slot op m], false, 0, 4⟩ hret
    rw [hc] at hx
    refine ⟨_, hx, ?_⟩
    simp only [State.core_onCore]
    exact ⟨hcl.regs, hcl.sb, hcl.stages, hcl.sflags, hcl.vflags, hcl.walkers, rfl, hpc⟩
  · intro s n o t hm hh ho
    rw [exec_nop_run hm hh, State.performWord_nil _ _ _ ho]
    rfl

/-! ### What a delay word owes (02 R83; 04 R139, R150, R152, R156) -/

/-- A trap or break is due at the next word, or stops a handler (04 R152, R157). -/
theorem Core.raiseTrap_eq (c : Core) (d : TrapDue) :
    (c.shadow = none → c.raiseTrap d = { c with mode := .trapDue d }) ∧ (c.shadow ≠ none → c.raiseTrap d = c.stopAt d.escalated) := by
  unfold Core.raiseTrap Core.inHandler
  constructor
  · intro h
    rw [h]
    rfl
  · intro h
    rw [if_pos (Option.isSome_iff_ne_none.2 h)]

/-- A delay word that is a NOP: the cycle passes and what is owed is taken (02 R83). -/
theorem exec_nop_owed {s : State} (hm : s.me.mode = .run) (hh : s.me.hold = .none) {o : Owe} (ho : s.me.owe = some o)
    (n : BitVec 4) (x t : BitVec 11) : exec (.nop n x t) s =
      .next ((s.onCore s.turn (fun c => { c.cycled with owe := none })).takeOwed s.turn o (s.me.pc.plus 4)) := by
  rw [exec_nop_run hm hh, State.performWord_nil_owed _ _ _ ho]
  rfl

/-- A counter's decrements leave everything else of a core. -/
theorem Core.foldl_sbDec_eq (xs : List Stage) (c : Core) :
    ∃ sb, xs.foldl (fun (c : Core) (st : Stage) => c.sbDec st.sb) c = { c with sb := sb } := by
  induction xs generalizing c with
  | nil => exact ⟨c.sb, rfl⟩
  | cons x xs ih =>
    obtain ⟨sb, h⟩ := ih (c.sbDec x.sb)
    exact ⟨sb, by rw [List.foldl_cons, h, Core.sbDec_eq]⟩

/-- The words of the unit-port area that the shadow holds come back, and the others stay (04 R154, R156). -/
theorem Core.port_restorePorts (c : Core) (p : Vector Word 24) {x : Nat} (hx : x < 76) :
    (c.restorePorts p).port_ x = if h : x < 24 then p[x] else c.port_ x := by
  have hs : (c.restorePorts p).ports[x]? = some (if h : x < 24 then p[x] else c.port_ x) := by
    rw [Core.restorePorts, Vector.getElem?_eq_getElem hx, Vector.getElem_ofFn]
  rw [Core.port_, hs]
  rfl

/-- The core that a return from a local trap leaves, `c` being the core as the handler leaves it (04 R156). -/
theorem Core.leaveTrap_eq {c : Core} {sh : Shadow} (h : c.shadow = some sh) (ret : CodePtr) : ∃ sb w,
    c.leaveTrap ret = { c with
      sb := sb, ports := (c.restorePorts sh.ports).ports, shadow := none, stages := sh.stages, stores := sh.stores,
      sflags := sh.sflags, vflags := sh.vflags, q := sh.q, lnk := sh.lnk, rm := sh.rm, owe := sh.owe
      check := if sh.check then 2 else 0, pc := ret, owedSusp := none
      mode := (match c.owedSusp with
        | some (k, arg) => .suspending k arg
        | none => .run)
      cyc := c.cyc + 3, walkers := w, busy := 0, busyLast := 0 } := by
  obtain ⟨sb, hsb⟩ := Core.foldl_sbDec_eq c.stages c
  unfold Core.leaveTrap
  rw [h]
  dsimp only
  rw [hsb]
  exact ⟨sb, _, rfl⟩

/-- A return from a local trap with no store of the handler waiting (04 R156). -/
theorem State.takeOwed_rett {s : State} {n : Nat} (target : Option CodePtr) (arg : Word) (next : CodePtr)
    (h : (s.core n).stores = []) :
    s.takeOwed n ⟨.rett, target, arg⟩ next = s.onCore n (fun c => ({ c with stores := [] } : Core).leaveTrap (target.getD next)) := by
  unfold State.takeOwed
  dsimp only
  rw [h]
  rfl

/-- Settles O12: each kind of owed effect by its own clause; a return restores the shadow item by item. -/
theorem owedEffectsAreTaken : Obligations.OwedEffectsAreTaken := by
  constructor
  · intro s n o t' k target arg hm hh ho
    let d : Core := { s.me.cycled with owe := none }
    have hx := exec_nop_owed hm hh ho n o t'
    have hd : (s.onCore s.turn (fun c => { c.cycled with owe := none })).core s.turn = d := State.core_onCore ..
    refine ⟨_, hx, ?_, ?_, ?_, ?_, ?_, ?_⟩
    · rintro rfl
      cases target with
      | none =>
        simp only [State.takeOwed, State.core_onCore]
        exact ⟨rfl, hm, trivial, fun p hp => nomatch hp⟩
      | some p =>
        simp only [State.takeOwed, State.core_onCore]
        exact ⟨rfl, hm, trivial, fun q hq => by cases hq; rfl⟩
    · rintro (rfl | rfl | rfl) <;> simp only [State.takeOwed, State.core_onCore] <;> exact ⟨trivial, trivial⟩
    · rintro ⟨rfl, hc, hs⟩
      have hr := (Core.raiseTrap_eq { d with pc := s.me.pc.plus 4 } ⟨0x09, arg.extractLsb' 0 8, 0, s.me.pc.plus 4⟩).1 hs
      simp only [State.takeOwed, State.core_onCore, if_pos hc]
      exact ⟨congrArg Core.mode hr, congrArg Core.pc hr⟩
    · rintro ⟨rfl, hc⟩
      simp only [State.takeOwed, State.core_onCore, if_neg (Nat.not_lt.2 hc)]
      exact ⟨_, rfl, rfl, rfl, rfl⟩
    · rintro ⟨rfl, hs⟩
      have hr := (Core.raiseTrap_eq { d with pc := s.me.pc.plus 4 } ⟨0x0B, arg.extractLsb' 0 8, 0, s.me.pc.plus 4⟩).1 hs
      simp only [State.takeOwed, State.core_onCore]
      exact ⟨congrArg Core.mode hr, congrArg Core.pc hr⟩
    · rintro ⟨rfl | ⟨rfl, hc⟩, hs⟩
      · have hr := (Core.raiseTrap_eq { d with pc := s.me.pc.plus 4 } ⟨0x0B, arg.extractLsb' 0 8, 0, s.me.pc.plus 4⟩).2 hs
        simp only [State.takeOwed, State.core_onCore]
        exact ⟨_, congrArg Core.mode hr, rfl, rfl, rfl⟩
      · have hr := (Core.raiseTrap_eq { d with pc := s.me.pc.plus 4 } ⟨0x09, arg.extractLsb' 0 8, 0, s.me.pc.plus 4⟩).2 hs
        simp only [State.takeOwed, State.core_onCore, if_pos hc]
        exact ⟨_, congrArg Core.mode hr, rfl, rfl, rfl⟩
  · intro s n o t' target arg sh hm hh ho hsh hst
    let d : Core := { s.me.cycled with owe := none, stores := [] }
    have hstores : ((s.onCore s.turn (fun c => { c.cycled with owe := none })).core s.turn).stores = [] := by
      rw [State.core_onCore]
      show List.map _ s.me.stores = []
      rw [hst]
      rfl
    have hx := exec_nop_owed hm hh ho n o t'
    rw [State.takeOwed_rett _ _ _ hstores] at hx
    obtain ⟨sb, w, hl⟩ := Core.leaveTrap_eq (c := d) hsh target
    refine ⟨_, hx, ?_⟩
    have hcore : ((s.onCore s.turn (fun c => { c.cycled with owe := none })).onCore s.turn
        (fun c => ({ c with stores := [] } : Core).leaveTrap target)).core s.turn = d.leaveTrap target := by
      rw [State.core_onCore, State.core_onCore]
      rfl
    show _ ∧ _
    rw [Option.getD_some, hcore, hl]
    refine ⟨rfl, rfl, rfl, rfl, rfl, rfl, rfl, rfl, rfl, rfl, rfl, rfl, rfl, fun x hx => ?_, rfl, rfl, rfl, rfl⟩
    exact Core.port_restorePorts d sh.ports hx

end Sys2Proof.Machine
end

section
/-! Words of several moves: what a word performs, and the registers and latches that its moves write (02 R72 to R85). -/

namespace Sys2Proof.Machine

/-! ### The moves that a word performs (02 R78, R80, R85) -/

/-- The moves of a word whose guards are 1, with their values at the start of the cycle (02 R78, R80). -/
def State.wordOn (s : State) (w : IssueWord) : List (Slot × Word) :=
  (w.moves.map (fun m => (m, s.slotValue s.turn w.lit m))).filter (fun x => s.me.guardValue x.1.guard)

/-- The core with the word's latch writes made (02 R80). -/
def State.wordAt (s : State) (w : IssueWord) : Core := (s.wordOn w).foldl (fun c x => c.writeLatch x.1.tgt x.2) s.me

/-- The moves of a word whose guards are 1, with what they trigger. -/
def State.wordEnabled (s : State) (w : IssueWord) : List (Slot × Word × Option Trig) :=
  (s.wordOn w).map (fun x => (x.1, x.2, Sys2Proof.Machine.trigOf s.turn (s.wordAt w) s.me.order w.len x.1 x.2))

theorem State.mem_wordOn {s : State} {w : IssueWord} {x : Slot × Word} :
    x ∈ s.wordOn w ↔ x.1 ∈ w.moves ∧ s.me.guardValue x.1.guard = true ∧ x.2 = s.slotValue s.turn w.lit x.1 := by
  obtain ⟨m, v⟩ := x
  simp only [State.wordOn, List.mem_filter, List.mem_map, Prod.mk.injEq]
  constructor
  · rintro ⟨⟨y, hy, rfl, rfl⟩, hg⟩
    exact ⟨hy, hg, rfl⟩
  · rintro ⟨hm, hg, rfl⟩
    exact ⟨⟨m, hm, rfl, rfl⟩, hg⟩

theorem State.mem_wordEnabled {s : State} {w : IssueWord} {x : Slot × Word × Option Trig} (hx : x ∈ s.wordEnabled w) :
    (x.1, x.2.1) ∈ s.wordOn w ∧ x.2.2 = Sys2Proof.Machine.trigOf s.turn (s.wordAt w) s.me.order w.len x.1 x.2.1 := by
  obtain ⟨y, hy, rfl⟩ := List.mem_map.1 hx
  exact ⟨hy, rfl⟩

/-- A word whose checks all pass and that nothing stalls is performed (02 R85). -/
theorem State.issueRun_performs {s : State} {w : IssueWord} (tr : Op → Trigger) (he : wordErr w s.me.owe.isSome = none)
    (hs : (w.moves.filterMap Slot.walker?).any (fun n => (s.me.walker n).stalls) = false) (hb : s.me.sbFull w.moves = false)
    (hd : ∀ x ∈ s.wordEnabled w, ∀ t, x.2.2 = some t → (tr t.op).detached s t = false)
    (hm : ∀ x ∈ s.wordEnabled w, s.moveErr tr s.turn x.1 x.2.2 = none) :
    s.issueRun tr s.turn w = s.performWord tr s.turn w (s.wordEnabled w) (s.wordAt w) := by
  have he : wordErr w (s.core s.turn).owe.isSome = none := he
  have hfirst : ∀ xs : List (Slot × Word × Option Trig), (∀ x ∈ xs, s.moveErr tr s.turn x.1 x.2.2 = none) →
      s.firstMoveErr tr s.turn xs = none := by
    intro xs
    induction xs with
    | nil => exact fun _ => rfl
    | cons x xs ih =>
      intro h
      unfold State.firstMoveErr
      rw [h x (by simp)]
      exact ih (fun y hy => h y (by simp [hy]))
  have hdet : (s.wordEnabled w).filter (fun x => (x.2.2.map (fun t => (tr t.op).detached s t)).getD false) = [] := by
    rw [List.filter_eq_nil_iff]
    intro x hx
    cases ht : x.2.2 with
    | none => simp
    | some t => simpa using hd x hx t ht
  have hstall : ((w.moves.filterMap Slot.walker?).any (fun n => ((s.core s.turn).walker n).stalls) ||
      (s.core s.turn).sbFull w.moves || s.ringFull s.turn ((s.wordEnabled w).filter
        (fun x => (x.2.2.map (fun t => (tr t.op).detached s t)).getD false)).length) = false := by
    rw [hdet, show s.core s.turn = s.me from rfl, hs, hb]
    rfl
  unfold State.issueRun
  simp only [he]
  refine (if_neg (by rw [Bool.not_eq_true]; exact hstall)).trans ?_
  show (match s.firstMoveErr tr s.turn (s.wordEnabled w) with
    | some (m, e) => s.wordFault s.turn (some m) e
    | none => s.performWord tr s.turn w (s.wordEnabled w) (s.wordAt w)) = _
  rw [hfirst _ hm]

/-- A word that is performed with no return owed: its moves, and then the end of the word (02 R83, R85). -/
theorem State.performWord_closed {s : State} (tr : Op → Trigger) (w : IssueWord) (ms : List (Slot × Word × Option Trig)) (at_ : Core)
    (hr : s.noReturn) : ∃ c, (s.wordMoves tr s.turn ms at_).SameBut (s.performWord tr s.turn w ms at_) s.turn c ∧
      ((s.wordMoves tr s.turn ms at_).core s.turn).Closed c ∧ (s.me.owe = none → c.pc = s.me.pc.plus w.len) := by
  have hs := State.SameBut.of_onCore (s.wordMoves tr s.turn ms at_) s.turn Core.cycled
  have hc := ((s.wordMoves tr s.turn ms at_).core s.turn).closed_cycled
  cases ho : s.me.owe with
  | none =>
    rw [State.performWord_plain _ _ _ _ ho]
    obtain ⟨c, h1, h2, h3, -⟩ := State.afterHit_closed (s.movesHit tr s.turn ms)
      (hs.onCore (fun c => { c with pc := s.me.pc.plus w.len })) (hc.withPc _)
    exact ⟨c, h1, h2, fun _ => h3⟩
  | some o =>
    rw [State.performWord_owed _ _ _ _ ho (.inl (hr o ho))]
    obtain ⟨c, h1, h2⟩ := State.takeOwed_closed o (s.me.pc.plus w.len) (hr o ho)
      (hs.onCore (fun c => { c with owe := none })) (hc.withOwe none)
    obtain ⟨d, h3, h4, -⟩ := State.afterHit_closed (s.movesHit tr s.turn ms) h1 h2
    exact ⟨d, h3, h4, fun h => nomatch h⟩

/-! ### Writes in a row -/

/-- Of writes of which no two reach one place, the one that reaches it is read there. -/
theorem Core.read_foldl_of_mem {α β : Type} {f : Core → α → Core} {rd : Core → β} {p : α → Prop} {v : α → β}
    (hw : ∀ c x, p x → rd (f c x) = v x) (ho : ∀ c x, ¬ p x → rd (f c x) = rd c) {xs : List α}
    (hp : xs.Pairwise (fun a b => ¬ (p a ∧ p b))) (c : Core) :
    (∀ x ∈ xs, p x → rd (xs.foldl f c) = v x) ∧ ((∀ x ∈ xs, ¬ p x) → rd (xs.foldl f c) = rd c) := by
  induction xs generalizing c with
  | nil => simp
  | cons y ys ih =>
    obtain ⟨hy, hys⟩ := List.pairwise_cons.1 hp
    obtain ⟨ih1, ih2⟩ := ih hys (f c y)
    constructor
    · intro x hx hpx
      rcases List.mem_cons.1 hx with rfl | hx
      · exact (ih2 (fun z hz hpz => hy z hz ⟨hpx, hpz⟩)).trans (hw c x hpx)
      · exact ih1 x hx hpx
    · intro h
      exact (ih2 (fun z hz => h z (by simp [hz]))).trans (ho c y (h y (by simp)))

/-! ### Registers (02 R78, R81) -/

theorem Core.rg_setG (c : Core) (r k : BitVec 6) (v : Word) : (c.setG r v).rg k = if k = r then v else c.rg k := by
  unfold Core.setG Core.rg
  by_cases h : k = r
  · subst h; simp
  · have hn : r.toNat ≠ k.toNat := fun e => h (BitVec.eq_of_toNat_eq e.symm)
    simp [hn, h]

theorem Core.rq_setQ (c : Core) (r k : BitVec 3) (b : Bool) :
    (c.setQ r b).rq k = if k = 0 then true else if k = r then b else c.rq k := by
  unfold Core.setQ Core.rq
  by_cases hk : k = 0
  · simp [hk]
  · simp only [if_neg hk]
    by_cases hr : r = 0
    · rw [if_pos hr, if_neg (fun e => hk (e.trans hr))]
    · rw [if_neg hr]
      have hk8 : k.toNat < 8 := k.isLt
      by_cases h : k = r
      · subst h
        cases b <;> simp [hk8]
      · have hn : k.toNat ≠ r.toNat := fun e => h (BitVec.eq_of_toNat_eq e)
        have hbit : (1#8 <<< r.toNat).getLsbD k.toNat = false := by simp; omega
        have hval : ((if b then 1#8 else 0#8) <<< r.toNat).getLsbD k.toNat = false := by
          cases b
          · simp
          · exact hbit
        rw [if_neg h, BitVec.getLsbD_or, hval, BitVec.getLsbD_and, BitVec.getLsbD_not, hbit]
        simp [hk8]

/-! ### Latches (02 R78; 04 R165) -/

/-- The latches. -/
def latches : List Latch :=
  [.ctlO, .ia0O, .ia1O, .imO, .imP, .fsO, .fsP, .lsK, .lsO, .swK 0, .swK 1, .swK 2, .swK 3, .tmO, .wrO, .vxO, .mxO, .capK, .capO, .cpK,
    .cpO, .rmK, .rmO, .sqO, .trK, .trO]

theorem mem_latches (l : Latch) : l ∈ latches := by
  cases l with
  | swK n => revert n; decide
  | _ => decide

theorem latchIdx_inj {l k : Latch} (h : latchIdx l = latchIdx k) : l = k := by
  have hall : ∀ l ∈ latches, ∀ k ∈ latches, latchIdx l = latchIdx k → l = k := by decide
  exact hall l (mem_latches l) k (mem_latches k) h

theorem latchIdx_lt (l : Latch) : latchIdx l < 76 := by
  have hall : ∀ l ∈ latches, latchIdx l < 76 := by decide
  exact hall l (mem_latches l)

theorem Core.port_setPort (c : Core) {i : Nat} (hi : i < 76) (v : Word) (n : Nat) :
    (c.setPort i v).port_ n = if n = i then v else c.port_ n := by
  unfold Core.setPort Core.port_
  by_cases h : n = i
  · subst h; simp [hi]
  · simp [h, Ne.symm h]

/-- The places that a word's moves write (02 R78): a write is read where it was made, and nowhere else. -/
theorem Core.rg_writeReg (c : Core) (t : Target) (v : Word) (k : BitVec 6) :
    (c.writeReg t v).rg k = if t = .g k then v else c.rg k := by
  unfold Core.writeReg
  split
  · rename_i r
    rw [Core.rg_setG]
    simp only [Target.g.injEq, eq_comm]
  · unfold Core.setQ
    split <;> rfl
  · rename_i hg _
    rw [if_neg (hg k)]

theorem Core.rq_writeReg (c : Core) (t : Target) (v : Word) (k : BitVec 3) :
    (c.writeReg t v).rq k = if t = .q k then (if k = 0 then true else v.getLsbD 0) else c.rq k := by
  unfold Core.writeReg
  split
  · rfl
  · rename_i r
    rw [Core.rq_setQ]
    by_cases hk : k = 0
    · subst hk
      simp [Core.rq]
    · simp only [if_neg hk, Target.q.injEq, eq_comm]
  · rename_i hq
    rw [if_neg (hq k)]

theorem Core.port_writeLatch (c : Core) (l : Latch) (v : Word) : (c.writeLatch (.latch l) v).port_ (latchIdx l) = v := by
  unfold Core.writeLatch
  rw [Core.port_setPort _ (latchIdx_lt l), if_pos rfl]

theorem Core.port_writeLatch_ne (c : Core) {t : Target} (v : Word) {n : Nat} (h : ∀ l, t = .latch l → n ≠ latchIdx l) :
    (c.writeLatch t v).port_ n = c.port_ n := by
  unfold Core.writeLatch
  split
  · rename_i l
    rw [Core.port_setPort _ (latchIdx_lt l), if_neg (h l rfl)]
  · rfl

theorem Core.writeReg_eq (c : Core) (t : Target) (v : Word) : ∃ g q, c.writeReg t v = { c with g := g, q := q } := by
  unfold Core.writeReg Core.setQ
  split
  · exact ⟨_, c.q, rfl⟩
  · split
    · exact ⟨c.g, c.q, rfl⟩
    · exact ⟨c.g, _, rfl⟩
  · exact ⟨c.g, c.q, rfl⟩

/-- The core when a word's moves have written their g and q registers (02 R81). -/
def Core.writeRegs (c : Core) (ms : List (Slot × Word × Option Trig)) : Core := ms.foldl (fun c x => c.writeReg x.1.tgt x.2.1) c

theorem Core.writeRegs_eq (c : Core) (ms : List (Slot × Word × Option Trig)) :
    ∃ g q, c.writeRegs ms = { c with g := g, q := q } := by
  induction ms generalizing c with
  | nil => exact ⟨c.g, c.q, rfl⟩
  | cons m ms ih =>
    obtain ⟨g, q, h⟩ := c.writeReg_eq m.1.tgt m.2.1
    obtain ⟨g', q', h'⟩ := ih (c.writeReg m.1.tgt m.2.1)
    exact ⟨g', q', by rw [show c.writeRegs (m :: ms) = (c.writeReg m.1.tgt m.2.1).writeRegs ms from rfl, h', h]⟩

/-! ### What a word's moves leave in registers and latches (02 R78, R80, R81) -/

/-- No two enabled moves of a word name one target, when their codes differ (02 R82). -/
theorem State.wordOn_pairwise {s : State} {w : IssueWord} (h : w.moves.Pairwise (fun a b => a.tgt.code ≠ b.tgt.code)) :
    (s.wordOn w).Pairwise (fun a b => a.1.tgt ≠ b.1.tgt) := by
  refine List.Pairwise.filter _ (List.pairwise_map.2 (h.imp fun hab => ?_))
  exact fun e => hab (congrArg Target.code e)

theorem State.wordEnabled_pairwise {s : State} {w : IssueWord} (h : w.moves.Pairwise (fun a b => a.tgt.code ≠ b.tgt.code)) :
    (s.wordEnabled w).Pairwise (fun a b => a.1.tgt ≠ b.1.tgt) := List.pairwise_map.2 (State.wordOn_pairwise h)

theorem State.rg_writeRegs {s : State} {w : IssueWord} (h : w.moves.Pairwise (fun a b => a.tgt.code ≠ b.tgt.code)) (c : Core)
    (r : BitVec 6) : (∀ x ∈ s.wordEnabled w, x.1.tgt = .g r → (c.writeRegs (s.wordEnabled w)).rg r = x.2.1) ∧
      ((∀ x ∈ s.wordEnabled w, x.1.tgt ≠ .g r) → (c.writeRegs (s.wordEnabled w)).rg r = c.rg r) := by
  refine Core.read_foldl_of_mem (rd := fun c => c.rg r) (p := fun x => x.1.tgt = .g r) (v := fun x => x.2.1) ?_ ?_
    ((State.wordEnabled_pairwise h).imp fun hab hp => hab (hp.1.trans hp.2.symm)) c
  · exact fun c x hx => by rw [Core.rg_writeReg, if_pos hx]
  · exact fun c x hx => by rw [Core.rg_writeReg, if_neg hx]

theorem State.rq_writeRegs {s : State} {w : IssueWord} (h : w.moves.Pairwise (fun a b => a.tgt.code ≠ b.tgt.code)) (c : Core)
    (r : BitVec 3) : (∀ x ∈ s.wordEnabled w, x.1.tgt = .q r →
        (c.writeRegs (s.wordEnabled w)).rq r = if r = 0 then true else x.2.1.getLsbD 0) ∧
      ((∀ x ∈ s.wordEnabled w, x.1.tgt ≠ .q r) → (c.writeRegs (s.wordEnabled w)).rq r = c.rq r) := by
  refine Core.read_foldl_of_mem (rd := fun c => c.rq r) (p := fun x => x.1.tgt = .q r)
    (v := fun x => if r = 0 then true else x.2.1.getLsbD 0) ?_ ?_
    ((State.wordEnabled_pairwise h).imp fun hab hp => hab (hp.1.trans hp.2.symm)) c
  · exact fun c x hx => by rw [Core.rq_writeReg, if_pos hx]
  · exact fun c x hx => by rw [Core.rq_writeReg, if_neg hx]

theorem State.port_wordAt {s : State} {w : IssueWord} (h : w.moves.Pairwise (fun a b => a.tgt.code ≠ b.tgt.code)) (n : Nat) :
    (∀ x ∈ s.wordOn w, ∀ l, x.1.tgt = .latch l → latchIdx l = n → (s.wordAt w).port_ n = x.2) ∧
      ((∀ x ∈ s.wordOn w, ∀ l, x.1.tgt = .latch l → n ≠ latchIdx l) → (s.wordAt w).port_ n = s.me.port_ n) := by
  have hfold := Core.read_foldl_of_mem (rd := fun c => c.port_ n) (p := fun x : Slot × Word => ∃ l, x.1.tgt = .latch l ∧ latchIdx l = n)
    (f := fun c x => c.writeLatch x.1.tgt x.2) (v := fun x => x.2) ?_ ?_
    ((State.wordOn_pairwise (s := s) h).imp fun hab hp => ?_) s.me
  · obtain ⟨h1, h2⟩ := hfold
    refine ⟨fun x hx l hl hn => h1 x hx ⟨l, hl, hn⟩, fun hno => h2 fun x hx hp => ?_⟩
    obtain ⟨l, hl, hn⟩ := hp
    exact hno x hx l hl hn.symm
  · rintro c x ⟨l, hl, rfl⟩
    rw [hl]
    exact c.port_writeLatch l x.2
  · exact fun c x hx => c.port_writeLatch_ne x.2 fun l hl hn => hx ⟨l, hl, hn.symm⟩
  · obtain ⟨⟨l, hl, hln⟩, k, hk, hkn⟩ := hp
    exact hab (by rw [hl, hk, latchIdx_inj (hln.trans hkn.symm)])

/-! ### The operations of a word (02 R85) -/

/-- Step 7 for one trigger (02 R85). -/
def State.performTrig (tr : Op → Trigger) (s : State) (t : Trig) : State :=
  let p := ((tr t.op).perform (s.onCore t.c (·.sbInc t.sb)) t).noteTouches t.c t.order ((tr t.op).touches s t)
  if (tr t.op).sbAtOnce then p.onCore t.c (·.sbDec t.sb) else p

/-- A word performs its triggers, in slot order. -/
theorem State.foldl_performMove (tr : Op → Trigger) (ms : List (Slot × Word × Option Trig)) (s : State) :
    ms.foldl (State.performMove tr) s = (ms.filterMap (·.2.2)).foldl (State.performTrig tr) s := by
  induction ms generalizing s with
  | nil => rfl
  | cons m ms ih =>
    obtain ⟨m, v, x⟩ := m
    cases x with
    | none => exact ih s
    | some t => exact ih (s.performTrig tr t)

/-- The core when the origins of a word's moves have been read and its latches written: `fsx` says whether `fs.x` is among them
(02 R80, R85; 05 R177; 06 R207). -/
structure Core.Sourced (a b : Core) (fsx : Bool) (at_ : Core) : Prop where
  regs : ({ a with ports := at_.ports } : Core).SameRegs b
  stages : b.stages = a.stages
  order : b.order = a.order
  sb : b.sb = a.sb
  sflags : b.sflags = if fsx then 0 else a.sflags
  vflags : b.vflags = if fsx then 0 else a.vflags

theorem State.sourced_word (s : State) (cn : Nat) (ms : List Slot) (fsx : Bool) (at_ : Core) : ∃ d, (s.core cn).Sourced d fsx at_ ∧
    (s.originEffects cn ms fsx).onCore cn (fun c => { c with ports := at_.ports }) = s.onCore cn (fun _ => d) := by
  obtain ⟨w, hw⟩ := Core.onlyWalkers_foldl (ms.filterMap Slot.walker?).eraseDups (s.core cn)
  unfold State.originEffects
  rw [State.onCore_onCore, State.onCore_onCore]
  refine ⟨_, ?_, State.onCore_congr rfl⟩
  rw [hw]
  exact ⟨by constructor <;> rfl, rfl, rfl, rfl, rfl, rfl⟩

theorem Core.SameRegs.withRegs {a b : Core} (h : a.SameRegs b) (g : Vector Word 64) (q : Byte) (p : Vector Word 76) :
    ({ a with g := g, q := q, ports := p } : Core).SameRegs { b with g := g, q := q, ports := p } where
  __ := h
  g := rfl
  q := rfl
  ports := rfl

/-- A word that performs its moves and triggers nothing (02 R80, R81): what it leaves of the core, read from the core `d` in which
its registers have been written. -/
theorem State.performWord_quiet {s : State} (tr : Op → Trigger) {w : IssueWord} {ms : List (Slot × Word × Option Trig)} (at_ : Core)
    (hr : s.noReturn) (hq : ∀ x ∈ ms, x.2.2 = none) : ∃ d c, s.me.Sourced d (ms.any (fun x => x.1.readsFsx)) at_ ∧
      s.SameBut (s.performWord tr s.turn w ms at_) s.turn c ∧ (d.writeRegs ms).Closed c ∧
      (s.me.owe = none → c.pc = s.me.pc.plus w.len) := by
  obtain ⟨d, hd, hsrc⟩ := s.sourced_word s.turn (ms.map (·.1)) (ms.any (fun x => x.1.readsFsx)) at_
  have hnone : ms.filterMap (·.2.2) = [] := List.filterMap_eq_nil_iff.2 hq
  have hmoves : s.wordMoves tr s.turn ms at_ = s.onCore s.turn (fun _ => d.writeRegs ms) := by
    unfold State.wordMoves
    rw [hsrc, State.foldl_performMove, hnone, List.foldl_nil, State.onCore_onCore]
    rfl
  obtain ⟨c, hsame, hclosed, hpc⟩ := State.performWord_closed (s := s) tr w ms at_ hr
  rw [hmoves] at hsame hclosed
  rw [State.core_onCore] at hclosed
  exact ⟨d, c, hd, (State.SameBut.of_onCore s s.turn _).trans hsame, hclosed, hpc⟩

theorem Target.op?_eq_none {t : Target} (h : ∀ op, t ≠ .trig op) : t.op? = none := by
  cases t with
  | trig op => exact absurd rfl (h op)
  | _ => rfl

theorem Slot.walker?_eq_some {x : Slot} {n : BitVec 2} : x.walker? = some n ↔ x.long = none ∧ x.org = .swR n := by
  unfold Slot.walker?
  cases x.long <;> cases x.org <;> simp

/-- The checks of a word's encoding, each of which passes (02 R85 steps 1 to 5). -/
theorem wordErr_eq_none {w : IssueWord} {delay : Bool} (hi : w.illegal = false)
    (hm : ∀ x ∈ w.moves, (x.sb.getLsbD 3 = false ∨ x.tgt.op? ≠ none) ∧ x.badTarget = false ∧ x.badOrigin = false ∧
      (x.tgt.op?.map Op.transfers).getD false = false)
    (hp : w.moves.Pairwise (fun a b => conflicts a b = false)) : wordErr w delay = none := by
  have h1 : w.moves.find? (fun m => m.sb.getLsbD 3 && m.tgt.op?.isNone) = none := by
    rw [List.find?_eq_none]
    intro x hx
    rcases (hm x hx).1 with h | h
    · rw [h]; simp
    · rw [Option.isNone_eq_false_iff.2 (Option.ne_none_iff_isSome.1 h)]; simp
  have h2 : w.moves.find? Slot.badTarget = none := List.find?_eq_none.2 fun x hx => by simp [(hm x hx).2.1]
  have h3 : w.moves.find? Slot.badOrigin = none := List.find?_eq_none.2 fun x hx => by simp [(hm x hx).2.2.1]
  have h4 : firstConflict [] w.moves = none := (firstConflict_eq_none _ _).2 ⟨fun b hb => absurd hb (by simp), hp⟩
  have h5 : w.moves.find? (fun m => (m.tgt.op?.map Op.transfers).getD false) = none :=
    List.find?_eq_none.2 fun x hx => by simp [(hm x hx).2.2.2]
  unfold wordErr
  rw [hi, h1, h2, h3, h4, h5]
  cases delay <;> rfl

theorem Slot.badTarget_eq_false {x : Slot} (h : ∀ c, x.tgt ≠ .reserved c) : x.badTarget = false := by
  unfold Slot.badTarget
  split
  · exact absurd ‹_› (h _)
  · rfl

theorem Slot.badOrigin_eq_false {x : Slot} (h : x.long = none → ∀ c, x.org ≠ .reserved c) : x.badOrigin = false := by
  unfold Slot.badOrigin
  split
  · exact absurd ‹_› (h ‹_› _)
  · rfl

/-- The checks of a word that triggers nothing (02 R85 steps 1 to 5). -/
theorem wordErr_quiet {w : IssueWord} {delay : Bool} (hi : w.illegal = false)
    (hm : ∀ x ∈ w.moves, x.sb.getLsbD 3 = false ∧ (∀ op, x.tgt ≠ .trig op) ∧ (∀ c, x.tgt ≠ .reserved c) ∧
      (x.long = none → ∀ c, x.org ≠ .reserved c))
    (hp : w.moves.Pairwise (fun a b => a.tgt.code ≠ b.tgt.code)) : wordErr w delay = none := by
  refine wordErr_eq_none hi (fun x hx => ?_) (hp.imp_of_mem fun {a b} ha hb hab => ?_)
  · obtain ⟨hsb, htrig, htgt, horg⟩ := hm x hx
    refine ⟨.inl hsb, Slot.badTarget_eq_false htgt, Slot.badOrigin_eq_false horg, ?_⟩
    rw [Target.op?_eq_none htrig]
    rfl
  · exact (conflicts_iff a b).2 ⟨hab, fun x y hx => absurd hx ((hm a ha).2.1 x)⟩

/-- Moves without a scoreboard field wait for no counter (02 R79, R95). -/
theorem Core.sbFull_quiet {c : Core} {ms : List Slot} (h : ∀ x ∈ ms, x.sb.getLsbD 3 = false) : c.sbFull ms = false := by
  refine List.any_eq_false.2 fun n _ => ?_
  have hnone : ms.filter (fun m => sbSel m.sb == some (BitVec.ofNat 3 n)) = [] := by
    rw [List.filter_eq_nil_iff]
    intro x hx
    rw [sbSel, if_neg (by rw [h x hx]; decide)]
    simp
  rw [hnone]
  simp

/-- Settles O11: the writes reach distinct places, so that each is read where it was made. -/
theorem movesWriteTheirTargets : Obligations.MovesWriteTheirTargets := by
  intro s w ms on value hm hh hret hill hmoves hcodes hwalk
  have hval : ∀ x, s.slotValue s.turn w.issue.lit x = value x := fun x => by
    show _ = (match x.long with
      | some i => i.signExtend 64
      | none => s.originValue s.turn w.issue.lit x.org)
    unfold State.slotValue
    cases x.long <;> rfl
  have hon : ∀ x v, (x, v) ∈ s.wordOn w.issue ↔ on x ∧ v = value x := fun x v => by
    rw [State.mem_wordOn, hval]
    exact and_assoc.symm
  have hen : ∀ x v o, (x, v, o) ∈ s.wordEnabled w.issue → on x ∧ v = value x ∧ o = none := fun x v o hx => by
    obtain ⟨h1, h2⟩ := State.mem_wordEnabled hx
    obtain ⟨hx1, hx2⟩ := (hon x v).1 h1
    refine ⟨hx1, hx2, h2.trans ?_⟩
    unfold trigOf
    rw [Target.op?_eq_none (hmoves x hx1.1).2.1]
    rfl
  have hmem : ∀ x, on x → (x, value x, none) ∈ s.wordEnabled w.issue := fun x hx => by
    refine List.mem_map.2 ⟨(x, value x), (hon x _).2 ⟨hx, rfl⟩, ?_⟩
    unfold trigOf
    rw [Target.op?_eq_none (hmoves x hx.1).2.1]
    rfl
  have hrun : exec (.wordIssue w) s = .next (s.performWord trigger s.turn w.issue (s.wordEnabled w.issue) (s.wordAt w.issue)) := by
    rw [exec_wordIssue, State.issue_run hm hh]
    refine congrArg _ (State.issueRun_performs _ (wordErr_quiet hill hmoves hcodes) ?_
      (Core.sbFull_quiet fun x hx => (hmoves x hx).1) ?_ ?_)
    · refine List.any_eq_false.2 fun n hn => ?_
      obtain ⟨x, hx, hxn⟩ := List.mem_filterMap.1 hn
      obtain ⟨hl, ho⟩ := Slot.walker?_eq_some.1 hxn
      simp [(hwalk x hx n hl ho).1]
    · rintro ⟨x, v, o⟩ hx t ht
      rw [(hen x v o hx).2.2] at ht
      exact nomatch ht
    · rintro ⟨x, v, o⟩ hx
      obtain ⟨hxon, -, rfl⟩ := hen x v o hx
      unfold State.moveErr
      cases hn : x.walker? with
      | none => rfl
      | some n =>
        obtain ⟨hl, ho⟩ := Slot.walker?_eq_some.1 hn
        rw [Option.bind_some, (hwalk x hxon.1 n hl ho).2 hxon]
        rfl
  obtain ⟨d, c, hsrc, hsame, hclosed, hpc⟩ := State.performWord_quiet trigger (w := w.issue) (s.wordAt w.issue) hret
    (fun x hx => (hen x.1 x.2.1 x.2.2 hx).2.2)
  obtain ⟨g, q, hwr⟩ := d.writeRegs_eq (s.wordEnabled w.issue)
  have hregs : s.me.SameRegs { c with g := s.me.g, q := s.me.q, ports := s.me.ports } := by
    refine (hsrc.regs.withRegs s.me.g s.me.q s.me.ports).trans ?_
    have hend := hclosed.regs.withRegs s.me.g s.me.q s.me.ports
    rw [hwr] at hend
    exact hend
  have hport : ∀ n, c.port_ n = (s.wordAt w.issue).port_ n := fun n => by
    refine congrArg (fun p : Vector Word 76 => p[n]?.getD 0) (hclosed.regs.ports.trans ?_)
    rw [hwr]
    exact hsrc.regs.ports
  have hg : ∀ r, c.rg r = (d.writeRegs (s.wordEnabled w.issue)).rg r := fun r => by unfold Core.rg; rw [hclosed.regs.g]
  have hq : ∀ r, c.rq r = (d.writeRegs (s.wordEnabled w.issue)).rq r := fun r => by unfold Core.rq; rw [hclosed.regs.q]
  have hdg : ∀ r, d.rg r = s.me.rg r := fun r => by unfold Core.rg; rw [hsrc.regs.g]
  have hdq : ∀ r, d.rq r = s.me.rq r := fun r => by unfold Core.rq; rw [hsrc.regs.q]
  have hfsx : (s.wordEnabled w.issue).any (fun x => x.1.readsFsx) = true ↔ ∃ x, on x ∧ x.long = none ∧ x.org = .port .fsX := by
    rw [List.any_eq_true]
    constructor
    · rintro ⟨⟨x, v, o⟩, hx, hf⟩
      refine ⟨x, (hen x v o hx).1, ?_⟩
      simpa [Slot.readsFsx] using hf
    · rintro ⟨x, hx, hl, ho⟩
      exact ⟨_, hmem x hx, by simp [Slot.readsFsx, hl, ho]⟩
  have hsflags : c.sflags = if (s.wordEnabled w.issue).any (fun x => x.1.readsFsx) then 0 else s.me.sflags := by
    rw [hclosed.sflags, hwr]
    exact hsrc.sflags
  refine ⟨_, hrun, hsame.sameRest hregs.v (congrArg Mx.acc hregs.mx), ?_⟩
  rw [hsame.core]
  refine ⟨hpc, ?_, ?_, fun h => ?_, fun h => ?_, fun x r hx hr => ?_, fun r hr => ?_, fun x r hx hr => ?_, fun r hr => ?_,
    fun x l hx hl => ?_, fun n hn => ?_, hregs⟩
  · rw [hclosed.sb, hwr]
    exact hsrc.sb
  · rw [hclosed.stages, hwr]
    exact congrArg (List.map Stage.next) hsrc.stages
  · rw [hsflags, if_pos (hfsx.2 h)]
  · rw [hsflags, if_neg (fun hf => ?_)]
    obtain ⟨x, hx, hl, ho⟩ := hfsx.1 hf
    exact h x hx hl ho
  · exact (hg r).trans ((State.rg_writeRegs hcodes d r).1 _ (hmem x hx) hr)
  · exact ((hg r).trans ((State.rg_writeRegs hcodes d r).2 fun y hy => hr y.1 (hen _ _ _ hy).1)).trans (hdg r)
  · exact (hq r).trans ((State.rq_writeRegs hcodes d r).1 _ (hmem x hx) hr)
  · exact ((hq r).trans ((State.rq_writeRegs hcodes d r).2 fun y hy => hr y.1 (hen _ _ _ hy).1)).trans (hdq r)
  · exact (hport _).trans ((State.port_wordAt hcodes _).1 (x, value x) ((hon x _).2 ⟨hx, rfl⟩) l hl rfl)
  · exact (hport n).trans ((State.port_wordAt hcodes n).2 fun y hy l hl => hn y.1 l ((hon _ _).1 hy).1 hl)

end Sys2Proof.Machine
end

section
/-! What the integer operations give (04 R144). -/

namespace Sys2Proof.Machine

/-! ### Bits of results (04 R144) -/

theorem testBit_leNat (bs : List Byte) {i j : Nat} (hi : i < bs.length) (hj : j < 8) :
    (leNat bs).testBit (8 * i + j) = bs[i].getLsbD j := by
  induction bs generalizing i with
  | nil => exact absurd hi (Nat.not_lt_zero i)
  | cons b bs ih =>
    have hval : leNat (b :: bs) = 2 ^ 8 * leNat bs + b.toNat := Nat.add_comm ..
    rw [hval, Nat.testBit_two_pow_mul_add _ b.isLt]
    cases i with
    | zero => rw [if_pos (by omega), Nat.mul_zero, Nat.zero_add, BitVec.testBit_toNat]; rfl
    | succ i =>
      rw [if_neg (by omega), show 8 * (i + 1) + j - 8 = 8 * i + j by omega, ih (Nat.lt_of_succ_lt_succ hi)]
      rfl

theorem getLsbD_bswap64 (t : Word) {i j : Nat} (hi : i < 8) (hj : j < 8) :
    (bswap64 t).getLsbD (8 * i + j) = t.getLsbD (8 * (7 - i) + j) := by
  have hb : imageBytes t = (List.range 8).map (fun k => BitVec.ofNat 8 (t.toNat / 256 ^ k)) := leBytes_eq_map 8 t.toNat
  have hlen : i < (imageBytes t).reverse.length := by rw [hb]; simpa using hi
  unfold bswap64 imageOf
  rw [BitVec.getLsbD_ofNat, testBit_leNat _ hlen hj, decide_eq_true (show 8 * i + j < 64 by omega), Bool.true_and]
  simp only [hb, List.getElem_reverse, List.getElem_map, List.getElem_range, List.length_map, List.length_range]
  rw [BitVec.getLsbD_ofNat, decide_eq_true hj, Bool.true_and, show (256 : Nat) = 2 ^ 8 from rfl, ← Nat.pow_mul, Nat.testBit_div_two_pow,
    BitVec.testBit_toNat]
  exact congrArg t.getLsbD (by omega)

/-- A search among the 64 bit numbers: 64, or the first number for which the test holds. -/
theorem find_range_64 (p : Nat → Bool) {n : Nat} (h : ((List.range 64).find? p).getD 64 = n) :
    n ≤ 64 ∧ (∀ i, i < n → p i = false) ∧ (n < 64 → p n = true) := by
  cases hf : (List.range 64).find? p with
  | none =>
    rw [hf] at h
    subst h
    refine ⟨Nat.le_refl _, fun i hi => ?_, fun hn => absurd hn (Nat.lt_irrefl _)⟩
    simpa using List.find?_range_eq_none.1 hf i hi
  | some k =>
    rw [hf] at h
    subst h
    obtain ⟨h1, h2, h3⟩ := List.find?_range_eq_some.1 hf
    refine ⟨Nat.le_of_lt (List.mem_range.1 h2), fun i hi => ?_, fun _ => h1⟩
    simpa using h3 i hi

/-- A count of bits fits a register. -/
theorem toNat_ofNat_count {n : Nat} (h : n ≤ 64) : (BitVec.ofNat 64 n).toNat = n := by
  rw [BitVec.toNat_ofNat]
  omega

theorem getLsbD_rotateLeft_add (o : Word) {n i : Nat} (hn : n < 64) (hi : i < 64) :
    (o.rotateLeft n).getLsbD ((i + n) % 64) = o.getLsbD i := by
  rw [BitVec.getLsbD_rotateLeft, Nat.mod_eq_of_lt hn]
  by_cases h : i + n < 64
  · rw [Nat.mod_eq_of_lt h, decide_eq_false (by omega), decide_eq_true h, Nat.add_sub_cancel]
    rfl
  · rw [show (i + n) % 64 = i + n - 64 by omega, decide_eq_true (by omega), show 64 - n + (i + n - 64) = i by omega]
    rfl

theorem getLsbD_signExt (t : Word) {w i : Nat} (h0 : 0 < w) (hi : i < 64) :
    (signExt w t.toNat).getLsbD i = t.getLsbD (min i (w - 1)) := by
  unfold signExt
  rw [BitVec.getLsbD_signExtend, decide_eq_true hi, Bool.true_and]
  by_cases h : i < w
  · rw [if_pos h, BitVec.getLsbD_ofNat, decide_eq_true h, Bool.true_and, BitVec.testBit_toNat, Nat.min_eq_left (by omega)]
  · rw [if_neg h, BitVec.msb_eq_getLsbD_last, BitVec.getLsbD_ofNat, decide_eq_true (by omega), Bool.true_and, BitVec.testBit_toNat,
      Nat.min_eq_right (by omega)]

theorem getLsbD_fieldN (x : Word) (lo w : Nat) {i : Nat} (hi : i < 64) :
    (BitVec.ofNat 64 (fieldN x.toNat lo w)).getLsbD i = (decide (i < w) && x.getLsbD (lo + i)) := by
  rw [BitVec.getLsbD_ofNat, decide_eq_true hi, Bool.true_and, fieldN, Nat.testBit_mod_two_pow, Nat.testBit_div_two_pow,
    BitVec.testBit_toNat, Nat.add_comm]

theorem toInt_clamp64 (x : Int) : (clamp64 x).toInt = max (-2 ^ 63) (min x (2 ^ 63 - 1)) :=
  BitVec.toInt_ofInt_eq_self (by decide) (by omega) (by omega)

/-- Each integer operation gives the result of its row (04 R144). -/
theorem iaResult_spec (op : IaOp) (o t : Word) : IntegerResult op o t (iaResult op o t) := by
  have hn : fieldN t.toNat 0 6 = t.toNat % 64 := by simp [fieldN]
  have hw : fieldN o.toNat 0 7 = o.toNat % 128 := by simp [fieldN]
  cases op <;> simp only [IntegerResult, iaResult, hn, hw]
  case add => exact BitVec.toNat_add o t
  case sub => rw [BitVec.toNat_sub]; omega
  case and => exact fun i => BitVec.getLsbD_and
  case or => exact fun i => BitVec.getLsbD_or
  case xor => exact fun i => BitVec.getLsbD_xor
  case andn =>
    intro i
    rw [BitVec.getLsbD_and, BitVec.getLsbD_not]
    by_cases hi : i < 64
    · rw [decide_eq_true hi, Bool.true_and]
    · rw [BitVec.getLsbD_of_ge o i (Nat.not_lt.1 hi), Bool.false_and, Bool.false_and]
  case shl => rw [BitVec.toNat_shiftLeft, Nat.shiftLeft_eq]
  case shr => rw [BitVec.toNat_ushiftRight, Nat.shiftRight_eq_div_pow]
  case sar => rw [BitVec.toInt_sshiftRight, Int.shiftRight_eq_div_pow]; norm_cast
  case rol => exact fun i hi => getLsbD_rotateLeft_add o (Nat.mod_lt _ (by decide)) hi
  case min => rw [BitVec.slt_eq_decide, apply_ite BitVec.toInt]; simp only [decide_eq_true_eq]; split <;> omega
  case max => rw [BitVec.slt_eq_decide, apply_ite BitVec.toInt]; simp only [decide_eq_true_eq]; split <;> omega
  case minu => rw [BitVec.ult_eq_decide, apply_ite BitVec.toNat]; simp only [decide_eq_true_eq]; split <;> omega
  case maxu => rw [BitVec.ult_eq_decide, apply_ite BitVec.toNat]; simp only [decide_eq_true_eq]; split <;> omega
  case eq => simp [flag]
  case ne => simp [flag]
  case lt => simp [flag, BitVec.slt_eq_decide]
  case ltu => simp [flag, BitVec.ult_eq_decide]
  case le => simp [flag, BitVec.sle_eq_decide]
  case leu => simp [flag, BitVec.ule_eq_decide]
  case sext =>
    refine ⟨fun h => if_pos h, fun h i hi => ?_⟩
    rw [if_neg (by omega)]
    split
    · rw [Nat.min_eq_left (by omega)]
    · exact getLsbD_signExt t h hi
  case zext =>
    intro i hi
    split
    · simp_all
    · split
      · rw [decide_eq_true (by omega), Bool.true_and]
      · rw [BitVec.getLsbD_ofNat, decide_eq_true hi, Bool.true_and, Nat.testBit_mod_two_pow, BitVec.testBit_toNat]
  case clz =>
    obtain ⟨h1, h2, h3⟩ := find_range_64 (fun i => t.getLsbD (63 - i)) (n := clz64 t) rfl
    rw [toNat_ofNat_count h1]
    exact ⟨h1, h2, h3⟩
  case ctz =>
    obtain ⟨h1, h2, h3⟩ := find_range_64 (fun i => t.getLsbD i) (n := ctz64 t) rfl
    rw [toNat_ofNat_count h1]
    exact ⟨h1, h2, h3⟩
  case popc =>
    rw [List.countP_eq_length_filter]
    exact toNat_ofNat_count ((List.length_filter_le _ _).trans (by simp))
  case bswap => exact fun i j hi hj => getLsbD_bswap64 t hi hj
  case adds => exact toInt_clamp64 _
  case subs => exact toInt_clamp64 _
  case bfx =>
    intro i hi
    rw [getLsbD_fieldN _ _ _ hi]
    rfl

end Sys2Proof.Machine
end

section
/-! Words of several moves, one of which triggers an integer unit (02 R80, R81; 04 R144). -/

namespace Sys2Proof.Machine

/-- The stage that an integer operation puts into its unit's pipeline (04 R144). -/
def Trig.iaStage (t : Trig) (op : IaOp) : Stage := t.stage 1 false (.port (4 * t.op.unit + 2) (iaResult op t.o t.t))

/-- What an integer operation leaves of the machine: its counter and its stage (02 R85, R87). -/
theorem State.performTrig_ia {s u : State} {n : Nat} {d : Core} {t : Trig} {k : BitVec 1} {op : IaOp} (h : s.SameBut u n d)
    (hc : t.c = n) (ho : t.op = .ia k op) : ∃ rg st sb,
      s.SameBut (u.performTrig trigger t) n { d with ranges := rg, stores := st, sb := sb, stages := d.stages ++ [t.iaStage op] } := by
  subst hc
  have hperf : u.performTrig trigger t = ((u.onCore t.c (fun c => c.sbInc t.sb)).onCore t.c
      (fun c => { c with stages := c.stages ++ [t.iaStage op] })).noteTouches t.c t.order [] := by
    unfold State.performTrig
    rw [ho]
    rfl
  rw [hperf]
  obtain ⟨rg, st, hn, -⟩ := ((h.onCore (fun c => c.sbInc t.sb)).onCore
    (fun c => { c with stages := c.stages ++ [t.iaStage op] })).noteTouches t.order []
  rw [Core.sbInc_eq] at hn
  exact ⟨rg, st, _, hn⟩

/-- A word that performs its moves, of which one triggers an integer unit: what it leaves of the core, read from the core `d` in which
the operation has started (02 R80, R81; 04 R144). -/
theorem State.performWord_ia {s : State} {w : IssueWord} {ms : List (Slot × Word × Option Trig)} (at_ : Core) {t : Trig} {k : BitVec 1}
    {op : IaOp} (hr : s.noReturn) (hq : ms.filterMap (·.2.2) = [t]) (hc : t.c = s.turn) (ho : t.op = .ia k op) :
    ∃ d c : Core, d.stages = s.me.stages ++ [t.iaStage op] ∧ d.ports = at_.ports ∧
      s.SameBut (s.performWord trigger s.turn w ms at_) s.turn c ∧ (d.writeRegs ms).Closed c := by
  obtain ⟨d, hd, hsrc⟩ := s.sourced_word s.turn (ms.map (·.1)) (ms.any (fun x => x.1.readsFsx)) at_
  obtain ⟨rg, st, sb, hperf⟩ := State.performTrig_ia (State.SameBut.of_onCore s s.turn (fun _ => d)) hc ho
  have hmoves : s.wordMoves trigger s.turn ms at_ =
      ((s.onCore s.turn (fun _ => d)).performTrig trigger t).onCore s.turn (fun c => c.writeRegs ms) := by
    unfold State.wordMoves
    rw [hsrc, State.foldl_performMove, hq]
    rfl
  obtain ⟨c, hsame, hclosed, -⟩ := State.performWord_closed (s := s) trigger w ms at_ hr
  have hregs := hperf.onCore (fun c => c.writeRegs ms)
  rw [← hmoves] at hregs
  rw [hregs.core] at hclosed
  exact ⟨{ d with ranges := rg, stores := st, sb := sb, stages := d.stages ++ [t.iaStage op] }, c,
    congrArg (· ++ [t.iaStage op]) hd.stages, hd.regs.ports, hregs.trans hsame, hclosed⟩

/-- The moves of a B3 word without a literal are those of its slots, in any order (02 R71, R72). -/
theorem b3_moves_perm {x y z a b c : Move} (h : [x, y, z].Perm [a, b, c]) (hn : ∀ m ∈ [a, b, c], m.isNop = false) :
    ∃ i j k, (SWord.b3 x y z 0 none).issue.moves.Perm [a.inSlot i false, b.inSlot j false, c.inSlot k false] := by
  let r : Move → Move × BitVec 2 → Prop := fun m p => p.1 = m
  have hall : List.Forall₂ r [x, y, z] [(x, 0), (y, 1), (z, 2)] := by simp [r]
  obtain ⟨ps, hf, hp⟩ := List.perm_comp_forall₂ h.symm hall
  obtain ⟨p1, qs, h1, hqs, rfl⟩ := List.forall₂_cons_left_iff.1 hf
  obtain ⟨p2, rs, h2, hrs, rfl⟩ := List.forall₂_cons_left_iff.1 hqs
  obtain ⟨p3, us, h3, hus, rfl⟩ := List.forall₂_cons_left_iff.1 hrs
  obtain rfl := List.forall₂_nil_left_iff.1 hus
  obtain ⟨a', i⟩ := p1
  obtain ⟨b', j⟩ := p2
  obtain ⟨c', k⟩ := p3
  obtain rfl : a' = a := h1
  obtain rfl : b' = b := h2
  obtain rfl : c' = c := h3
  refine ⟨i, j, k, ?_⟩
  have hno : ∀ m ∈ [x, y, z], m.isNop = false := fun m hm => hn m (h.mem_iff.1 hm)
  have hx : x.isNop = false := hno x (by simp)
  have hy : y.isNop = false := hno y (by simp)
  have hz : z.isNop = false := hno z (by simp)
  have hl : (SWord.b3 x y z 0 none).issue.moves = [(x, (0 : BitVec 2)), (y, 1), (z, 2)].map (fun p => p.1.inSlot p.2 false) := by
    simp [SWord.issue, liveMoves, hx, hy, hz]
  rw [hl]
  exact (hp.map (fun p => p.1.inSlot p.2 false)).symm

/-- The literal rules are kept where no move is a literal (02 R74). -/
theorem b3_legal {x y z : Move} (h : ∀ m ∈ [x, y, z], m.isLit = false) : (SWord.b3 x y z 0 none).issue.illegal = false := by
  have hx : x.isLit = false := h x (by simp)
  have hy : y.isLit = false := h y (by simp)
  have hz : z.isLit = false := h z (by simp)
  simp [SWord.issue, b3Legal, List.zipIdx, hx, hy, hz]

/-- The enabled moves of a word in another order of its slots. -/
theorem State.wordEnabled_perm {s : State} {w : IssueWord} {l : List Slot} (h : w.moves.Perm l) :
    (s.wordEnabled w).Perm (((l.map (fun m => (m, s.slotValue s.turn w.lit m))).filter (fun x => s.me.guardValue x.1.guard)).map
      (fun x => (x.1, x.2, Sys2Proof.Machine.trigOf s.turn (s.wordAt w) s.me.order w.len x.1 x.2))) :=
  ((h.map _).filter _).map _

theorem Core.guardValue_zero (c : Core) : c.guardValue 0 = true := rfl

/-- The first operand latch of an integer unit, and its result port (04 R165). -/
theorem ia_latch (u : BitVec 1) (op : IaOp) :
    4 * (Op.ia u op).unit = latchIdx (if u = 0 then .ia0O else .ia1O) ∧
      4 * (Op.ia u op).unit + 2 = portIdx (if u = 0 then .ia0R else .ia1R) := by
  have hu : u = 0 ∨ u = 1 := by revert u; decide
  rcases hu with rfl | rfl <;> exact ⟨rfl, rfl⟩

theorem conflicts_symm {a b : Slot} (h : conflicts a b = false) : conflicts b a = false := by
  rw [conflicts_iff] at h ⊢
  exact ⟨h.1.symm, fun x y hx hy => (h.2 y x hy hx).symm⟩

/-- The latch of an integer unit, its triggers and a g register have codes of their own (02 R98). -/
theorem ia_codes (u : BitVec 1) (op : IaOp) :
    (Target.latch (if u = 0 then .ia0O else .ia1O)).code ≠ (Target.trig (.ia u op)).code ∧
      (Target.latch (if u = 0 then .ia0O else .ia1O)).code ≠ (Target.g 1).code ∧
      (Target.trig (.ia u op)).code ≠ (Target.g 1).code := by
  have hu : u = 0 ∨ u = 1 := by revert u; decide
  rcases hu with rfl | rfl <;> cases op <;> decide

/-! ### A word that loads an integer unit's latch, triggers the unit and writes a register (02 R80, R81) -/

/-- The first operand latch of an integer unit (02 R98). -/
def iaO (u : BitVec 1) : Latch := if u = 0 then .ia0O else .ia1O

/-- The move that loads `iaN.o` from g0. -/
def iaLoad (u : BitVec 1) : Move := ⟨0, .g 0, .latch (iaO u), 0⟩

/-- The move that triggers the unit with g1. -/
def iaMove (u : BitVec 1) (op : IaOp) : Move := ⟨0, .g 1, .trig (.ia u op), 0⟩

/-- The move that writes g1 from g2. -/
def regMove : Move := ⟨0, .g 2, .g 1, 0⟩

/-- The three moves in some slots. -/
def iaSlots (u : BitVec 1) (op : IaOp) (i j k : BitVec 2) : List Slot :=
  [(iaLoad u).inSlot i false, (iaMove u op).inSlot j false, regMove.inSlot k false]

theorem mem_iaSlots {u : BitVec 1} {op : IaOp} {i j k : BitVec 2} {m : Slot} (h : m ∈ iaSlots u op i j k) :
    m.sb.getLsbD 3 = false ∧ m.badTarget = false ∧ m.badOrigin = false ∧ (m.tgt.op?.map Op.transfers).getD false = false ∧
      m.walker? = none := by
  simp only [iaSlots, List.mem_cons, List.not_mem_nil, or_false] at h
  rcases h with rfl | rfl | rfl <;> exact ⟨BitVec.getLsbD_zero, rfl, rfl, rfl, rfl⟩

theorem iaSlots_conflicts (u : BitVec 1) (op : IaOp) (i j k : BitVec 2) :
    (iaSlots u op i j k).Pairwise (fun a b => conflicts a b = false) := by
  obtain ⟨h1, h2, h3⟩ := ia_codes u op
  simp only [iaSlots, List.pairwise_cons, List.mem_cons, List.not_mem_nil, or_false]
  refine ⟨?_, ?_, by simp⟩
  · rintro m (rfl | rfl)
    · exact (conflicts_iff _ _).2 ⟨h1, fun x y hx => nomatch hx⟩
    · exact (conflicts_iff _ _).2 ⟨h2, fun x y hx => nomatch hx⟩
  · rintro m rfl
    exact (conflicts_iff _ _).2 ⟨h3, fun x y _ hy => nomatch hy⟩

section
variable {s : State} {w : IssueWord} {u : BitVec 1} {op : IaOp} {i j k : BitVec 2} (hl : w.moves.Perm (iaSlots u op i j k))
include hl

/-- No two of the three moves conflict, in any order (02 R82). -/
theorem iaWord_conflicts : w.moves.Pairwise (fun a b => conflicts a b = false) :=
  (hl.pairwise_iff conflicts_symm).2 (iaSlots_conflicts u op i j k)

theorem iaWord_codes : w.moves.Pairwise (fun a b => a.tgt.code ≠ b.tgt.code) :=
  (iaWord_conflicts hl).imp fun h => ((conflicts_iff _ _).1 h).1

/-- What the word's trigger meets: its operand latch is the one just loaded (02 R80). -/
def iaTrig (s : State) (w : IssueWord) (u : BitVec 1) (op : IaOp) (j : BitVec 2) : Trig :=
  ⟨s.turn, s.wordAt w, .ia u op, s.me.rg 1, j, 0, s.me.order + j.toNat, w.len⟩

/-- The three moves are enabled, with the values of the start of the cycle. -/
theorem iaWord_enabled : (s.wordEnabled w).Perm [((iaLoad u).inSlot i false, s.me.rg 0, none),
    ((iaMove u op).inSlot j false, s.me.rg 1, some (iaTrig s w u op j)), (regMove.inSlot k false, s.me.rg 2, none)] := by
  refine (State.wordEnabled_perm hl).trans (.of_eq ?_)
  rw [iaSlots, List.filter_eq_self.2 ?_]
  · rfl
  · simp only [List.map_cons, List.map_nil, List.mem_cons, List.not_mem_nil, or_false]
    rintro _ (rfl | rfl | rfl) <;> exact Core.guardValue_zero _

/-- The trigger's operand is the value that the same word loads (02 R80). -/
theorem iaTrig_o : (iaTrig s w u op j).o = s.me.rg 0 := by
  have hload := (State.mem_wordEnabled ((iaWord_enabled (s := s) hl).mem_iff.2 (.head _))).1
  show (s.wordAt w).port_ (4 * (Op.ia u op).unit) = _
  rw [(ia_latch u op).1]
  exact (State.port_wordAt (iaWord_codes hl) _).1 _ hload _ rfl rfl

/-- The word passes every check, and its moves are performed (02 R85). -/
theorem iaWord_runs (hi : w.illegal = false) :
    s.issueRun trigger s.turn w = s.performWord trigger s.turn w (s.wordEnabled w) (s.wordAt w) := by
  have hmem : ∀ {m}, m ∈ w.moves → _ := fun h => mem_iaSlots (hl.mem_iff.1 h)
  have hen : ∀ {m v o}, (m, v, o) ∈ s.wordEnabled w → m ∈ w.moves ∧ (o = none ∨ o = some (iaTrig s w u op j)) := fun h => by
    refine ⟨(State.mem_wordOn.1 (State.mem_wordEnabled h).1).1, ?_⟩
    have hcases := (iaWord_enabled hl).mem_iff.1 h
    simp only [List.mem_cons, Prod.mk.injEq, List.not_mem_nil, or_false] at hcases
    rcases hcases with ⟨-, -, ho⟩ | ⟨-, -, ho⟩ | ⟨-, -, ho⟩
    · exact .inl ho
    · exact .inr ho
    · exact .inl ho
  refine State.issueRun_performs _ (wordErr_eq_none hi (fun m hm => ?_) (iaWord_conflicts hl)) ?_
    (Core.sbFull_quiet fun m hm => (hmem hm).1) ?_ ?_
  · obtain ⟨hsb, htgt, horg, htr, -⟩ := hmem hm
    exact ⟨.inl hsb, htgt, horg, htr⟩
  · refine List.any_eq_false.2 fun n hn => ?_
    obtain ⟨m, hm, hmn⟩ := List.mem_filterMap.1 hn
    obtain ⟨-, -, -, -, hw⟩ := hmem hm
    rw [hw] at hmn
    exact nomatch hmn
  · rintro ⟨m, v, o⟩ hx t rfl
    rcases (hen hx).2 with h | h <;> cases h
    rfl
  · rintro ⟨m, v, o⟩ hx
    obtain ⟨hm, ho⟩ := hen hx
    obtain ⟨-, -, -, -, hw⟩ := hmem hm
    unfold State.moveErr
    rw [hw]
    rcases ho with rfl | rfl <;> rfl

end

/-- Settles O14: the moves of the word are those of its three slots in any order, and one of them triggers. -/
theorem operandWritesComeFirst : Obligations.OperandWritesComeFirst := by
  intro s u op a b c ms x y z ha hb hc hms hperm hm hh hret
  subst hms
  obtain rfl : a = iaLoad u := ha
  obtain rfl : b = iaMove u op := hb
  obtain rfl : c = regMove := hc
  let w := (SWord.b3 x y z 0 none).issue
  have hmem : ∀ m ∈ [iaLoad u, iaMove u op, regMove], m.isNop = false ∧ m.isLit = false := fun m hm => by
    simp only [List.mem_cons, List.not_mem_nil, or_false] at hm
    rcases hm with rfl | rfl | rfl <;> exact ⟨rfl, rfl⟩
  obtain ⟨i, j, k, hl⟩ : ∃ i j k, w.moves.Perm (iaSlots u op i j k) := b3_moves_perm hperm fun m hm => (hmem m hm).1
  have hcodes := iaWord_codes hl
  have hen := iaWord_enabled (s := s) hl
  have hrun : exec (.wordIssue (.b3 x y z 0 none)) s =
      .next (s.performWord trigger s.turn w (s.wordEnabled w) (s.wordAt w)) := by
    rw [exec_wordIssue, State.issue_run hm hh]
    exact congrArg _ (iaWord_runs hl (b3_legal fun m hm => (hmem m (hperm.mem_iff.1 hm)).2))
  obtain ⟨d, e, hstages, hports, hsame, hclosed⟩ := State.performWord_ia (w := w) (t := iaTrig s w u op j) (s.wordAt w) hret
    (List.perm_singleton.1 (hen.filterMap _)) rfl rfl
  obtain ⟨g, q, hwr⟩ := d.writeRegs_eq (s.wordEnabled w)
  have hspec := iaResult_spec op (iaTrig s w u op j).o (iaTrig s w u op j).t
  rw [iaTrig_o hl] at hspec
  refine ⟨_, _, (iaTrig s w u op j).iaStage op, hrun, hspec, ?_⟩
  rw [hsame.core]
  refine ⟨?_, rfl, rfl, ?_, ?_, ?_⟩
  · rw [hclosed.stages, hwr]
    exact congrArg (List.map Stage.next) hstages
  · rw [← (ia_latch u op).2, ← iaTrig_o hl]
    rfl
  · refine (?_ : e.rg 1 = (d.writeRegs (s.wordEnabled w)).rg 1).trans
      ((State.rg_writeRegs hcodes d 1).1 _ (hen.mem_iff.2 (.tail _ (.tail _ (.head _)))) rfl)
    unfold Core.rg
    rw [hclosed.regs.g]
  · have hload := (State.mem_wordEnabled (hen.mem_iff.2 (.head _))).1
    refine (congrArg (fun p : Vector Word 76 => p[latchIdx (iaO u)]?.getD 0) (hclosed.regs.ports.trans ?_)).trans
      ((State.port_wordAt hcodes _).1 _ hload _ rfl rfl)
    rw [hwr]
    exact hports

end Sys2Proof.Machine
end

section
/-! Transfers of control: what they owe, and the targets that stop them (04 R139 to R141). -/

namespace Sys2Proof.Machine

/-- The origin and the counter of a word change no byte of memory (02 R85). -/
theorem State.byteAt_opened (s : State) (op : Op) (m : Arg) (a : Nat) : (s.opened op m).byteAt a = s.byteAt a := by
  obtain ⟨hsame, hopened⟩ := s.opened_spec op m
  exact (hsame.sameRest hopened.regs.v (congrArg Mx.acc hopened.regs.mx)).bytes a

theorem State.localNat_opened (s : State) (op : Op) (m : Arg) (c : Core) (a n : Nat) :
    (s.opened op m).localNat c a n = s.localNat c a n := by
  unfold State.localNat State.localByte
  simp only [State.byteAt_opened]

/-- Field(x, n, 0): the low bits of a number (02 R107). -/
theorem fieldN_zero (x w : Nat) : fieldN x 0 w = x % 2 ^ w := by rw [fieldN, Nat.pow_zero, Nat.div_one]

/-- What an operation changes that owes an effect leaves the registers but for `lnk` (02 R83). -/
theorem Core.SameRegs.of_transfer {a c : Core} {o : Option Owe} {l : Word} {sb : Vector (BitVec 12) 8} {rg : List TraceRange}
    {st : List LocalStore} (h : ({ a with owe := o, lnk := l, ranges := rg, stores := st, sb := sb } : Core).SameRegs c) :
    a.SameRegs { c with lnk := a.lnk } where
  __ := h
  lnk := rfl

/-- A word whose operation owes an effect and may write `lnk`, and is counted for its own cycle alone (02 R83, R85; 04 R137, R139). -/
theorem word_of_transfer {s : State} {i : Instr} {op : Op} {m : Arg} {o : Owe} {l : Word} (h : s.Runs i op m) (hown : s.me.owe = none)
    (hp : (trigger op).perform (s.opened op m) (s.trigOf op m) =
      (s.opened op m).onCore s.turn (fun c => { c with owe := some o, lnk := l })) (hn : (trigger op).sbAtOnce = true) :
    ∃ t, exec i s = .next t ∧ s.Ends t m ∧ (t.core s.turn).owe = some o ∧ (t.core s.turn).lnk = l ∧
      s.me.SameRegs { t.core s.turn with lnk := s.me.lnk } := by
  obtain ⟨hopen, hop⟩ := s.opened_spec op m
  obtain ⟨c, hend, hclosed, hpc⟩ := issueOne_closed h.carries h.plain
  obtain ⟨rg, st, hnote, hst⟩ := (hopen.onCore (fun c => { c with owe := some o, lnk := l })).noteTouches s.me.order
    ((trigger op).touches (s.sourced op m) (s.trigOf op m))
  have hdone : s.operated op m = (((trigger op).perform (s.opened op m) (s.trigOf op m)).noteTouches s.turn s.me.order
      ((trigger op).touches (s.sourced op m) (s.trigOf op m))).onCore s.turn (·.sbDec m.sb) := by
    simp [State.operated, hn]
  have hword := hnote.onCore (·.sbDec m.sb)
  rw [← hp, ← hdone, Core.sbDec_eq] at hword
  rw [hword.core] at hclosed hpc
  have hsame := hword.trans hend
  have hregs : s.me.SameRegs { c with lnk := s.me.lnk } := by
    rw [← hop.regs.lnk]
    exact hop.regs.trans (Core.SameRegs.of_transfer hclosed.regs)
  refine ⟨_, exec_trigger h.word s, ⟨?_, ?_, ?_, ?_, ?_, ?_, ?_, hsame.sameRest hregs.v (congrArg Mx.acc hregs.mx)⟩, ?_⟩
  all_goals rw [hsame.core]
  · exact hclosed.stages.trans (congrArg (List.map Stage.next) hop.stages)
  · exact hclosed.order.trans (congrArg (· + 4) hop.order)
  · exact fun hq => (hpc hq).1
  · exact hclosed.sb.trans (Core.sbInc_sbDec s.me m.sb h.carries.room _ rfl _ hop.sb)
  · exact hclosed.sflags.trans hop.sflags
  · exact hclosed.vflags.trans hop.vflags
  · have hwrites := congrArg (List.map (fun y : Nat × Nat × BitVec 4 × List BitWrite => y.2.2.2)) hst
    rw [List.map_map, List.map_map] at hwrites
    rw [hclosed.stores, List.map_map, ← hop.stores]
    exact hwrites
  · exact ⟨(hpc hown).2.1, hclosed.regs.lnk, hregs⟩

/-- A transfer whose operation owes its target alone (04 R139 to R141). -/
theorem word_of_owed {s : State} {i : Instr} {op : Op} {m : Arg} {o : Owe} (h : s.Runs i op m) (hown : s.me.owe = none)
    (hp : (trigger op).perform (s.opened op m) (s.trigOf op m) = (s.opened op m).onCore s.turn (fun c => { c with owe := some o }))
    (hn : (trigger op).sbAtOnce = true) :
    ∃ t, exec i s = .next t ∧ s.Ends t m ∧ (t.core s.turn).owe = some o ∧ (t.core s.turn).lnk = s.me.lnk ∧
      s.me.SameRegs { t.core s.turn with lnk := s.me.lnk } := by
  refine word_of_transfer h hown (hp.trans (State.onCore_congr ?_)) hn
  rw [← (s.opened_spec op m).2.regs.lnk]

/-- A target that is not a multiple of four stops the core at its transfer (04 R139). -/
theorem targetErr_of {off : Nat} {t : Word} (h : off % 4 ≠ 0) : targetErr off t = some ⟨0x13, t, 0⟩ := by
  unfold targetErr require
  rw [if_neg (by simpa using h)]

/-- The bits of a link: bit 63 set, the overlay and the offset (04 R139). -/
theorem link_bits (ovl : BitVec 16) (off : BitVec 32) :
    1#1 ++ 0#15 ++ (0#16 ++ ovl ++ off).extractLsb' 0 48 = 1#1 ++ 0#15 ++ ovl ++ off := by
  apply BitVec.eq_of_getLsbD_eq
  intro i hi
  simp only [BitVec.getLsbD_append, BitVec.getLsbD_extractLsb']
  by_cases h : i < 32
  · simp [h, show i < 48 by omega]
  · by_cases h' : i < 48
    · simp [h, h', show i - 32 < 16 by omega]
    · simp [h, h', show ¬ i - 32 < 16 by omega, show i - 32 - 16 = i - 48 by omega]

/-- The link of a call whose delay word has `n` bytes (04 R139). -/
theorem link_word (p : CodePtr) (n : Nat) :
    1#1 ++ 0#15 ++ ((p.plus 4).plus n).word.extractLsb' 0 48 = 1#1 ++ 0#15 ++ p.ovl ++ (p.off + 4 + BitVec.ofNat 32 n) := link_bits _ _

theorem State.linkValue_eq (s : State) (x : Trig) : s.linkValue x = 1#1 ++ 0#15 ++ ((x.at_.pc.plus x.len).plus
    (wordLen (s.byteAt (slotBase x.c + (x.at_.pc.plus x.len).off.toNat)))).word.extractLsb' 0 48 := rfl

theorem State.linkValue_opened (s : State) (op : Op) (m : Arg) : (s.opened op m).linkValue (s.trigOf op m) =
    1#1 ++ 0#15 ++ s.me.pc.ovl ++ (s.me.pc.off + 4 + BitVec.ofNat 32 (wordLen (s.byteAt (slotBase s.turn + (s.me.pc.plus 4).off.toNat)))) := by
  have hc : (s.trigOf op m).c = s.turn := rfl
  have hat : (s.trigOf op m).at_ = s.me := rfl
  have hlen : (s.trigOf op m).len = 4 := rfl
  rw [State.linkValue_eq, State.byteAt_opened, hc, hat, hlen, link_word]

/-- The table word that jtab reads (04 R140). -/
theorem State.jtabWord_opened (s : State) (op : Op) (m : Arg) (x : Trig) : (s.opened op m).jtabWord x = s.jtabWord x :=
  s.localNat_opened op m x.at_ _ 4

/-- The place of jtab's entry, and whether the index is in the table (04 R140). -/
theorem jtabEntry_trigOf (s : State) (m : Arg) : jtabEntry (s.trigOf (.ctl .jtab) m) =
    ((s.me.latchO (.ctl .jtab)).extractLsb' 0 32).toNat + 4 * (s.moved m).toNat := by
  rw [← fieldN_eq_extractLsb']
  rfl

theorem jtabIn_trigOf (s : State) (m : Arg) : (jtabIn (s.trigOf (.ctl .jtab) m) = true) =
    ((s.moved m).toNat < ((s.me.latchO (.ctl .jtab)).extractLsb' 48 16).toNat) := by
  rw [← fieldN_eq_extractLsb']
  exact decide_eq_true_eq

theorem State.jtabWord_eq (s : State) (x : Trig) : s.jtabWord x = s.localNat x.at_ (slotBase x.c + jtabEntry x) 4 := rfl

/-- A call owes its target, and writes `lnk` (04 R139). -/
theorem perform_call (s : State) (x : Trig) : (trigger (.ctl .call)).perform s x = s.onCore x.c (fun c =>
    { c with owe := some ⟨.transfer, some (newPc x.at_ x.t), 0⟩, lnk := s.linkValue x }) :=
  State.onCore_onCore s x.c (fun c => { c with owe := some ⟨.transfer, some (newPc x.at_ x.t), 0⟩ })
    (fun c => { c with lnk := s.linkValue x })

/-- Settles O37: each transfer owes its own target, and a misaligned one is a fault. -/
theorem transfersOweADelayWord : Obligations.TransfersOweADelayWord := by
  intro s i op m v o pc far near entry delay target
  constructor
  · intro h hop
    have hown : s.me.owe = none := h.carries.delay (by rcases hop with rfl | rfl | rfl | rfl | rfl | rfl <;> rfl)
    rcases hop with rfl | rfl | rfl | rfl | rfl | rfl
    · exact word_of_owed h hown rfl rfl
    · exact word_of_owed h hown rfl rfl
    · have hcall := word_of_transfer h hown (perform_call (s.opened (.ctl .call) m) (s.trigOf (.ctl .call) m)) rfl
      rw [State.linkValue_opened] at hcall
      exact hcall
    · exact word_of_owed h hown rfl rfl
    · have hjtab := word_of_owed h hown (o := ⟨.transfer, if jtabIn (s.trigOf (.ctl .jtab) m) then
        some { pc with off := BitVec.ofNat 32 ((s.opened (.ctl .jtab) m).jtabWord (s.trigOf (.ctl .jtab) m)) } else none, 0⟩) rfl rfl
      rw [State.jtabWord_opened] at hjtab
      have htarget : (if jtabIn (s.trigOf (.ctl .jtab) m) then
          some { pc with off := BitVec.ofNat 32 (s.jtabWord (s.trigOf (.ctl .jtab) m)) } else none) = target := by
        have hc : (s.trigOf (.ctl .jtab) m).c = s.turn := rfl
        have hat : (s.trigOf (.ctl .jtab) m).at_ = s.me := rfl
        rw [State.jtabWord_eq, jtabEntry_trigOf, hc, hat]
        simp only [jtabIn_trigOf]
        exact rfl
      rw [htarget] at hjtab
      exact hjtab
    · have hbre := word_of_owed h hown (o := ⟨.transfer, if breFlag (s.trigOf (.ctl .bre) m) then some (near o) else none, 0⟩) rfl rfl
      have hflag : breFlag (s.trigOf (.ctl .bre) m) =
          (s.me.walker (v.extractLsb' 0 2)).fin.getLsbD (v.extractLsb' 2 2).toNat := by
        rw [← fieldN_eq_extractLsb']
        rfl
      rw [hflag] at hbre
      exact hbre
  · intro hi ht hbad
    have hstop : ∃ e : Err, e.cause = 0x13 ∧ (trigger (.ctl op)).check s (s.trigOf (.ctl op) m) = some e := by
      rcases hbad with ⟨hop, hv⟩ | ⟨rfl, hv⟩ | ⟨rfl, hv⟩
      · have hoff : fieldN v.toNat 0 32 % 4 ≠ 0 := by
          rw [fieldN_zero]
          omega
        rcases hop with rfl | rfl | ⟨rfl, hs⟩
        · exact ⟨_, rfl, targetErr_of hoff⟩
        · exact ⟨_, rfl, targetErr_of hoff⟩
        · have hin : s.me.inHandler = true := Option.isSome_iff_ne_none.2 hs
          exact ⟨_, rfl, (if_pos hin).trans (targetErr_of hoff)⟩
      · exact ⟨_, rfl, targetErr_of hv⟩
      · exact ⟨_, rfl, targetErr_of hv⟩
    obtain ⟨e, hcause, he⟩ := hstop
    exact ⟨preciseStop pc (some (Arg.slot (.ctl op) m)) e, hcause, rfl, exec_wordFault hi ht he⟩

end Sys2Proof.Machine
end

section
/-! What comes about in a core between its words (O42): a store of the agent number 4095, whose dirty marks are applied with it. -/

namespace Sys2Proof.Machine

/-! ### The counterexample: a store due in core 4095 (11 R414, R415) -/

/-- A trace buffer at physical address 0, whose slot 0 has one tile: NT stands in byte 128. -/
def markedMap : TraceMap := { base := 0, len := 0x10000, pages := [⟨0, 0, 0x10000, 0, 0, 0, true, false⟩] }

/-- A store whose latency has elapsed: it covers 32 bytes of the buffer of descriptor 0. -/
def coveringStore : LocalStore := ⟨0, 0, 0, [], [⟨⟨.whole, 0, 0, 0x3F, 0⟩, true, 0, 32⟩]⟩

/-- The store is due in core 4095, and the descriptor's first watch slot names the trace. -/
def markedState : State :=
  { (State.reset.onCore 4095 (fun c => { c with stores := [coveringStore] })).onPart 0 (fun p => { p with
      traces := [(0, markedMap)]
      bufs := [(0, { cls := 0, fmt := 0, owner := 0, base := 0, lenm1 := 31, watch := #v[1#32 <<< 31, 0, 0, 0] })] }) with
    mem := [(128, 1)]
    focus := { core := 4095 } }

/-- The store is performed with its mark: bit 0 of the dirty bitmap is set, in byte 0 (11 R404, R415). -/
theorem byteAt_markedState : markedState.byteAt 0 = 0 ∧ (markedState.performLocal 4095).byteAt 0 = 1 := by decide

theorem exec_localPathPerform_clean {s : State} (h : s.focus.ecc = .clean) :
    exec .localPathPerform s = .next (s.performLocal s.focus.core) := by
  have hpad : s.padError s.focus.core s.focus.ecc s.focus.addr = s := by
    rw [h]
    rfl
  show Host.Outcome.next ((s.padError s.focus.core s.focus.ecc s.focus.addr).performLocal s.focus.core) = _
  rw [hpad]

/-- Refutes O42: the core that `focus` names may be 4095, the number of a party that is no core, whose dirty marks change the bitmap of
the trace with the write itself (11 R415). So a due store of that core changes a byte that it does not write. -/
theorem not_coreBoundaryActions : ¬ Obligations.CoreBoundaryActions := by
  intro h
  obtain ⟨-, ⟨t, ht, -, hstore, -⟩, -⟩ := h markedState
  obtain ⟨-, hbytes, -⟩ := hstore coveringStore (by decide) (by decide) (fun w hw => nomatch hw) .nil
  rw [exec_localPathPerform_clean rfl] at ht
  have ht : markedState.performLocal 4095 = t := Host.Outcome.next.inj ht
  have hbyte := hbytes 0 (fun w hw => nomatch hw)
  rw [← ht, byteAt_markedState.1, byteAt_markedState.2] at hbyte
  exact absurd hbyte (by decide)

end Sys2Proof.Machine
end
section
/-! SUPPORT. What the functions that put a continuation on a core, take it off and re-issue its operations leave of the
cores: registers, return address, pc and continuation always; what issues words, and the pipelines, where stated. -/

/- The declarations of this section are many and short: elaborated one after another, the stacks of their threads fit. -/
set_option Elab.async false

namespace Sys2Proof.Machine

/-- The part of a core that stays: with `run` the mode, number and settings too, with `rest` the pipelines and ports. -/
def Core.kept (run rest : Bool) (c : Core) :
    (Vector Word 64 × BitVec 8 × Word × CodePtr × Option Resident) ×
      Option (Mode × BitVec 16 × Word × BitVec 4) × Option (List Stage × Option Shadow × Vector Word 76) :=
  ((c.g, c.q, c.epc, c.pc, c.res), bif run then some (c.mode, c.seq, c.lnk, c.rm) else none,
    bif rest then some (c.stages, c.shadow, c.ports) else none)

/-- The kept part of every core is the same. -/
def State.Keeps (run rest : Bool) (s t : State) : Prop := ∀ n, (t.core n).kept run rest = (s.core n).kept run rest

section
variable {run rest : Bool} (c : Core)

theorem Core.kept_foldl {α : Type} {f : Core → α → Core} (hf : ∀ c x, (f c x).kept run rest = c.kept run rest) (l : List α) :
    (l.foldl f c).kept run rest = c.kept run rest := by
  induction l generalizing c with
  | nil => rfl
  | cons x l ih => exact (ih _).trans (hf c x)

theorem Core.kept_setVwinBytes (i : Nat) (bs : List Byte) :
    (foldBytes Core.setVwinByte c i bs).kept run rest = c.kept run rest := by
  induction bs generalizing c i with
  | nil => rfl
  | cons b bs ih => exact ih (c.setVwinByte i b) (i + 1)

theorem Core.kept_setAwinBytes (i : Nat) (bs : List Byte) :
    (foldBytes Core.setAwinByte c i bs).kept run rest = c.kept run rest := by
  induction bs generalizing c i with
  | nil => rfl
  | cons b bs ih => exact ih (c.setAwinByte i b) (i + 1)

theorem Core.kept_setAway (bits : List Nat) (away : Bool) : (c.setAway bits away).kept run rest = c.kept run rest :=
  c.kept_foldl (fun c i => by split <;> rfl) bits

theorem Core.kept_sbDec (f : BitVec 4) : (c.sbDec f).kept run rest = c.kept run rest := by
  unfold Core.sbDec
  split
  · split <;> rfl
  · rfl

theorem Core.kept_finishRing (f : Flight) : (c.finishRing f).kept run rest = c.kept run rest := by
  unfold Core.finishRing
  dsimp only
  split <;> rfl

theorem Core.kept_endFeed (n : BitVec 2) : (c.endFeed n).kept run rest = c.kept run rest := by
  unfold Core.endFeed
  dsimp only
  split
  · exact Core.kept_sbDec _ _
  · rfl

theorem Core.kept_unbind (n : BitVec 2) : (c.unbind n).kept run rest = c.kept run rest := c.kept_endFeed n

theorem Core.kept_startFeed (n : BitVec 2) (toB : Bool) (x : Trig) :
    (startFeed n toB x c).kept run rest = c.kept run rest := by
  unfold startFeed
  dsimp only
  split
  · exact c.kept_endFeed n
  · exact (Core.kept_sbDec _ _).trans (c.kept_endFeed n)

theorem Core.kept_watchSet (x : Trig) : (watchSet x c).kept run rest = c.kept run rest := by
  unfold watchSet
  dsimp only
  split <;> rfl

theorem Core.kept_discardSlow (unit : Nat) : (c.discardSlow unit).kept run false = c.kept run false :=
  Core.kept_foldl _ (fun c _ => c.kept_sbDec _) _

end

namespace State.Keeps

variable {run rest : Bool} {s t u : State}

theorem refl (s : State) : s.Keeps run rest s := fun _ => rfl

theorem trans (h : s.Keeps run rest t) (k : t.Keeps run rest u) : s.Keeps run rest u := fun n => (k n).trans (h n)

theorem ofCores (h : s.Keeps run rest t) (hc : u.cores = t.cores := by rfl) : s.Keeps run rest u := by
  intro n
  rw [State.core, hc]
  exact h n

theorem onCore {c : Nat} {f : Core → Core} (h : s.Keeps run rest t)
    (hf : ∀ c, (f c).kept run rest = c.kept run rest := by exact fun _ => rfl) : s.Keeps run rest (t.onCore c f) := by
  intro n
  by_cases hn : n = c
  · rw [hn, State.core_onCore, hf]
    exact h c
  · rw [State.core_onCore_ne _ _ hn]
    exact h n

/-- Every core changed at once. -/
theorem mapCores {g : Nat × Core → Nat × Core} (h : s.Keeps run rest t) (hc : u.cores = t.cores.map g := by rfl)
    (hg : ∀ e, (g e).1 = e.1 ∧ (g e).2.kept run rest = e.2.kept run rest := by exact fun _ => ⟨rfl, rfl⟩) :
    s.Keeps run rest u := by
  intro n
  rw [← h n, State.core, State.core, hc]
  induction t.cores with
  | nil => rfl
  | cons e es ih =>
    obtain ⟨hkey, hkept⟩ := hg e
    simp only [List.map_cons, tabFind, hkey]
    split
    · exact hkept
    · exact ih

theorem foldl {α : Type} {f : State → α → State} (h : s.Keeps run rest t) (l : List α)
    (hf : ∀ u x, s.Keeps run rest u → s.Keeps run rest (f u x)) : s.Keeps run rest (l.foldl f t) := by
  induction l generalizing t with
  | nil => exact h
  | cons x l ih => exact ih (hf t x h)

theorem ite {p : Prop} [Decidable p] (h : s.Keeps run rest t) (k : s.Keeps run rest u) :
    s.Keeps run rest (if p then t else u) := by
  split
  · exact h
  · exact k

end State.Keeps

/-- A function's result under `Except.map` is its value at what the other gave. -/
theorem exceptMap_eq_ok {ε α β : Type} {f : α → β} {x : Except ε α} {b : β} (h : x.map f = .ok b) : ∃ a, f a = b := by
  cases x with
  | error e => exact nomatch h
  | ok a => exact ⟨a, Except.ok.inj h⟩

end Sys2Proof.Machine
end
section
/-! SUPPORT. What memory, tables, capabilities, detached operations and messages leave of the cores. -/

set_option Elab.async false

namespace Sys2Proof.Machine.State.Keeps

variable {run rest : Bool} {s t : State} {a cn cl i n v x lo w : Nat} {part : BitVec 4} {r : Resident} {c : Cap}

/-! ### Parts of the device -/

theorem onCluster {f : Cluster → Cluster} (h : s.Keeps run rest t) : s.Keeps run rest (t.onCluster cl f) := h.ofCores

theorem onPart {f : Partition → Partition} (h : s.Keeps run rest t) : s.Keeps run rest (t.onPart part f) := h.ofCores

theorem onSvc {f : Svc → Svc} (h : s.Keeps run rest t) : s.Keeps run rest (t.onSvc a f) := h.ofCores

theorem onFlight {q : BitVec 16} {g : Flight → Flight} (h : s.Keeps run rest t) : s.Keeps run rest (t.onFlight a q g) :=
  h.ofCores

theorem onHaul {g : Haul → Haul} (h : s.Keeps run rest t) : s.Keeps run rest (t.onHaul i g) := h.ofCores

theorem unready {x : Ready} (h : s.Keeps run rest t) : s.Keeps run rest (t.unready cn x) := h.onCluster

/-! ### Memory -/

theorem writeBytes {bs : List Byte} (h : s.Keeps run rest t) : s.Keeps run rest (t.writeBytes a bs) := by
  unfold State.writeBytes
  split
  · exact h.onCore (fun c => c.kept_setVwinBytes _ _)
  · exact h.onCore (fun c => c.kept_setAwinBytes _ _)
  · exact ite h.onCluster h.ofCores
  · exact h.ofCores

theorem putBits (h : s.Keeps run rest t) : s.Keeps run rest (t.putBits a lo w v) := h.writeBytes

theorem setFld {f : Nat × Nat} (h : s.Keeps run rest t) : s.Keeps run rest (t.setFld a f v) := h.putBits

theorem writeBits {ws : List BitWrite} (h : s.Keeps run rest t) : s.Keeps run rest (t.writeBits ws) :=
  h.foldl ws (fun _ _ h => h.writeBytes)

theorem writeCovering {ws : List BitWrite} (h : s.Keeps run rest t) : s.Keeps run rest (t.writeCovering ws) :=
  h.writeBits.ofCores

theorem putReissues {rs : List (BitVec 512)} (h : s.Keeps run rest t) : s.Keeps run rest (t.putReissues a rs) :=
  h.foldl rs (fun _ _ h => h.writeBytes)

theorem putFrame {d : FrameHead} (h : s.Keeps run rest t) : s.Keeps run rest (t.putFrame cn a d) := h.writeBytes.ofCores

theorem putPoint {k : Core} (h : s.Keeps run rest t) : s.Keeps run rest (t.putPoint a k) :=
  h.setFld.setFld.foldl _ (fun _ _ h => h.setFld)

/-! ### Descriptors and capabilities -/

theorem putDesc {d : Desc} (h : s.Keeps run rest t) : s.Keeps run rest (t.putDesc part i d) := h.onPart

theorem dropDesc (h : s.Keeps run rest t) : s.Keeps run rest (t.dropDesc part i) := h.onPart

theorem onDesc {f : Desc → Desc} (h : s.Keeps run rest t) : s.Keeps run rest (t.onDesc part i f) := by
  unfold State.onDesc
  split
  · exact h.onPart
  · exact h

theorem setOwner {o : BitVec 32} (h : s.Keeps run rest t) : s.Keeps run rest (t.setOwner c o) := ite h.onDesc h

theorem putSlot {k : BitVec 5} {y : KReg} (h : s.Keeps run rest t) : s.Keeps run rest (t.putSlot part n k y) := h.onPart

theorem orphan (h : s.Keeps run rest t) : s.Keeps run rest (t.orphan part c) := h.onPart.setOwner

theorem removeCaps {gone : Cap → Bool} (h : s.Keeps run rest t) : s.Keeps run rest (t.removeCaps gone) :=
  h.mapCores

theorem mapCaps {g : Cap → Cap} (h : s.Keeps run rest t) : s.Keeps run rest (t.mapCaps g) := h.mapCores

theorem makeWindow {acc : Bool} (h : s.Keeps run rest t) : s.Keeps run rest (t.makeWindow cn acc) := by
  unfold State.makeWindow
  dsimp only
  split
  · exact h.putDesc
  · exact h

theorem fuseWindow {acc : Bool} (h : s.Keeps run rest t) : s.Keeps run rest (t.fuseWindow cn acc) := by
  unfold State.fuseWindow
  dsimp only
  split
  · exact h
  · exact (h.foldl _ (fun _ _ h => h.dropDesc)).putDesc.onCore

theorem windowsHome (h : s.Keeps run rest t) : s.Keeps run rest (t.windowsHome cn) :=
  h.makeWindow.makeWindow.removeCaps.fuseWindow.fuseWindow.onCore

theorem moveMailboxes (h : s.Keeps run rest t) : s.Keeps run rest (t.moveMailboxes cn r) := h.onCluster

theorem capsFromSet (h : s.Keeps run rest t) : s.Keeps run rest (t.capsFromSet cn r) := by
  refine h.foldl _ (fun u i h => ?_)
  dsimp only
  split
  · exact h.putSlot.onCore.setOwner
  · exact h.putSlot.onCore

theorem capsToSet (h : s.Keeps run rest t) : s.Keeps run rest (t.capsToSet cn r) := by
  refine h.foldl _ (fun u i h => ?_)
  dsimp only
  split
  · exact h.putSlot.onCore.setOwner
  · exact h.putSlot.onCore

theorem arrive (h : s.Keeps run rest t) : s.Keeps run rest (t.arrive cn r) := h.setFld.capsFromSet.windowsHome.moveMailboxes

theorem setAgentK {k : BitVec 5} {y : KReg} (h : s.Keeps run rest t) : s.Keeps run rest (t.setAgentK a k y) := by
  unfold State.setAgentK State.sweepWatch
  exact ite (ite h.onCore h.onCore.onCore) h.onSvc

theorem setFlightK {f : Flight} {k : BitVec 5} {y : KReg} (h : s.Keeps run rest t) : s.Keeps run rest (t.setFlightK f k y) := by
  unfold State.setFlightK
  split
  · exact h.setAgentK
  · exact h.putSlot

theorem giveK {f : Flight} {k : BitVec 5} (h : s.Keeps run rest t) : s.Keeps run rest (t.giveK f k c) := h.setFlightK.setOwner

theorem giveResults {f : Flight} (h : s.Keeps run rest t) : s.Keeps run rest (t.giveResults f) := by
  refine h.foldl _ (fun u e h => ?_)
  dsimp only
  split
  · exact h.giveK
  · exact h.setFlightK

theorem windowBack (h : s.Keeps run rest t) : s.Keeps run rest (t.windowBack c) := by
  unfold State.windowBack
  split
  · exact h
  · exact ite h (h.onCore (fun c => c.kept_setAway _ _))

theorem windowAway (h : s.Keeps run rest t) : s.Keeps run rest (t.windowAway c) := by
  unfold State.windowAway
  split
  · exact ite (h.onCore (fun c => c.kept_setAway _ _)) h
  · exact h

/-! ### The first take of a continuation -/

theorem loadCode {u : State} (h : s.Keeps run rest t) (ho : t.loadCode cn r n = .ok u) : s.Keeps run rest u := by
  unfold State.loadCode at ho
  dsimp only at ho
  split at ho
  · exact Except.ok.inj ho ▸ h
  · split at ho
    · exact Except.ok.inj ho ▸ h
    · obtain ⟨bs, rfl⟩ := exceptMap_eq_ok ho
      exact h.writeBytes.onCore

theorem makeLocal {u : State} (h : s.Keeps run rest t) (ho : t.makeLocal cn r n i = .ok u) : s.Keeps run rest u := by
  by_cases hheld : (t.core cn).rk (entDst i) != .empty
  · exact Except.ok.inj ((if_pos hheld).symm.trans ho) ▸ h
  · have hmake := (if_neg hheld).symm.trans ho
    split at hmake
    · obtain ⟨bs, rfl⟩ := exceptMap_eq_ok hmake
      exact h.putDesc.writeBytes.onCore
    · exact nomatch hmake

end Sys2Proof.Machine.State.Keeps
end
section
/-! SUPPORT. What the start of a continuation, faults, and the end of a detached operation leave of the cores. -/

set_option Elab.async false

namespace Sys2Proof.Machine

/-- What a start has reached, and the last state before a failure, keep that part. -/
def State.KeepsBoth (run rest : Bool) (s : State) (y : Except LateFault State × State) : Prop :=
  (∀ u, y.1 = .ok u → s.Keeps run rest u) ∧ s.Keeps run rest y.2

theorem State.KeepsBoth.ok {run rest : Bool} {s t : State} (h : s.Keeps run rest t) : s.KeepsBoth run rest (.ok t, t) :=
  ⟨fun _ hu => Except.ok.inj hu ▸ h, h⟩

theorem State.KeepsBoth.error {run rest : Bool} {s t : State} {f : LateFault} (h : s.Keeps run rest t) :
    s.KeepsBoth run rest (.error f, t) :=
  ⟨fun _ hu => (nomatch hu), h⟩

namespace State.Keeps

variable {run rest : Bool} {s t : State} {a cn cl i n v x lo w : Nat} {part : BitVec 4} {r : Resident} {c : Cap}
  {f : Flight} {q : BitVec 16} {e : LateFault}

theorem firstTake (h : s.Keeps run rest t) : s.Keeps run rest (t.firstTake cn r) := by
  unfold State.firstTake
  split
  · exact h
  · extract_lets es out
    have hout : s.KeepsBoth run rest out := by
      refine List.foldlRecOn (motive := s.KeepsBoth run rest) es _ ?_ (fun y hy e _ => ?_)
      · split
        · exact .ok (h.loadCode ‹_›)
        · exact .error h
      · split
        · exact .error hy.2
        · have hu := hy.1 _ ‹_›
          split
          · exact .ok (hu.makeLocal ‹_›)
          · exact .error hu
    split
    · exact (hout.1 _ ‹_›).onPart
    · exact hout.2.onCore

/-! ### Stops -/

theorem postRecord {y : BitVec 512} (h : s.Keeps run rest t) : s.Keeps run rest (t.postRecord a part y) := h.ofCores

theorem postFor {k : BitVec 2} {b : BitVec 8} {y z : Word} (h : s.Keeps run rest t) : s.Keeps run rest (t.postFor f k b y z) :=
  h.postRecord

theorem lateFault (h : s.Keeps run rest t) : s.Keeps run rest (t.lateFault f e) := ite h.onCore h.postFor

theorem uncountAll {o : Option Nat} (h : s.Keeps run rest t) : s.Keeps run rest (t.uncountAll cn o) := h.ofCores

theorem recountAll (h : s.Keeps run rest t) : s.Keeps run rest (t.recountAll cn a) := h.ofCores

theorem flushRanges (h : s.Keeps run rest t) : s.Keeps run rest (t.flushRanges cn) := by
  unfold State.flushRanges
  extract_lets c u
  have hu : s.Keeps run rest u := by
    dsimp only [u]
    split
    · exact h.onCluster
    · exact h
  exact ite hu hu.onCore

/-! ### Recorder -/

theorem setTraceBytes {m : TraceMap} {bs : List Byte} (h : s.Keeps run rest t) : s.Keeps run rest (t.setTraceBytes m n bs) :=
  h.writeCovering

theorem setTraceField {m : TraceMap} (h : s.Keeps run rest t) : s.Keeps run rest (t.setTraceField m lo w v) := h.setTraceBytes

theorem setHdr {m : TraceMap} {y : Nat × Nat} (h : s.Keeps run rest t) : s.Keeps run rest (t.setHdr m y v) := h.setTraceField

theorem setDirty {m : TraceMap} (h : s.Keeps run rest t) : s.Keeps run rest (t.setDirty m i lo w) :=
  h.foldl _ (fun _ _ h => ite h.setTraceField h)

theorem applyMark {k : Mark} (h : s.Keeps run rest t) : s.Keeps run rest (t.applyMark k) := by
  unfold State.applyMark
  split
  · exact h.setDirty
  · exact h

theorem markWrite {d : BitVec 32} {o : Option (BitVec 26)} {z : Option (BitVec 16)} (h : s.Keeps run rest t) :
    s.Keeps run rest (t.markWrite part d i n o a z) := by
  unfold State.markWrite
  split
  · exact h
  · exact ite h (ite (h.foldl _ (fun _ _ h => h.applyMark)) h.ofCores)

/-- The pipelines change: a load in flight sees the old bytes. -/
theorem settleStores (h : s.Keeps run false t) : s.Keeps run false (t.settleStores cn) := by
  refine onCore (foldl h _ (fun u y h => ?_))
  exact (h.writeCovering.foldl _ (fun _ _ h => h.markWrite)).onCore

/-! ### The end of a detached operation -/

theorem dropFlight (h : s.Keeps run rest t) : s.Keeps run rest (t.dropFlight a q) := h.ofCores

theorem sweepWatch (h : s.Keeps run rest t) : s.Keeps run rest (t.sweepWatch a) := ite h h.onCore

theorem finishFrameRing (h : s.Keeps run rest t) : s.Keeps run rest (t.finishFrameRing a f) := ite h.writeBytes h

theorem deliverResult {y : Word} (h : s.Keeps run false t) : s.Keeps run false (t.deliverResult f y) := by
  unfold State.deliverResult
  refine ite h (ite (ite h h.onSvc) (ite h.onCore ?_))
  split
  · exact h.writeBytes
  · exact h

theorem decFrame {z : BitVec 4} (h : s.Keeps run rest t) : s.Keeps run rest (t.decFrame a z) := by
  unfold State.decFrame
  split
  · exact h
  · exact ite h h.writeBytes

theorem uncount (h : s.Keeps run rest t) : s.Keeps run rest (t.uncount f) := by
  unfold State.uncount
  refine ite h (ite (h.onCore (fun c => c.kept_sbDec _)) ?_)
  split
  · exact h.decFrame
  · exact h

theorem finish (h : s.Keeps run false t) : s.Keeps run false (t.finish f) := by
  unfold State.finish
  extract_lets u1 u2 u3 u4 u5 u6
  have h1 : s.Keeps run false u1 := h.dropFlight.giveResults
  have h2 : s.Keeps run false u2 := by
    dsimp only [u2]
    split
    · exact ite h1.sweepWatch h1
    · exact h1
  have h3 : s.Keeps run false u3 := by
    dsimp only [u3]
    split
    · exact h2.finishFrameRing
    · exact h2
  have h4 : s.Keeps run false u4 := ite (h3.onCore (fun c => c.kept_finishRing f)) h3
  have h5 : s.Keeps run false u5 := by
    dsimp only [u5]
    split
    · exact h4.deliverResult
    · exact h4
  have h6 : s.Keeps run false u6 := h5.uncount
  split
  · rename_i u7 _ _ _
    refine ite h6 (lateFault ?_)
    dsimp only [u7]
    split
    · exact h6.orphan
    · exact h6
  · exact h6

/-! ### Requests -/

theorem answered {g : Flight → Flight} (h : s.Keeps run false t) : s.Keeps run false (t.answered a q g) := by
  unfold State.answered
  dsimp only
  split
  · exact ite h.onFlight.finish h.onFlight
  · exact h.onFlight

theorem dropReq {y : Req} (h : s.Keeps run false t) : s.Keeps run false (t.dropReq y) := by
  unfold State.dropReq
  split
  · exact h.answered
  · exact h

theorem answeredFault (h : s.Keeps run false t) : s.Keeps run false (t.answeredFault a q e) := h.answered

theorem failReq {y : Req} {b : BitVec 8} {d d' : Word} (h : s.Keeps run false t) : s.Keeps run false (t.failReq y b d d') := by
  unfold State.failReq
  split
  · exact h.answeredFault
  · exact h.onHaul
  · exact h

theorem timeReq {y : Req} (h : s.Keeps run rest t) : s.Keeps run rest (t.timeReq y) := by
  unfold State.timeReq
  split
  · exact h.onFlight
  · exact h

theorem atSlice {y : Req} (h : s.Keeps run rest t) : s.Keeps run rest (t.atSlice a y) := h.ofCores

theorem atPort {y : Req} (h : s.Keeps run rest t) : s.Keeps run rest (t.atPort a y) := h.onCore

theorem dispatch {y : Req} (h : s.Keeps run rest t) : s.Keeps run rest (t.dispatch y) := by
  unfold State.dispatch
  dsimp only
  split
  · exact h.timeReq.atSlice
  · exact h.timeReq.ofCores
  · exact h.timeReq.atSlice
  · split
    · exact h.timeReq.atPort
    · exact h.timeReq.atPort
    · exact h.timeReq.atPort
    · exact h.timeReq.onCluster
    · exact h.timeReq.ofCores
    · exact h.timeReq.atSlice

theorem cacheXlate {y : Req} {z : Xlate} (h : s.Keeps run rest t) : s.Keeps run rest (t.cacheXlate y z) := by
  unfold State.cacheXlate
  dsimp only
  split
  · exact ite h.onCore h.onSvc
  · exact h

theorem applyXlate {y : Req} {z : Xlate} (h : s.Keeps run false t) : s.Keeps run false (t.applyXlate y z) :=
  ite h.cacheXlate.dispatch h.failReq

theorem sendNow {y : Req} (h : s.Keeps run false t) : s.Keeps run false (t.sendNow y) := by
  unfold State.sendNow
  refine ite h.dropReq (ite h.failReq (ite h.failReq (ite ?_ h.dispatch)))
  split
  · exact h.applyXlate
  · exact h.onCluster

theorem send {y : Req} (h : s.Keeps run false t) : s.Keeps run false (t.send y) := ite h.ofCores h.sendNow

theorem sendAll {ys : List Req} (h : s.Keeps run false t) : s.Keeps run false (t.sendAll ys) := h.foldl _ (fun _ _ h => h.send)

theorem sendMarker (h : s.Keeps run false t) : s.Keeps run false (t.sendMarker a c) := by
  unfold State.sendMarker
  split
  · exact h
  · exact h.send

theorem leaveBatch (h : s.Keeps run false t) : s.Keeps run false (t.leaveBatch a c) := ite h.sendMarker.onCore h

theorem giveUp (h : s.Keeps run false t) : s.Keeps run false (t.giveUp cn r) :=
  (foldl h.windowsHome _ (fun _ _ h => h.leaveBatch)).flushRanges.capsToSet

end State.Keeps
end Sys2Proof.Machine
end
section
/-! SUPPORT. What queues, launches, barriers and mailboxes leave of the cores, and the end or suspension of a continuation. -/

set_option Elab.async false

namespace Sys2Proof.Machine.State.Keeps

variable {run rest : Bool} {s t : State} {a b cn cl i n v x h' : Nat} {part : BitVec 4} {r : Resident} {c : Cap}
  {y : Request}

/-! ### Capabilities that go back -/

theorem takeSet {cs : List Cap} (h : s.Keeps run rest t) : s.Keeps run rest (t.takeSet part i cs) := h.onPart

theorem dropSet (h : s.Keeps run rest t) : s.Keeps run rest (t.dropSet part i) := h.onPart

theorem freeSetOf (h : s.Keeps run rest t) : s.Keeps run rest (t.freeSetOf part i n) := ite h.takeSet h.dropSet

theorem postNotice {m : BitVec 17} (h : s.Keeps run rest t) : s.Keeps run rest (t.postNotice part i m) := h.ofCores

theorem settle (h : s.Keeps run rest t) : s.Keeps run rest (t.settle part i) := by
  unfold State.settle
  split
  · exact h
  · exact ite h (ite (ite h.onDesc.mapCaps.windowBack h.onDesc.mapCaps).postNotice (ite h.onDesc.mapCaps.windowBack h.onDesc.mapCaps))

theorem returnTo {m : BitVec 16} (h : s.Keeps run rest t) : s.Keeps run rest (t.returnTo part i m) := h.onDesc.settle

theorem returnCap (h : s.Keeps run rest t) : s.Keeps run rest (t.returnCap c) := by
  unfold State.returnCap
  split
  · exact h
  · exact ite (ite (ite h.dropDesc h.onDesc) (returnTo (ite h.dropDesc h.onDesc))) h.returnTo

theorem sliceBack (h : s.Keeps run rest t) : s.Keeps run rest (t.sliceBack part n c) := h.onPart

theorem detachTrace {m : TraceMap} (h : s.Keeps run rest t) : s.Keeps run rest (t.detachTrace part m) :=
  setHdr (foldl h _ (fun _ _ h => ite h.onDesc h))

theorem detachBuffer (h : s.Keeps run rest t) : s.Keeps run rest (t.detachBuffer part i) := by
  unfold State.detachBuffer
  split
  · exact ite h.detachTrace h
  · exact h

theorem staleTraces (h : s.Keeps run rest t) : s.Keeps run rest (t.staleTraces part i) := by
  unfold State.staleTraces
  split
  · exact h
  · refine onDesc (foldl h _ (fun u e h => ?_))
    split
    · exact h.setHdr
    · exact h

theorem traceLost (h : s.Keeps run rest t) : s.Keeps run rest (t.traceLost part i) := h.staleTraces.detachBuffer

theorem setTcb {f : Nat × Nat} (h : s.Keeps run rest t) : s.Keeps run rest (t.setTcb part n f v) := h.setFld

theorem addReturns {cs : List Cap} (h : s.Keeps run rest t) : s.Keeps run rest (t.addReturns part n cs) := by
  unfold State.addReturns
  refine ite h ?_
  extract_lets go
  have hgo : ∀ u i, s.Keeps run rest u → s.Keeps run rest (go u i) := by
    intro u i h
    refine foldl h _ (fun u e h => ?_)
    split
    · exact h.onPart.setOwner
    · exact h.orphan
  split
  · exact hgo _ _ h
  · exact hgo _ _ (onPart (ite h.takeSet.setTcb h.takeSet))
  · exact foldl h _ (fun _ _ h => h.orphan)

theorem retireCap (h : s.Keeps run rest t) : s.Keeps run rest (t.retireCap part n c) := by
  unfold State.retireCap
  refine ite h.returnCap (ite h.sliceBack (ite h ?_))
  split
  · exact ite h.traceLost.dropDesc h.addReturns
  · exact h

/-! ### Queues, waiters and barriers -/

theorem report {l : BitVec 32} {z : Word} {k : BitVec 8} (h : s.Keeps run rest t) :
    s.Keeps run rest (t.report a part l z k i n) :=
  h.postRecord

theorem reportReq {k : BitVec 8} (h : s.Keeps run rest t) : s.Keeps run rest (t.reportReq y k i n) := h.report

theorem setBar {z : BitVec 256} (h : s.Keeps run rest t) : s.Keeps run rest (t.setBar cl b z) := h.onCluster

theorem reportOver (h : s.Keeps run rest t) : s.Keeps run rest (t.reportOver a cl b n) := h.report

theorem onQueue {g : Queue → Queue} (h : s.Keeps run rest t) : s.Keeps run rest (t.onQueue i g) := h.ofCores

theorem changeQueue {g : Queue → Queue} (h : s.Keeps run rest t) : s.Keeps run rest (t.changeQueue i g) := h.onQueue

theorem enqueue {z : Work} (h : s.Keeps run rest t) : s.Keeps run rest (t.enqueue i z) := h.changeQueue

theorem requeue {o : Option Nat} (h : s.Keeps run rest t) : s.Keeps run rest (t.requeue cl a o) := h.setFld.enqueue

theorem dropWaiters {ws : List Waiter} (h : s.Keeps run rest t) : s.Keeps run rest (t.dropWaiters ws) := h.ofCores

theorem wakeAll {k : BitVec 2} (h : s.Keeps run rest t) : s.Keeps run rest (t.wakeAll k part cl n) :=
  h.dropWaiters.foldl _ (fun _ _ h => h.requeue)

theorem reclaim {g : Group} (h : s.Keeps run rest t) : s.Keeps run rest (t.reclaim part g) := by
  unfold State.reclaim
  split
  · exact h
  · exact ite h.removeCaps.dropDesc.onPart h.onPart

theorem fire (h : s.Keeps run rest t) : s.Keeps run rest (t.fire cl b) :=
  h.setBar.wakeAll.foldl _ (fun _ _ h => h.foldl _ (fun _ _ h => h.onPart.reclaim))

theorem fireIf (h : s.Keeps run rest t) : s.Keeps run rest (t.fireIf cl b) := ite h.fire h

theorem weirTake {bytes : Bool} (h : s.Keeps run rest t) : s.Keeps run rest (t.weirTake y cl b n bytes) :=
  ite h.reportReq (fireIf (ite h.setBar.setBar.reportOver h.setBar))

/-! ### The end of a continuation -/

theorem retireLaunch (h : s.Keeps run rest t) : s.Keeps run rest (t.retireLaunch cn r n) := by
  unfold State.retireLaunch
  extract_lets l u1 u2
  have h1 : s.Keeps run rest u1 := h.setTcb
  have h2 : s.Keeps run rest u2 := by
    dsimp only [u2]
    split
    · exact h1.onCluster
    · exact h1
  split
  · exact ite h2.weirTake h2
  · exact h2

theorem leaveGroup {g : Group} (h : s.Keeps run rest t) : s.Keeps run rest (t.leaveGroup part g) := by
  unfold State.leaveGroup
  split
  · exact h
  · exact ite h.onPart.reclaim.onPart h.onPart

theorem willFinish (h : s.Keeps run rest t) : s.Keeps run rest (t.willFinish part n) := ite h h.ofCores

theorem finishIfDone (h : s.Keeps run rest t) : s.Keeps run rest (t.finishIfDone part n) := ite h.willFinish h

theorem onMailbox {g : Mailbox → Mailbox} (h : s.Keeps run rest t) : s.Keeps run rest (t.onMailbox cl i g) := h.onCluster

theorem undelivered {m : Msg} (h : s.Keeps run rest t) : s.Keeps run rest (t.undelivered m c) := h.orphan.postRecord

theorem pruneMailbox (h : s.Keeps run rest t) : s.Keeps run rest (t.pruneMailbox cl i) :=
  h.mapCores rfl (fun e => ⟨rfl, by dsimp only; split <;> rfl⟩)

theorem closeMailbox (h : s.Keeps run rest t) : s.Keeps run rest (t.closeMailbox cl i) := by
  refine pruneMailbox (wakeAll (foldl h.onMailbox _ (fun u e h => ?_)))
  split
  · exact h.undelivered
  · exact h

theorem closeBound {z : Binding} (h : s.Keeps run rest t) : s.Keeps run rest (t.closeBound cl z) :=
  h.foldl _ (fun _ _ h => h.closeMailbox)

theorem closeFor (h : s.Keeps run rest t) : s.Keeps run rest (t.closeFor cl r) := ite h.closeBound h.closeBound.closeBound

theorem retire (h : s.Keeps run rest t) : s.Keeps run rest (t.retire cn r) := by
  unfold State.retire
  extract_lets part l cl
  split
  case isFalse => exact h
  rename_i _ u1 g u2 u3 _ _ _
  have h1 : s.Keeps run rest u1 := freeSetOf (foldl h _ (fun _ _ h => h.retireCap))
  have h2 : s.Keeps run rest u2 := ite h1.retireLaunch h1
  have h3 : s.Keeps run rest u3 := by
    dsimp only [u3, g]
    split
    · exact h2.leaveGroup
    · exact h2
  exact h3.setFld.onPart.closeFor.finishIfDone

/-! ### A continuation that waits -/

theorem addWaiter {k : BitVec 2} {l : BitVec 32} (h : s.Keeps run rest t) : s.Keeps run rest (t.addWaiter part cl k l a) :=
  ite (onCluster (ofCores h)) (onPart (ofCores h))

theorem dropFut (h : s.Keeps run rest t) : s.Keeps run rest (t.dropFut a) := h.setFld.setFld

theorem park {z : Word} (h : s.Keeps run rest t) : s.Keeps run rest (t.park r cl z) := by
  unfold State.park
  extract_lets k l u
  have hu : s.Keeps run rest u := h.setFld.setFld
  split
  · exact addWaiter (setFld (ite hu.setFld hu))
  · rename_i o _
    cases o with
    | none => exact requeue (ite hu.dropFut hu)
    | some z => exact requeue (ite hu.setFld.dropFut hu.setFld)

end Sys2Proof.Machine.State.Keeps
end
section
/-! SUPPORT. What the triggers of operations leave of the cores: registers, return address, pc and continuation. -/

set_option Elab.async false

namespace Sys2Proof.Machine.State.Keeps

variable {s t : State} {a b cn cl i n v : Nat} {part : BitVec 4} {x : Trig} {c : Cap} {f : Flight} {q : BitVec 16}

/-! ### Units of fixed latency -/

theorem start {l : Nat} {slow : Bool} {y : Result} (h : s.Keeps false false t) : s.Keeps false false (x.start l slow y t) := by
  refine h.onCore (fun k => ?_)
  cases slow with
  | false => rfl
  | true => exact k.kept_discardSlow _

theorem store {l : Nat} {ws : List BitWrite} (h : s.Keeps false false t) : s.Keeps false false (x.store l ws t) := h.onCore

theorem ctl (op : CtlOp) (h : s.Keeps false false t) : s.Keeps false false ((ctlTrigger op).perform t x) := by
  cases op
  case call =>
    refine onCore ?_
    exact h.onCore
  case watch => exact h.onCore (fun k => k.kept_watchSet x)
  all_goals exact h.onCore

theorem bankRead (h : s.Keeps false false t) : s.Keeps false false (Machine.bankRead t x) := ite h.start h.start

theorem bankWrite (h : s.Keeps false false t) : s.Keeps false false (Machine.bankWrite t x) :=
  ite (h.onCore (fun _ => Core.kept_sbDec _ _)) h.store

theorem load {signed dword : Bool} (h : s.Keeps false false t) : s.Keeps false false ((trigLoad n signed dword).perform t x) :=
  ite h.bankRead h.start

theorem storeOp {dword : Bool} (h : s.Keeps false false t) : s.Keeps false false ((trigStore n dword).perform t x) :=
  ite h.bankWrite h.store

theorem ls (op : LsOp) (h : s.Keeps false false t) : s.Keeps false false ((trigLs op).perform t x) := by
  cases op
  case ldf => exact h.start
  case stf => exact h.store
  case stb | sth | stw | std => exact h.storeOp
  all_goals exact h.load

theorem sw (m : BitVec 2) (op : SwOp) (h : s.Keeps false false t) : s.Keeps false false ((trigSw m op).perform t x) := by
  cases op
  case bind => exact h.onCore (fun k => k.kept_endFeed m)
  case feeda => exact h.onCore (fun k => k.kept_startFeed m _ x)
  case feedb => exact h.onCore (fun k => k.kept_startFeed m _ x)
  case skip => exact h.onCore
  case rewind => exact h.onCore (fun k => k.kept_endFeed m)
  case stop => exact h.onCore (fun k => k.kept_unbind m)

theorem tm (op : TmOp) (h : s.Keeps false false t) : s.Keeps false false ((trigger (.tm op)).perform t x) := by
  cases op
  case arm =>
    show s.Keeps false false (tmAt t x)
    unfold tmAt
    split
    · exact h.onCore.start
    · exact h.start
  case cancel => exact h.onCore.start

/-! ### Detached operations -/

theorem withFlights {fs : List Flight} (h : s.Keeps false false t) : s.Keeps false false { t with flights := fs } := h.ofCores

theorem withAsks {as : List Request} (h : s.Keeps false false t) : s.Keeps false false { t with asks := as } := h.ofCores

theorem launch (h : s.Keeps false false t) : s.Keeps false false (t.launch f) := withFlights (ite h.onCore h.onSvc)

theorem detach {g : Flight → Flight} (h : s.Keeps false false t) : s.Keeps false false (x.detach n g t) := h.launch

theorem throughSluice {p : State → State} (h : s.Keeps false false t) (hp : s.Keeps false false (p t)) :
    s.Keeps false false (x.throughSluice n p t) :=
  ite hp h.detach

theorem enqueueTcb {run rest : Bool} (h : s.Keeps run rest t) : s.Keeps run rest (t.enqueueTcb part n) := h.enqueue

theorem decTcb {y : Request} (h : s.Keeps false false t) : s.Keeps false false (t.decTcb y n) :=
  ite h.reportReq (ite h.reportReq (ite h.setTcb.setTcb.enqueueTcb h.setTcb))

theorem fillFuture {y : Request} {z : Word} (h : s.Keeps false false t) : s.Keeps false false (t.fillFuture y n z) := by
  unfold State.fillFuture
  refine ite h.reportReq (ite h.reportReq ?_)
  extract_lets u1 ws u2 u3
  have h2 : s.Keeps false false u2 := foldl h.setFld.setFld _ (fun _ _ h => h.setFld)
  have h3 : s.Keeps false false u3 := ite h2 h2.wakeAll.dropFut
  split
  · exact h3.willFinish
  · exact h3

theorem carryOut {y : Request} (h : s.Keeps false false t) : s.Keeps false false (t.carryOut y).1 := by
  unfold State.carryOut
  split
  · exact h.decTcb
  · exact h.fillFuture
  · exact h.weirTake
  · exact h.weirTake
  · exact h

theorem askArrives {y : Request} (h : s.Keeps false false t) : s.Keeps false false (t.askArrives y) := by
  have hc : s.Keeps false false (t.carryOut y).1 := h.carryOut
  unfold State.askArrives
  split
  rename_i u v hout
  rw [hout] at hc
  split
  · exact hc.onFlight
  · exact hc

theorem settleAsks (h : s.Keeps false false t) : s.Keeps false false (t.settleAsks a) :=
  h.withAsks.foldl _ (fun _ _ h => h.askArrives)

theorem armBar {z : BitVec 256} (h : s.Keeps false false t) : s.Keeps false false (t.armBar cl b z) := h.setBar.fireIf

theorem disarmBar (h : s.Keeps false false t) : s.Keeps false false (t.disarmBar cl b) := h.setBar.wakeAll

theorem wrPerform (op : WrOp) (h : s.Keeps false false t) : s.Keeps false false (Machine.wrPerform op t x) := by
  cases op
  case arm => exact ite h.settleAsks.detach (ite h.settleAsks.detach h.settleAsks.armBar.detach)
  case arrive => exact ite h.detach h.detach.withAsks
  case query => exact ite h.detach h.detach.withAsks
  case disarm => exact ite h.settleAsks.detach (ite h.settleAsks.detach h.settleAsks.disarmBar.detach)

theorem wr (op : WrOp) (h : s.Keeps false false t) : s.Keeps false false ((trigWr op).perform t x) :=
  h.throughSluice (h.wrPerform op)

theorem vxMem (op : VxOp) (h : s.Keeps false false t) : s.Keeps false false ((trigVxMem op).perform t x) := by
  unfold trigVxMem
  dsimp only
  split
  · exact h
  · exact ite (ite h.store.onCore h.start) h.launch.sendAll

theorem mx (op : MxOp) (h : s.Keeps false false t) : s.Keeps false false ((trigMx op).perform t x) :=
  ite h.detach.onCore h.detach

/-! ### Capabilities and copies -/

theorem takeK {y : KReg} (h : s.Keeps false false t) : s.Keeps false false (Machine.takeK x c y t) := h.setAgentK.windowAway

theorem splitPerform (h : s.Keeps false false t) : s.Keeps false false (Machine.splitPerform x c t) :=
  setAgentK (ite h.takeK h.setAgentK)

theorem mergePerform (h : s.Keeps false false t) : s.Keeps false false (Machine.mergePerform x c t) := by
  unfold Machine.mergePerform
  dsimp only
  split
  · exact h.setAgentK.setAgentK
  · exact h.setAgentK

theorem capPerformHeld (op : CapOp) (h : s.Keeps false false t) : s.Keeps false false (Machine.capPerformHeld op x c t) := by
  cases op
  case send => exact h.detach.takeK
  case split => exact h.detach.splitPerform
  case join => exact ite h.detach.mergePerform h.setAgentK.leaveBatch.detach
  case drop => exact h.setAgentK.leaveBatch.detach
  case cut => exact h.detach.setAgentK.setAgentK
  case fuse => exact h.detach.setAgentK.setAgentK
  case free => exact h.detach.setAgentK
  case narrow => exact h.setAgentK.launch.finish
  case mcast => exact h.detach.takeK
  all_goals exact h

theorem capPerform (op : CapOp) (h : s.Keeps false false t) : s.Keeps false false (Machine.capPerform op t x) := by
  unfold Machine.capPerform
  split
  · exact h.detach.setAgentK
  · exact h.detach.setAgentK
  · exact h.detach
  · exact h.detach
  · exact h.detach
  · exact h.detach
  · exact h.detach
  · exact h.detach
  · dsimp only
    split
    · exact (h.capPerformHeld .send).onFlight
    · exact h
  · split
    · exact h.capPerformHeld _
    · exact h

theorem setSig {g : Option Sig} (h : s.Keeps false false t) : s.Keeps false false (t.setSig a g) := ite h.onCore h.onSvc

theorem copyTaken (h : s.Keeps false false t) : s.Keeps false false (t.copyTaken a q) := ite h.onCore h.onSvc

theorem cpPerform (op : CpOp) (h : s.Keeps false false t) : s.Keeps false false (Machine.cpPerform op t x) := by
  unfold Machine.cpPerform
  split
  · exact h.detach
  · exact h.detach.setSig
  · dsimp only
    split
    · exact h.detach.copyTaken.setAgentK.windowAway
    · exact h.detach.copyTaken
  · exact h.detach.copyTaken

theorem failInTime {k : BitVec 8} {d d' : Word} (h : s.Keeps false false t) : s.Keeps false false (t.failInTime a q k d d') :=
  h.onFlight

theorem rmNothing (h : s.Keeps false false t) : s.Keeps false false (Machine.rmNothing x c t) := h.detach

theorem rmGo {op : RmOp} {d : Desc} (h : s.Keeps false false t) : s.Keeps false false (Machine.rmGo op x c d t) :=
  h.launch.sendAll

theorem rmPerform (op : RmOp) (h : s.Keeps false false t) : s.Keeps false false (Machine.rmPerform op t x) := by
  unfold Machine.rmPerform
  split
  · exact h
  · split
    · exact h
    · exact ite h.rmNothing.failInTime (ite (rmNothing (ite h h.onCore)) (ite (ite h.rmGo.onCore h.rmNothing) h.rmGo))

end Sys2Proof.Machine.State.Keeps
end
section
/-! SUPPORT. What launches, calls, traces and the re-issue of operations leave of the cores. -/

set_option Elab.async false

namespace Sys2Proof.Machine.State.Keeps

variable {s t : State} {a b cn cl i n v : Nat} {part : BitVec 4} {x : Trig} {c : Cap} {f : Flight} {r : Resident}
  {slots : List (Option Cap)} {cs : List Cap} {m : TraceMap}

/-! ### Launches, tasks and calls -/

theorem sqDone {y : Word} (h : s.Keeps false false t) : s.Keeps false false (Machine.sqDone f y t) := h.launch

theorem withGang {g : Option Gang} {y : Word} (h : s.Keeps false false t) :
    s.Keeps false false { t with gang := g, gstat := y } := h.ofCores

theorem sqGang (h : s.Keeps false false t) : s.Keeps false false (Machine.sqGang t x) := ite h.sqDone h.withGang.sqDone

theorem takeRegs (op : SqOp) (h : s.Keeps false false t) : s.Keeps false false (Machine.takeRegs op x t) := by
  refine h.foldl _ (fun u k h => ?_)
  split
  · exact h.setAgentK.windowAway
  · exact h

theorem putSlotEntry {y : Nat × Nat × Nat} (h : s.Keeps false false t) : s.Keeps false false (t.putSlotEntry m slots y) := by
  unfold State.putSlotEntry
  split
  · exact h.setHdr.setHdr.setHdr.setHdr
  · exact h

theorem attachSlot {y : BitVec 26} (h : s.Keeps false false t) : s.Keeps false false (t.attachSlot part y m i) := by
  unfold State.attachSlot
  dsimp only
  split
  · exact h.onDesc.setHdr.setHdr
  · exact h.setHdr

theorem prepareTrace (h : s.Keeps false false t) : s.Keeps false false (t.prepareTrace part a b n slots) := by
  unfold State.prepareTrace
  split
  · exact h
  · exact (h.detachBuffer.onPart.setTraceBytes.setTraceField.setHdr.setHdr.setHdr.setHdr.setHdr.setHdr.setHdr.foldl _
      (fun _ _ h => h.putSlotEntry)).foldl _ (fun _ _ h => h.attachSlot)

theorem cutSlices {d : Desc} {is : List Nat} (h : s.Keeps false false t) : s.Keeps false false (t.cutSlices c d n is) :=
  h.foldl _ (fun _ _ h => h.putDesc)

/-- Steps that may fail, until one does. -/
theorem foldlM {α : Type} {g : State → α → Option State} (l : List α)
    (hg : ∀ u y w, s.Keeps false false u → g u y = some w → s.Keeps false false w) {u : State} (h : s.Keeps false false t)
    (ho : l.foldlM g t = some u) : s.Keeps false false u := by
  induction l generalizing t with
  | nil => exact Option.some.inj ho ▸ h
  | cons y l ih =>
    obtain ⟨w, hw, hrest⟩ := Option.bind_eq_some_iff.1 ho
    exact ih (hg t y w h hw) hrest

theorem makeSlices {u : State} (h : s.Keeps false false t) (ho : t.makeSlices part a b slots = some u) :
    s.Keeps false false u := by
  refine foldlM _ (fun u e w h hw => ?_) h ho
  split at hw
  · exact Option.some.inj hw ▸ h
  · split at hw
    · exact Option.some.inj hw ▸ h
    · dsimp only at hw
      split at hw
      · exact Option.some.inj hw ▸ h.cutSlices.putSlot.onPart
      · exact nomatch hw

theorem putTcb {y : NewTcb} (h : s.Keeps false false t) : s.Keeps false false (t.putTcb part n y) := h.writeBytes

theorem newLaunch {o : Option Nat} {is : List Nat} (h : s.Keeps false false t) :
    s.Keeps false false (t.newLaunch part a b n slots o is) :=
  putTcb (foldl (ite h h.onPart) _ (fun _ _ h => h.setOwner))

theorem toReturnSet (h : s.Keeps false false t) : s.Keeps false false (t.toReturnSet part cs).1 := by
  unfold State.toReturnSet
  split
  · exact h.takeSet.foldl _ (fun _ _ h => h.setOwner)
  · exact h.foldl _ (fun _ _ h => h.orphan)

theorem refuseLaunch (h : s.Keeps false false t) : s.Keeps false false (t.refuseLaunch part slots).1 := by
  unfold State.refuseLaunch
  dsimp only
  split
  · exact h
  · exact h.toReturnSet

theorem instantiate {o : Option Nat} {is : List Nat} (h : s.Keeps false false t) :
    s.Keeps false false (t.instantiate part a b slots o is).1 := by
  unfold State.instantiate
  split
  · dsimp only
    split
    · exact enqueueTcb (makeSlices (newLaunch (ite h.prepareTrace h)) (by assumption))
    · exact h.refuseLaunch
  · exact h.refuseLaunch

theorem sqLaunch (h : s.Keeps false false t) : s.Keeps false false (Machine.sqLaunch t x) :=
  (h.takeRegs .launch).instantiate.sqDone

theorem fillSet (h : s.Keeps false false t) : s.Keeps false false (t.fillSet part i cs) :=
  h.takeSet.foldl _ (fun _ _ h => h.setOwner)

theorem putRecord {y : NewRecord} (h : s.Keeps false false t) : s.Keeps false false (t.putRecord part a y) :=
  h.writeBytes.onPart

theorem sqTask (h : s.Keeps false false t) : s.Keeps false false (Machine.sqTask t x) := by
  unfold Machine.sqTask
  extract_lets f part queue caps code u
  have hu : s.Keeps false false u := h.takeRegs .task
  split
  · exact sqDone (ite hu.fillSet.putTcb.putRecord.enqueueTcb hu.fillSet.putTcb.putRecord)
  · exact hu.refuseLaunch.sqDone

theorem sqAsk {y : Ask} (h : s.Keeps false false t) : s.Keeps false false (Machine.sqAsk y t x) := h.launch.withAsks

theorem takeFut (h : s.Keeps false false t) : s.Keeps false false (t.takeFut part n) := h.writeBytes

theorem putCall (h : s.Keeps false false t) : s.Keeps false false (t.putCall x f a b n) :=
  h.putTcb.writeBytes.enqueueTcb

theorem sqCall (h : s.Keeps false false t) : s.Keeps false false (Machine.sqCall t x) := by
  unfold Machine.sqCall
  extract_lets f part caps full u
  have hu : s.Keeps false false u := h.takeRegs .call
  split
  · exact hu.refuseLaunch.sqDone
  · refine ite hu.takeFut.sqDone ?_
    split
    · exact hu.takeFut.fillSet.putCall.sqDone
    · exact hu.refuseLaunch.sqDone

theorem onGroup {g : Group → Group} (h : s.Keeps false false t) : s.Keeps false false (t.onGroup part a b g) := h.onPart

theorem joinBlock {o : Option Traced} (h : s.Keeps false false t) : s.Keeps false false (t.joinBlock part cl o) := by
  unfold State.joinBlock
  split
  · exact h.onCluster
  · exact h

theorem sqSpawn (h : s.Keeps false false t) : s.Keeps false false (Machine.sqSpawn t x) := by
  unfold Machine.sqSpawn
  dsimp only
  split
  · exact h.sqDone
  · split
    · exact h.takeSet.putRecord.setBar.setTcb.onGroup.onPart.joinBlock.requeue.sqDone
    · exact h.sqDone

theorem sqTickets (h : s.Keeps false false t) : s.Keeps false false (Machine.sqTickets t x) := h.changeQueue.sqDone

theorem sqPerform (op : SqOp) (h : s.Keeps false false t) : s.Keeps false false (Machine.sqPerform op t x) := by
  cases op
  case launch => exact h.sqLaunch
  case task => exact h.sqTask
  case dec => exact h.sqAsk
  case call => exact h.sqCall
  case fillf => exact h.sqAsk
  case spawn => exact h.sqSpawn
  case tickets => exact h.sqTickets
  case gang => exact h

theorem sq (op : SqOp) (h : s.Keeps false false t) : s.Keeps false false ((trigSq op).perform t x) :=
  h.throughSluice (sqPerform op (ite h h.settleAsks))

/-! ### Traces -/

theorem trHold (h : s.Keeps false false t) : s.Keeps false false (Machine.trHold t part slots).1 := by
  unfold Machine.trHold
  split
  · exact foldl h.onPart _ (fun _ _ h => h.setOwner)
  · exact h.foldl _ (fun _ _ h => h.orphan)

theorem trTake (op : TrOp) (h : s.Keeps false false t) : s.Keeps false false (Machine.trTake op x t) := by
  refine h.foldl _ (fun u k h => ?_)
  split
  · exact h.setAgentK.windowAway
  · exact h

theorem trPerform (op : TrOp) (h : s.Keeps false false t) : s.Keeps false false (Machine.trPerform op t x) := by
  unfold Machine.trPerform
  split
  · exact h
  · dsimp only
    split
    · exact (h.trTake _).trHold.launch
    · exact h.launch

theorem tr (op : TrOp) (h : s.Keeps false false t) : s.Keeps false false ((trigTr op).perform t x) :=
  h.throughSluice (h.trPerform op)

/-! ### Every operation -/

theorem perform (op : Op) (h : s.Keeps false false t) : s.Keeps false false ((trigger op).perform t x) := by
  cases op with
  | ctl op => exact h.ctl op
  | ia _ op => exact h.start
  | im op => exact h.start
  | fs op => exact h.start
  | ls op => exact h.ls op
  | sw m op => exact h.sw m op
  | tm op => exact h.tm op
  | wr op => exact h.wr op
  | vx op =>
    show s.Keeps false false ((if vxMemory op then trigVxMem op else trigVx op).perform t x)
    split
    · exact h.vxMem op
    · exact h.start
  | mx op => exact h.mx op
  | cap op => exact h.capPerform op
  | cp op => exact h.cpPerform op
  | rm op => exact h.rmPerform op
  | sq op =>
    cases op
    case gang => exact h.sqGang
    all_goals exact h.sq _
  | tr op => exact h.tr op

end Sys2Proof.Machine.State.Keeps
end
section
/-! SUPPORT. How a continuation comes to a core and leaves it: start, restoration, suspension and stop. -/

set_option Elab.async false

namespace Sys2Proof.Machine

/-! ### The kept part, field by field -/

theorem Core.kept_point {run rest : Bool} {c d : Core} (h : d.kept run rest = c.kept run rest) :
    d.g = c.g ∧ d.q = c.q ∧ d.epc = c.epc ∧ d.pc = c.pc ∧ d.res = c.res := by
  have hpoint := congrArg Prod.fst h
  simpa only [Core.kept, Prod.mk.injEq] using hpoint

theorem Core.kept_run {rest : Bool} {c d : Core} (h : d.kept true rest = c.kept true rest) :
    d.mode = c.mode ∧ d.seq = c.seq ∧ d.lnk = c.lnk ∧ d.rm = c.rm := by
  have hrun := congrArg (fun x => x.2.1) h
  simpa only [Core.kept, cond_true, Option.some.injEq, Prod.mk.injEq] using hrun

theorem Core.kept_rest {run : Bool} {c d : Core} (h : d.kept run true = c.kept run true) :
    d.stages = c.stages ∧ d.shadow = c.shadow ∧ d.ports = c.ports := by
  have hrest := congrArg (fun x => x.2.2) h
  simpa only [Core.kept, cond_true, Option.some.injEq, Prod.mk.injEq] using hrest

/-- The other registers stay when the pc goes back to what it was. -/
theorem Core.kept_withPc {c d : Core} {p : CodePtr} (h : d.kept false false = { c with pc := p }.kept false false) :
    ({ d with pc := c.pc } : Core).kept false false = c.kept false false := by
  obtain ⟨hg, hq, hepc, -, hres⟩ := Core.kept_point h
  have hpoint : (d.g, d.q, d.epc, c.pc, d.res) = (c.g, c.q, c.epc, c.pc, c.res) := by rw [hg, hq, hepc, hres]
  exact congrArg (fun x => (x, none, none)) hpoint

/-! ### Re-issue -/

namespace State.Keeps

variable {s t : State} {cn : Nat} {f : Flight}

theorem withMarked {fs ms : List Flight} (h : s.Keeps false false t) :
    s.Keeps false false { t with flights := fs, marked := ms } :=
  h.ofCores

theorem unmark {k : Core} {n : BitVec 16} (h : s.Keeps false false t) : s.Keeps false false (t.unmark cn f k n) :=
  h.onCore.withMarked

/-- A core works at another pc, which then goes back. -/
theorem atPc {g : Core → Core} {u : State} (h : (s.onCore cn g).Keeps false false u)
    (hg : ∀ c, ∃ p, (g c).kept false false = { c with pc := p }.kept false false) :
    s.Keeps false false (u.onCore cn (fun k => { k with pc := (s.core cn).pc })) := by
  intro n
  by_cases hn : n = cn
  · obtain ⟨p, hp⟩ := hg (s.core cn)
    have hc := h cn
    rw [State.core_onCore, hp] at hc
    rw [hn, State.core_onCore]
    exact Core.kept_withPc hc
  · rw [State.core_onCore_ne _ _ hn, h n, State.core_onCore_ne _ _ hn]

theorem reissueOne {r : BitVec 512} {e : RingEntry} (ho : s.reissueOne cn r e = .ok t) : s.Keeps false false t := by
  unfold State.reissueOne at ho
  split at ho
  · exact Except.ok.inj ho ▸ refl s
  · extract_lets c keep x at ho
    split at ho
    · exact nomatch ho
    · rename_i u1 u2 u3 _ _
      have h2 : u1.Keeps false false u2 := (refl u1).perform _
      have h3 : u1.Keeps false false u3 := by
        dsimp only [u3, keep]
        split
        · exact h2.unmark
        · exact h2
      rw [← Except.ok.inj ho]
      exact atPc h3 (fun c => ⟨_, rfl⟩)

theorem reissueAll {es : List RingEntry} (h : s.Keeps false false t) : s.Keeps false false (t.reissueAll cn es) := by
  induction es generalizing t with
  | nil => exact h
  | cons e es ih =>
    unfold State.reissueAll
    split
    · exact ih h
    · split
      · exact ih (h.trans (reissueOne ‹_›)).onCore
      · exact h.onCore

theorem dropMarked (h : s.Keeps false false t) : s.Keeps false false (t.dropMarked cn) := by
  refine foldl (ofCores h) _ (fun u f h => ?_)
  split
  · exact h.orphan
  · exact h

theorem goOn (h : s.Keeps false false t) : s.Keeps false false (t.goOn cn) := by
  unfold State.goOn
  dsimp only
  split
  · exact h.onCore
  · split
    · exact h.dropMarked.reissueAll.onCore
    · exact h.dropMarked.reissueAll

theorem recheckWalkers {run rest : Bool} (h : s.Keeps run rest t) : s.Keeps run rest (t.recheckWalkers cn) := by
  refine h.foldl _ (fun u i h => ?_)
  dsimp only
  split
  · split
    · exact h.onCore
    · exact h
  · exact h

end State.Keeps

/-! ### Restoration -/

theorem State.readBytes_unready (s : State) (cn : Nat) (x : Ready) (a n : Nat) :
    (s.unready cn x).readBytes a n = s.readBytes a n := by
  have hbyte (b : Nat) : (s.unready cn x).byteAt b = s.byteAt b := State.byteAt_onCluster rfl b
  unfold State.readBytes
  simp only [hbyte]
  rfl

theorem State.bitsIn_unready (s : State) (cn : Nat) (x : Ready) (a lo w : Nat) :
    (s.unready cn x).bitsIn a lo w = s.bitsIn a lo w := by
  rw [State.bitsIn, State.readBytes_unready]
  rfl

/-- The registers and the pc that a core takes from a frame. -/
theorem State.frameCore_unready (s : State) (cn : Nat) (x : Ready) (a : Nat) (c : Core) (r : Resident) :
    ({ (s.unready cn x).frameCore a c with mode := .run, res := some r } : Core).kept false false =
      ({ s.frameCore a c with res := some r } : Core).kept false false := by
  have hfield (off lo n : Nat) : (s.unready cn x).frameField a off lo n = s.frameField a off lo n :=
    congrArg (BitVec.ofNat n) (s.bitsIn_unready cn x _ _ _)
  have hports (off n : Nat) : (s.unready cn x).framePorts a off n = s.framePorts a off n :=
    congrArg Vector.ofFn (funext fun i => hfield off _ 64)
  have hpoint : ((s.unready cn x).framePorts a 0x100 64, (s.unready cn x).frameField a 0x300 0 8 &&& 0xFE,
      (s.unready cn x).frameField a 0x300 256 64, CodePtr.ofWord ((s.unready cn x).frameField a 0 0 64), some r) =
      (s.framePorts a 0x100 64, s.frameField a 0x300 0 8 &&& 0xFE, s.frameField a 0x300 256 64,
        CodePtr.ofWord (s.frameField a 0 0 64), some r) := by
    rw [hports, hfield, hfield, hfield]
  exact congrArg (fun y => (y, none, none)) hpoint

/-- The restored continuation has the registers and the pc of its frame. -/
theorem State.restoreNext_registers {s : State} {cn a : Nat} {x : Ready} (hx : s.nextReady cn = some x)
    (ha : s.frameFor x = some a) (hroom : s.ringRoom cn a = true) :
    ((s.restoreNext cn).core cn).kept false false =
      ({ s.frameCore a (s.core cn) with res := some (s.residentOf x.part x.record) } : Core).kept false false := by
  unfold State.restoreNext
  rw [hx]
  dsimp only
  rw [ha]
  dsimp only
  rw [hroom, if_neg (by decide)]
  let u := (s.unready cn x).onCore cn (fun c =>
    { (s.unready cn x).frameCore a c with mode := .run, res := some (s.residentOf x.part x.record) })
  have hframe : u.Keeps false false ((s.unready cn x).restoreFrame cn a (s.residentOf x.part x.record)) :=
    (State.Keeps.refl u).arrive.recheckWalkers.recountAll
  refine (State.Keeps.goOn (s := u) (.ite (.firstTake ?_) ?_) cn).trans ?_
  · exact hframe.setFld.setFld.onPart.onCore
  · exact hframe.setFld.setFld.onPart.onCore
  rw [State.core_onCore]
  exact s.frameCore_unready cn x a _ _

/-! ### Start, suspension and stop -/

theorem Core.port_reset (p : Nat) : Core.reset.port_ p = 0 := by
  simp only [Core.reset, Core.port_, Vector.getElem?_replicate]
  split <;> rfl

/-- The started continuation has what its fresh core has. -/
theorem State.startNext_fresh {s : State} {cn : Nat} {x : Ready} (hx : s.nextReady cn = some x)
    (hfr : s.fld x.record recFrame ≠ 1) :
    ((s.startNext cn).core cn).kept true true =
      (s.freshCore ((s.unready cn x).core cn) (s.residentOf x.part x.record)).kept true true := by
  unfold State.startNext
  rw [hx]
  dsimp only
  rw [if_neg hfr]
  let u := (s.unready cn x).onCore cn (fun c => s.freshCore c (s.residentOf x.part x.record))
  have harrive : u.Keeps true true (u.arrive cn (s.residentOf x.part x.record)) := (State.Keeps.refl u).arrive
  refine (State.Keeps.ite (s := u) harrive.firstTake harrive cn).trans ?_
  rw [State.core_onCore]

/-- The core that a continuation suspends from is left without one. -/
theorem State.suspend_vacated {s : State} {cn : Nat} {o : OweKind} {arg : Word} {r : Resident}
    (hmode : (s.core cn).mode = .suspending o arg) (hres : (s.core cn).res = some r) (hready : s.suspendReady cn = true) :
    ∃ c : Core, ((s.suspend cn).core cn).kept true true = c.vacated.kept true true := by
  unfold State.suspend
  dsimp only
  rw [hmode, hres]
  dsimp only
  rw [hready, if_neg (by decide)]
  split
  · exact ⟨_, (State.Keeps.retire (State.Keeps.setFld (State.Keeps.refl _)) cn).trans
      (congrArg _ (State.core_onCore _ _ _))⟩
  · exact ⟨_, (State.Keeps.park (State.Keeps.refl _) cn).trans (congrArg _ (State.core_onCore _ _ _))⟩
  · exact ⟨_, (State.Keeps.requeue (State.Keeps.refl _) cn).trans (congrArg _ (State.core_onCore _ _ _))⟩

/-- A stop that is written leaves the core without a continuation, with the number that it had. -/
theorem State.writeStop_vacated (s : State) (cn : Nat) (d : StopDue) (r : Resident) (n : Nat) (time : Word) (a : Nat) :
    ∃ c : Core, (s.writeStop cn d r n time a).core cn = c.vacated ∧ c.seq = (s.core cn).seq := by
  unfold State.writeStop
  dsimp only
  refine ⟨_, State.core_onCore _ _ _, ?_⟩
  refine (Core.kept_run (State.Keeps.uncountAll (State.Keeps.giveUp ?_) cn)).2.1
  exact (State.Keeps.refl (run := true) (rest := false) s).settleStores.putFrame.putReissues.putPoint.setFld.setFld.setFld.onPart.postRecord

/-- The first phase of a stop. -/
theorem State.stop_of_untaken {s : State} {cn : Nat} {d : StopDue} (hmode : (s.core cn).mode = .stopping d)
    (htaken : (s.core cn).taken = none) : s.stop cn = s.takeNow cn := by
  simp [State.stop, State.stopReady, hmode, htaken]

/-- The second phase of a stop, once nothing that it waits for is left. -/
theorem State.stop_of_taken {s : State} {cn a : Nat} {d : StopDue} {x : Nat × Word × Nat} {r : Resident}
    (hmode : (s.core cn).mode = .stopping d) (htaken : (s.core cn).taken = some x) (hres : (s.core cn).res = some r)
    (hready : s.stopReady cn = true) (hfree : s.freeFrame r = some a) :
    s.stop cn = s.writeStop cn d r x.1 x.2.1 a := by
  obtain ⟨n, time, y⟩ := x
  simp [State.stop, hready, hmode, htaken, hres, hfree]

theorem State.suspendReady_of_idle {s : State} {cn : Nat} {o : OweKind} {arg : Word}
    (hmode : (s.core cn).mode = .suspending o arg) (hstops : (s.core cn).stops = []) (hstores : (s.core cn).stores = [])
    (hmarks : ∀ x ∈ s.marks, x.agent = cn → x.seq ≠ none) (hflights : ∀ f ∈ s.ownFlights cn, f.writesCore = false ∧ o ≠ .done) :
    s.suspendReady cn = true := by
  have hnomark : (s.marks.any fun m => m.agent == cn && m.seq.isNone) = false := by
    refine List.any_eq_false.2 (fun x hx h => ?_)
    obtain ⟨hagent, hseq⟩ := Bool.and_eq_true_iff.1 h
    exact hmarks x hx (eq_of_beq hagent) (Option.isNone_iff_eq_none.1 hseq)
  have hnoflight : ((s.ownFlights cn).any fun f => f.writesCore || o == .done) = false := by
    refine List.any_eq_false.2 (fun f hf h => ?_)
    obtain ⟨hwrites, hdone⟩ := hflights f hf
    rw [hwrites, Bool.false_or] at h
    exact hdone (eq_of_beq h)
  unfold State.suspendReady
  dsimp only
  rw [hmode]
  dsimp only
  rw [hstops, hstores, hnomark, hnoflight]
  rfl

end Sys2Proof.Machine
end
section
/-! SUPPORT. The completion of an operation of the scheduler's interface (02 R92 to R97; 04 R159). -/

set_option Elab.async false

namespace Sys2Proof.Machine

/-- What the end of such an operation changes in its core: ring entry, result port and counter. -/
def Core.finished (c : Core) (f : Flight) : Core :=
  { c with
    ring := (c.finishRing f).ring
    ports := (match f.fault, f.result with
      | none, some v => c.ports.setIfInBounds (resultPort f.op) v
      | _, _ => c.ports)
    sb := (c.sbDec f.sbf).sb }

/-- An operation of the scheduler's interface that is counted on a compute core, and brings no capability. -/
structure Flight.OnCore (f : Flight) (o : SqOp) : Prop where
  op : f.op = .sq o
  compute : isCompute f.agent = true
  counted : f.counted = true
  frame : f.frame = none
  retry : f.retry = false
  kres : f.kres = []

theorem State.serveHostOf_of_nil {s : State} (h : s.hostq = []) (a : Nat) (q : BitVec 16) : s.serveHostOf a q = s := by
  rw [State.serveHostOf, h]
  rfl

theorem Core.sbDec_congr {a b : Core} (f : BitVec 4) (h : b.sb = a.sb) : (b.sbDec f).sb = (a.sbDec f).sb := by
  unfold Core.sbDec Core.rsb Core.setSb
  rw [h]
  split
  · split
    · exact h
    · rfl
  · exact h

theorem Core.finishRing_eq (c : Core) (f : Flight) : c.finishRing f = { c with ring := (c.finishRing f).ring } := by
  unfold Core.finishRing
  dsimp only
  split <;> rfl

theorem Core.finished_of_fault {c : Core} {f : Flight} {e : LateFault} (hf : f.fault = some e) :
    (c.finishRing f).sbDec f.sbf = c.finished f := by
  have hsb : ((c.finishRing f).sbDec f.sbf).sb = (c.sbDec f.sbf).sb := Core.sbDec_congr _ (by rw [Core.finishRing_eq])
  rw [Core.sbDec_eq, hsb, Core.finishRing_eq, Core.finished, hf]

theorem Core.finished_of_noResult {c : Core} {f : Flight} (hf : f.fault = none) (hr : f.result = none) :
    (c.finishRing f).sbDec f.sbf = c.finished f := by
  have hsb : ((c.finishRing f).sbDec f.sbf).sb = (c.sbDec f.sbf).sb := Core.sbDec_congr _ (by rw [Core.finishRing_eq])
  rw [Core.sbDec_eq, hsb, Core.finishRing_eq, Core.finished, hf, hr]

theorem Core.finished_of_result {c : Core} {f : Flight} {v : Word} (hf : f.fault = none) (hr : f.result = some v) :
    ((c.finishRing f).setPort (resultPort f.op) v).sbDec f.sbf = c.finished f := by
  have hsb : (((c.finishRing f).setPort (resultPort f.op) v).sbDec f.sbf).sb = (c.sbDec f.sbf).sb :=
    Core.sbDec_congr _ (by rw [Core.finishRing_eq, Core.setPort])
  rw [Core.sbDec_eq, hsb, Core.finishRing_eq, Core.setPort, Core.finished, hf, hr]

theorem Core.ringAt_finished {c : Core} {f : Flight} (hseq : (c.ringAt f.seq).seq = f.seq)
    (hstate : (c.ringAt f.seq).state = ringIssued) (hf : f.fault = none) :
    (c.finished f).ringAt f.seq = { c.ringAt f.seq with state := ringCompleted } := by
  show (c.finishRing f).ringAt f.seq = _
  unfold Core.finishRing
  dsimp only
  rw [if_pos ⟨hseq, hstate⟩, hf]
  simp [Core.ringAt, Core.setRing]

theorem Core.ringAt_finished_fault {c : Core} {f : Flight} {e : LateFault} (hseq : (c.ringAt f.seq).seq = f.seq)
    (hstate : (c.ringAt f.seq).state = ringIssued) (hf : f.fault = some e) :
    (c.finished f).ringAt f.seq = { c.ringAt f.seq with state := ringFaulted, cause := e.cause } := by
  show (c.finishRing f).ringAt f.seq = _
  unfold Core.finishRing
  dsimp only
  rw [if_pos ⟨hseq, hstate⟩, hf]
  simp [Core.ringAt, Core.setRing]

theorem Core.sameRegs_finished (c : Core) (f : Flight) : c.SameRegs { c.finished f with ring := c.ring, ports := c.ports } := by
  constructor <;> rfl

theorem Core.port_finished {c : Core} {f : Flight} {o : SqOp} {v : Word} (hop : f.op = .sq o) (hf : f.fault = none)
    (hr : f.result = some v) : (c.finished f).port_ (resultPort f.op) = v := by
  have hport : resultPort f.op < 76 := by
    rw [hop]
    show 4 * 17 + 2 < 76
    decide
  rw [Core.finished, hf, hr]
  exact (c.port_setPort hport v _).trans (if_pos rfl)

/-- The state in which such an operation has left the machine. -/
def State.left (s : State) (f : Flight) : State := (s.dropFlight f.agent f.seq).onCore f.agent (·.finished f)

theorem State.finish_of_ok {s : State} {f : Flight} {o : SqOp} (h : f.OnCore o) (hf : f.fault = none) :
    s.finish f = s.left f := by
  obtain ⟨hop, hc, hn, hfr, hr, hk⟩ := h
  unfold State.finish State.giveResults State.deliverResult State.uncount State.left
  rw [hk, hfr]
  simp only [hop, hc, hn, hr, hf, List.foldl_nil, if_true, Bool.not_true, Bool.or_self, Bool.false_eq_true, if_false]
  cases hres : f.result with
  | none =>
    rw [State.onCore_onCore]
    exact State.onCore_congr (Core.finished_of_noResult hf hres)
  | some v =>
    rw [State.onCore_onCore, State.onCore_onCore]
    refine State.onCore_congr ?_
    rw [← hop]
    exact Core.finished_of_result hf hres

theorem State.finish_of_fault {s : State} {f : Flight} {o : SqOp} {e : LateFault} (h : f.OnCore o) (hf : f.fault = some e) :
    s.finish f = (s.left f).lateFault f e := by
  obtain ⟨hop, hc, hn, hfr, hr, hk⟩ := h
  unfold State.finish State.giveResults State.uncount State.left
  rw [hk, hfr]
  simp only [hop, hc, hn, hr, hf, List.foldl_nil, if_true, Bool.not_true, Bool.or_self, Bool.false_eq_true, if_false]
  rw [State.onCore_onCore]
  exact congrArg (fun t : State => t.lateFault f e) (State.onCore_congr (Core.finished_of_fault hf))

theorem State.left_onCore_id (s : State) {f : Flight} {g : Core → Core} (hg : ∀ c, g c = c) :
    (s.onCore f.agent g).left f = s.left f := by
  have hswap : (s.onCore f.agent g).left f = ((s.dropFlight f.agent f.seq).onCore f.agent g).onCore f.agent (·.finished f) := rfl
  rw [hswap, State.onCore_onCore, State.left]
  exact State.onCore_congr (congrArg (fun c => Core.finished c f) (hg _))

section
variable {s : State} {f : Flight} {o : SqOp} (h : f.OnCore o) (hflight : s.flight? f.agent f.seq = some f)
  (hphase : f.phase = .ready) (hdue : f.earliest ≤ (s.core f.agent).cyc) (hmarks : s.marksDue f = false) (hhost : s.hostq = [])
include h hflight hphase hdue hmarks hhost

/-- Such an operation, ready and due, ends. -/
theorem State.complete_eq_finish : ∃ g : Core → Core, (∀ c, g c = c) ∧ s.complete f.agent f.seq = (s.onCore f.agent g).finish f := by
  obtain ⟨hop, hc, hn, hfr, hr, -⟩ := h
  have hmay : s.mayComplete f = true := by
    simp [State.mayComplete, State.allPerformed, hphase, State.view, hc, hdue, hmarks, hfr]
  have hflush : s.wantsFlush f = none := by
    unfold State.wantsFlush
    rw [hphase]
    rfl
  have hdata (c : Core) : c.takeData f = c := by
    unfold Core.takeData
    rw [hop]
  refine ⟨(·.takeData f), hdata, ?_⟩
  unfold State.complete
  rw [hflight]
  dsimp only
  rw [hmay, if_neg (by decide), State.serveHostOf_of_nil hhost, hflight]
  dsimp only
  rw [hr, if_neg (by decide), hflush]
  dsimp only
  unfold State.completeOk State.windowComes
  simp only [hop, hc, hn, Bool.and_self, if_true]

theorem State.complete_of_ok (hf : f.fault = none) : s.complete f.agent f.seq = s.left f := by
  obtain ⟨g, hg, hend⟩ := State.complete_eq_finish h hflight hphase hdue hmarks hhost
  rw [hend, State.finish_of_ok h hf, State.left_onCore_id s hg]

theorem State.complete_of_fault {e : LateFault} (hf : f.fault = some e) :
    s.complete f.agent f.seq = (s.left f).lateFault f e := by
  obtain ⟨g, hg, hend⟩ := State.complete_eq_finish h hflight hphase hdue hmarks hhost
  rw [hend, State.finish_of_fault h hf, State.left_onCore_id s hg]

end

@[simp] theorem State.core_left (s : State) (f : Flight) : (s.left f).core f.agent = (s.core f.agent).finished f :=
  State.core_onCore _ _ _

theorem State.byteAt_left (s : State) (f : Flight) (a : Nat) : (s.left f).byteAt a = s.byteAt a :=
  State.byteAt_onCore (s := s.dropFlight f.agent f.seq) rfl rfl a

/-- A late fault changes in its core the recorded stops alone. -/
theorem State.lateFault_leaves (s : State) (f : Flight) (e : LateFault) :
    (s.lateFault f e).flights = s.flights ∧ (∀ a, (s.lateFault f e).byteAt a = s.byteAt a) ∧
      ∃ ds, (s.lateFault f e).core f.agent = { s.core f.agent with stops := ds } := by
  unfold State.lateFault
  split
  · exact ⟨rfl, fun a => State.byteAt_onCore rfl rfl a, _, State.core_onCore _ _ _⟩
  · exact ⟨rfl, fun a => rfl, _, rfl⟩

theorem State.lateFault_stop {s : State} {f : Flight} {o : SqOp} (e : LateFault) (h : f.OnCore o)
    (hs : (s.core f.agent).stoppable = true) :
    ((s.lateFault f e).core f.agent).stops = (s.core f.agent).stops ++ [f.lateStop e] := by
  obtain ⟨hop, hc, hn, -, -, -⟩ := h
  have hspares : f.sparesHolder e = false := by simp [Flight.sparesHolder, hop]
  unfold State.lateFault
  rw [hspares, hc, hn, hs, if_pos (by decide), State.core_onCore]

end Sys2Proof.Machine
end
section
/-! SUPPORT. The first phase of a stop, the retry mark, the resumption of a stopped continuation and timed moves. -/

set_option Elab.async false

namespace Sys2Proof.Machine

/-! ### The first phase of a stop (04 R161) -/

/-- Messages go out, one for each. -/
theorem State.foldl_addMsg {α : Type} {g : State → α → State} (hg : ∀ u x, ∃ m, g u x = { u with msgs := u.msgs ++ [m] })
    (l : List α) (s : State) : ∃ ms, l.foldl g s = { s with msgs := s.msgs ++ ms } ∧ ms.length = l.length := by
  induction l generalizing s with
  | nil => exact ⟨[], by rw [List.append_nil]; rfl, rfl⟩
  | cons x l ih =>
    obtain ⟨m, hm⟩ := hg s x
    obtain ⟨ms, hms, hlen⟩ := ih (g s x)
    refine ⟨m :: ms, ?_, congrArg (· + 1) hlen⟩
    rw [List.foldl_cons, hms, hm]
    simp only [List.append_assoc, List.singleton_append]

theorem State.postLate_eq (s : State) (cn : Nat) :
    ∃ ms, s.postLate cn = { s with msgs := s.msgs ++ ms }.onCore cn (fun c => { c with stops := [] }) ∧
      ((s.core cn).res ≠ none → ms.length = ((s.core cn).stops.filter (fun y => y.kind == 0b01)).length) := by
  unfold State.postLate
  extract_lets c u
  have hu : ∃ ms, u = { s with msgs := s.msgs ++ ms } ∧
      (c.res ≠ none → ms.length = (c.stops.filter (fun y => y.kind == 0b01)).length) := by
    dsimp only [u]
    cases c.res with
    | none =>
      refine ⟨[], ?_, fun h => absurd rfl h⟩
      rw [List.append_nil]
      exact List.foldl_fixed' (fun _ => rfl) _
    | some r =>
      obtain ⟨ms, hms, hlen⟩ := State.foldl_addMsg (fun _ _ => ⟨_, rfl⟩) (c.stops.filter (·.kind == 0b01)) s
      exact ⟨ms, hms, fun _ => hlen⟩
  obtain ⟨ms, hms, hlen⟩ := hu
  exact ⟨ms, by rw [hms], hlen⟩

/-- A stop is taken: its time and the operations that are out, and records for the late faults before it. -/
theorem State.takeNow_spec (s : State) (cn : Nat) : ∃ ms,
    s.takeNow cn = { s with cores := (s.takeNow cn).cores, msgs := s.msgs ++ ms } ∧
      (∀ x, x ≠ cn → (s.takeNow cn).core x = s.core x) ∧
      (s.takeNow cn).core cn =
        { s.core cn with stops := [], taken := some (s.outCount cn, s.now, (s.core cn).cyc) } ∧
      ((s.core cn).res ≠ none → ms.length = ((s.core cn).stops.filter (fun y => y.kind == 0b01)).length) := by
  obtain ⟨ms, hpost, hlen⟩ := s.postLate_eq cn
  have heq : s.takeNow cn = { s with msgs := s.msgs ++ ms }.onCore cn (fun c =>
      { c with stops := [], taken := some (s.outCount cn, s.now, c.cyc) }) := by
    unfold State.takeNow
    rw [hpost]
    exact State.onCore_onCore _ _ _ _
  refine ⟨ms, ?_, fun x hx => ?_, ?_, hlen⟩
  · rw [heq]
    rfl
  · rw [heq, State.core_onCore_ne _ _ hx]
    rfl
  · rw [heq, State.core_onCore]
    rfl

/-! ### The retry mark (04 R160; 10 R385) -/

/-- The core in which an operation has been marked. -/
def Core.retryMarked (c : Core) (f : Flight) : Core :=
  let c := c.setRing f.seq { c.ringAt f.seq with state := ringRetry }
  let c := { c with reissue := c.reissue ++ [f.reissueRecord] }
  if f.applying then { c with mx := { c.mx with hvalid := true, hseq := f.seq, stall := BitVec.ofNat 21 c.mxStall } } else c

theorem Core.retryMarked_spec (c : Core) (f : Flight) :
    (c.retryMarked f).ringAt f.seq = { c.ringAt f.seq with state := ringRetry } ∧
      (c.retryMarked f).reissue = c.reissue ++ [f.reissueRecord] ∧ (c.retryMarked f).mode = c.mode ∧
      (c.retryMarked f).v = c.v ∧ (c.retryMarked f).mx.acc = c.mx.acc := by
  have hring : (c.setRing f.seq { c.ringAt f.seq with state := ringRetry }).ringAt f.seq =
      { c.ringAt f.seq with state := ringRetry } := by simp [Core.ringAt, Core.setRing]
  unfold Core.retryMarked
  split
  · exact ⟨hring, rfl, rfl, rfl, rfl⟩
  · exact ⟨hring, rfl, rfl, rfl, rfl⟩

theorem State.retryMark_spec {s : State} {cn : Nat} {f : Flight} (hdue : s.retryDue cn = true)
    (hone : (s.ownFlights cn).filter (fun f => f.writesCore && !f.neverRetried) = [f]) :
    (∀ x, x ≠ cn → (s.retryMark cn).core x = s.core x) ∧ (∀ a, (s.retryMark cn).byteAt a = s.byteAt a) ∧
      (s.retryMark cn).core cn = (s.core cn).retryMarked f := by
  obtain ⟨-, -, -, hv, hacc⟩ := (s.core cn).retryMarked_spec f
  have hmark : ∃ fs ms, s.retryMark cn = { s.onCore cn (·.retryMarked f) with flights := fs, marked := ms } := by
    unfold State.retryMark State.markRetry
    rw [if_pos hdue, hone]
    exact ⟨_, _, rfl⟩
  obtain ⟨fs, ms, hmark⟩ := hmark
  rw [hmark]
  exact ⟨fun x hx => State.core_onCore_ne s (·.retryMarked f) hx, fun a => State.byteAt_onCore (g := (·.retryMarked f)) hv hacc a,
    State.core_onCore s cn (·.retryMarked f)⟩

/-! ### Resumption (10 R386) -/

theorem State.queue_enqueue (s : State) (q : Nat) (u : Work) : ((s.enqueue q u).queue q).units = (s.queue q).units ++ [u] := by
  unfold State.enqueue State.changeQueue State.onQueue State.queue
  dsimp only
  rw [tabFind_tabPut_same, Option.getD_some]
  split <;> rfl

theorem State.mem_requeue (s : State) (cl rec : Nat) (o : Option Nat) :
    ∃ q, Work.again rec cl o ∈ ((s.requeue cl rec o).queue q).units := by
  refine ⟨(s.setFld rec recState 1).fld rec recQueue, ?_⟩
  rw [State.requeue, State.queue_enqueue]
  exact List.mem_append_right _ (List.mem_singleton.2 rfl)

theorem State.resume_eq {s : State} {rec a : Nat}
    (hstop : tabFind rec (s.part (s.queue (s.fld rec recQueue)).part).stopped = some a) (hframe : s.fld rec recFrame = 1)
    (hstate : s.fld rec recState = 1 ∨ s.fld rec recState = 4) (hqueues : ∀ q ∈ s.queues, ∀ n o, .again rec n o ∉ q.2.units)
    (hready : ∀ x ∈ s.clusters, ∀ y ∈ x.2.ready, y.record ≠ rec) :
    s.resume rec = s.requeue (clusterOf (s.bitsIn a 512 11)) rec (some (s.bitsIn a 512 11)) := by
  unfold State.resume
  dsimp only
  rw [hstop]
  dsimp only
  refine if_pos ⟨hstate, hframe, ?_⟩
  rw [Bool.not_eq_true', Bool.or_eq_false_iff]
  constructor
  · refine List.any_eq_false.2 (fun q hq h => ?_)
    obtain ⟨u, hu, hagain⟩ := List.any_eq_true.1 h
    split at hagain
    · rename_i n o
      exact hqueues q hq n o (eq_of_beq hagain ▸ hu)
    · exact nomatch hagain
  · refine List.any_eq_false.2 (fun x hx h => ?_)
    obtain ⟨y, hy, hrec⟩ := List.any_eq_true.1 h
    exact hready x hx y hy (eq_of_beq hrec)

/-! ### Timed moves (10 R383) -/

/-- Only the slots that there are are chosen. -/
theorem State.timedChosen_lt (s : State) (cn : Nat) (ws : List Slot) (det : Nat) :
    ∀ x ∈ s.timedChosen cn ws det, x.1 < 8 := by
  unfold State.timedChosen
  refine List.foldlRecOn (motive := fun (y : List (Nat × Option Slot) × List Slot × Nat) => ∀ x ∈ y.1, x.1 < 8) _ _
    (fun x hx => (nomatch hx)) (fun y hy e he => ?_)
  obtain ⟨out, before, det⟩ := y
  obtain ⟨t, i⟩ := e
  have hi : i < 8 := by
    have := List.snd_lt_of_mem_zipIdx he
    simpa using this
  dsimp only
  split
  · split
    · intro x hx
      rcases List.mem_append.1 hx with h | h
      · exact hy x h
      · rw [List.mem_singleton.1 h]; exact hi
    · split
      · intro x hx
        rcases List.mem_append.1 hx with h | h
        · exact hy x h
        · rw [List.mem_singleton.1 h]; exact hi
      · exact hy
  · exact hy

theorem getElem?_foldl_clear {α : Type} {n : Nat} (z : α) (l : List (Nat × Option Slot)) (v : Vector α n) (i : Nat) (hi : i < n)
    (h : (∃ x ∈ l, x.1 = i) ∨ v[i]? = some z) : (l.foldl (fun t x => t.setIfInBounds x.1 z) v)[i]? = some z := by
  induction l generalizing v with
  | nil => exact h.resolve_left (fun ⟨_, hx, _⟩ => nomatch hx)
  | cons x l ih =>
    refine ih _ ?_
    by_cases hx : x.1 = i
    · exact .inr (by simp [hx, hi])
    · rcases h with ⟨y, hy, hyi⟩ | h
      · rcases List.mem_cons.1 hy with rfl | hy
        · exact absurd hyi hx
        · exact .inl ⟨y, hy, hyi⟩
      · exact .inr (by simpa [hx] using h)

/-- A cycle of one move that triggers nothing and reads no walker writes its register. -/
theorem State.rg_stalledCycle (s : State) (cn : Nat) {m : Slot} {r : BitVec 6} (v : Word) (k : Core) (htgt : m.tgt = .g r)
    (hwalker : m.walker? = none) : ((s.stalledCycle cn [(m, v, none)] k).core cn).rg r = v := by
  unfold State.stalledCycle
  simp only [List.flatMap_cons, List.flatMap_nil, hwalker, Option.map_none, Option.getD_none, List.append_nil,
    State.afterHit_nil, State.core_onCore, List.foldl_cons, List.foldl_nil]
  exact (Core.rg_writeReg _ _ _ _).trans (if_pos htgt)

/-- While issue is held a cycle of timed moves has no word. -/
theorem State.timedMove_held {s : State} {cn : Nat} (hdue : s.timedDue cn = true) (hold : (s.core cn).hold ≠ .none) :
    ∃ (u : State) (bad : List (Slot × Err)), s.timedMove cn = u.endTimed cn (s.timedChosen cn [] 0) bad ∧
      ∀ i m r, s.timedChosen cn [] 0 = [(i, some m)] → m.tgt = .g r → (∀ n, m.org ≠ .swR n) →
        (s.core cn).guardValue m.guard = true → (u.core cn).rg r = s.slotValue cn 0 m := by
  have hword : s.cycleWord cn = none := by
    have hnext : s.nextWord cn = none := by
      unfold State.nextWord
      split
      · exact absurd ‹_› hold
      · rfl
    rw [State.cycleWord, hnext]
    rfl
  unfold State.timedMove
  rw [hdue, if_neg (by decide), hword]
  dsimp only [Option.map_none, Option.getD_none]
  refine ⟨_, _, rfl, fun i m r hone htgt horg hguard => ?_⟩
  have hwalker : m.walker? = none := by
    unfold Slot.walker?
    split
    · exact absurd ‹_› (horg _)
    · rfl
  have htrig (k : Core) (n : Nat) (v : Word) : Machine.trigOf cn k n 0 m v = none := by
    rw [Machine.trigOf, htgt]
    rfl
  have hquiet : s.moveErr trigger cn m none = none := by rw [State.moveErr, hwalker]; rfl
  rw [show s.wordDetached cn none = 0 from rfl, hone]
  simp only [List.filterMap_cons, List.filterMap_nil, List.zipIdx_cons, List.zipIdx_nil, List.filter_cons, List.filter_nil,
    hguard, if_true, List.map_cons, List.map_nil, htrig, hquiet, Option.isNone_none]
  exact s.rg_stalledCycle cn _ _ htgt hwalker

end Sys2Proof.Machine
end
section
/-! Obligation O43: how operations complete, and how a continuation comes to a core and leaves it. -/

set_option Elab.async false

namespace Sys2Proof.Machine

/-- Settles O43: an operation that ends changes its ring entry, its port and its counter; what puts a continuation on a core or
takes it off reaches the registers that a start, a frame or an empty core gives by steps that keep them (`State.Keeps`). -/
theorem continuationsComeAndGo : Obligations.ContinuationsComeAndGo := by
  unfold Obligations.ContinuationsComeAndGo
  intro s c k
  refine ⟨?completion, ?stop, ?mark, ?suspension, ?start, ?restore, ?resume, ?timed⟩
  case completion =>
    intro f o hc hflight hop hphase hagent hseq hcounted hframe hretry hdue hkres hmarks hhost
    rw [← hagent, ← hseq] at hflight
    rw [← hagent] at hc
    have hon : f.OnCore o := ⟨hop, hc, hcounted, hframe, hretry, hkres⟩
    have hcyc : f.earliest ≤ (s.core f.agent).cyc := by rw [hagent]; exact hdue
    have hcore : (s.left f).core c = (s.core c).finished f := by rw [← hagent]; exact s.core_left f
    have hflights : (s.left f).flights = s.flights.filter (fun g => !(g.agent == c && g.seq == f.seq)) := hagent ▸ rfl
    cases hfault : f.fault with
    | none =>
      have hend : s.complete c s.focus.seq = s.left f := by
        rw [← hagent, ← hseq]
        exact State.complete_of_ok hon hflight hphase hcyc hmarks hhost hfault
      refine ⟨_, congrArg Host.Outcome.next hend, hflights, by rw [hcore]; rfl, s.byteAt_left f,
        fun _ => ⟨⟨rfl, fun x hx => ?_⟩, ?_, fun v hv => ?_, fun hs hi => ?_⟩, fun _ he => (nomatch he)⟩
      · exact State.core_onCore_ne (s.dropFlight f.agent f.seq) (·.finished f) (hagent ▸ hx)
      · rw [hcore]
        exact k.sameRegs_finished f
      · rw [hcore]
        exact Core.port_finished hop hfault hv
      · rw [hcore]
        exact Core.ringAt_finished hs hi hfault
    | some e =>
      have hend : s.complete c s.focus.seq = (s.left f).lateFault f e := by
        rw [← hagent, ← hseq]
        exact State.complete_of_fault hon hflight hphase hcyc hmarks hhost hfault
      obtain ⟨hsame, hbytes, ds, hds⟩ := (s.left f).lateFault_leaves f e
      rw [hagent, hcore] at hds
      refine ⟨_, congrArg Host.Outcome.next hend, hsame.trans hflights, by rw [hds]; rfl,
        fun a => (hbytes a).trans (s.byteAt_left f a), fun he => (nomatch he), fun e' he' => ?_⟩
      obtain rfl := Option.some.inj he'
      refine ⟨fun hs hi => ?_, fun hmode hstops => ?_⟩
      · rw [hds]
        exact Core.ringAt_finished_fault hs hi hfault
      · have hstoppable : ((s.left f).core f.agent).stoppable = true := by
          rw [hagent, hcore]
          show (k.stops.isEmpty && k.mode.issues) = true
          rw [hstops, hmode]
          rfl
        have hstop := State.lateFault_stop e hon hstoppable
        rw [hagent, hcore] at hstop
        exact ⟨f.lateStop e, hstop.trans (congrArg (· ++ [f.lateStop e]) hstops), rfl, rfl, rfl, rfl, rfl⟩
  case stop =>
    refine fun d hmode => ⟨fun htaken => ?_, fun x r a htaken hres hready hfree => ?_⟩
    · obtain ⟨ms, heq, hother, hcore, hlen⟩ := s.takeNow_spec c
      exact ⟨_, ms, congrArg Host.Outcome.next (State.stop_of_untaken hmode htaken), heq, hother, hcore, hlen⟩
    · obtain ⟨e, he, hseq⟩ := s.writeStop_vacated c d r x.1 x.2.1 a
      refine ⟨_, congrArg Host.Outcome.next (State.stop_of_taken hmode htaken hres hready hfree), ?_⟩
      rw [he]
      exact ⟨rfl, rfl, rfl, hseq⟩
  case mark =>
    intro f hdue hone
    obtain ⟨hother, hbytes, hcore⟩ := State.retryMark_spec hdue hone
    obtain ⟨hring, hreissue, hmode, -, -⟩ := k.retryMarked_spec f
    refine ⟨_, rfl, hother, hbytes, ?_⟩
    rw [hcore]
    exact ⟨hring, hreissue, hmode⟩
  case suspension =>
    intro o arg r hmode hres hstops hstores hmarks hflights
    have hready := State.suspendReady_of_idle hmode hstops hstores hmarks hflights
    obtain ⟨d, hd⟩ := State.suspend_vacated hmode hres hready
    exact ⟨_, rfl, (Core.kept_run hd).1, (Core.kept_point hd).2.2.2.2, (Core.kept_rest hd).1⟩
  case start =>
    intro x hx hfr
    have hfresh := State.startNext_fresh hx hfr
    obtain ⟨hg, hq, -, hpc, hres⟩ := Core.kept_point hfresh
    obtain ⟨hmode, -, hlnk, hrm⟩ := Core.kept_run hfresh
    obtain ⟨-, hshadow, hports⟩ := Core.kept_rest hfresh
    refine ⟨_, rfl, hmode, ⟨_, hres, rfl, rfl⟩, hpc, fun n => ?_, hq, hlnk, hrm, fun p => ?_, hshadow⟩
    · rw [Core.rg, hg]
      exact Vector.getElem_ofFn _
    · rw [Core.port_, hports]
      exact Core.port_reset p
  case restore =>
    intro x a hx ha hroom
    obtain ⟨hg, hq, hepc, hpc, hres⟩ := Core.kept_point (State.restoreNext_registers hx ha hroom)
    exact ⟨_, rfl, ⟨_, hres, rfl, rfl⟩, hg, hq, hepc, hpc⟩
  case resume =>
    intro a rec hstop hframe hstate hqueues hready
    obtain ⟨q, hq⟩ := s.mem_requeue (clusterOf (s.bitsIn a 512 11)) rec (some (s.bitsIn a 512 11))
    exact ⟨_, q, congrArg Host.Outcome.next (State.resume_eq hstop hframe hstate hqueues hready), hq⟩
  case timed =>
    intro hdue hold
    obtain ⟨u, bad, htimed, hreg⟩ := State.timedMove_held hdue hold
    refine ⟨_, congrArg Host.Outcome.next htimed, fun x hx => ?_, fun i m r hone htgt horg hguard => ?_⟩
    · rw [State.endTimed, State.core_onCore]
      exact getElem?_foldl_clear _ _ _ _ (s.timedChosen_lt c [] 0 x hx) (.inl ⟨x, hx, rfl⟩)
    · rw [State.endTimed, State.core_onCore]
      exact hreg i m r hone htgt horg hguard

end Sys2Proof.Machine
end

section
/-! The integer units, and the multiplier and divider: the result of each row, and its latency (04 R144, R145). -/

namespace Sys2Proof.Machine

/-- Settles O13: the unit has no check, and its result is that of its row. -/
theorem integerUnits : Obligations.IntegerUnits := by
  intro s i u op m hi htries hret
  obtain ⟨t, ht, hdel⟩ := delivers_of_start (lat := 1) (slow := false)
    (r := .port (4 * (Op.ia u op).unit + 2) (iaResult op (s.me.latchO (.ia u op)) (s.moved m))) ⟨hi, ⟨htries, rfl⟩, hret⟩ rfl rfl
  rw [(ia_latch u op).2] at hdel
  exact ⟨t, _, ht, iaResult_spec op _ _, hdel⟩

/-! ### Products (04 R145) -/

/-- The two words of a product are its 128 bits. -/
theorem append_splitWide (x : Int) : ((splitWide x).2 ++ (splitWide x).1 : BitVec 128) = BitVec.ofInt 128 x :=
  BitVec.extractLsb'_append_extractLsb'

/-- The unsigned product of two words fits the two words of the result. -/
theorem toNat_splitWide_mul (o t : Word) :
    (splitWide (o.toNat * t.toNat)).2.toNat * 2 ^ 64 + (splitWide (o.toNat * t.toNat)).1.toNat = o.toNat * t.toNat := by
  have hlt : o.toNat * t.toNat < 2 ^ 64 * 2 ^ 64 := Nat.mul_lt_mul'' o.isLt t.isLt
  have hcast : ((o.toNat : Int) * t.toNat) = ((o.toNat * t.toNat : Nat) : Int) := (Int.natCast_mul ..).symm
  simp only [splitWide, hcast, BitVec.ofInt_natCast, BitVec.extractLsb'_toNat, BitVec.toNat_ofNat, Nat.shiftRight_eq_div_pow]
  generalize o.toNat * t.toNat = p at hlt
  omega

/-! ### Quotients (04 R145) -/

/-- The corner of the signed division that overflows: the dividend, and remainder 0. -/
theorem divSigned_overflow {o t : Word} (ho : o.toInt = -2 ^ 63) (ht : t.toInt = -1) : divSigned o t = (o, 0) := by
  obtain rfl : o = BitVec.intMin 64 := BitVec.eq_of_toInt_eq ho
  obtain rfl : t = -1#64 := BitVec.eq_of_toInt_eq ht
  decide

/-- The signed quotient and remainder, truncated toward zero, where the quotient is one of 64 bits. -/
theorem toInt_divSigned {o t : Word} (h0 : t ≠ 0) (h : ¬ (o.toInt = -2 ^ 63 ∧ t.toInt = -1)) :
    (divSigned o t).1.toInt = o.toInt.tdiv t.toInt ∧ (divSigned o t).2.toInt = o.toInt.tmod t.toInt := by
  have hfits : o ≠ BitVec.intMin 64 ∨ t ≠ -1#64 := by
    rw [← not_and_or]
    rintro ⟨rfl, rfl⟩
    exact h ⟨by decide, by decide⟩
  rw [divSigned, if_neg h0]
  constructor
  · rw [BitVec.toInt_ofInt, ← BitVec.toInt_sdiv, BitVec.toInt_sdiv_of_ne_or_ne o t hfits]
  · rw [← BitVec.toInt_srem, BitVec.ofInt_toInt]

/-- The signed division at every operand. -/
theorem divSigned_spec (o t : Word) :
    if t = 0 then (divSigned o t).1 = BitVec.allOnes 64 ∧ (divSigned o t).2 = o
    else if o.toInt = -2 ^ 63 ∧ t.toInt = -1 then (divSigned o t).1 = o ∧ (divSigned o t).2 = 0
    else (divSigned o t).1.toInt = o.toInt.tdiv t.toInt ∧ (divSigned o t).2.toInt = o.toInt.tmod t.toInt := by
  split
  next h0 => exact Prod.mk.inj (if_pos h0)
  next h0 =>
    split
    next h => exact Prod.mk.inj (divSigned_overflow h.1 h.2)
    next h => exact toInt_divSigned h0 h

/-- The unsigned division at every operand. -/
theorem divUnsigned_spec (o t : Word) :
    if t = 0 then (divUnsigned o t).1 = BitVec.allOnes 64 ∧ (divUnsigned o t).2 = o
    else (divUnsigned o t).1.toNat = o.toNat / t.toNat ∧ (divUnsigned o t).2.toNat = o.toNat % t.toNat := by
  split
  next h0 => exact Prod.mk.inj (if_pos h0)
  next h0 =>
    rw [divUnsigned, if_neg h0]
    exact ⟨BitVec.toNat_udiv, BitVec.toNat_umod⟩

/-- Each operation gives the pair of its row; the other order of a pair is an operation of its own. -/
theorem imResult_spec (op : ImOp) (o p t : Word) : MultiplierResult op o p t (imResult op o p t).1 (imResult op o p t).2 := by
  cases op
  case mul | mulh | mad => exact append_splitWide _
  case mulhu => exact toNat_splitWide_mul o t
  case div | rem => exact divSigned_spec o t
  case divu | remu => exact divUnsigned_spec o t

/-- The operations that are not pipelined are the divisions. -/
theorem ImOp.slow_eq (op : ImOp) : ImOp.slow op = (op == .div || op == .divu || op == .rem || op == .remu) := by
  cases op <;> rfl

/-- Settles O15: the unit has no check, and both results are those of its row. -/
theorem multiplierAndDivider : Obligations.MultiplierAndDivider := by
  intro s i op m hi htries hret slow
  let v := imResult op (s.me.latchO (.im op)) (s.me.latchP (.im op)) (s.moved m)
  obtain ⟨t, ht, hdel⟩ := delivers_of_start (lat := if ImOp.slow op then 20 else 3) (slow := ImOp.slow op)
    (r := .product v.1 v.2) ⟨hi, ⟨htries, rfl⟩, hret⟩ rfl rfl
  rw [ImOp.slow_eq] at hdel
  exact ⟨t, v.1, v.2, ht, imResult_spec op _ _ _, hdel⟩

end Sys2Proof.Machine
end

section
/-! The control unit: suspension points and traps, waits, and watch slots (04 R142, R150, R152, R156, R169, R170). -/

namespace Sys2Proof.Machine

/-! ### Suspension points and traps (04 R150, R152, R156; 08 R299) -/

/-- A suspension point inside a handler (04 R150). -/
theorem suspendErr_handler {s : State} {x : Trig} (h : x.at_.shadow ≠ none) : suspendErr s x = some ⟨0x01, 0, 0⟩ :=
  if_pos (Option.isSome_iff_ne_none.2 h)

/-- A suspension point while a part of a window is away (08 R299). -/
theorem suspendErr_away {s : State} {x : Trig} (hs : x.at_.shadow = none) (h : x.at_.vaway ≠ 0 ∨ x.at_.taway ≠ 0) :
    ∃ e : Err, e.cause = 0x15 ∧ suspendErr s x = some e := by
  have hin : x.at_.inHandler = false := by rw [Core.inHandler, hs]; rfl
  have haway : (x.at_.vaway != 0 || x.at_.taway != 0) = true := by simpa using h
  unfold suspendErr
  rw [hin]
  exact ⟨_, rfl, if_pos haway⟩

/-- A word that owes an effect and leaves every register (02 R83). -/
theorem word_of_owed_regs {s : State} {i : Instr} {op : Op} {m : Arg} {o : Owe} (h : s.Runs i op m) (hx : op.transfers = true)
    (hp : (trigger op).perform (s.opened op m) (s.trigOf op m) = (s.opened op m).onCore s.turn (fun c => { c with owe := some o }))
    (hn : (trigger op).sbAtOnce = true) :
    ∃ t, exec i s = .next t ∧ s.Ends t m ∧ s.me.SameRegs (t.core s.turn) ∧ (t.core s.turn).owe = some o := by
  obtain ⟨t, ht, hends, howe, hlnk, hregs⟩ := word_of_owed h (h.carries.delay hx) hp hn
  rw [← hlnk] at hregs
  exact ⟨t, ht, hends, hregs, howe⟩

/-- Settles O38: each operation owes its own effect, and its check is that of a suspension point or of a return. -/
theorem suspensionsAndTrapsAreOwed : Obligations.SuspensionsAndTrapsAreOwed := by
  intro s i op m k hop v suspends
  simp only [List.mem_cons, Prod.mk.injEq, List.not_mem_nil, or_false] at hop
  constructor
  · intro h
    rcases hop with ⟨rfl, rfl⟩ | ⟨rfl, rfl⟩ | ⟨rfl, rfl⟩ | ⟨rfl, rfl⟩ | ⟨rfl, rfl⟩ | ⟨rfl, rfl⟩
    all_goals exact word_of_owed_regs h rfl rfl rfl
  · intro hi ht cause hcause
    have hstop : ∃ e : Err, e.cause = cause ∧ (trigger (.ctl op)).check s (s.trigOf (.ctl op) m) = some e := by
      have hcheck : suspends → (trigger (.ctl op)).check = suspendErr := by
        rintro (rfl | rfl | rfl) <;> rfl
      rcases hcause with ⟨hsus, hin, rfl⟩ | ⟨rfl, hout, rfl⟩ | ⟨hsus, hout, haway, rfl⟩
      · rw [hcheck hsus]
        exact ⟨_, rfl, suspendErr_handler hin⟩
      · have hin : s.me.inHandler = false := by rw [Core.inHandler, hout]; rfl
        exact ⟨_, rfl, if_neg (Bool.eq_false_iff.1 hin)⟩
      · rw [hcheck hsus]
        exact suspendErr_away hout haway
    obtain ⟨e, he, herr⟩ := hstop
    exact ⟨preciseStop s.me.pc (some (Arg.slot (.ctl op) m)) e, he, rfl, exec_wordFault hi ht herr⟩

/-! ### The counterexample: a wait in the delay word of a trap that stops (02 R83; 04 R142, R152) -/

/-- Core 0 runs and owes a trap of code 16, which is no local trap but stops the continuation. -/
def owingTrap : State := State.reset.onCore 0 (fun c => { c with mode := .run, owe := some ⟨.trap, none, 16⟩ })

/-- The move of a word that carries g1 under a guard that is always true, with no counter. -/
def fromG1 : Arg := ⟨0, .g 1, 0⟩

theorem owingTrap_runs_sbwait : owingTrap.Runs (.ctlSbwait fromG1) (.ctl .sbwait) fromG1 where
  word := rfl
  carries := ⟨⟨rfl, rfl, ⟨nofun, nofun⟩, nofun, rfl, nofun, nofun, nofun⟩, rfl⟩
  plain := by
    intro o ho
    cases ho
    decide

/-- The trap stops the core at the end of its delay word, and a core that stops holds no word. -/
theorem hold_owingTrap : ∀ t, exec (.ctlSbwait fromG1) owingTrap = .next t → (t.core owingTrap.turn).hold = .none := by
  intro t ht
  rw [exec_trigger rfl, issueOne_owed owingTrap_runs_sbwait.carries rfl (by decide)] at ht
  rw [← Host.Outcome.next.inj ht]
  decide

/-- Refutes O39, in its part on sbwait: a word that waits may be the delay word of a trap that stops the continuation. The stop comes
at the end of that word and ends its hold, since the word after it, which sbwait would hold, never issues (04 R142, R152). -/
theorem not_waitsAndSettings : ¬ Obligations.WaitsAndSettings := by
  intro h
  obtain ⟨hwait, -⟩ := h owingTrap (.ctlSbwait fromG1) .sbwait fromG1 rfl owingTrap_runs_sbwait.carries.toTries
  obtain ⟨t, ht, -, -, -, hhold⟩ := hwait (.inl rfl) owingTrap_runs_sbwait
  rw [hold_owingTrap t ht] at hhold
  exact nomatch hhold

/-! ### Watch slots (04 R169, R170) -/

theorem Core.SameRegs.of_watch {a c : Core} {w : Vector Watch 4} (h : ({ a with watch := w } : Core).SameRegs c) :
    a.SameRegs { c with watch := a.watch } where
  __ := h
  watch := rfl

/-- A word whose operation sets a watch slot, and nothing else. -/
theorem word_of_watch {s : State} {i : Instr} {op : Op} {m : Arg} {n : Nat} {w : Watch} (h : s.Runs i op m)
    (hp : ∀ S, (trigger op).perform S (s.trigOf op m) = S.onCore s.turn (fun c => { c with watch := c.watch.setIfInBounds n w }))
    (hn : (trigger op).sbAtOnce = true) :
    ∃ t, exec i s = .next t ∧ s.Ends t m ∧ s.me.SameRegs { t.core s.turn with watch := s.me.watch } ∧
      (t.core s.turn).watch = s.me.watch.setIfInBounds n w := by
  obtain ⟨t, a, b, ht, hends, hopened, hregs, -⟩ := ends_of_onCore h hp hn (fun _ => ⟨rfl, rfl, rfl, rfl, rfl, rfl, rfl, rfl⟩)
  have hwatch := hregs.watch
  rw [hopened.regs.watch] at hwatch
  refine ⟨t, ht, hends, ?_, hwatch⟩
  rw [← hopened.regs.watch]
  exact hopened.regs.trans (Core.SameRegs.of_watch hregs)

/-- An armed slot: the buffer of a capability, with the kind, the mailbox and the range that `ctl.o` gives (04 R169). -/
def armedWatch (x : Trig) (cap : Cap) : Watch :=
  ⟨cap.part, cap.desc, x.o.extractLsb' 9 17, x.o.extractLsb' 7 2, BitVec.ofNat 40 (watchStart x), x.o.extractLsb' 26 38, 0⟩

theorem watchSet_disarm {x : Trig} (h : x.o.extractLsb' 7 2 = 0) (c : Core) :
    watchSet x c = { c with watch := c.watch.setIfInBounds (fieldN x.o.toNat 5 2) {} } := by
  unfold watchSet
  dsimp only
  rw [if_pos h]

theorem watchSet_arm {x : Trig} {cap : Cap} (h : x.o.extractLsb' 7 2 ≠ 0) (hk : x.at_.rk (watchK x) = .cap cap) (c : Core) :
    watchSet x c = { c with watch := c.watch.setIfInBounds (fieldN x.o.toNat 5 2) (armedWatch x cap) } := by
  unfold watchSet
  dsimp only
  rw [if_neg h, hk]
  rfl

/-- A watch that arms and whose checks have passed names a register with a capability (04 R169). -/
theorem cap_of_watchErr {s : State} {x : Trig} (hk : x.o.extractLsb' 7 2 ≠ 0) (h : watchErr s x = none) :
    ∃ cap, x.at_.rk (watchK x) = .cap cap := by
  have hfield : fieldN x.o.toNat 7 2 ≠ 0 := by
    rw [fieldN_eq_extractLsb']
    exact fun h0 => hk (BitVec.eq_of_toNat_eq h0)
  rw [watchErr, if_neg hfield] at h
  cases hr : x.at_.rk (watchK x) with
  | cap cap => exact ⟨cap, rfl⟩
  | _ => rw [hr] at h; exact nomatch h

/-- A watch whose checks have passed sets its slot: empty for kind 0b00, else armed with its register's capability (04 R169). -/
theorem watchSet_spec {s : State} {x : Trig} (h : watchErr s x = none) :
    ∃ w, (∀ c, watchSet x c = { c with watch := c.watch.setIfInBounds (fieldN x.o.toNat 5 2) w }) ∧
      (x.o.extractLsb' 7 2 = 0 → w = {}) ∧
      (x.o.extractLsb' 7 2 ≠ 0 → ∃ cap, x.at_.rk (watchK x) = .cap cap ∧ w = armedWatch x cap) := by
  by_cases hkind : x.o.extractLsb' 7 2 = 0
  · exact ⟨{}, watchSet_disarm hkind, fun _ => rfl, fun hne => absurd hkind hne⟩
  · obtain ⟨cap, hcap⟩ := cap_of_watchErr hkind h
    exact ⟨_, watchSet_arm hkind hcap, fun heq => absurd heq hkind, fun _ => ⟨cap, hcap, rfl⟩⟩

/-- The start of a watch is that of the trigger's offset, rounded down to a granule (04 R169). -/
theorem toNat_watchStart (x : Trig) : (BitVec.ofNat 40 (watchStart x)).toNat = (x.t.extractLsb' 0 40).toNat / 32 * 32 := by
  have hlt := (x.t.extractLsb' 0 40).isLt
  rw [watchStart, fieldN_eq_extractLsb', BitVec.toNat_ofNat]
  omega

/-- Settles O40: the word sets its slot alone, and the checks of an armed watch give its register's capability. -/
theorem watchArmsItsSlot : Obligations.WatchArmsItsSlot := by
  intro s i m h o n
  let x := s.trigOf (.ctl .watch) m
  obtain ⟨w, hset, hdisarm, harm⟩ := watchSet_spec (s := s) (x := x) h.carries.checks
  obtain ⟨t, ht, hends, hregs, hwatch⟩ := word_of_watch h (fun S => congrArg (S.onCore s.turn) (funext hset)) rfl
  rw [fieldN_eq_extractLsb'] at hwatch
  have hslot : (t.core s.turn).watch[n]? = some w := by
    rw [hwatch]
    exact Vector.getElem?_setIfInBounds_self_of_lt (o.extractLsb' 5 2).isLt
  refine ⟨t, ht, hends, hregs, fun k hk => ?_, fun hkind => ?_, fun hkind => ?_⟩
  · rw [hwatch]
    exact Vector.getElem?_setIfInBounds_ne hk.symm
  · rw [hslot, hdisarm hkind]
  · obtain ⟨cap, hcap, rfl⟩ := harm hkind
    exact ⟨cap, armedWatch x cap, hcap, hslot, rfl, rfl, rfl, rfl, toNat_watchStart x, rfl, rfl⟩

/-- Settles O41: the slot becomes empty, which an empty slot is already. -/
theorem unwatchDisarmsItsSlot : Obligations.UnwatchDisarmsItsSlot := by
  intro s i m hi htries hret n
  obtain ⟨t, ht, hends, hregs, hwatch⟩ := word_of_watch (n := fieldN (s.moved m).toNat 0 2) (w := {})
    (⟨hi, ⟨htries, rfl⟩, hret⟩ : s.Runs i (.ctl .unwatch) m) (fun _ => rfl) rfl
  rw [fieldN_zero] at hwatch
  have hn : n < 4 := Nat.mod_lt _ (by decide)
  refine ⟨t, ht, hends, ?_, fun k hk => ?_, hregs, fun hempty => ?_⟩
  · rw [hwatch]
    exact Vector.getElem?_setIfInBounds_self_of_lt hn
  · rw [hwatch]
    exact Vector.getElem?_setIfInBounds_ne hk.symm
  · rw [hwatch]
    refine Vector.ext fun k hk => ?_
    rw [Vector.getElem_setIfInBounds]
    split
    next hkn =>
      subst hkn
      exact (Option.some.inj ((Vector.getElem?_eq_getElem hk).symm.trans hempty)).symm
    next => rfl

end Sys2Proof.Machine
end

section
/-! Element accesses and bank formats of the local load/store unit (05 R181 to R184). -/

namespace Sys2Proof.Machine

/-! ### What the start of a word leaves (02 R85) -/

/-- The start of a word changes no byte that the core sees, stores that wait included (01 R57; 02 R85). -/
theorem State.localByte_opened (s : State) (op : Op) (m : Arg) (a : Nat) :
    (s.opened op m).localByte ((s.opened op m).core s.turn) a = s.localByte s.me a := by
  obtain ⟨-, hop⟩ := s.opened_spec op m
  rw [State.localByte, State.byteAt_opened, hop.stores, State.localByte]

/-! ### Elements (05 R181, R182) -/

/-- The bank of an element access: bits 19:16 of t (05 R181). -/
theorem elemBank_trigOf (s : State) (op : Op) (m : Arg) : elemBank (s.trigOf op m) = (s.moved m).toNat / 2 ^ 16 % 16 := rfl

/-- The place of an element: so many of its size after the first bit of its bank (03 R109; 05 R181). -/
theorem elemBit_trigOf (s : State) (op : Op) (m : Arg) : elemBit (s.trigOf op m) =
    8 * 0x8000 * ((s.moved m).toNat / 2 ^ 16 % 16) +
      (s.moved m).toNat % 2 ^ 16 * (bankFmt (s.me.bankReg ((s.moved m).toNat / 2 ^ 16 % 16))).size := by
  rw [elemBit, fieldN_zero, elemFmt, elemBank_trigOf]
  rfl

/-- The bits that stf stores, by the format of the bank (03 R121; 05 R182). -/
theorem stfBits_eq (s : State) (x : Trig) : stfBits s x =
    if elemFmt x = .bytes then x.o.toNat % 2 ^ 32 % 256 else if elemFmt x = .fp32 then x.o.toNat % 2 ^ 32
    else ((elemFmt x).round (if (elemFmt x).isMx then mxQuotient (decodeFp32 (x.o.toNat % 2 ^ 32))
      (match elemScale x with
        | some a => (s.localByte (s.core x.c) a).toNat
        | none => 127) else decodeFp32 (x.o.toNat % 2 ^ 32)) x.mode x.sat).bits := by
  unfold stfBits
  rw [fieldN_zero]
  generalize elemFmt x = f
  cases f <;> rfl

/-- Settles O22: the place and the format are those of the trigger, and the scale byte is that which the word found. -/
theorem elementAccesses : Obligations.ElementAccesses := by
  intro s i m _ bank f bit v scale bits
  have hbit (op : Op) : elemBit (s.trigOf op m) = bit := elemBit_trigOf s op m
  have hscale (op : Op) : elemScale (s.trigOf op m) = s.me.padScale s.turn bit := by rw [elemScale, hbit]; rfl
  constructor
  · intro h
    refine delivers_of_start h ?_ rfl
    rw [← hscale (.ls .ldf), ← hbit (.ls .ldf)]
    rfl
  · intro h
    refine stores_of_store h ?_ rfl
    have hbits : stfBits (s.opened (.ls .stf) m) (s.trigOf (.ls .stf) m) = bits := by
      have hseen (a : Nat) : (s.opened (.ls .stf) m).localByte ((s.opened (.ls .stf) m).core (s.trigOf (.ls .stf) m).c) a =
          s.localByte s.me a := s.localByte_opened _ m a
      rw [stfBits_eq, hscale]
      simp only [hseen]
      rfl
    rw [← hbits, ← hbit (.ls .stf)]
    rfl

/-! ### Checks in order (02 R85) -/

theorem firstErr_cons_eq_none {e : Option Err} {l : List (Option Err)} : firstErr (e :: l) = none ↔ e = none ∧ firstErr l = none := by
  cases e with
  | none => exact ⟨fun h => ⟨rfl, h⟩, fun h => h.2⟩
  | some e => exact ⟨nofun, fun h => nomatch h.1⟩

theorem require_eq_none {ok : Bool} {e : Err} : require ok e = none ↔ ok = true := by
  cases ok <;> simp [require]

/-! ### Bank formats (05 R183, R184) -/

theorem KReg.cap?_eq_some {r : KReg} {c : Cap} (h : r.cap? = some c) : r = .cap c := by
  cases r with
  | cap d => exact congrArg KReg.cap (Option.some.inj h)
  | empty => exact nomatch h
  | pending => exact nomatch h

/-- A bank-format access whose checks have passed goes through a capability whose descriptor stands; a bank of the scratchpad is one
of its sixteen (05 R183). -/
theorem State.selected_of_bankErr {fits store : Bool} {s : State} {x : Trig} (h : bankErr fits store s x = none) :
    ∃ cap d, x.at_.rk x.k = .cap cap ∧ s.descOf cap = some d ∧ s.selected x = some (cap, d) ∧
      (d.localTo x.c = true → bankIndex x < 16) := by
  unfold bankErr at h
  split at h
  next => exact nomatch h
  next cap hcap =>
    split at h
    next => exact nomatch h
    next d loc hplace =>
      obtain ⟨d', hdesc, hmap⟩ := Option.bind_eq_some_iff.1 hplace
      obtain ⟨loc', hloc, hpair⟩ := Option.map_eq_some_iff.1 hmap
      obtain ⟨rfl, rfl⟩ := Prod.mk.inj hpair
      simp only [firstErr_cons_eq_none, require_eq_none, Bool.and_eq_true] at h
      obtain ⟨-, ⟨-, hreach⟩, -⟩ := h
      refine ⟨cap, d', KReg.cap?_eq_some hcap, hdesc, by simp [State.selected, hcap, hdesc], fun hl => ?_⟩
      obtain rfl : true = loc' := Option.some.inj ((if_pos hl).symm.trans hloc)
      obtain ⟨hlt, -⟩ := Bool.and_eq_true_iff.1 hreach
      exact of_decide_eq_true hlt

/-- The number of a bank: t without bit 63 and bits 2:0 (05 R183). -/
theorem bankIndex_trigOf (s : State) (op : Op) (m : Arg) : bankIndex (s.trigOf op m) = (s.moved m).toNat % 2 ^ 63 / 8 := by
  show (s.moved m).toNat / 2 ^ 3 % 2 ^ 60 = _
  omega

/-! ### A word that changes its core at once (02 R85) -/

/-- From `s` to `t` a word has been carried out whose operation leaves its core as `b`, with counters `sb`: the cycle has passed, and
the rest of the device is as it was (02 R85, R86). -/
structure State.Leaves (s t : State) (b : Core) (sb : Vector (BitVec 12) 8) : Prop where
  rest : s.SameRest t
  registers : b.SameRegs (t.core s.turn)
  stages : (t.core s.turn).stages = b.stages.map Stage.next
  stores : (t.core s.turn).stores.map (·.writes) = b.stores.map (·.writes)
  order : (t.core s.turn).order = b.order + 4
  pc : s.me.owe = none → (t.core s.turn).pc = s.me.pc.plus 4
  counters : (t.core s.turn).sb = sb
  sflags : (t.core s.turn).sflags = b.sflags
  vflags : (t.core s.turn).vflags = b.vflags
  walkers : (t.core s.turn).walkers = b.walkers.map Walker.tick

/-- A word whose operation changes its core alone, but no byte of memory. -/
theorem leaves_of_core {s : State} {i : Instr} {op : Op} {m : Arg} {b : Core} (h : s.Runs i op m)
    (hb : s.SameBut ((trigger op).perform (s.opened op m) (s.trigOf op m)) s.turn b) (hv : b.v = s.me.v)
    (ha : b.mx.acc = s.me.mx.acc) :
    ∃ t, exec i s = .next t ∧ s.Leaves t b (if (trigger op).sbAtOnce then (b.sbDec m.sb).sb else b.sb) := by
  obtain ⟨t, c, rg, st, ht, hsame, hclosed, hst, hpc⟩ := word_of_core h hb
  let sb := if (trigger op).sbAtOnce then (b.sbDec m.sb).sb else b.sb
  have hend : (if (trigger op).sbAtOnce then ({ b with ranges := rg, stores := st } : Core).sbDec m.sb
      else { b with ranges := rg, stores := st }) = { b with ranges := rg, stores := st, sb := sb } := by
    dsimp only [sb]
    cases (trigger op).sbAtOnce with
    | false => rfl
    | true =>
      have hsb : (({ b with ranges := rg, stores := st } : Core).sbDec m.sb).sb = (b.sbDec m.sb).sb := Core.sbDec_congr m.sb rfl
      rw [if_pos rfl, if_pos rfl, Core.sbDec_eq, hsb]
  rw [hend] at hclosed
  obtain rfl := hsame.core
  have hregs : b.SameRegs (t.core s.turn) := Core.SameRegs.trans (by constructor <;> rfl) hclosed.regs
  have hwrites := congrArg (List.map (fun y : Nat × Nat × BitVec 4 × List BitWrite => y.2.2.2)) hst
  rw [List.map_map, List.map_map] at hwrites
  exact ⟨t, ht, {
    rest := hsame.sameRest (hregs.v.trans hv) ((congrArg Mx.acc hregs.mx).trans ha)
    registers := hregs
    stages := hclosed.stages
    stores := by rw [hclosed.stores, List.map_map]; exact hwrites
    order := hclosed.order
    pc := fun ho => (hpc ho).1
    counters := hclosed.sb
    sflags := hclosed.sflags
    vflags := hclosed.vflags
    walkers := hclosed.walkers }⟩

/-! ### Bank formats at work (05 R184) -/

/-- The core after std has written the register of one of its banks (05 R184). -/
def Core.withBank (c : Core) (n : Nat) (v : Word) (f : BitVec 4) : Core :=
  ({ c with bf := c.bf.setIfInBounds n v } : Core).sbDec f

/-- Nothing but the register and the counter has changed. -/
theorem Core.withBank_eq (c : Core) (n : Nat) (v : Word) (f : BitVec 4) :
    c.withBank n v f = { c with bf := c.bf.setIfInBounds n v, sb := (c.sbDec f).sb } := by
  have hsb : (({ c with bf := c.bf.setIfInBounds n v } : Core).sbDec f).sb = (c.sbDec f).sb := Core.sbDec_congr f rfl
  rw [Core.withBank, Core.sbDec_eq, hsb]

/-- std to a bank of the scratchpad: the register changes in the cycle of the word, and no other (05 R183, R184). -/
theorem word_of_bankWrite {s : State} {i : Instr} {op : Op} {m : Arg} {n : Nat} {v : Word} (h : s.Runs i op m) (hn : n < 16)
    (hp : (trigger op).perform (s.opened op m) (s.trigOf op m) = (s.opened op m).onCore s.turn (·.withBank n v m.sb))
    (hsb : (trigger op).sbAtOnce = false) :
    ∃ t, exec i s = .next t ∧ s.Ends t m ∧ (t.core s.turn).bankReg n = v ∧
      (∀ k, k ≠ n → (t.core s.turn).bankReg k = s.me.bankReg k) ∧ s.me.SameRegs { t.core s.turn with bf := s.me.bf } := by
  obtain ⟨hopen, hop⟩ := s.opened_spec op m
  let a := (s.opened op m).core s.turn
  have hb := hopen.onCore (·.withBank n v m.sb)
  rw [← hp, Core.withBank_eq] at hb
  obtain ⟨t, ht, hl⟩ := leaves_of_core h hb hop.regs.v (congrArg Mx.acc hop.regs.mx)
  rw [hsb, if_neg (by decide)] at hl
  have hbf : (t.core s.turn).bf = s.me.bf.setIfInBounds n v := by
    rw [hl.registers.bf, ← hop.regs.bf]
  have hregs : s.me.SameRegs { t.core s.turn with bf := s.me.bf } := by
    rw [← hop.regs.bf]
    exact hop.regs.trans { hl.registers with bf := rfl }
  refine ⟨t, ht, ⟨hl.stages.trans (congrArg _ hop.stages), hl.order.trans (congrArg (· + 4) hop.order), hl.pc, ?_,
    hl.sflags.trans hop.sflags, hl.vflags.trans hop.vflags, hl.stores.trans (congrArg _ hop.stores), hl.rest⟩, ?_, fun k hk => ?_, hregs⟩
  · exact hl.counters.trans (Core.sbInc_sbDec s.me m.sb h.carries.room _ rfl a hop.sb)
  · rw [Core.bankReg, hbf, Vector.getElem?_setIfInBounds_self_of_lt hn]
    rfl
  · rw [Core.bankReg, hbf, Vector.getElem?_setIfInBounds_ne hk.symm]
    rfl

/-- A read of a bank format register starts with a value for the port, or with the register's bytes to load (05 R184). -/
theorem bankRead_eq {s : State} {x : Trig} {b : Bool} (h : bankLocal s x = b) : bankRead s x = x.start 4 false
    (if b then .port (portIdx .lsR) (x.at_.bankReg (bankIndex x))
      else .load (.bytes (clusterBankAddr (clusterOf x.c) (bankIndex x)) 8 false) x.at_.rm []) s := by
  rw [bankRead, h]
  cases b <;> rfl

/-- The start of a word changes no descriptor, so its operation finds the bank where its checks did (05 R183). -/
theorem bankLocal_opened {s : State} {op : Op} {m : Arg} {x : Trig} {cap : Cap} {d : Desc} (h : s.selected x = some (cap, d)) :
    bankLocal (s.opened op m) x = d.localTo x.c := by
  have hsel : (s.opened op m).selected x = s.selected x := rfl
  rw [bankLocal, hsel, h]

/-- The eight bytes of a word as a store makes them (00 R3). -/
theorem bitWrites_imageBytes (a : Nat) (v : Word) :
    bitWrites a (imageBytes v) = (List.range 8).map (fun j => ⟨a + j, 0xFF, v.extractLsb' (8 * j) 8⟩) := by
  have hlen : (imageBytes v).length = 8 := leBytes_length _ _
  rw [← bitWrites_take_imageBytes a v (le_refl 8), List.take_of_length_le hlen.le]

/-- Settles O23: the buffer that the checks have found says whose bank it is. -/
theorem bankFormatAccesses : Obligations.BankFormatAccesses := by
  intro s i m hbit n a v
  have hn (op : Op) : bankIndex (s.trigOf op m) = n := bankIndex_trigOf s op m
  have hplace (op : Op) : clusterBankAddr (clusterOf (s.trigOf op m).c) (bankIndex (s.trigOf op m)) = a := by
    show 0x2800000000000 + s.turn / 16 * 2 ^ 24 + 0x1000 + 8 * bankIndex (s.trigOf op m) = 0x2800000001000 + s.turn / 16 * 2 ^ 24 + 8 * n
    rw [hn]
    omega
  constructor
  · intro h
    have hperform (S : State) : (trigger (.ls .ldd)).perform S (s.trigOf (.ls .ldd) m) = bankRead S (s.trigOf (.ls .ldd) m) :=
      if_pos hbit
    obtain ⟨cap, d, hcap, hd, hsel, -⟩ := State.selected_of_bankErr ((if_pos hbit).symm.trans h.carries.checks)
    obtain ⟨t, ht, hdel⟩ := delivers_of_start h ((hperform _).trans (bankRead_eq (bankLocal_opened hsel))) rfl
    rw [hplace, hn] at hdel
    exact ⟨t, cap, d, hcap, hd, ht, hdel⟩
  · intro h
    have hperform (S : State) : (trigger (.ls .std)).perform S (s.trigOf (.ls .std) m) = bankWrite S (s.trigOf (.ls .std) m) :=
      if_pos hbit
    obtain ⟨cap, d, hcap, hd, hsel, hlow⟩ := State.selected_of_bankErr ((if_pos hbit).symm.trans h.carries.checks)
    have hloc : bankLocal (s.opened (.ls .std) m) (s.trigOf (.ls .std) m) = d.localTo s.turn := bankLocal_opened hsel
    cases hown : d.localTo s.turn with
    | true =>
      rw [hown] at hloc
      obtain ⟨t, ht, hwritten⟩ := word_of_bankWrite h (hlow hown) ((hperform _).trans (if_pos hloc)) rfl
      rw [hn] at hwritten
      exact ⟨t, cap, d, hcap, hd, ht, fun _ => hwritten, fun hc => (nomatch hown.symm.trans hc)⟩
    | false =>
      have hstore : (trigger (.ls .std)).perform (s.opened (.ls .std) m) (s.trigOf (.ls .std) m) =
          (s.trigOf (.ls .std) m).store 4 _ (s.opened (.ls .std) m) := (hperform _).trans (if_neg (by rw [hloc, hown]; decide))
      rw [hplace, bitWrites_imageBytes] at hstore
      obtain ⟨t, ht, hst⟩ := stores_of_store h hstore rfl
      exact ⟨t, cap, d, hcap, hd, ht, fun hc => (nomatch hown.symm.trans hc), fun _ => hst⟩

end Sys2Proof.Machine
end

section
/-! The operations of the stream walkers: what each makes of its walker, and of the counters (05 R187, R190 to R194). -/

namespace Sys2Proof.Machine

/-! ### Walkers and counters of a core -/

@[simp] theorem Core.walker_setWalker (c : Core) (n : BitVec 2) (w : Walker) : (c.setWalker n w).walker n = w := by
  simp [Core.setWalker, Core.walker]

theorem Core.walker_setWalker_ne (c : Core) {n j : BitVec 2} (w : Walker) (h : j ≠ n) : (c.setWalker n w).walker j = c.walker j := by
  have hne : n.toNat ≠ j.toNat := fun hc => h (BitVec.eq_of_toNat_eq hc.symm)
  simp [Core.setWalker, Core.walker, hne]

theorem Core.setWalker_self (c : Core) (n : BitVec 2) : c.setWalker n (c.walker n) = c := by
  simp [Core.setWalker, Core.walker]

theorem Core.rsb_setSb (c : Core) (k n : BitVec 3) (x : BitVec 12) : (c.setSb k x).rsb n = if k = n then x else c.rsb n := by
  simp only [Core.rsb, Core.setSb, Vector.getElem_set, BitVec.toNat_inj]

/-- A counted trigger raises its own counter (02 R95). -/
theorem Core.rsb_sbInc (c : Core) (f : BitVec 4) (n : BitVec 3) :
    (c.sbInc f).rsb n = if sbSel f = some n then c.rsb n + 1 else c.rsb n := by
  unfold Core.sbInc
  cases sbSel f with
  | none => rfl
  | some k =>
    dsimp only
    rw [Core.rsb_setSb]
    by_cases hk : k = n
    · rw [if_pos hk, if_pos (congrArg some hk), hk]
    · rw [if_neg hk, if_neg fun hc => hk (Option.some.inj hc)]

/-- The end of a counted operation lowers its counter, which stays at zero (02 R95, R97). -/
theorem Core.rsb_sbDec (c : Core) (f : BitVec 4) (n : BitVec 3) :
    (c.sbDec f).rsb n = if sbSel f = some n ∧ c.rsb n ≠ 0 then c.rsb n - 1 else c.rsb n := by
  unfold Core.sbDec
  cases sbSel f with
  | none => simp
  | some k =>
    dsimp only
    by_cases hk : k = n
    · subst hk
      by_cases h0 : c.rsb k = 0
      · rw [if_pos h0, if_neg fun hc => hc.2 h0]
      · rw [if_neg h0, if_pos ⟨rfl, h0⟩, Core.rsb_setSb, if_pos rfl]
    · have hne : ¬ (some k = some n ∧ c.rsb n ≠ 0) := fun hc => hk (Option.some.inj hc.1)
      rw [if_neg hne]
      split
      · rfl
      · rw [Core.rsb_setSb, if_neg hk]

theorem Core.sb_ext {a b : Core} (h : ∀ n, a.rsb n = b.rsb n) : a.sb = b.sb := by
  refine Vector.ext fun i hi => ?_
  have hn : (BitVec.ofNat 3 i).toNat = i := Nat.mod_eq_of_lt hi
  simpa only [Core.rsb, hn] using h (BitVec.ofNat 3 i)

/-- A counter that was raised where there was room is neither full nor zero, and its own decrement undoes it after another one
(02 R95). -/
theorem Core.sbInc_sbDec_sbDec (c : Core) (f g : BitVec 4) (h : ∀ n, sbSel f = some n → c.rsb n ≠ 4095) :
    (((c.sbInc f).sbDec g).sbDec f).sb = (c.sbDec g).sb := by
  refine Core.sb_ext fun n => ?_
  simp only [Core.rsb_sbDec, Core.rsb_sbInc]
  by_cases hf : sbSel f = some n
  · have hroom := h n hf
    generalize c.rsb n = v at hroom ⊢
    have hpos : v + 1#12 ≠ 0#12 := by bv_omega
    by_cases hg : sbSel g = some n
    · by_cases hv : v = 0#12 <;> simp [hf, hg, hpos, hv]
    · simp [hf, hg, hpos]
  · simp [hf]

/-! ### The walker that an operation meets (05 R191) -/

/-- Walker `j` as a word with this move leaves it before its operation: a read has moved it on (05 R191). -/
def State.walkerMet (s : State) (m : Arg) (j : BitVec 2) : Walker :=
  if m.org = .swR j then (s.me.walkerAdvance j).walker j else s.me.walker j

theorem Core.walker_walkerAdvance_ne (c : Core) {n j : BitVec 2} (h : j ≠ n) : (c.walkerAdvance n).walker j = c.walker j := by
  unfold Core.walkerAdvance
  dsimp only
  split
  · exact c.walker_setWalker_ne _ h
  · rfl

theorem State.walker_opened (s : State) (op : Op) (m : Arg) (j : BitVec 2) :
    ((s.opened op m).core s.turn).walker j = s.walkerMet m j := by
  have hread : ((s.opened op m).core s.turn).walker j =
      (([Arg.slot op m].filterMap Slot.walker?).eraseDups.foldl Core.walkerAdvance s.me).walker j := by
    unfold State.opened State.sourced State.originEffects
    rw [State.core_onCore, Core.sbInc_eq, State.core_onCore, State.core_onCore, State.core_onCore]
    rfl
  rw [hread, State.walkerMet]
  by_cases hr : ∃ n, m.org = .swR n
  · obtain ⟨n, hn⟩ := hr
    have hlist : ([Arg.slot op m].filterMap Slot.walker?).eraseDups = [n] := by
      simp [Arg.slot, Slot.walker?, hn, List.eraseDups_cons]
    rw [hlist, hn, List.foldl_cons, List.foldl_nil]
    by_cases hj : j = n
    · rw [hj, if_pos rfl]
    · rw [Core.walker_walkerAdvance_ne _ hj, if_neg fun hc => hj (Origin.swR.inj hc).symm]
  · have hnone : (Arg.slot op m).walker? = none := by
      unfold Slot.walker?
      split
      · exact absurd ⟨_, ‹_›⟩ hr
      · rfl
    have hlist : ([Arg.slot op m].filterMap Slot.walker?).eraseDups = [] := by simp [hnone]
    rw [hlist, if_neg fun hc => hr ⟨j, hc⟩]
    rfl

/-! ### Feeds that end (05 R187, R194) -/

/-- The walker without the feed in progress on it. -/
def Walker.unfed (w : Walker) : Walker := if w.feeding then { w with feeding := false, feedLeft := 0, feedSb := 0 } else w

/-- A core with one walker and the counters replaced. -/
def Core.withWalker (c : Core) (n : BitVec 2) (w : Walker) (sb : Vector (BitVec 12) 8) : Core := { c.setWalker n w with sb := sb }

section
variable (c : Core) (n : BitVec 2) (v w : Walker) (sb : Vector (BitVec 12) 8)

@[simp] theorem Core.walker_withWalker : (c.withWalker n w sb).walker n = w := c.walker_setWalker n w

theorem Core.walker_withWalker_ne {j : BitVec 2} (h : j ≠ n) : (c.withWalker n w sb).walker j = c.walker j :=
  c.walker_setWalker_ne w h

@[simp] theorem Core.withWalker_setWalker : (c.withWalker n v sb).setWalker n w = c.withWalker n w sb := by
  simp [Core.withWalker, Core.setWalker]

theorem Core.sbDec_withWalker (d : Core) (f : BitVec 4) : (c.withWalker n w d.sb).sbDec f = c.withWalker n w (d.sbDec f).sb := by
  have hsb : ((c.withWalker n w d.sb).sbDec f).sb = (d.sbDec f).sb := Core.sbDec_congr f rfl
  rw [Core.sbDec_eq, hsb]
  rfl

theorem Core.stages_withWalker : (c.withWalker n w sb).stages = c.stages := rfl

theorem Core.sameRegs_withWalker : c.SameRegs (c.withWalker n w sb) := by constructor <;> rfl

/-- The core whose counters stand when the feed on a walker has ended. -/
def Core.countUnfed (w : Walker) : Core := if w.feeding then c.sbDec w.feedSb else c

/-- The end of a feed changes its walker and its counter alone. -/
theorem Core.endFeed_eq : c.endFeed n = c.withWalker n (c.walker n).unfed (c.countUnfed (c.walker n)).sb := by
  unfold Core.endFeed Walker.unfed Core.countUnfed
  dsimp only
  by_cases hf : (c.walker n).feeding = true
  · have hset (w : Walker) : c.setWalker n w = c.withWalker n w c.sb := rfl
    rw [if_pos hf, if_pos hf, if_pos hf, hset, Core.sbDec_withWalker]
  · rw [if_neg hf, if_neg hf, if_neg hf, Core.withWalker, Core.setWalker_self]

end

/-! ### What an operation makes of its walker (05 R190 to R194) -/

/-- The walker has an element to feed (05 R194). -/
def Walker.begins (w : Walker) : Bool := w.bound && !w.exh

/-- The walker after an operation, from the walker before. -/
def swWalker (op : SwOp) (s : State) (x : Trig) (w : Walker) : Walker :=
  let fed (toB : Bool) : Walker :=
    if w.unfed.begins then
      { w.unfed with feeding := true, fifoB := toB, feedLeft := x.t, feedSb := x.sb, feedOrder := x.order }
    else w.unfed
  match op with
  | .bind => boundWalker s x
  | .feeda => fed false
  | .feedb => fed true
  | .skip => w.doSkip x.t
  | .rewind => w.unfed.doRewind x.t
  | .stop => {}

/-- The core whose counters an operation leaves: those of a feed that it ends, and of a feed of its own that has nothing to feed. -/
def swCounted (op : SwOp) (x : Trig) (c : Core) (w : Walker) : Core :=
  match op with
  | .skip => c
  | .feeda | .feedb => if w.unfed.begins then c.countUnfed w else (c.countUnfed w).sbDec x.sb
  | .bind | .rewind | .stop => c.countUnfed w

theorem Core.startFeed_eq (c : Core) (n : BitVec 2) (toB : Bool) (x : Trig) : startFeed n toB x c =
    if (c.walker n).unfed.begins then c.withWalker n { (c.walker n).unfed with
        feeding := true, fifoB := toB, feedLeft := x.t, feedSb := x.sb, feedOrder := x.order } (c.countUnfed (c.walker n)).sb
      else c.withWalker n (c.walker n).unfed ((c.countUnfed (c.walker n)).sbDec x.sb).sb := by
  unfold startFeed
  simp only [Core.endFeed_eq, Core.walker_withWalker, Core.withWalker_setWalker, Core.sbDec_withWalker]
  rfl

/-- An operation changes its walker and its counters alone. -/
theorem perform_sw (n : BitVec 2) (op : SwOp) (s : State) (x : Trig) : (trigSw n op).perform s x = s.onCore x.c (fun c =>
    c.withWalker n (swWalker op s x (c.walker n)) (swCounted op x c (c.walker n)).sb) := by
  cases op
  case bind =>
    show s.onCore x.c (fun c => (c.endFeed n).setWalker n (boundWalker s x)) = _
    simp only [Core.endFeed_eq, Core.withWalker_setWalker]
    rfl
  case rewind =>
    show s.onCore x.c (fun c => (c.endFeed n).setWalker n (((c.endFeed n).walker n).doRewind x.t)) = _
    simp only [Core.endFeed_eq, Core.withWalker_setWalker, Core.walker_withWalker]
    rfl
  case stop =>
    show s.onCore x.c (fun c => (c.endFeed n).setWalker n {}) = _
    simp only [Core.endFeed_eq, Core.withWalker_setWalker]
    rfl
  case skip => rfl
  case feeda | feedb =>
    refine congrArg (s.onCore x.c) (funext fun c => ?_)
    rw [Core.startFeed_eq]
    dsimp only [swWalker, swCounted]
    split <;> rfl

theorem Core.countUnfed_congr {a b : Core} (w : Walker) (h : b.sb = a.sb) : (b.countUnfed w).sb = (a.countUnfed w).sb := by
  unfold Core.countUnfed
  split
  · exact Core.sbDec_congr _ h
  · exact h

theorem swCounted_congr {a b : Core} (op : SwOp) (x : Trig) (w : Walker) (h : b.sb = a.sb) :
    (swCounted op x b w).sb = (swCounted op x a w).sb := by
  have hunfed := Core.countUnfed_congr w h
  cases op
  case skip => exact h
  case bind | rewind | stop => exact hunfed
  case feeda | feedb =>
    dsimp only [swCounted]
    split
    · exact hunfed
    · exact Core.sbDec_congr _ hunfed

theorem Core.walker_of_tick {a b : Core} (h : b.walkers = a.walkers.map Walker.tick) (j : BitVec 2) :
    b.walker j = (a.walker j).tick := by
  simp only [Core.walker, h, Vector.getElem_map]

/-- The core whose counters stand when a word has operated a walker, but for the word's own decrement (05 R187). -/
def State.swCounters (s : State) (n : BitVec 2) (op : SwOp) (m : Arg) : Core :=
  swCounted op (s.trigOf (.sw n op) m) (s.me.sbInc m.sb) (s.walkerMet m n)

/-- A word that operates a walker: only that walker and the counters differ from what the word's start and its cycle make of them
(05 R187). -/
theorem word_of_walker {s : State} {i : Instr} {n : BitVec 2} {op : SwOp} {m : Arg} (h : s.Runs i (.sw n op) m) :
    ∃ t, exec i s = .next t ∧ s.SameRest t ∧ s.me.SameRegs (t.core s.turn) ∧
      (t.core s.turn).stages = s.me.stages.map Stage.next ∧ (s.me.owe = none → (t.core s.turn).pc = s.me.pc.plus 4) ∧
      (t.core s.turn).walker n =
        (swWalker op (s.opened (.sw n op) m) (s.trigOf (.sw n op) m) (s.walkerMet m n)).tick ∧
      (∀ j, j ≠ n → (t.core s.turn).walker j = (s.walkerMet m j).tick) ∧
      (t.core s.turn).sb =
        if (trigSw n op).sbAtOnce then ((s.swCounters n op m).sbDec m.sb).sb else (s.swCounters n op m).sb := by
  obtain ⟨hopen, hop⟩ := s.opened_spec (.sw n op) m
  let a := (s.opened (.sw n op) m).core s.turn
  let x := s.trigOf (.sw n op) m
  let c := s.swCounters n op m
  let w := swWalker op (s.opened (.sw n op) m) x (s.walkerMet m n)
  have hcount : (swCounted op x a (s.walkerMet m n)).sb = c.sb := swCounted_congr op x _ hop.sb
  have hb : s.SameBut ((trigger (.sw n op)).perform (s.opened (.sw n op) m) x) s.turn (a.withWalker n w c.sb) := by
    have hdone := hopen.onCore (fun c => c.withWalker n (swWalker op (s.opened (.sw n op) m) x (c.walker n))
      (swCounted op x c (c.walker n)).sb)
    rw [State.walker_opened, hcount] at hdone
    exact (perform_sw n op _ x).symm ▸ hdone
  have hregs : s.me.SameRegs (a.withWalker n w c.sb) := hop.regs.trans (a.sameRegs_withWalker n w c.sb)
  obtain ⟨t, ht, hl⟩ := leaves_of_core h hb hregs.v (congrArg Mx.acc hregs.mx)
  have hstages : (t.core s.turn).stages = s.me.stages.map Stage.next := by
    rw [hl.stages, Core.stages_withWalker, hop.stages]
  refine ⟨t, ht, hl.rest, hregs.trans hl.registers, hstages, hl.pc, ?_, fun j hj => ?_, ?_⟩
  · rw [Core.walker_of_tick hl.walkers, Core.walker_withWalker]
  · rw [Core.walker_of_tick hl.walkers, Core.walker_withWalker_ne _ _ _ _ hj, State.walker_opened]
  · rw [hl.counters, Core.sbDec_withWalker]
    rfl

/-! ### Each operation (05 R190, R193, R194) -/

/-- A counter that a word raises and lowers again shows the end of a feed alone (05 R187). -/
theorem Core.sbInc_countUnfed_sbDec (c : Core) (w : Walker) (f : BitVec 4) (h : ∀ n, sbSel f = some n → c.rsb n ≠ 4095) :
    (((c.sbInc f).countUnfed w).sbDec f).sb = (c.countUnfed w).sb := by
  unfold Core.countUnfed
  split
  · exact c.sbInc_sbDec_sbDec f _ h
  · exact c.sbInc_sbDec f h _ rfl _ rfl

/-- A bind whose checks have passed goes through a capability whose descriptor stands (05 R190). -/
theorem State.selected_of_bindErr {s : State} {x : Trig} (h : bindErr s x = none) :
    ∃ cap d, x.at_.rk x.k = .cap cap ∧ s.descOf cap = some d ∧ s.selected x = some (cap, d) := by
  cases hsel : s.selected x with
  | none =>
    simp only [bindErr, hsel] at h
    split at h <;> contradiction
  | some p =>
    obtain ⟨cap, hcap, hmap⟩ := Option.bind_eq_some_iff.1 hsel
    obtain ⟨d, hd, rfl⟩ := Option.map_eq_some_iff.1 hmap
    exact ⟨cap, d, KReg.cap?_eq_some hcap, hd, rfl⟩

/-- The walker that a bind makes, from the descriptor's bytes as they stood before the word (05 R190). -/
theorem boundWalker_opened {s : State} {op : Op} {m : Arg} {cap : Cap} {d : Desc}
    (h : s.selected (s.trigOf op m) = some (cap, d)) :
    let desc : BitVec 512 := BitVec.ofNat 512 (s.localNat s.me (d.base.toNat + (s.moved m).toNat) 64)
    let own := (s.me.rk (desc.extractLsb' 40 5)).cap?
    boundWalker (s.opened op m) (s.trigOf op m) =
      { desc := desc, bound := true, descOff := s.moved m, part := (own.map (·.part)).getD 0,
        buf := (own.map (·.desc)).getD 0, checkIn := some 4, readyIn := 8 } := by
  have hseen (a k : Nat) : (s.opened op m).localNat ((s.opened op m).core (s.trigOf op m).c) a k = s.localNat s.me a k :=
    congrArg (fun rd : Nat → Byte => leNat ((List.range k).map (fun i => rd (a + i)))) (funext (s.localByte_opened op m))
  unfold boundWalker
  rw [lsAddr_opened h, hseen]
  rfl

/-- After `k` elements END is that of the last, and the walk stands at the next, or is exhausted at it (05 R192, R193). -/
theorem Walker.advance_eq (w : Walker) (k : Nat) :
    w.advance k = if w.pos + k = w.total then { w.atPos (w.pos + k - 1) with fin := (w.atPos (w.pos + k - 1)).endBits, exh := true }
      else { w.atPos (w.pos + k) with fin := (w.atPos (w.pos + k - 1)).endBits } := rfl

/-- A skip on a walker that is unbound or feeding takes nothing (05 R193). -/
theorem Walker.doSkip_idle {w : Walker} (t : Word) (h : w.bound = false ∨ w.feeding = true) : w.doSkip t = w := by
  unfold Walker.doSkip
  rw [if_pos (by rcases h with h | h <;> simp [h])]

/-- A skip on a walker that waits for its check is held (05 R193; log 30). -/
theorem Walker.doSkip_held {w : Walker} (t : Word) (hb : w.bound = true) (hf : w.feeding = false) (hc : w.checkIn ≠ none) :
    w.doSkip t = ({ w with held := w.held ++ [(false, t)] } : Walker).readyAfter 4 := by
  unfold Walker.doSkip
  rw [if_neg (by simp [hb, hf]), if_pos (Option.isSome_iff_ne_none.2 hc)]

/-- A skip on a checked walker passes elements (05 R193). -/
theorem Walker.doSkip_checked {w : Walker} (t : Word) (hb : w.bound = true) (hf : w.feeding = false) (hc : w.checkIn = none) :
    w.doSkip t = (w.skip t.toNat).readyAfter 4 := by
  unfold Walker.doSkip
  rw [if_neg (by simp [hb, hf]), if_neg (by simp [hc])]

/-- A skip that finds no element left passes none (05 R193). -/
theorem Walker.skip_none {w : Walker} {t : Nat} (h : min t w.left = 0) : w.skip t = w := if_pos h

/-- A skip of elements that are there ends after the last of them (05 R193). -/
theorem Walker.skip_some {w : Walker} {t : Nat} (h : min t w.left ≠ 0) : w.skip t = w.advance (min t w.left) := if_neg h

/-- A rewind of an unbound walker does nothing (05 R193). -/
theorem Walker.doRewind_unbound {w : Walker} (t : Word) (hb : w.bound = false) : w.doRewind t = w := if_pos (by simp [hb])

/-- A rewind of a bound walker, a bad one being checked anew (05 R190, R193; log 30). -/
theorem Walker.doRewind_bound {w : Walker} (t : Word) (hb : w.bound = true) :
    let x := if w.bad then { w with bad := false, badCause := 0, checkIn := some 4 } else w
    w.doRewind t =
      (if x.held = [] then x.rewind (t.toNat % 4) else { x with held := x.held ++ [(true, t)] }).readyAfter 4 := by
  intro x
  unfold Walker.doRewind
  rw [if_neg (by simp [hb]), fieldN_zero]
  simp only [List.isEmpty_iff]
  rfl

/-- A feed on a walker that has elements, and on one that has none (05 R194). -/
theorem swWalker_feed {op : SwOp} (s : State) (x : Trig) (w : Walker) (h : op = .feeda ∨ op = .feedb) : swWalker op s x w =
    if w.unfed.begins then
      { w.unfed with feeding := true, fifoB := op == .feedb, feedLeft := x.t, feedSb := x.sb, feedOrder := x.order }
    else w.unfed := by
  rcases h with rfl | rfl <;> rfl

theorem swCounted_feed {op : SwOp} (x : Trig) (c : Core) (w : Walker) (h : op = .feeda ∨ op = .feedb) :
    swCounted op x c w = if w.unfed.begins then c.countUnfed w else (c.countUnfed w).sbDec x.sb := by
  rcases h with rfl | rfl <;> rfl

theorem Walker.begins_iff (w : Walker) : w.begins = true ↔ w.bound = true ∧ w.exh = false := by
  simp [Walker.begins]

/-- The counter of a feed is decremented when it ends, that of another operation with its word (05 R187). -/
theorem sbAtOnce_sw (n : BitVec 2) (op : SwOp) : (trigSw n op).sbAtOnce = !(op == .feeda || op == .feedb) := by
  cases op <;> rfl

/-- Settles O25: each operation replaces its walker by what `swWalker` says, and ends the feed in progress but for a skip. -/
theorem walkerOperations : Obligations.WalkerOperations := by
  intro s i n op m h v read w ended later begins
  obtain ⟨t, ht, hrest, hregs, hstages, hpc, hwalker, hothers, hsb⟩ := word_of_walker h
  rw [sbAtOnce_sw] at hsb
  have hroom := h.carries.room
  refine ⟨t, _, ht, hrest, hregs, hstages, hpc, hwalker, hothers, fun hop => ?ended, fun hop => ?bind, fun hop => ?stop,
    fun hop => ?rewind, fun hop => ?skip, fun hop => ?feed⟩
  case ended =>
    refine Eq.trans ?_ (s.me.sbInc_countUnfed_sbDec (read n) m.sb hroom)
    rcases hop with rfl | rfl | rfl <;> exact hsb
  case bind =>
    subst hop
    obtain ⟨cap, d, hcap, hd, hsel⟩ := State.selected_of_bindErr h.carries.checks
    exact ⟨cap, d, _, hcap, hd, rfl, boundWalker_opened hsel⟩
  case stop =>
    subst hop
    rfl
  case rewind =>
    subst hop
    exact ⟨fun hb => Walker.doRewind_unbound v hb, fun hb => Walker.doRewind_bound v hb⟩
  case skip =>
    subst hop
    refine ⟨hsb.trans (s.me.sbInc_sbDec m.sb hroom _ rfl _ rfl), fun hidle => Walker.doSkip_idle v hidle,
      fun hb hf => ⟨Walker.doSkip_held v hb hf, fun hc hk => ?_, fun hc hk hlast => ?_, fun hc hk hmore => ?_⟩⟩
    · exact (Walker.doSkip_checked v hb hf hc).trans (congrArg later (Walker.skip_none hk))
    · exact (Walker.doSkip_checked v hb hf hc).trans (congrArg later ((Walker.skip_some hk).trans (if_pos hlast)))
    · exact (Walker.doSkip_checked v hb hf hc).trans (congrArg later ((Walker.skip_some hk).trans (if_neg hmore)))
  case feed =>
    have hnotyet : (!(op == .feeda || op == .feedb)) = false := by rcases hop with rfl | rfl <;> rfl
    rw [hnotyet, if_neg (by decide), State.swCounters, swCounted_feed _ _ _ hop] at hsb
    rw [swWalker_feed _ _ _ hop]
    refine ⟨fun hb => ?_, fun hb => ?_⟩
    · have hyes : (s.walkerMet m n).unfed.begins = true := (Walker.begins_iff _).2 hb
      rw [if_pos hyes] at hsb ⊢
      exact ⟨hsb, rfl⟩
    · have hno : ¬ (s.walkerMet m n).unfed.begins = true := fun hc => hb ((Walker.begins_iff _).1 hc)
      rw [if_neg hno] at hsb ⊢
      exact ⟨rfl, hsb⟩

end Sys2Proof.Machine
end

section
/-! Walkers and the matrix engine at work: the check of a walker's contents, feeds, commands and groups (05 R190 to R195; 07 R238 to
R247). -/

namespace Sys2Proof.Machine

/-! ### Steps of one core -/

theorem State.onlyCore_onCore (s : State) (n : Nat) (g : Core → Core) : s.OnlyCore (s.onCore n g) n :=
  ⟨rfl, fun _ hx => s.core_onCore_ne g hx⟩

/-- The end of a feed leaves the walker as it was but for the feed (05 R194). -/
theorem Walker.unfed_rest (w : Walker) :
    w.unfed.feeding = false ∧ w.unfed.checkIn = w.checkIn ∧ w.unfed.exh = w.exh ∧ w.unfed.bad = w.bad ∧
      w.unfed.badCause = w.badCause := by
  unfold Walker.unfed
  cases hf : w.feeding
  · exact ⟨hf, rfl, rfl, rfl, rfl⟩
  · exact ⟨rfl, rfl, rfl, rfl, rfl⟩

/-- A feed that ends on a walker just replaced. -/
theorem Core.endFeed_setWalker (c : Core) (n : BitVec 2) (w : Walker) :
    ∃ sb, (c.setWalker n w).endFeed n = c.withWalker n w.unfed sb := by
  have hset : c.setWalker n w = c.withWalker n w c.sb := rfl
  refine ⟨((c.setWalker n w).countUnfed w).sb, ?_⟩
  rw [Core.endFeed_eq, Core.walker_setWalker]
  exact congrArg (fun d : Core => { d with sb := ((c.setWalker n w).countUnfed w).sb })
    ((congrArg (·.setWalker n w.unfed) hset).trans (Core.withWalker_setWalker c n w w.unfed c.sb))

/-! ### The check of a walker's contents (05 R190) -/

theorem Walker.checkIn_skip (w : Walker) (t : Nat) : (w.skip t).checkIn = w.checkIn := by
  unfold Walker.skip
  dsimp only
  split
  · rfl
  · rw [Walker.advance_eq]
    split <;> rfl

/-- The operations that were held change no time of a check (05 R193). -/
theorem Walker.checkIn_applyHeld (w : Walker) : w.applyHeld.checkIn = w.checkIn := by
  unfold Walker.applyHeld
  refine List.foldlRecOn (motive := fun v : Walker => v.checkIn = w.checkIn) _ _ rfl fun v hv h _ => ?_
  split
  · exact hv
  · exact (v.checkIn_skip _).trans hv

/-- The check that passes changes the walker, which waits for no check any more, and a feed that a held skip has ended. -/
theorem Core.walkerChecked_none (c : Core) (n : BitVec 2) : ∃ w sb, w.checkIn = none ∧ c.walkerChecked n none = c.withWalker n w sb := by
  let w := ({ c.walker n with checkIn := none } : Walker).applyHeld
  have hw : w.checkIn = none := Walker.checkIn_applyHeld _
  unfold Core.walkerChecked
  dsimp only
  split
  · obtain ⟨sb, hsb⟩ := c.endFeed_setWalker n w
    exact ⟨w.unfed, sb, w.unfed_rest.2.1.trans hw, hsb⟩
  · exact ⟨w, c.sb, hw, rfl⟩

/-- Where nothing was held and the walk is not over, the check that passes is all that happens. -/
theorem Core.walkerChecked_plain {c : Core} {n : BitVec 2} (hh : (c.walker n).held = []) (he : (c.walker n).exh = false) :
    c.walkerChecked n none = c.setWalker n { c.walker n with checkIn := none } := by
  have hheld : ({ c.walker n with checkIn := none } : Walker).applyHeld = { c.walker n with checkIn := none } := by
    unfold Walker.applyHeld
    dsimp only
    rw [hh, List.foldl_nil, ← hh]
  unfold Core.walkerChecked
  dsimp only
  rw [hheld, if_neg (by simp [he])]

/-- A feed or a skip waits for the check. -/
def Walker.awaited (w : Walker) : Bool := w.feeding || w.held.any (fun h => !h.1)

/-- The walker that a check has found bad. -/
def Walker.failed (w : Walker) (cause : BitVec 8) : Walker :=
  ({ w with checkIn := none, bad := true, badCause := cause, held := [] } : Walker).unfed

/-- The check that fails makes the walker bad, ends a feed, and stops the core when it was awaited. -/
theorem Core.walkerChecked_some (c : Core) (n : BitVec 2) (cause : BitVec 8) : ∃ sb,
    c.walkerChecked n (some cause) = { c.withWalker n ((c.walker n).failed cause) sb with
      stops := c.stops ++ if (c.walker n).awaited then [boundaryStop cause (c.walker n).descOff (kNum (c.walker n).dk)] else [] } := by
  obtain ⟨sb, hsb⟩ := c.endFeed_setWalker n { c.walker n with checkIn := none, bad := true, badCause := cause, held := [] }
  refine ⟨sb, ?_⟩
  unfold Core.walkerChecked
  dsimp only
  rw [hsb]
  unfold Walker.awaited Walker.failed
  split
  · rfl
  · rw [List.append_nil]
    rfl

theorem Walker.awaited_iff (w : Walker) : w.awaited = true ↔ w.feeding = true ∨ ∃ h ∈ w.held, h.1 = false := by
  simp [Walker.awaited]

/-! ### Feeds (05 R194, R195) -/

/-- One element more has been fed: the walk is over at its last element, and a feed that goes on and has a count has one fewer to
move (05 R194). -/
theorem Core.fedOne_spec (c : Core) (n : BitVec 2) : ∃ w sb, c.fedOne n = c.withWalker n w sb ∧
    w.exh = ((c.walker n).exh || decide ((c.walker n).pos + 1 = (c.walker n).total)) ∧
    (w.feeding = true → (c.walker n).feedLeft ≠ 0 → w.feedLeft = (c.walker n).feedLeft - 1) := by
  let v := (c.walker n).advance 1
  have hexh : v.exh = ((c.walker n).exh || decide ((c.walker n).pos + 1 = (c.walker n).total)) := by
    dsimp only [v]
    rw [Walker.advance_eq]
    split
    next h => rw [decide_eq_true h, Bool.or_true]
    next h => rw [decide_eq_false h, Bool.or_false]; rfl
  have hleft : v.feedLeft = (c.walker n).feedLeft := by
    dsimp only [v]
    rw [Walker.advance_eq]
    split <;> rfl
  unfold Core.fedOne
  dsimp only
  split
  · obtain ⟨sb, hsb⟩ := c.endFeed_setWalker n { v with feedLeft := v.feedLeft - 1 }
    obtain ⟨hfeeding, -, hover, -⟩ := Walker.unfed_rest { v with feedLeft := v.feedLeft - 1 }
    exact ⟨_, sb, hsb, hover.trans hexh, fun hf => nomatch hfeeding.symm.trans hf⟩
  · split
    next h0 =>
      refine ⟨v, c.sb, ?_, hexh, fun _ hne => absurd (hleft.symm.trans h0) hne⟩
      exact congrArg (fun d : Core => { d with sb := c.sb })
        (Core.withWalker_setWalker c n { v with feedLeft := v.feedLeft - 1 } v c.sb)
    next => exact ⟨{ v with feedLeft := v.feedLeft - 1 }, c.sb, rfl, hexh, fun _ _ => congrArg (· - 1) hleft⟩

/-- A feed sees memory as it is where no store waits (05 R195). -/
theorem State.feedByte_of_nil {s : State} {c : Core} (h : c.pendingStores = []) (order a : Nat) : s.feedByte c order a = s.byteAt a := by
  rw [State.feedByte, h]
  rfl

theorem exec_feedElement_clean {s : State} (h : s.focus.ecc = .clean) :
    exec .feedElement s = .next (s.feedElement s.focus.core (BitVec.ofNat 2 s.focus.n)) := by
  have hpad : s.padError s.focus.core s.focus.ecc s.focus.addr = s := by
    rw [h]
    rfl
  show Host.Outcome.next ((s.padError s.focus.core s.focus.ecc s.focus.addr).feedElement s.focus.core (BitVec.ofNat 2 s.focus.n)) = _
  rw [hpad]

section
variable {s : State} {cn : Nat} {n : BitVec 2} (hready : (s.core cn).feedReady n = true)
include hready

/-- A feed whose element lies below XB stops the core (04 R143, R146). -/
theorem State.feedElement_below (h : s.walkerAddr ((s.core cn).walker n) - slotBase cn < (s.core cn).xb.toNat) :
    s.feedElement cn n = s.onCore cn (fun c => { c with stops := c.stops ++ [boundaryStop 0x06
      (BitVec.ofInt 64 ((s.core cn).walker n).elemOff) (kNum ((s.core cn).walker n).dk)] }) := by
  unfold State.feedElement
  dsimp only
  rw [if_pos hready, if_pos h]

/-- A feed whose element lies in a poisoned granule stops the core (05 R195). -/
theorem State.feedElement_poisoned {g : Nat} (h : (s.core cn).xb.toNat ≤ s.walkerAddr ((s.core cn).walker n) - slotBase cn)
    (hg : s.poisoned? (s.walkerAddr ((s.core cn).walker n)) ((s.core cn).walker n).width = some g) :
    s.feedElement cn n = s.onCore cn (fun c => { c with stops := c.stops ++ [boundaryStop 0x22
      (BitVec.ofNat 64 (32 * g)) (((s.core cn).walker n).buf.setWidth 64)] }) := by
  unfold State.feedElement
  dsimp only
  rw [if_pos hready, if_neg (Nat.not_lt.2 h), hg]

/-- Another feed moves its element, as memory is where no store waits (05 R194, R195). -/
theorem State.feedElement_moves (h : (s.core cn).xb.toNat ≤ s.walkerAddr ((s.core cn).walker n) - slotBase cn)
    (hclean : s.poisoned? (s.walkerAddr ((s.core cn).walker n)) ((s.core cn).walker n).width = none)
    (hstores : (s.core cn).pendingStores = []) : ∃ banks,
    s.feedElement cn n = s.onCore cn (fun c => Core.fedOne { c.useBanks banks with
      mx := (s.core cn).mx.push ((s.core cn).walker n).fifoB ((List.range ((s.core cn).walker n).width).map
        (fun i => s.byteAt (s.walkerAddr ((s.core cn).walker n) + i))) } n) := by
  unfold State.feedElement
  dsimp only
  rw [if_pos hready, if_neg (Nat.not_lt.2 h), hclean]
  simp only [State.feedByte_of_nil hstores]
  exact ⟨_, rfl⟩

end

/-- The bytes enter the FIFO of the feed, behind the others (05 R194). -/
theorem Mx.fifos_push (m : Mx) (toB : Bool) (bs : List Byte) :
    if toB then (m.push toB bs).fifoB = m.fifoB ++ bs ∧ (m.push toB bs).fifoA = m.fifoA
      else (m.push toB bs).fifoA = m.fifoA ++ bs ∧ (m.push toB bs).fifoB = m.fifoB := by
  cases toB <;> exact ⟨rfl, rfl⟩

/-! ### The engine of a core (07 R229, R235) -/

theorem Mx.tile_setTile (m : Mx) (n j : BitVec 2) (v : BitVec 131072) : (m.setTile n v).tile j = if n = j then v else m.tile j := by
  simp only [Mx.tile, Mx.setTile, Vector.getElem_set, BitVec.toNat_inj]

theorem State.core_onMx (s : State) (cn : Nat) (g : Mx → Mx) :
    (s.onMx cn g).core cn = { s.core cn with mx := g (s.core cn).mx } := State.core_onCore ..

theorem State.core_onMx_ne (s : State) {cn a : Nat} (g : Mx → Mx) (h : a ≠ cn) : (s.onMx cn g).core a = s.core a :=
  s.core_onCore_ne _ h

/-- A change of the engine leaves the other registers of its core (07 R229). -/
theorem Core.sameRegs_mx (c : Core) (m : Mx) : c.SameRegs { ({ c with mx := m } : Core) with mx := c.mx } := .of_eq rfl

theorem State.agent_of_mem_mxQueue {s : State} {cn : Nat} {f : Flight} (h : f ∈ s.mxQueue cn) : f.agent = cn := by
  have hall := (List.mem_filter.1 h).2
  simp only [Bool.and_eq_true, beq_iff_eq] at hall
  obtain ⟨⟨⟨hagent, -⟩, -⟩, -⟩ := hall
  exact hagent

/-- The command that comes next is one of the core's queue (07 R235). -/
theorem State.agent_of_mxNext {s : State} {cn : Nat} {x y : List Flight} {f : Flight} (h : s.mxNext cn = some (x, f, y)) :
    f.agent = cn := by
  unfold State.mxNext at h
  dsimp only at h
  split at h
  next g after hdrop =>
    split at h
    next =>
      have hmem : g ∈ s.mxQueue cn := List.mem_of_mem_drop (hdrop ▸ List.mem_cons_self)
      obtain ⟨-, hf⟩ := Prod.mk.inj (Option.some.inj h)
      obtain ⟨rfl, -⟩ := Prod.mk.inj hf
      exact State.agent_of_mem_mxQueue hmem
    next => exact nomatch h
  next => exact nomatch h

/-- The command that applies groups is an mma or an mmaz of the core's queue (07 R239). -/
theorem State.of_mxActive {s : State} {cn : Nat} {f : Flight} (h : s.mxActive cn = some f) :
    f.agent = cn ∧ (f.op = .mx .mma ∨ f.op = .mx .mmaz) := by
  have hop := List.find?_some h
  simp only [Bool.and_eq_true, Bool.or_eq_true, beq_iff_eq] at hop
  exact ⟨State.agent_of_mem_mxQueue (List.mem_of_find?_eq_some h), hop.2⟩

/-! ### Commands (07 R238 to R246) -/

/-- What carrying out a command makes of the engine at once (07 R238 to R246). -/
def Mx.command (o : MxOp) (f : Flight) (cyc : Nat) (m : Mx) : Mx :=
  match o with
  | .cfg => { m with ecfg := f.t.setWidth 41 }
  | .zero => m.setTile (mxAcc f.t) 0
  | .ffl => { m with
      fifoA := if (mxAcc f.t).getLsbD 0 then [] else m.fifoA
      fifoB := if (mxAcc f.t).getLsbD 1 then [] else m.fifoB }
  | .wracc => m.setTile (mxAcc f.t) (setTileRows (m.tile (mxAcc f.t)) (mxRow f.t) (imageOf 4096 f.data))
  | .mma | .mmaz => m.startMma f cyc
  | .rdacc | .stat | .ldscale => m

/-- A command other than ldscale changes the engine of its core, and otherwise operations in flight alone. -/
theorem State.mxEffect_eq {s : State} {cn : Nat} {f : Flight} {o : MxOp} (q : Nat) (hop : f.op = .mx o) (ho : o ≠ .ldscale) :
    (∀ a, a ≠ cn → (s.mxEffect cn f q).core a = s.core a) ∧
      (s.mxEffect cn f q).core cn = { s.core cn with mx := (s.core cn).mx.command o f (s.core cn).cyc } := by
  have hshape : (∃ fs, s.mxEffect cn f q = { s.onMx cn (Mx.command o f (s.core cn).cyc) with flights := fs }) ∨
      (∃ fs, s.mxEffect cn f q = { s with flights := fs }) ∧ ∀ m, Mx.command o f (s.core cn).cyc m = m := by
    unfold State.mxEffect
    rw [hop]
    cases o
    case ldscale => exact absurd rfl ho
    case rdacc | stat => exact .inr ⟨⟨_, rfl⟩, fun _ => rfl⟩
    all_goals exact .inl ⟨_, rfl⟩
  rcases hshape with ⟨fs, heq⟩ | ⟨⟨fs, heq⟩, hid⟩
  · rw [heq]
    exact ⟨fun _ ha => s.core_onMx_ne _ ha, s.core_onMx _ _⟩
  · rw [heq, hid]
    exact ⟨fun _ _ => rfl, rfl⟩

/-- The engine when a command is taken: the next one starts a cycle later at the earliest (07 R247). -/
def Core.mxTaken (c : Core) : Mx := { c.mx with startAt := c.cyc + 1 }

/-- The machine when a command is taken. -/
def State.mxTake (s : State) (cn : Nat) : State := s.onMx cn (fun m => { m with startAt := (s.core cn).cyc + 1 })

theorem State.mxCarryOut_eq {s : State} {cn : Nat} {x y : List Flight} {f : Flight} (h : s.mxNext cn = some (x, f, y)) :
    s.mxCarryOut cn = (s.mxTake cn).mxEffect cn f y.length := by
  unfold State.mxCarryOut
  rw [h]
  rfl

theorem State.core_mxTake (s : State) (cn : Nat) : (s.mxTake cn).core cn = { s.core cn with mx := (s.core cn).mxTaken } :=
  s.core_onMx cn _

/-- What carrying out a command other than ldscale leaves of the cores. -/
theorem State.core_mxCarryOut {s : State} {cn : Nat} {x y : List Flight} {f : Flight} {o : MxOp}
    (h : s.mxNext cn = some (x, f, y)) (hop : f.op = .mx o) (ho : o ≠ .ldscale) :
    (∀ a, a ≠ cn → (s.mxCarryOut cn).core a = s.core a) ∧
      (s.mxCarryOut cn).core cn = { s.core cn with mx := (s.core cn).mxTaken.command o f (s.core cn).cyc } := by
  obtain ⟨hothers, hcore⟩ := State.mxEffect_eq (s := s.mxTake cn) (cn := cn) y.length hop ho
  rw [State.mxCarryOut_eq h]
  refine ⟨fun a ha => (hothers a ha).trans (s.core_onMx_ne _ ha), ?_⟩
  rw [hcore, State.core_mxTake]

/-- A command whose effect has been made waits to complete, so many cycles from now (07 R247). -/
theorem State.flight?_mxReady {s : State} {f : Flight} {n : Nat} {g : Flight → Flight} (h : s.flight? f.agent f.seq = some f)
    (hg : ∀ x, (g x).agent = x.agent ∧ (g x).seq = x.seq) : (s.mxReady f n g).flight? f.agent f.seq =
      some (g { f with phase := .ready, earliest := (s.core f.agent).cyc + n }) :=
  State.flight?_onFlight h fun x => hg { x with phase := .ready, earliest := (s.core f.agent).cyc + n }

/-- stat delivers the engine's status as it is, two cycles later (07 R246, R247; log 123). -/
theorem State.flight?_stat {s : State} {cn : Nat} {x y : List Flight} {f : Flight} (h : s.mxNext cn = some (x, f, y))
    (hop : f.op = .mx .stat) (hf : s.flight? cn f.seq = some f) : (s.mxCarryOut cn).flight? cn f.seq =
      some { f with phase := .ready, earliest := (s.core cn).cyc + 2, result := some (mxStatus (s.core cn).mxTaken y.length) } := by
  obtain rfl := State.agent_of_mxNext h
  have heffect : (s.mxTake f.agent).mxEffect f.agent f y.length = (s.mxTake f.agent).mxReady f 2
      (fun f' => { f' with result := some (mxStatus ((s.mxTake f.agent).core f.agent).mx y.length) }) := by
    unfold State.mxEffect
    rw [hop]
  have hready := State.flight?_mxReady (s := s.mxTake f.agent) (n := 2)
    (g := fun f' => { f' with result := some (mxStatus ((s.mxTake f.agent).core f.agent).mx y.length) }) hf fun _ => ⟨rfl, rfl⟩
  rw [State.mxCarryOut_eq h, heffect, hready, State.core_mxTake]

/-- rdacc delivers two rows of its tile, converted, eight cycles later (07 R243, R247). -/
theorem State.flight?_rdacc {s : State} {cn : Nat} {x y : List Flight} {f : Flight} (h : s.mxNext cn = some (x, f, y))
    (hop : f.op = .mx .rdacc) (hf : s.flight? cn f.seq = some f) :
    let v := rdaccValue (cfgInt (s.core cn).mx.ecfg) f.t f.rm (tileRows ((s.core cn).mx.tile (mxAcc f.t)) (mxRow f.t))
    (s.mxCarryOut cn).flight? cn f.seq =
      some { f with phase := .ready, earliest := (s.core cn).cyc + 8, data := imageBytes v.1, result := v.2 } := by
  intro v
  obtain rfl := State.agent_of_mxNext h
  have heffect : (s.mxTake f.agent).mxEffect f.agent f y.length = (s.mxTake f.agent).mxReady f 8
      (fun f' => { f' with data := imageBytes v.1, result := v.2 }) := by
    unfold State.mxEffect
    rw [hop]
    dsimp only
    rw [State.core_mxTake]
    rfl
  have hready := State.flight?_mxReady (s := s.mxTake f.agent) (n := 8)
    (g := fun f' => { f' with data := imageBytes v.1, result := v.2 }) hf fun _ => ⟨rfl, rfl⟩
  rw [State.mxCarryOut_eq h, heffect, hready, State.core_mxTake]

/-- An mmaz that is not the interrupted one zeroes its tile before it begins (07 R239, R252). -/
theorem Mx.tile_startMma {m : Mx} {f : Flight} {cyc : Nat} (hop : f.op = .mx .mmaz) (h : ¬ (m.hvalid = true ∧ m.hseq = f.seq)) :
    (m.startMma f cyc).tile (mxAcc f.t) = 0 := by
  unfold Mx.startMma
  rw [if_neg (by simpa using h)]
  dsimp only
  rw [if_pos hop, Mx.tile_setTile, if_pos rfl]

/-! ### Groups (07 R239) -/

/-- A group changes the engine of its core, and its command in flight once it was the last. -/
theorem State.mxGroupStep_spec {s : State} {cn : Nat} {f : Flight} (h : s.mxActive cn = some f)
    (hready : (s.core cn).mxGroupReady = true) :
    (∀ a, a ≠ cn → (s.mxGroupStep cn).core a = s.core a) ∧
      (s.mxGroupStep cn).core cn = { s.core cn with
        mx := (s.core cn).mx.applyGroup (mxAcc f.t) (s.core cn).mx.groupLen (s.core cn).cyc } ∧
      ((s.core cn).mx.kdone.toNat + (s.core cn).mx.groupLen < cfgK (s.core cn).mx.ecfg → (s.mxGroupStep cn).flights = s.flights) := by
  let g (m : Mx) : Mx := m.applyGroup (mxAcc f.t) (s.core cn).mx.groupLen (s.core cn).cyc
  have hstep : ∃ fs, s.mxGroupStep cn = { s.onMx cn g with flights := fs } ∧
      ((s.core cn).mx.kdone.toNat + (s.core cn).mx.groupLen < cfgK (s.core cn).mx.ecfg → fs = s.flights) := by
    unfold State.mxGroupStep
    rw [h]
    dsimp only
    rw [if_pos hready]
    split
    next hlast => exact ⟨_, rfl, fun hlt => absurd (of_decide_eq_true hlast) (Nat.not_le.2 hlt)⟩
    next => exact ⟨_, rfl, fun _ => rfl⟩
  obtain ⟨fs, heq, hfs⟩ := hstep
  rw [heq]
  exact ⟨fun _ ha => s.core_onMx_ne g ha, s.core_onMx cn g, hfs⟩

/-- The k-vectors of a group leave the FIFOs, and its tile alone changes (07 R239). -/
theorem Mx.applyGroup_spec (m : Mx) (acc : BitVec 2) (g cyc : Nat) :
    (m.applyGroup acc g cyc).fifoA = m.fifoA.drop (g * (8 * (cfgA m.ecfg).size)) ∧
      (m.applyGroup acc g cyc).fifoB = m.fifoB.drop (g * (8 * (cfgB m.ecfg).size)) ∧
      (m.applyGroup acc g cyc).kdone = m.kdone + BitVec.ofNat 17 g ∧
      ∀ j, j ≠ acc → (m.applyGroup acc g cyc).tile j = m.tile j :=
  ⟨rfl, rfl, rfl, fun _ hj => (m.tile_setTile acc _ _).trans (if_neg hj.symm)⟩

/-! ### The stall of a group that does not come (07 R240) -/

/-- Between two states operations in flight, and what every core does next, are the same. -/
def State.KeepsStops (s t : State) : Prop :=
  t.flights = s.flights ∧ ∀ n, (t.core n).mode = (s.core n).mode ∧ (t.core n).stops = (s.core n).stops

theorem State.KeepsStops.refl (s : State) : s.KeepsStops s := ⟨rfl, fun _ => ⟨rfl, rfl⟩⟩

theorem State.KeepsStops.trans {s t u : State} (h : s.KeepsStops t) (k : t.KeepsStops u) : s.KeepsStops u :=
  ⟨k.1.trans h.1, fun n => ⟨(k.2 n).1.trans (h.2 n).1, (k.2 n).2.trans (h.2 n).2⟩⟩

theorem State.keepsStops_onCore (s : State) (n : Nat) {g : Core → Core}
    (hg : (g (s.core n)).mode = (s.core n).mode ∧ (g (s.core n)).stops = (s.core n).stops) : s.KeepsStops (s.onCore n g) := by
  refine ⟨rfl, fun k => ?_⟩
  by_cases hk : k = n
  · rw [hk, State.core_onCore]
    exact hg
  · rw [State.core_onCore_ne _ _ hk]
    exact ⟨rfl, rfl⟩

theorem State.keepsStops_setAgentK (s : State) (a : Nat) (k : BitVec 5) (v : KReg) : s.KeepsStops (s.setAgentK a k v) := by
  have hset : s.KeepsStops (s.onCore a (·.setK k v)) := s.keepsStops_onCore a ⟨rfl, rfl⟩
  unfold State.setAgentK State.sweepWatch
  split
  · split
    · exact hset
    · exact hset.trans (State.keepsStops_onCore _ a ⟨rfl, rfl⟩)
  · exact ⟨rfl, fun _ => ⟨rfl, rfl⟩⟩

theorem State.keepsStops_setFlightK (s : State) (f : Flight) (k : BitVec 5) (v : KReg) : s.KeepsStops (s.setFlightK f k v) := by
  unfold State.setFlightK
  split
  · exact s.keepsStops_setAgentK _ k v
  · exact ⟨rfl, fun _ => ⟨rfl, rfl⟩⟩

theorem State.keepsStops_setOwner (s : State) (c : Cap) (o : BitVec 32) : s.KeepsStops (s.setOwner c o) := by
  unfold State.setOwner State.onDesc
  split
  · split
    · exact ⟨rfl, fun _ => ⟨rfl, rfl⟩⟩
    · exact .refl s
  · exact .refl s

/-- The capabilities that an operation gives as it ends stop no core (08 R256). -/
theorem State.keepsStops_giveResults (s : State) (f : Flight) : s.KeepsStops (s.giveResults f) := by
  refine List.foldlRecOn (motive := fun t => s.KeepsStops t) f.kres _ (.refl s) fun t ht e _ => ?_
  dsimp only
  split
  · exact (ht.trans (t.keepsStops_setFlightK f _ _)).trans (State.keepsStops_setOwner _ _ _)
  · exact ht.trans (t.keepsStops_setFlightK f _ _)

/-- A command of the engine that ends with a late fault gives what it holds, and leaves the ring, the counter and the fault
(02 R92, R94, R95). -/
theorem State.finish_mx_fault {s : State} {f : Flight} {o : MxOp} {e : LateFault} (hop : f.op = .mx o)
    (hc : isCompute f.agent = true) (hn : f.counted = true) (hfr : f.frame = none) (hr : f.retry = false) (hf : f.fault = some e) :
    s.finish f = (((s.dropFlight f.agent f.seq).giveResults f).onCore f.agent (·.finished f)).lateFault f e := by
  unfold State.finish State.uncount
  simp only [hop, hc, hn, hr, hf, hfr, if_true, Bool.not_true, Bool.or_self, Bool.false_eq_true, if_false]
  rw [State.onCore_onCore]
  exact congrArg (fun t : State => t.lateFault f e) (State.onCore_congr (Core.finished_of_fault hf))

/-- A late fault of a command stops a core that issues and has no stop due (04 R159). -/
theorem State.lateFault_mx {s : State} {f : Flight} {o : MxOp} (e : LateFault) (hop : f.op = .mx o) (hc : isCompute f.agent = true)
    (hn : f.counted = true) (hmode : (s.core f.agent).mode = .run) (hstops : (s.core f.agent).stops = []) :
    s.lateFault f e = s.onCore f.agent (fun c => { c with stops := c.stops ++ [f.lateStop e] }) := by
  have hspares : f.sparesHolder e = false := by simp [Flight.sparesHolder, hop]
  have hstoppable : (s.core f.agent).stoppable = true := by
    rw [Core.stoppable, hmode, hstops]
    rfl
  unfold State.lateFault
  rw [hspares, hc, hn, hstoppable, if_pos (by decide)]

/-- A command that has waited too long for a group ends with late fault 0x26, which stops its core (07 R240). -/
theorem State.mxStallStep_spec {s : State} {cn : Nat} {f : Flight} (hstall : s.mxStalled cn = true) (hact : s.mxActive cn = some f)
    (hf : s.flight? cn f.seq = some f) (hn : f.counted = true) (hfr : f.frame = none) (hr : f.retry = false)
    (hc : isCompute cn = true) (hmode : (s.core cn).mode = .run) (hstops : (s.core cn).stops = []) :
    ((s.mxStallStep cn).core cn).stops =
        [f.lateStop ⟨0x26, (s.core cn).mx.kdone.setWidth 64, (s.core cn).mx.lacks⟩] ∧
      (s.mxStallStep cn).flights = s.flights.filter (fun g => !(g.agent == cn && g.seq == f.seq)) := by
  obtain ⟨rfl, hop⟩ := State.of_mxActive hact
  obtain ⟨o, hop⟩ : ∃ o, f.op = .mx o := hop.elim (fun h => ⟨_, h⟩) (fun h => ⟨_, h⟩)
  let e : LateFault := ⟨0x26, (s.core f.agent).mx.kdone.setWidth 64, (s.core f.agent).mx.lacks⟩
  let g : Flight := { f with fault := some e }
  let u := ((s.dropFlight f.agent f.seq).giveResults g).onCore f.agent (·.finished g)
  obtain ⟨hflights, hcores⟩ := (s.dropFlight f.agent f.seq).keepsStops_giveResults g
  obtain ⟨humode, hustops⟩ := hcores f.agent
  have hcore : u.core f.agent = (((s.dropFlight f.agent f.seq).giveResults g).core f.agent).finished g := State.core_onCore ..
  have hend : s.mxStallStep f.agent = u.onCore f.agent (fun c => { c with stops := c.stops ++ [g.lateStop e] }) := by
    unfold State.mxStallStep State.fail
    rw [hact]
    dsimp only
    rw [if_pos hstall, hf]
    dsimp only
    rw [State.finish_mx_fault (f := g) hop hc hn hfr hr rfl]
    exact State.lateFault_mx e (f := g) hop hc hn (by rw [hcore]; exact humode.trans hmode) (by rw [hcore]; exact hustops.trans hstops)
  rw [hend, State.core_onCore, hcore]
  exact ⟨congrArg (· ++ [f.lateStop e]) (hustops.trans hstops), hflights⟩

/-- Settles O44: each step changes its core as its own law says. -/
theorem walkersAndMatrixEngineWork : Obligations.WalkersAndMatrixEngineWork := by
  intro s c k n w
  refine ⟨fun hcheck => ?contents, fun hstalls hmode => ?ready, fun hready hecc => ?feed, fun x f y o hnext hop => ?command,
    fun f hact hready => ?group, fun f hstall hact hf hn hfr hr hc hmode hstops => ?stall⟩
  case contents =>
    have hstep : s.walkerCheck c n = s.onCore c (fun d => d.walkerChecked n (s.walkerContents c w)) := if_pos hcheck
    refine ⟨_, congrArg Host.Outcome.next hstep, s.onlyCore_onCore c _, ?_⟩
    rw [State.core_onCore]
    cases herr : s.walkerContents c w with
    | none =>
      obtain ⟨v, sb, hv, hpass⟩ := k.walkerChecked_none n
      have hplain (hh : w.held = []) (he : w.exh = false) := Core.walkerChecked_plain (c := k) (n := n) hh he
      refine ⟨?_, fun j hj => ?_, fun _ hh he => ⟨?_, ?_⟩, fun e he => nomatch he⟩
      · rw [hpass, Core.walker_withWalker]
        exact hv
      · rw [hpass, Core.walker_withWalker_ne _ _ _ _ hj]
      · rw [hplain hh he, Core.walker_setWalker]
      · rw [hplain hh he]
        rfl
    | some e =>
      obtain ⟨sb, hfail⟩ := k.walkerChecked_some n e
      obtain ⟨hfeeding, hcheckIn, -, hbad, hcause⟩ := Walker.unfed_rest
        { w with checkIn := none, bad := true, badCause := e, held := [] }
      have hwalker : (k.walkerChecked n (some e)).walker n = w.failed e := by
        rw [hfail]
        exact k.walker_withWalker n (w.failed e) sb
      have hstops : (k.walkerChecked n (some e)).stops =
          k.stops ++ if w.awaited then [boundaryStop e w.descOff (kNum w.dk)] else [] := by rw [hfail]
      rw [hwalker, hstops]
      refine ⟨hcheckIn, fun j hj => ?_, fun hc => (nomatch hc), fun e' he' => ?_⟩
      · rw [hfail]
        exact k.walker_withWalker_ne n (w.failed e) sb hj
      obtain rfl := Option.some.inj he'
      refine ⟨hbad, hcause, hfeeding, fun hf hh => ?_, fun hwait => ?_⟩
      · have hno : ¬ w.awaited = true := by
          rw [Walker.awaited_iff]
          rintro (hc | ⟨h, hmem, hskip⟩)
          · exact nomatch hf.symm.trans hc
          · exact nomatch (hh h hmem).symm.trans hskip
        rw [if_neg hno, List.append_nil]
      · rw [if_pos ((Walker.awaited_iff w).2 hwait)]
        exact ⟨_, rfl, rfl⟩
  case ready =>
    have hwait : s.walkerWait c n = s.onCore c Core.endCycle :=
      if_pos (Bool.and_eq_true_iff.2 ⟨hstalls, beq_iff_eq.2 hmode⟩)
    refine ⟨_, congrArg Host.Outcome.next hwait, s.onlyCore_onCore c _, ?_⟩
    rw [State.core_onCore]
    exact ⟨rfl, rfl, k.sameRegs_endCycle⟩
  case feed =>
    rw [exec_feedElement_clean hecc]
    refine ⟨fun habove hclean hstores => ?_, fun hbelow => ?_, fun g habove hg => ?_⟩
    · obtain ⟨banks, hstep⟩ := State.feedElement_moves hready habove hclean hstores
      obtain ⟨v, sb, hfed, hexh, hleft⟩ := Core.fedOne_spec { k.useBanks banks with
        mx := k.mx.push w.fifoB ((List.range w.width).map (fun i => s.byteAt (s.walkerAddr w + i))) } n
      refine ⟨_, congrArg Host.Outcome.next hstep, s.onlyCore_onCore c _, ?_⟩
      rw [State.core_onCore, hfed, Core.walker_withWalker]
      exact ⟨k.mx.fifos_push w.fifoB _, hexh, hleft⟩
    · have hstep := State.feedElement_below hready (Nat.not_le.1 hbelow)
      exact ⟨_, _, congrArg Host.Outcome.next hstep, s.onlyCore_onCore c _, State.core_onCore .., rfl⟩
    · have hstep := State.feedElement_poisoned hready habove hg
      exact ⟨_, _, congrArg Host.Outcome.next hstep, s.onlyCore_onCore c _, State.core_onCore .., rfl, rfl⟩
  case command =>
    intro acc row
    have hrow : mxRow f.t = row := fieldN_eq_extractLsb' f.t 7 6
    have hcore (ho : o ≠ .ldscale) := State.core_mxCarryOut hnext hop ho
    refine ⟨_, rfl, fun ho => ⟨(hcore ho).1, ?_⟩, ?_, ?_, ?_, ?_, ?_, ?_⟩
    · rw [(hcore ho).2]
      exact k.sameRegs_mx _
    · rintro rfl
      rw [(hcore nofun).2]
      rfl
    · rintro rfl
      rw [(hcore nofun).2]
      exact ⟨(Mx.tile_setTile _ _ _ _).trans (if_pos rfl), fun j hj => (Mx.tile_setTile _ _ _ _).trans (if_neg hj.symm)⟩
    · rintro rfl
      rw [(hcore nofun).2, ← hrow]
      exact ⟨(Mx.tile_setTile _ _ _ _).trans (if_pos rfl), fun j hj => (Mx.tile_setTile _ _ _ _).trans (if_neg hj.symm)⟩
    · rintro rfl
      rw [(hcore nofun).2]
      exact ⟨rfl, rfl⟩
    · rintro (rfl | rfl) _ hf
      · have hdone := State.flight?_rdacc hnext hop hf
        rw [hrow] at hdone
        exact ⟨_, hdone, rfl, rfl, nofun, fun _ => rfl⟩
      · exact ⟨_, State.flight?_stat hnext hop hf, rfl, rfl, fun _ => rfl, nofun⟩
    · rintro rfl hnot
      rw [(hcore nofun).2]
      exact Mx.tile_startMma hop hnot
  case group =>
    obtain ⟨hothers, hcore, hflights⟩ := State.mxGroupStep_spec hact hready
    obtain ⟨hfifoA, hfifoB, hkdone, htiles⟩ := k.mx.applyGroup_spec (mxAcc f.t) k.mx.groupLen k.cyc
    refine ⟨_, rfl, hothers, ?_⟩
    rw [hcore]
    exact ⟨k.sameRegs_mx _, hfifoA, hfifoB, hkdone, htiles, hflights⟩
  case stall =>
    obtain ⟨hstop, hflights⟩ := State.mxStallStep_spec hstall hact hf hn hfr hr hc hmode hstops
    exact ⟨_, _, rfl, hstop, rfl, rfl, rfl, hflights⟩

end Sys2Proof.Machine
end

section
/-! The comparisons of FP32 encodings: what an encoding stands for, and its place in order (03 R111 to R113; 06 R203). -/

namespace Sys2Proof.Machine

/-! ### FP32 encodings as values (03 R111 to R113) -/

/-- The significand of a finite encoding with magnitude bits `n` (03 R112). -/
def fp32Sig (n : Nat) : Nat := if n < 2 ^ 23 then n else 2 ^ 23 + n % 2 ^ 23

/-- The magnitude of such an encoding in units of the smallest subnormal, 2^-149 (03 R112). -/
def fp32Units (n : Nat) : Nat := fp32Sig n * 2 ^ (n / 2 ^ 23 - 1)

/-- The encoding has its sign bit set. -/
def fp32Neg (x : Nat) : Bool := decide (2 ^ 31 ≤ x)

/-- The encoding is a NaN: its magnitude bits are above those of infinity (03 R113). -/
abbrev fp32Nan (x : Nat) : Prop := 0x7F800000 < x % 2 ^ 31

/-- A number's place in order: its magnitude bits with its sign, so that both zeros have one place (06 R203). -/
def fp32Rank (x : Nat) : Int := if x < 2 ^ 31 then (x : Int) else 2 ^ 31 - (x : Int)

/-- An encoding's value, by its exponent and fraction fields (03 R112, R113). -/
theorem decodeFp32_eq (x : Nat) : decodeFp32 x =
    if x % 2 ^ 31 / 2 ^ 23 = 255 then
      if x % 2 ^ 31 % 2 ^ 23 = 0 then .inf (decide (x / 2 ^ 31 % 2 = 1))
      else .nan (decide (x % 2 ^ 31 % 2 ^ 23 < 2 ^ 22))
    else if x % 2 ^ 31 / 2 ^ 23 = 0 then .fin (decide (x / 2 ^ 31 % 2 = 1)) (x % 2 ^ 31 % 2 ^ 23) (-149)
    else .fin (decide (x / 2 ^ 31 % 2 = 1)) (2 ^ 23 + x % 2 ^ 31 % 2 ^ 23) (((x % 2 ^ 31 / 2 ^ 23 : Nat) : Int) - 127 - 23) := by
  show decodeBin ⟨8, 23, 127, 0x7F7FFFFF, true, some 0x7FC00000⟩ x = _
  simp [decodeBin, fieldN]

/-- The sign of an encoding is its highest bit. -/
theorem fp32Neg_eq {x : Nat} (hx : x < 2 ^ 32) : decide (x / 2 ^ 31 % 2 = 1) = fp32Neg x := by
  rw [fp32Neg, decide_eq_decide]
  omega

theorem decodeFp32_nan {x : Nat} (h : fp32Nan x) : decodeFp32 x = .nan (decide (x % 2 ^ 23 < 2 ^ 22)) := by
  rw [decodeFp32_eq, if_pos (by omega), if_neg (by omega), Nat.mod_mod_of_dvd x (by decide : 2 ^ 23 ∣ 2 ^ 31)]

theorem decodeFp32_inf {x : Nat} (hx : x < 2 ^ 32) (h : x % 2 ^ 31 = 0x7F800000) : decodeFp32 x = .inf (fp32Neg x) := by
  rw [decodeFp32_eq, if_pos (by omega), if_pos (by omega), fp32Neg_eq hx]

theorem decodeFp32_fin {x : Nat} (hx : x < 2 ^ 32) (h : x % 2 ^ 31 < 0x7F800000) :
    decodeFp32 x = .fin (fp32Neg x) (fp32Sig (x % 2 ^ 31)) (((x % 2 ^ 31 / 2 ^ 23 - 1 : Nat) : Int) - 149) := by
  rw [decodeFp32_eq, if_neg (by omega), fp32Neg_eq hx, fp32Sig]
  by_cases hsub : x % 2 ^ 31 < 2 ^ 23
  · rw [if_pos (by omega), if_pos hsub, Nat.mod_eq_of_lt hsub, Nat.div_eq_of_lt hsub]
    rfl
  · rw [if_neg (by omega), if_neg hsub]
    congr 1
    omega

/-- Larger magnitude bits are a larger magnitude (03 R112). -/
theorem fp32Units_strictMono : StrictMono fp32Units := by
  refine strictMono_nat_of_lt_succ fun n => ?_
  unfold fp32Units fp32Sig
  by_cases hsub : n < 2 ^ 23
  · have hexp : n / 2 ^ 23 - 1 = 0 := by omega
    have hexp' : (n + 1) / 2 ^ 23 - 1 = 0 := by omega
    rw [hexp, hexp', if_pos hsub]
    split <;> omega
  · rw [if_neg hsub, if_neg (by omega)]
    by_cases hlast : n % 2 ^ 23 = 2 ^ 23 - 1
    · have hfrac : (n + 1) % 2 ^ 23 = 0 := by omega
      have hexp : (n + 1) / 2 ^ 23 - 1 = (n / 2 ^ 23 - 1) + 1 := by omega
      have hpos := Nat.two_pow_pos (n / 2 ^ 23 - 1)
      rw [hlast, hfrac, hexp, pow_succ 2 (n / 2 ^ 23 - 1)]
      generalize 2 ^ (n / 2 ^ 23 - 1) = u at hpos
      omega
    · have hfrac : (n + 1) % 2 ^ 23 = n % 2 ^ 23 + 1 := by omega
      have hexp : (n + 1) / 2 ^ 23 = n / 2 ^ 23 := by omega
      rw [hfrac, hexp]
      exact Nat.mul_lt_mul_of_pos_right (by omega) (Nat.two_pow_pos _)

/-- The significand at a smaller exponent is the same magnitude. -/
theorem Num.atExp_mul (neg : Bool) (m : Nat) {p k : Nat} (h : k ≤ p) :
    (Num.fin neg m ((p : Int) - 149)).atExp ((k : Int) - 149) * 2 ^ k =
      if neg then -((m * 2 ^ p : Nat) : Int) else ((m * 2 ^ p : Nat) : Int) := by
  have hk : ((p : Int) - 149 - ((k : Int) - 149)).toNat = p - k := by omega
  have hpow : m * 2 ^ (p - k) * 2 ^ k = m * 2 ^ p := by rw [Nat.mul_assoc, ← Nat.pow_add, Nat.sub_add_cancel h]
  rw [Num.atExp, hk, ← hpow]
  cases neg <;> simp

/-- The order of two finite values is that of their magnitudes with their signs (06 R203). -/
theorem Num.le_fin (neg neg' : Bool) (m m' p q : Nat) :
    (Num.fin neg m ((p : Int) - 149)).le (.fin neg' m' ((q : Int) - 149)) =
      decide ((if neg then -((m * 2 ^ p : Nat) : Int) else ((m * 2 ^ p : Nat) : Int)) ≤
        if neg' then -((m' * 2 ^ q : Nat) : Int) else ((m' * 2 ^ q : Nat) : Int)) := by
  have hmin : min ((p : Int) - 149) ((q : Int) - 149) = ((min p q : Nat) : Int) - 149 := by omega
  rw [← Num.atExp_mul neg m (Nat.min_le_left p q), ← Num.atExp_mul neg' m' (Nat.min_le_right p q)]
  simp only [Num.le, Num.exp, hmin]
  exact decide_eq_decide.2 (mul_le_mul_iff_left₀ (by positivity)).symm

/-- Magnitudes with their signs stand in the order of their places (06 R203). -/
theorem signedUnits_le_iff {a b : Nat} (ha : a < 2 ^ 32) (hb : b < 2 ^ 32) :
    ((if fp32Neg a then -(fp32Units (a % 2 ^ 31) : Int) else fp32Units (a % 2 ^ 31)) ≤
      if fp32Neg b then -(fp32Units (b % 2 ^ 31) : Int) else fp32Units (b % 2 ^ 31)) ↔ fp32Rank a ≤ fp32Rank b := by
  have hle : fp32Units (a % 2 ^ 31) ≤ fp32Units (b % 2 ^ 31) ↔ a % 2 ^ 31 ≤ b % 2 ^ 31 := fp32Units_strictMono.le_iff_le
  have hge : fp32Units (b % 2 ^ 31) ≤ fp32Units (a % 2 ^ 31) ↔ b % 2 ^ 31 ≤ a % 2 ^ 31 := fp32Units_strictMono.le_iff_le
  have hza : fp32Units (a % 2 ^ 31) ≤ 0 ↔ a % 2 ^ 31 ≤ 0 := fp32Units_strictMono.le_iff_le (b := 0)
  have hzb : fp32Units (b % 2 ^ 31) ≤ 0 ↔ b % 2 ^ 31 ≤ 0 := fp32Units_strictMono.le_iff_le (b := 0)
  unfold fp32Neg fp32Rank
  simp only [decide_eq_true_eq]
  omega

/-- The order of two encodings that are no NaN is that of their places (06 R203). -/
theorem le_decodeFp32 {a b : Nat} (ha : a < 2 ^ 32) (hb : b < 2 ^ 32) (hna : ¬ fp32Nan a) (hnb : ¬ fp32Nan b) :
    (decodeFp32 a).le (decodeFp32 b) = decide (fp32Rank a ≤ fp32Rank b) := by
  rcases Nat.lt_or_eq_of_le (Nat.not_lt.1 hna) with hfa | hia
  · rw [decodeFp32_fin ha hfa]
    rcases Nat.lt_or_eq_of_le (Nat.not_lt.1 hnb) with hfb | hib
    · rw [decodeFp32_fin hb hfb, Num.le_fin]
      exact decide_eq_decide.2 (signedUnits_le_iff ha hb)
    · rw [decodeFp32_inf hb hib]
      show (!fp32Neg b) = _
      rw [fp32Neg, ← decide_not, decide_eq_decide]
      unfold fp32Rank
      omega
  · rw [decodeFp32_inf ha hia]
    rcases Nat.lt_or_eq_of_le (Nat.not_lt.1 hnb) with hfb | hib
    · rw [decodeFp32_fin hb hfb]
      show fp32Neg a = _
      rw [fp32Neg, decide_eq_decide]
      unfold fp32Rank
      omega
    · rw [decodeFp32_inf hb hib]
      show (fp32Neg a || !fp32Neg b) = _
      rw [fp32Neg, fp32Neg, ← decide_not, ← Bool.decide_or, decide_eq_decide]
      unfold fp32Rank
      omega

/-! ### Comparisons (06 R203) -/

theorem isNan_decodeFp32 {x : Nat} (hx : x < 2 ^ 32) : (decodeFp32 x).isNan = true ↔ fp32Nan x := by
  rcases Nat.lt_trichotomy (x % 2 ^ 31) 0x7F800000 with h | h | h
  · rw [decodeFp32_fin hx h]
    exact ⟨nofun, fun hn => absurd hn h.asymm⟩
  · rw [decodeFp32_inf hx h]
    exact ⟨nofun, fun hn => absurd h hn.ne'⟩
  · rw [decodeFp32_nan h]
    exact ⟨fun _ => h, fun _ => rfl⟩

/-- A signalling NaN has the highest bit of its fraction clear (03 R113). -/
theorem isSnan_decodeFp32 {x : Nat} (hx : x < 2 ^ 32) : (decodeFp32 x).isSnan = true ↔ fp32Nan x ∧ x.testBit 22 = false := by
  rcases Nat.lt_trichotomy (x % 2 ^ 31) 0x7F800000 with h | h | h
  · rw [decodeFp32_fin hx h]
    exact ⟨nofun, fun hn => absurd hn.1 h.asymm⟩
  · rw [decodeFp32_inf hx h]
    exact ⟨nofun, fun hn => absurd h hn.1.ne'⟩
  · have hbit : x % 2 ^ 23 < 2 ^ 22 ↔ x.testBit 22 = false := by
      rw [Nat.testBit_eq_decide_div_mod_eq, decide_eq_false_iff_not]
      omega
    rw [decodeFp32_nan h, ← hbit]
    exact decide_eq_true_iff.trans (and_iff_right h).symm

section
variable {a b : Nat} (ha : a < 2 ^ 32) (hb : b < 2 ^ 32)
include ha hb

/-- A comparison of two encodings that are no NaN gives 1 or 0 and raises no flag (06 R203). -/
theorem fpCompare_num (signals : Bool) (rel : Num → Num → Bool) (hna : ¬ fp32Nan a) (hnb : ¬ fp32Nan b) :
    fpCompare signals rel a b = ⟨if rel (decodeFp32 a) (decodeFp32 b) then 1 else 0, 0⟩ := by
  rw [← isNan_decodeFp32 ha] at hna
  rw [← isNan_decodeFp32 hb] at hnb
  exact if_neg (by rw [Bool.or_eq_true_iff]; exact not_or.2 ⟨hna, hnb⟩)

/-- A comparison with a NaN gives 0, and raises NV for any or for a signalling one (06 R203). -/
theorem fpCompare_nan (signals : Bool) (rel : Num → Num → Bool) (h : fp32Nan a ∨ fp32Nan b) : fpCompare signals rel a b =
    ⟨0, if signals = true ∨ (fp32Nan a ∧ a.testBit 22 = false) ∨ fp32Nan b ∧ b.testBit 22 = false then Flags.nv else 0⟩ := by
  rw [← isNan_decodeFp32 ha, ← isNan_decodeFp32 hb, ← Bool.or_eq_true_iff] at h
  refine (if_pos h).trans ?_
  simp only [Flags.when, Bool.or_eq_true_iff, isSnan_decodeFp32 ha, isSnan_decodeFp32 hb, or_assoc]

theorem fpCompare_bits_nan (signals : Bool) (rel : Num → Num → Bool) (h : fp32Nan a ∨ fp32Nan b) :
    (fpCompare signals rel a b).bits = 0 := by
  rw [fpCompare_nan ha hb signals rel h]

/-- A comparison that signals any NaN raises NV for one, and no other flag (06 R203). -/
theorem fpCompare_flags_signalling (rel : Num → Num → Bool) :
    (fpCompare true rel a b).flags = if fp32Nan a ∨ fp32Nan b then Flags.nv else 0 := by
  by_cases h : fp32Nan a ∨ fp32Nan b
  · rw [fpCompare_nan ha hb true rel h, if_pos (.inl rfl), if_pos h]
  · rw [fpCompare_num ha hb true rel (fun hn => h (.inl hn)) (fun hn => h (.inr hn)), if_neg h]

/-- A quiet comparison raises NV for a signalling NaN, and no other flag (06 R203). -/
theorem fpCompare_flags_quiet (rel : Num → Num → Bool) : (fpCompare false rel a b).flags =
    if (fp32Nan a ∧ a.testBit 22 = false) ∨ fp32Nan b ∧ b.testBit 22 = false then Flags.nv else 0 := by
  by_cases h : fp32Nan a ∨ fp32Nan b
  · rw [fpCompare_nan ha hb false rel h]
    simp only [Bool.false_eq_true, false_or]
  · rw [fpCompare_num ha hb false rel (fun hn => h (.inl hn)) (fun hn => h (.inr hn))]
    exact (if_neg fun hs => h (hs.imp And.left And.left)).symm

/-- What the three comparisons give of two encodings that are no NaN (06 R203). -/
theorem fpCompare_bits_num (hna : ¬ fp32Nan a) (hnb : ¬ fp32Nan b) :
    (fpEq a b).bits = (if fp32Rank a = fp32Rank b then 1 else 0) ∧ (fpLt a b).bits = (if fp32Rank a < fp32Rank b then 1 else 0) ∧
      (fpLe a b).bits = (if fp32Rank a ≤ fp32Rank b then 1 else 0) := by
  have hle := le_decodeFp32 ha hb hna hnb
  have hge := le_decodeFp32 hb ha hnb hna
  have heq : (decide (fp32Rank a ≤ fp32Rank b) && decide (fp32Rank b ≤ fp32Rank a)) = decide (fp32Rank a = fp32Rank b) := by
    rw [← Bool.decide_and, decide_eq_decide, ← le_antisymm_iff]
  have hlt : (decide (fp32Rank a ≤ fp32Rank b) && !decide (fp32Rank b ≤ fp32Rank a)) = decide (fp32Rank a < fp32Rank b) := by
    rw [← decide_not, ← Bool.decide_and, decide_eq_decide, ← lt_iff_le_not_ge]
  simp only [fpEq, fpLt, fpLe, fpCompare_num ha hb _ _ hna hnb, hle, hge, heq, hlt, decide_eq_true_eq, and_self]

end

/-- Settles O19: the decoded values of two encodings stand in the order of their places. -/
theorem floatComparisons : Obligations.FloatComparisons := by
  intro a b ha hb nan signalling rank
  refine ⟨fun hna hnb => fpCompare_bits_num ha hb hna hnb, fun h => ?_, fpCompare_flags_quiet ha hb _,
    fpCompare_flags_signalling ha hb _, fpCompare_flags_signalling ha hb _⟩
  exact ⟨fpCompare_bits_nan ha hb _ _ h, fpCompare_bits_nan ha hb _ _ h, fpCompare_bits_nan ha hb _ _ h⟩

end Sys2Proof.Machine
end

section
/-! The scalar float unit, and the vector operations that access no memory: what each delivers, and when (06 R204 to R220). -/

namespace Sys2Proof.Machine

/-! ### Latencies (06 R204, R205, R211) -/

/-- The latency of a scalar operation, by its row (06 R205). -/
theorem fsLatency_eq (op : FsOp) : fsLatency op = if op == .fdiv || op == .fsqrt then 12
    else if op == .fexp2 || op == .flog2 || op == .frcp || op == .frsq || op == .fsigm then 8 else 4 := by
  cases op <;> rfl

/-- The operations that are not pipelined are the division and the root (06 R204). -/
theorem fsSlow_eq (op : FsOp) : fsSlow op = (op == .fdiv || op == .fsqrt) := by
  cases op <;> rfl

/-- Settles O16: the unit has no check, and its latency is that of the operation's row. -/
theorem scalarFloatUnit : Obligations.ScalarFloatUnit := by
  intro s i op m hi htries hret slow long v
  obtain ⟨t, ht, hdel⟩ := delivers_of_start (lat := fsLatency op) (slow := fsSlow op) (r := .scalar v.1 v.2)
    ⟨hi, ⟨htries, rfl⟩, hret⟩ rfl rfl
  rw [fsLatency_eq, fsSlow_eq] at hdel
  exact ⟨t, ht, hdel⟩

/-- The latency of a vector operation, by its class (06 R211). -/
theorem vxLatency_eq (op : VxOp) : vxLatency op = if op == .vdiv || op == .vsqrt || op == .vrcp || op == .vrsq || op == .vexp2 ||
    op == .vlog2 || op == .vsigm || op == .vfsum || op == .vfrmax || op == .vfrmin || op == .visum then 10 else 6 := by
  cases op <;> rfl

/-- Settles O17: the latency is that of the operation's class, and no operation takes the place of another. -/
theorem vectorUnit : Obligations.VectorUnit := by
  intro s i op m h hmem long
  have htrig : trigger (.vx op) = trigVx op := if_neg (by rw [hmem]; decide)
  obtain ⟨t, ht, hdel⟩ := delivers_of_start (lat := vxLatency op) (slow := false) (r := vxResult op (s.trigOf (.vx op) m)) h
    (by rw [htrig]; rfl) (by rw [htrig]; rfl)
  rw [vxLatency_eq] at hdel
  exact ⟨t, ht, hdel⟩

end Sys2Proof.Machine
end

section
/-! What a vector operation writes lane by lane under its mask (06 R208, R211, R214, R219). -/

namespace Sys2Proof.Machine

/-! ### Lanes of registers (06 R208) -/

theorem testBit_foldr_lanes (xs : List Nat) (i : Nat) {j : Nat} (hj : j < 32) :
    (xs.foldr (fun x acc => x % 2 ^ 32 + 2 ^ 32 * acc) 0).testBit (32 * i + j) = (xs.getD i 0).testBit j := by
  induction xs generalizing i with
  | nil => simp
  | cons x xs ih =>
    rw [List.foldr_cons, Nat.add_comm (x % 2 ^ 32), Nat.testBit_two_pow_mul_add _ (Nat.mod_lt x (Nat.two_pow_pos 32))]
    cases i with
    | zero => rw [if_pos (by omega), Nat.mul_zero, Nat.zero_add, Nat.testBit_mod_two_pow, decide_eq_true hj]; rfl
    | succ i =>
      rw [if_neg (by omega), show 32 * (i + 1) + j - 32 = 32 * i + j by omega, ih]
      rfl

theorem getLsbD_laneOf (v : BitVec 4096) (i : Nat) {j : Nat} (hj : j < 32) : (laneOf v i).getLsbD j = v.getLsbD (32 * i + j) := by
  rw [laneOf, BitVec.getLsbD_extractLsb', decide_eq_true hj, Bool.true_and]

/-- A register made of lanes has them as its lanes. -/
theorem laneOf_ofLanes (xs : List Nat) {i : Nat} (hi : i < 128) : laneOf (ofLanes xs) i = BitVec.ofNat 32 (xs.getD i 0) := by
  refine BitVec.eq_of_getLsbD_eq fun j hj => ?_
  rw [getLsbD_laneOf _ i hj, ofLanes, BitVec.getLsbD_ofNat, BitVec.getLsbD_ofNat, testBit_foldr_lanes xs i hj,
    decide_eq_true (by omega), decide_eq_true hj]

/-- A lane of a mask's bits is all ones or zero. -/
theorem laneOf_laneBits (m : BitVec 128) {i : Nat} (hi : i < 128) :
    laneOf (laneBits m) i = if m.getLsbD i then BitVec.allOnes 32 else 0 := by
  rw [laneBits, laneOf_ofLanes _ hi, List.getD_eq_getElem _ _ (by simpa using hi), List.getElem_map, List.getElem_range]
  cases m.getLsbD i <;> rfl

theorem laneOf_and (v w : BitVec 4096) (i : Nat) : laneOf (v &&& w) i = laneOf v i &&& laneOf w i :=
  BitVec.extractLsb'_and

theorem laneOf_allOnes {i : Nat} (hi : i < 128) : laneOf (BitVec.allOnes 4096) i = BitVec.allOnes 32 := by
  refine BitVec.eq_of_getLsbD_eq fun j hj => ?_
  rw [getLsbD_laneOf _ i hj, BitVec.getLsbD_allOnes, BitVec.getLsbD_allOnes, decide_eq_true (by omega), decide_eq_true hj]

/-- A lane of a register into which bits have been written under a mask (06 R211). -/
theorem laneOf_mergeV (c : Core) (vd : BitVec 5) (mask val : BitVec 4096) {i : Nat} (hi : i < 128) :
    laneOf ((c.mergeV vd mask val).rv vd) i = (laneOf (c.rv vd) i &&& ~~~ laneOf mask i) ||| (laneOf val i &&& laneOf mask i) := by
  have hrv : (c.mergeV vd mask val).rv vd = (c.rv vd &&& ~~~mask) ||| (val &&& mask) := Vector.getElem_set_self ..
  refine BitVec.eq_of_getLsbD_eq fun j hj => ?_
  have hij : 32 * i + j < 4096 := by omega
  simp only [hrv, getLsbD_laneOf _ i hj, BitVec.getLsbD_or, BitVec.getLsbD_and, BitVec.getLsbD_not, hj, hij]

/-- A result that writes lanes under the governing mask: an active lane becomes the value, an inactive one 0 with z, and else stays
(06 R211). -/
theorem laneOf_laneResult (c : Core) (x : Trig) (rs : List Rounded) {i : Nat} (hi : i < 128) {vd : BitVec 5} {mask val : BitVec 4096}
    {fl : Flags} {r : Option Word} (h : laneResult x rs = .vector vd mask val fl r) :
    laneOf ((c.mergeV vd mask val).rv vd) i = if x.mask.getLsbD i then BitVec.ofNat 32 ((rs.map (·.bits)).getD i 0)
      else if vxZ x.t then 0 else laneOf (c.rv vd) i := by
  injection h with hvd hmask hval
  subst hvd hmask hval
  rw [laneOf_mergeV _ _ _ _ hi, laneOf_and, laneOf_laneBits _ hi, laneOf_ofLanes _ hi]
  cases vxZ x.t with
  | true =>
    rw [if_pos rfl, laneOf_allOnes hi]
    cases x.mask.getLsbD i <;> simp [-BitVec.reduceAllOnes]
  | false =>
    rw [if_neg (by decide), laneOf_laneBits _ hi]
    cases x.mask.getLsbD i <;> simp [-BitVec.reduceAllOnes]

/-- Exact values raise no flag (06 R212). -/
theorem maskFlags_exact (m : BitVec 128) (xs : List Nat) : maskFlags m (exact xs) = 0 := by
  have hzero : ∀ fs : List Flags, (∀ f ∈ fs, f = 0) → orFlags fs = 0 := by
    intro fs hfs
    rw [List.eq_replicate_of_mem hfs, orFlags]
    induction fs.length with
    | zero => rfl
    | succ n ih => exact ih
  refine hzero _ fun f hf => ?_
  obtain ⟨p, hp, rfl⟩ := List.mem_map.1 hf
  obtain ⟨b, -, hb⟩ := List.mem_map.1 (List.fst_mem_of_mem_zipIdx (List.mem_filter.1 hp).1)
  rw [← hb]

/-! ### Lanes of operations (06 R214, R219) -/

/-- A lane of a source register, as a number. -/
theorem getElem?_lanes (x : Trig) (k : Nat) {i : Nat} (hi : i < 128) :
    (x.lanes k)[i]? = some (laneOf (x.at_.rv (vxReg x.t k)) i).toNat := by
  simp [Trig.lanes, lanesOf, hi]

/-- Lane `i` of what a vector result writes into its register, without a flag: an active lane becomes `v`, an inactive one 0 with z, and
else stays (06 R211). -/
def Core.TakesLane (c : Core) (x : Trig) (vd : BitVec 5) (mask val : BitVec 4096) (fl : Flags) (i : Nat) (v : BitVec 32) : Prop :=
  vd = vxReg x.t 0 ∧ fl = 0 ∧ laneOf ((c.mergeV vd mask val).rv vd) i =
    if x.mask.getLsbD i then v else if vxZ x.t then 0 else laneOf (c.rv vd) i

section
variable {x : Trig} {vd : BitVec 5} {mask val : BitVec 4096} {fl : Flags} {r : Option Word} {i : Nat} {v : BitVec 32}

/-- What a result of exact values writes lane by lane (06 R211, R212). -/
theorem Core.takesLane_of_exact (c : Core) {xs : List Nat} (h : laneResult x (exact xs) = .vector vd mask val fl r) (hi : i < 128)
    (hv : BitVec.ofNat 32 (xs.getD i 0) = v) : c.TakesLane x vd mask val fl i v := by
  have hlane := laneOf_laneResult c x (exact xs) hi h
  have hbits : (exact xs).map (·.bits) = xs := by rw [exact, List.map_map]; exact List.map_id xs
  rw [hbits, hv] at hlane
  injection h with hvd _ _ hfl
  exact ⟨hvd.symm, hfl.symm.trans (maskFlags_exact _ xs), hlane⟩

/-- What an integer operation writes lane by lane (06 R211, R214). -/
theorem Core.takesLane_of_vxInt (c : Core) {op : VxOp} (h : vxIntResult op x = .vector vd mask val fl r) (hi : i < 128)
    (hv : vxInt op (laneOf (x.at_.rv (vxReg x.t 1)) i) (laneOf (x.at_.rv (vxReg x.t 2)) i) = v) :
    c.TakesLane x vd mask val fl i v := by
  refine c.takesLane_of_exact h hi ?_
  have hzip : (List.zip (x.lanes 1) (x.lanes 2))[i]? =
      some ((laneOf (x.at_.rv (vxReg x.t 1)) i).toNat, (laneOf (x.at_.rv (vxReg x.t 2)) i).toNat) :=
    List.getElem?_zip_eq_some.2 ⟨getElem?_lanes x 1 hi, getElem?_lanes x 2 hi⟩
  rw [List.getD_eq_getElem?_getD, List.getElem?_map, hzip]
  simp only [Option.map_some, Option.getD_some, BitVec.ofNat_toNat, BitVec.setWidth_eq]
  exact hv

end

/-- The lane of vidx: a start and a step, the halves of `vx.o` (06 R219). -/
theorem vidx_lane (o : Word) (i : Nat) : BitVec.ofNat 32 ((fieldN o.toNat 0 32 + i * fieldN o.toNat 32 32) % 2 ^ 32) =
    o.extractLsb' 0 32 + BitVec.ofNat 32 i * o.extractLsb' 32 32 := by
  rw [fieldN_eq_extractLsb', fieldN_eq_extractLsb']
  apply BitVec.eq_of_toNat_eq
  simp [BitVec.toNat_add, BitVec.toNat_mul, Nat.add_mod, Nat.mul_mod]

/-- Settles O18: lane by lane, the result is a merge of the operation's value under the mask. -/
theorem vectorLanesFollowTheMask : Obligations.VectorLanesFollowTheMask := by
  intro s op m c vd mask val fl r x a value h i v hi hv
  cases op
  case viadd | visub | vimul | vand | vor | vxor => exact c.takesLane_of_vxInt h hi (Option.some.inj hv)
  case vimin | vimax =>
    refine c.takesLane_of_vxInt h hi (.trans ?_ (Option.some.inj hv))
    simp only [vxInt, BitVec.slt, decide_eq_true_eq]
    rfl
  case viminu | vimaxu =>
    refine c.takesLane_of_vxInt h hi (.trans ?_ (Option.some.inj hv))
    simp only [vxInt, BitVec.ult, decide_eq_true_eq]
    rfl
  case vshl | vshr | vsar =>
    refine c.takesLane_of_vxInt h hi (.trans ?_ (Option.some.inj hv))
    simp only [vxInt, fieldN_zero]
    rfl
  case vmov =>
    refine c.takesLane_of_exact h hi (.trans ?_ (Option.some.inj hv))
    rw [List.getD_eq_getElem?_getD, getElem?_lanes x 1 hi]
    exact BitVec.ofNat_toNat ..
  case vidx =>
    refine c.takesLane_of_exact h hi (.trans ?_ (Option.some.inj hv))
    rw [List.getD_eq_getElem?_getD, List.getElem?_map, List.getElem?_range hi]
    exact vidx_lane x.o i
  all_goals exact nomatch hv

end Sys2Proof.Machine
end

section
/-! The vector accesses to the core's own scratchpad: the elements of their lanes, and what waits for them (06 R221 to R225). -/

namespace Sys2Proof.Machine

/-! ### Elements of the own scratchpad (06 R221, R224) -/

/-- The bit of the scratchpad at which lane `n`'s element begins: in vldx and vstx vb[n] elements on from `vx.o`, else `n` (06 R221,
R224). -/
def vxLaneBit (op : VxOp) (x : Trig) (d : Desc) (n : Nat) : Nat :=
  let first := d.padOff + x.o.toNat % 2 ^ 40
  8 * first + laneSize (x.at_.fmtAt first) *
    (if op = .vldx ∨ op = .vstx then (laneOf (x.at_.rv (vxReg x.t 2)) n).toNat else n)

/-- Lane `n`'s element: in vldx and vstx in the format of its own bank, else in that of the first (06 R221, R224). -/
def vxLaneLoad (op : VxOp) (x : Trig) (d : Desc) (n : Nat) : LaneLoad :=
  laneAt x (if op = .vldx ∨ op = .vstx then x.at_.fmtAt (vxLaneBit op x d n / 8)
    else x.at_.fmtAt (d.padOff + x.o.toNat % 2 ^ 40)) (vxLaneBit op x d n) n

theorem vxOff_eq (x : Trig) : vxOff x = x.o.toNat % 2 ^ 40 := fieldN_zero _ _

theorem vxIndexed_iff (op : VxOp) : vxIndexed op = true ↔ op = .vldx ∨ op = .vstx := by
  cases op <;> simp [vxIndexed]

theorem laneErr_eq_none {cause : BitVec 8} {k : BitVec 5} {d : Desc} {ls : List LaneLoad} {ok : LaneLoad → Bool} :
    laneErr cause k d ls ok = none ↔ ∀ l ∈ ls, ok l = true := by
  simp [laneErr]

/-- The element of a lane begins in the byte of the scratchpad that its bit offset names. -/
theorem bytes_laneAt (x : Trig) (f : Fmt) (bit n : Nat) : (laneAt x f bit n).bytes.1 - slotBase x.c = bit / 8 := by
  show (8 * slotBase x.c + bit) / 8 - slotBase x.c = bit / 8
  omega

/-- Where the checks of an indexed operation have passed, its elements are of whole bytes, and each stands in a bank of its own
format (06 R224). -/
theorem indexLanes_of_vxIndexErr {store : Bool} {s : State} {x : Trig} {cap : Cap} {d : Desc} (h : vxIndexErr store s x cap d = none) :
    laneSize (vxIndexFmt x d) % 8 = 0 ∧
      ∀ l ∈ indexLanes x d (vxIndexFmt x d), x.at_.fmtAt (l.bytes.1 - slotBase x.c) = l.fmt := by
  simp only [vxIndexErr, firstErr_cons_eq_none, require_eq_none, laneErr_eq_none, Bool.and_eq_true, beq_iff_eq] at h
  obtain ⟨⟨-, hwhole⟩, -, -, -, hbank, -⟩ := h
  exact ⟨hwhole, fun l hl => (hbank l hl).1⟩

/-- The elements of an indexed operation whose checks have passed (06 R224). -/
theorem indexLanes_eq {op : VxOp} {s : State} {x : Trig} {cap : Cap} {d : Desc} (hop : op = .vldx ∨ op = .vstx)
    (h : vxIndexErr (vxStores op) s x cap d = none) :
    indexLanes x d (vxIndexFmt x d) = ((List.range 128).filter (fun n => x.mask.getLsbD n)).map (vxLaneLoad op x d) := by
  obtain ⟨hwhole, hbank⟩ := indexLanes_of_vxIndexErr h
  refine List.map_congr_left fun n hn => ?_
  have hfmt : x.at_.fmtAt _ = vxLaneFmt x (vxIndexFmt x d) _ := hbank _ (List.mem_map_of_mem hn)
  have hbit : 8 * (d.padOff + vxIndexOff x (vxIndexFmt x d) n) = vxLaneBit op x d n := by
    have hsize : 8 * (laneSize (vxIndexFmt x d) / 8) = laneSize (vxIndexFmt x d) := Nat.mul_div_cancel' (Nat.dvd_of_mod_eq_zero hwhole)
    rw [vxLaneBit, if_pos hop, vxIndexOff, ← vxOff_eq]
    simp only [Nat.mul_add, ← Nat.mul_assoc, hsize, Nat.add_assoc]
    rfl
  rw [bytes_laneAt] at hfmt
  show laneAt x _ _ n = laneAt x _ _ n
  rw [if_pos hop, ← hfmt, hbit]

/-- The elements of a footprint that are active (06 R221). -/
theorem activeLanes_footLanes {op : VxOp} (x : Trig) (d : Desc) (hop : ¬ (op = .vldx ∨ op = .vstx)) :
    activeLanes x (footLanes x d (x.at_.fmtAt (d.padOff + vxOff x))) =
      ((List.range 128).filter (fun n => x.mask.getLsbD n)).map (vxLaneLoad op x d) := by
  rw [activeLanes, footLanes, List.filter_map]
  refine List.map_congr_left fun n _ => ?_
  rw [vxLaneLoad, vxLaneBit, if_neg hop, if_neg hop, vxOff_eq, Nat.mul_comm n]

/-- A memory operation by the Local path goes through the capability that k selects, to a buffer of its own core (06 R221). -/
theorem vxSelected_of_vxOwn {s : State} {x : Trig} (h : vxOwn s x = true) :
    ∃ cap d, x.at_.rk (vxK x.t) = .cap cap ∧ s.descOf cap = some d ∧ vxSelected s x = some (cap, d) ∧ d.localTo x.c = true := by
  unfold vxOwn at h
  split at h
  next cap d hsel =>
    obtain ⟨cap', hcap, hmap⟩ := Option.bind_eq_some_iff.1 hsel
    obtain ⟨d', hdesc, hpair⟩ := Option.map_eq_some_iff.1 hmap
    obtain ⟨rfl, rfl⟩ := Prod.mk.inj hpair
    exact ⟨cap', d', KReg.cap?_eq_some hcap, hdesc, hsel, h⟩
  next => exact nomatch h

/-- The elements that a local form whose checks have passed reads or writes (06 R221, R224). -/
theorem vxLocalLanes_eq {op : VxOp} {s : State} {x : Trig} {cap : Cap} {d : Desc} (hchecks : vxMemErr op s x = none)
    (hsel : vxSelected s x = some (cap, d)) :
    vxLocalLanes op x d = ((List.range 128).filter (fun n => x.mask.getLsbD n)).map (vxLaneLoad op x d) := by
  unfold vxLocalLanes
  split
  next hindexed =>
    unfold vxMemErr at hchecks
    split at hchecks
    next => exact nomatch hchecks
    next =>
      rw [hsel] at hchecks
      exact indexLanes_eq ((vxIndexed_iff op).1 hindexed) ((if_pos hindexed).symm.trans hchecks)
  next hfoot => exact activeLanes_footLanes x d (fun hop => hfoot ((vxIndexed_iff op).2 hop))

/-- One element of a local store, from what the core sees at the trigger: the start of the word changes none of it (06 R223). -/
theorem storeLane_opened (s : State) (op : Op) (m : Arg) (v : BitVec 4096) (l : LaneLoad) :
    storeLane (s.opened op m) (s.trigOf op m) v l = fromLane l.fmt (laneOf v l.lane).toNat
      (match l.scaleAddr with
        | some a => (s.localByte s.me a).toNat
        | none => 127) (rmMode s.me.rm) (rmSat s.me.rm) := by
  have hseen (a : Nat) : (s.opened op m).localByte ((s.opened op m).core (s.trigOf op m).c) a = s.localByte s.me a :=
    s.localByte_opened op m a
  simp only [storeLane, hseen]
  rfl

/-- Settles O24: the checks of an indexed form have found each element in a bank of its own format. -/
theorem vectorLocalMemory : Obligations.VectorLocalMemory := by
  intro s i op m h hmem hown v mask indexed
  obtain ⟨cap, d, hcap, hdesc, hsel, hlocal⟩ := vxSelected_of_vxOwn hown
  have htrig : trigger (.vx op) = trigVxMem op := if_pos hmem
  have hchecks : vxMemErr op s (s.trigOf (.vx op) m) = none := by
    have hc := h.carries.checks
    rwa [htrig] at hc
  have hlanes := vxLocalLanes_eq hchecks hsel
  have hperform : (trigger (.vx op)).perform (s.opened (.vx op) m) (s.trigOf (.vx op) m) =
      if vxStores op then vxLocalStore op (s.opened (.vx op) m) (s.trigOf (.vx op) m) d
      else vxLocalLoad op (s.opened (.vx op) m) (s.trigOf (.vx op) m) d := by
    have hsel' : vxSelected (s.opened (.vx op) m) (s.trigOf (.vx op) m) = some (cap, d) := hsel
    rw [htrig]
    simp only [trigVxMem, hsel', hlocal, if_true]
  have honce : (trigger (.vx op)).sbAtOnce = false := by rw [htrig]; rfl
  cases hstores : vxStores op with
  | false =>
    rw [hstores, if_neg (by decide), vxLocalLoad, hlanes] at hperform
    obtain ⟨t, ht, hdel⟩ := delivers_of_start h hperform honce
    refine ⟨t, cap, d, hcap, hdesc, ht, fun _ => hdel, ?_⟩
    rintro (rfl | rfl)
    all_goals exact nomatch hstores
  | true =>
    simp only [hstores, if_true, vxLocalStore, hlanes, storeLane_opened, List.flatMap_map, List.map_map] at hperform
    obtain ⟨t, ht, hst⟩ := storesWith_of_store h hperform honce
    refine ⟨t, cap, d, hcap, hdesc, ht, ?_, fun _ => ?_⟩
    · rintro (rfl | rfl)
      all_goals exact nomatch hstores
    · simp only [List.flatMap_map, List.map_map]
      exact hst

end Sys2Proof.Machine
end

section
/-! Commands of the matrix engine: at its trigger a command joins the queue, and cfg sets the issue copy too (07 R235, R238). -/

namespace Sys2Proof.Machine

/-! ### A core that has put a command in its queue (02 R93, R94; 07 R235) -/

theorem Core.ringAt_takeSeq_same (c : Core) (f : Flight) : (c.takeSeq f).ringAt f.seq = f.entry :=
  c.ringAt_setRing_same f.seq f.entry

theorem Core.ringAt_takeSeq_ne (c : Core) {f : Flight} {q : BitVec 16} (h : q.toNat % 64 ≠ f.seq.toNat % 64) :
    (c.takeSeq f).ringAt q = c.ringAt q :=
  c.ringAt_setRing_ne f.entry h

/-- Across the issue of a command and the end of its word the registers stay, but for the sequence number, the ring and those of the
matrix engine. -/
theorem Core.SameRegs.of_queued {a c : Core} {f : Flight} {mx : Mx} {rg : List TraceRange} {st : List LocalStore}
    (h : ({ a.takeSeq f with mx := mx, ranges := rg, stores := st } : Core).SameRegs c) :
    a.SameRegs { c with seq := a.seq, ring := a.ring, mx := a.mx } where
  __ := h
  seq := rfl
  ring := rfl
  mx := rfl

theorem Core.SameRegs.atIssue {a c : Core} (h : a.SameRegs { c with seq := a.seq, ring := a.ring, mx := a.mx }) :
    a.SameAtIssue c where
  __ := h

/-- A word has set out whose operation leaves its core, in flight, with `mx` as the registers of the matrix engine: only cfg may
change these, and the tiles stay in each case (02 R92 to R94; 07 R235, R238). -/
theorem setsOut_of_queued {s : State} {i : Instr} {op : Op} {m : Arg} {f : Flight} {mx : Mx} (h : s.Runs i op m)
    (hn : (trigger op).sbAtOnce = false) (hseq : f.seq = s.me.seq) (hentry : f.entry = (s.started op m 0).entry)
    (hacc : mx.acc = s.me.mx.acc) (hcfg : op ≠ .mx .cfg → mx = s.me.mx)
    (hb : ({ s with flights := s.flights ++ [f] } : State).SameBut ((trigger op).perform (s.opened op m) (s.trigOf op m)) s.turn
      { ((s.opened op m).core s.turn).takeSeq f with mx := mx }) :
    ∃ t, exec i s = .next t ∧ s.SetsOut t op m f ∧ s.SameDevice t ∧ (∀ c, c ≠ s.turn → t.core c = s.core c) ∧
      s.CapsAre t (fun _ => none) ∧ (t.core s.turn).watch = s.me.watch ∧ (t.core s.turn).mx = mx := by
  obtain ⟨-, hop⟩ := s.opened_spec op m
  have hopened := s.lastCopy_opened op m
  obtain ⟨t, c, rg, st, hexec, hsame, hclosed, hcopy, hpc⟩ := word_of_perform h hb hn
  generalize (s.opened op m).core s.turn = a at hop hopened hclosed hcopy
  obtain rfl := hsame.core
  have hregs := hclosed.regs
  have hmx : (t.core s.turn).mx = mx := hregs.mx
  have hkeep := hop.regs.trans hregs.of_queued
  rw [hop.regs.seq, hop.regs.ring, hop.regs.mx] at hkeep
  obtain ⟨hothers, hbytes, hclusters, hrest⟩ := hsame.sameRest hkeep.v (hmx ▸ hacc)
  have hflights : t.flights = s.flights ++ [f] := by rw [hrest]
  have hring (q : BitVec 16) : (t.core s.turn).ringAt q = (a.takeSeq f).ringAt q := congrArg (·[q.toNat % 64]) hregs.ring
  have hentryAt : (t.core s.turn).ringAt s.me.seq = (s.started op m 0).entry := by
    rw [hring, ← hseq, Core.ringAt_takeSeq_same, hentry]
  have hout : s.SetsOut t op m f :=
    { seq := hregs.seq.trans (congrArg (· + 1) hop.regs.seq)
      entry := by rw [hentryAt]; exact ⟨rfl, rfl, rfl, rfl, rfl, rfl⟩
      ring := fun q hq => by
        rw [hring, Core.ringAt_takeSeq_ne a (hseq ▸ hq)]
        exact congrArg (·[q.toNat % 64]) hop.regs.ring
      stages := hclosed.stages.trans (congrArg (List.map Stage.next) hop.stages)
      order := hclosed.order.trans (congrArg (· + 4) hop.order)
      pc := hpc
      sflags := hclosed.sflags.trans hop.sflags
      vflags := hclosed.vflags.trans hop.vflags
      registers := hkeep.atIssue
      watch := fun n w hw => .inl ((congrArg (·[n]?) hkeep.watch).trans hw)
      others := fun k hk => ⟨_, _, _, _, _, hothers k hk⟩
      earlier := fun g hg => ⟨g, hflights ▸ List.mem_append_left _ hg, rfl, rfl⟩
      v := hkeep.v
      apart := fun k hk => hothers k hk ▸ ⟨rfl, rfl⟩
      bytes := hbytes
      mx := fun ho => hmx.trans (hcfg ho)
      sig := fun _ => ⟨hkeep.sig, hcopy.trans hopened⟩
      batches := fun _ _ _ _ => hkeep.batches
      away := fun k _ => by
        by_cases hk : k = s.turn
        · exact hk ▸ ⟨hkeep.vaway, hkeep.taway⟩
        · exact hothers k hk ▸ ⟨rfl, rfl⟩
      listed := by simp [hflights]
      issued := by rw [hentryAt]; rfl
      counted := hclosed.sb.trans hop.sb
      stops := hkeep.stops
      flights := hflights }
  refine ⟨t, hexec, hout, ⟨?_, hclusters⟩, hothers, fun k => ?_, hkeep.watch, hmx⟩
  · rw [hrest]
  · exact congrArg (·[k.toNat]) hkeep.k

/-! ### Commands (07 R235 to R246) -/

/-- The flight of a command: with the number and, for ldscale, the capability of the register that its trigger names, and for wracc
its vector (07 R235, R242, R244). -/
def State.mxStarted (s : State) (op : MxOp) (m : Arg) : Flight :=
  let v := s.moved m
  { s.started (.mx op) m 0 with
    ka := v.extractLsb' 20 5
    ca := if op = .ldscale then (s.me.rk (v.extractLsb' 20 5)).cap? else none
    data := if op = .wracc then imageBytes (s.me.rv (v.extractLsb' 2 5)) else [] }

/-- The registers of the matrix engine at the trigger of a command: cfg sets the issue copy of the configuration (07 R238). -/
def Mx.issued (op : MxOp) (v : Word) (mx : Mx) : Mx := if op = .cfg then { mx with icfg := v.setWidth 41 } else mx

theorem Mx.acc_issued (op : MxOp) (v : Word) (mx : Mx) : (mx.issued op v).acc = mx.acc := by
  unfold Mx.issued
  split <;> rfl

theorem Mx.issued_of_ne {op : MxOp} (h : op ≠ .cfg) (v : Word) (mx : Mx) : mx.issued op v = mx := if_neg h

/-- A command's own effect at its trigger: it is in flight, and the issue copy is set (07 R235, R238). -/
theorem perform_mx {s : State} (op : MxOp) (m : Arg) (hc : isCompute s.turn = true) :
    let S := (s.opened (.mx op) m).launch (s.mxStarted op m)
    (trigger (.mx op)).perform (s.opened (.mx op) m) (s.trigOf (.mx op) m) =
      if op = .cfg then S.onCore s.turn (fun c => { c with mx := { c.mx with icfg := (s.moved m).setWidth 41 } }) else S := by
  change (trigMx op).perform _ _ = _
  simp only [trigMx, Trig.detach, flight_opened (.mx op) m 0 hc]
  rfl

/-- A command leaves the device as it was but for its flight and its core (07 R235, R238). -/
theorem sameBut_perform_mx {s : State} (op : MxOp) (m : Arg) (hc : isCompute s.turn = true) :
    ({ s with flights := s.flights ++ [s.mxStarted op m] } : State).SameBut
      ((trigger (.mx op)).perform (s.opened (.mx op) m) (s.trigOf (.mx op) m)) s.turn
      { ((s.opened (.mx op) m).core s.turn).takeSeq (s.mxStarted op m) with mx := s.me.mx.issued op (s.moved m) } := by
  obtain ⟨hopen, hop⟩ := s.opened_spec (.mx op) m
  have hasks : ({ (s.opened (.mx op) m).launch (s.mxStarted op m) with asks := s.asks } : State) =
      (s.opened (.mx op) m).launch (s.mxStarted op m) := by
    rw [show s.asks = (s.opened (.mx op) m).asks from rfl, ← State.launch_asks (s.opened (.mx op) m) (s.mxStarted op m)]
  have hlaunch := hopen.launch (f := s.mxStarted op m) hc s.asks
  rw [hasks] at hlaunch
  rw [perform_mx op m hc, ← hop.regs.mx]
  by_cases ho : op = .cfg
  · rw [if_pos ho, Mx.issued, if_pos ho]
    exact hlaunch.onCore (fun c => { c with mx := { c.mx with icfg := (s.moved m).setWidth 41 } })
  · rw [if_neg ho, Mx.issued_of_ne ho]
    exact hlaunch

/-- Settles O27: the command is in flight as its trigger describes it, and cfg alone changes the matrix engine. -/
theorem matrixCommandsQueue : Obligations.MatrixCommandsQueue := by
  intro s i op m h hc v
  obtain ⟨t, ht, hout, hdevice, hothers, hcaps, hwatch, hmx⟩ := setsOut_of_queued (f := s.mxStarted op m) h rfl rfl rfl
    (Mx.acc_issued op v s.me.mx) (fun ho => Mx.issued_of_ne (mt (congrArg Op.mx) ho) v s.me.mx) (sameBut_perform_mx op m hc)
  exact ⟨t, s.mxStarted op m, ht, hout, hdevice, hothers, hcaps, hwatch, rfl, hmx⟩

end Sys2Proof.Machine
end
